-- ==== Sys2Proof/Word.lean ====
section
/-! DEFINITION. The words of the device and the one shape of sparse storage: a list of (key, value) pairs. -/
namespace Sys2Proof

/-- One byte. -/
abbrev Byte : Type := BitVec 8
/-- A 32-bit register, scalar half or vector element. -/
abbrev W32 : Type := BitVec 32
/-- A 64-bit word: a _LO/_HI register pair, a scalar register, an instruction word. -/
abbrev W64 : Type := BitVec 64
/-- A run of bytes, lowest address first. -/
abbrev Bytes : Type := List (BitVec 8)
/-- Sparse storage by key; `Machine/SMap.lean` reads and writes it in one canonical form. -/
abbrev SMap (α : Type) : Type := List (Nat × α)

end Sys2Proof
end

