-- ==== Sys2Proof/Config.lean ====
section
/-! DEFINITION. What one part or one run fixes and the spec does not: values the spec leaves open (each without a body,
so that no proof can see it). -/
namespace Sys2Proof.Config

/-- A 32-bit value that the spec leaves open; the argument is a counter in State (log 3). -/
opaque freeW32 : Nat → BitVec 32
/-- A bit that the spec leaves open; the argument is a counter in State (log 3). -/
opaque freeBit : Nat → Bool

/-- Which two of the `n` terms that are left an array adder adds next; the first argument is the mode of the product
(R53 leaves the order open and the same on every run; log 8). -/
opaque addPlan : Nat → Nat → Nat × Nat

/-- Where in its accuracy band a special-function result lies, by operation and input bits (R97 gives the band and the
same bits everywhere; log 9). -/
opaque sfuPick : Nat → BitVec 32 → Nat

/-- The set of the snoop filter's slice, and of the line cache, that a line falls in (R418, R419 give ways and sizes
and no index; log 10). -/
opaque sfSet : Nat → Nat
opaque lcSet : Nat → Nat

/-- CODE of the row records at an address (R207) that a ring command of optimizer rule 4 names; its descriptor has no
field for it (R129, R132; log 11). -/
opaque rowCode : Nat → Nat

/-- The pair of kept positions of a group under REUSE_MASK when the previous object has no index plane (R153; log 13). -/
opaque reusePair : Nat → Nat

/-- TILE of a work record whose number lies beyond the enabled tiles (R162; log 14). -/
opaque splitTile : Nat → Nat

/-- Entries of the expert map at an address: no field of a DISPATCH gives their number (R166, R219; log 18). -/
opaque experts : Nat → Nat

/-- What an opcode of the TAP's instruction register stands for: 1 IDCODE, 2 boundary scan, 3 debug chains, else BYPASS (the
spec gives no opcodes, R511, R542; log 22). -/
opaque jtagOpcode : BitVec 8 → Nat

/-- Bytes that a keeper's mirror store takes beside the coded forms, for a number of chunks: its layout is the keeper's own
(R338, R342; log 23). -/
opaque storeExtra : Nat → Nat

/-- How fast INIT writes a stack and a scan engine reads, in 2^-16 sectors a count: R388 and R394 give nominal times only
(log 105). -/
opaque initPace : Nat → Nat
opaque scanPace : Nat → Nat

/-- The byte string of the fields that a channel's digest covers; the spec lists the fields and not their order and widths
(R285, R314; log 24). -/
opaque digestBytes : List Nat → Bytes

/-- The root over no granule at all (R349 forms none; log 25). -/
opaque emptyRoot : Bytes

/-- TXID of a Notify, by its place among what the device has sent: nothing answers a Notify, and R406 numbers only what is
answered (log 68). -/
opaque notifyTxid : Nat → BitVec 12

/-- Bin of a shadow element against a reference of which one is a NaN and the other an infinity, modulo 16: R141 gives
none (log 79). -/
opaque shdBin : BitVec 32 → BitVec 32 → Nat

/-- Bytes of the body of a packet, how many packets a long message takes beside its first, the TAG of a packet whose endpoint
gives none, by a counter in State (R266; logs 102, 103), and the code of a message kind (R291; log 102). -/
opaque packetBody : Nat → Bytes
opaque packetMore : Nat → Nat
opaque packetTag : Nat → BitVec 32
opaque msgKind : Nat → Nat

/-- A packet of the management channel, whose layout the spec does not give (R277; log 103). -/
opaque mgmtPacket : Nat → Bytes

end Sys2Proof.Config
end

