-- ==== Sys2Proof/Machine/Bits.lean ====
section
/-! DEFINITION. Bit fields, byte order (little-endian, R11), saturating and signed arithmetic shared by every chapter. -/
namespace Sys2Proof.Machine

/-- Bits [lo + n − 1 : lo] of a word as a number. -/
def fld {w : Nat} (v : BitVec w) (lo n : Nat) : Nat := v.toNat / 2 ^ lo % 2 ^ n

/-- A word with bits [lo + n − 1 : lo] replaced. -/
def setFld {w : Nat} (v : BitVec w) (lo n x : Nat) : BitVec w :=
  BitVec.ofNat w (v.toNat - fld v lo n * 2 ^ lo + x % 2 ^ n * 2 ^ lo)

/-- One bit. -/
abbrev bit {w : Nat} (v : BitVec w) (i : Nat) : Bool := v.getLsbD i

/-- A 32-bit register value from a number, modulo 2^32. -/
abbrev u32 (n : Nat) : W32 := BitVec.ofNat 32 n
/-- A 64-bit register value from a number, modulo 2^64. -/
abbrev u64 (n : Nat) : W64 := BitVec.ofNat 64 n

/-- 1 for true. -/
abbrev b2n (b : Bool) : Nat := if b then 1 else 0

/-- A byte string as a little-endian number (R11). -/
def leNat : Bytes → Nat
  | [] => 0
  | b :: r => b.toNat + 256 * leNat r

/-- The low `k` bytes of a number, little-endian (R11). -/
def toLE : Nat → Nat → Bytes
  | 0, _ => []
  | k + 1, n => BitVec.ofNat 8 n :: toLE k (n / 256)

/-- Bytes [o, o + n) of a string, zero beyond its end. -/
def bslice (b : Bytes) (o n : Nat) : Bytes :=
  let r := (b.drop o).take n
  r ++ List.replicate (n - r.length) 0

/-- A little-endian field of a string. -/
def bfield (b : Bytes) (o n : Nat) : Nat := leNat (bslice b o n)

/-- Pads with zero bytes, or cuts, to `n` bytes. -/
def bpad (b : Bytes) (n : Nat) : Bytes := bslice b 0 n

/-- Two's complement value of the low `w` bits of a number. -/
def sext (w n : Nat) : Int :=
  let m := n % 2 ^ w
  if m < 2 ^ (w - 1) then m else (m : Int) - 2 ^ w

/-- An integer's two's complement in `w` bits, as a number. -/
def ofInt (w : Nat) (i : Int) : Nat := (i % (2 ^ w : Int)).toNat

/-- Clamps an integer to [lo, hi]. -/
def clampI (lo hi i : Int) : Int := if i < lo then lo else if hi < i then hi else i

/-- Rounds up to a multiple of `m`. -/
def alignUp (n m : Nat) : Nat := (n + m - 1) / m * m

/-- ⌈log2 n⌉, 0 for n ≤ 1. -/
def clog2 (n : Nat) : Nat := if n ≤ 1 then 0 else Nat.log2 (n - 1) + 1

/-- A left rotation of a 32-bit word. -/
abbrev rotl (v : W32) (n : Nat) : W32 := v.rotateLeft n

/-- Number of set bits among the low `n` bits. -/
def popcount {w : Nat} (v : BitVec w) : Nat := (List.range w).foldl (fun a i => a + b2n (v.getLsbD i)) 0

/-- Index of the lowest set bit below `n`, if one is set. -/
def lowBit {w : Nat} (v : BitVec w) : Option Nat := (List.range w).find? (fun i => v.getLsbD i)

/-- A string's bytes from a number list of bits, bit i of the map at byte i / 8, bit i mod 8. -/
def bitsToBytes (l : List Bool) : Bytes :=
  (List.range ((l.length + 7) / 8)).map fun k =>
    BitVec.ofNat 8 ((List.range 8).foldl (fun a j => a + b2n (l.getD (8 * k + j) false) * 2 ^ j) 0)

/-- Bit i of a byte map. -/
def mapBit (b : Bytes) (i : Nat) : Bool := (b.getD (i / 8) 0).getLsbD (i % 8)

end Sys2Proof.Machine
end

