-- ==== Sys2Proof/Machine/Float.lean ====
section
/-! DEFINITION. The number formats (R113–R118) and exact arithmetic on them: values are computed exactly as a sign, a
mantissa and a power of two, and rounded once, to nearest even, toward zero or stochastically (R95, R96, R109). -/
namespace Sys2Proof.Machine

/-- How a format spends its all-ones exponent. -/
inductive FmtKind where
  /-- infinities and NaNs as IEEE 754 -/
  | ieee
  /-- FP8 E4M3: no infinity, S.1111.111 is NaN -/
  | e4m3
  /-- the MX elements below 8 bits: no infinity, no NaN -/
  | finite
deriving DecidableEq, Repr

/-- A binary format: exponent and mantissa bits, bias (R114). -/
structure Fmt where
  eb   : Nat
  mb   : Nat
  bias : Nat
  kind : FmtKind
deriving DecidableEq, Repr

def fmtE4M3 : Fmt := ⟨4, 3, 7, .e4m3⟩
def fmtE5M2 : Fmt := ⟨5, 2, 15, .ieee⟩
def fmtBF16 : Fmt := ⟨8, 7, 127, .ieee⟩
def fmtFP16 : Fmt := ⟨5, 10, 15, .ieee⟩
def fmtFP32 : Fmt := ⟨8, 23, 127, .ieee⟩
def fmtE2M3 : Fmt := ⟨2, 3, 1, .finite⟩
def fmtE3M2 : Fmt := ⟨3, 2, 3, .finite⟩
def fmtE2M1 : Fmt := ⟨2, 1, 1, .finite⟩

/-- A value: a NaN, an infinity, or (−1)^neg · m · 2^e. -/
inductive FV where
  | nan
  | inf (neg : Bool)
  | fin (neg : Bool) (m : Nat) (e : Int)
deriving DecidableEq, Repr

/-- Mantissa, exponent and sign fields of an encoding. -/
def Fmt.mant (f : Fmt) (b : Nat) : Nat := b % 2 ^ f.mb
def Fmt.expo (f : Fmt) (b : Nat) : Nat := b / 2 ^ f.mb % 2 ^ f.eb
def Fmt.neg (f : Fmt) (b : Nat) : Bool := b / 2 ^ (f.mb + f.eb) % 2 == 1

/-- Exponent of one ulp of the subnormals. -/
def Fmt.qmin (f : Fmt) : Int := 1 - (f.bias : Int) - f.mb

/-- The value of an encoding (R114). -/
def Fmt.dec (f : Fmt) (b : Nat) : FV :=
  let x := f.expo b
  let m := f.mant b
  let top := x = 2 ^ f.eb - 1
  if f.kind = .ieee ∧ top then (if m = 0 then .inf (f.neg b) else .nan)
  else if f.kind = .e4m3 ∧ top ∧ m = 2 ^ f.mb - 1 then .nan
  else if x = 0 then .fin (f.neg b) m f.qmin
  else .fin (f.neg b) (m + 2 ^ f.mb) ((x : Int) - f.bias - f.mb)

/-- Encoding of the largest finite magnitude. -/
def Fmt.maxFin (f : Fmt) : Nat :=
  match f.kind with
  | .ieee => (2 ^ f.eb - 2) * 2 ^ f.mb + (2 ^ f.mb - 1)
  | .e4m3 => (2 ^ f.eb - 1) * 2 ^ f.mb + (2 ^ f.mb - 2)
  | .finite => 2 ^ (f.eb + f.mb) - 1

/-- Encoding of an infinity's magnitude (IEEE formats). -/
def Fmt.infBits (f : Fmt) : Nat := (2 ^ f.eb - 1) * 2 ^ f.mb
/-- Encoding of the quiet NaN's magnitude: 0x7F for E4M3, the top mantissa bit otherwise (R115). -/
def Fmt.nanBits (f : Fmt) : Nat :=
  match f.kind with
  | .e4m3 => 2 ^ (f.eb + f.mb) - 1
  | _ => f.infBits + 2 ^ (f.mb - 1)
/-- The sign bit of an encoding. -/
def Fmt.signBit (f : Fmt) (neg : Bool) : Nat := if neg then 2 ^ (f.eb + f.mb) else 0

/-- Rounding of a conversion or operation; stochastic rounding carries r of R109. -/
inductive Rnd where
  | rne
  | rtz
  | sr (r : Nat)
deriving DecidableEq, Repr

/-- Rounds m · 2^(−s) to an integer. -/
def roundShift (r : Rnd) (m s : Nat) : Nat :=
  let t := m / 2 ^ s
  let rem := m % 2 ^ s
  match r with
  | .rtz => t
  | .rne => if 2 ^ s < 2 * rem ∨ (2 * rem = 2 ^ s ∧ t % 2 = 1) then t + 1 else t
  | .sr k => if rem ≠ 0 ∧ (2 * k + 1) * 2 ^ s ≤ 32 * rem then t + 1 else t

/-- Rounds a magnitude m · 2^e to an integer number of 2^q. -/
def roundTo (r : Rnd) (m : Nat) (e q : Int) : Nat :=
  if q ≤ e then m * 2 ^ (e - q).toNat else roundShift r m (q - e).toNat

/-- ⌊log2 (m · 2^e)⌋ of a non-zero magnitude. -/
def ilog (m : Nat) (e : Int) : Int := (Nat.log2 m : Int) + e

/-- Rounds a magnitude to the precision of a format with the exponent range unbounded above: mantissa and ulp exponent. -/
def Fmt.roundMag (f : Fmt) (r : Rnd) (m : Nat) (e : Int) : Nat × Int :=
  let q := max f.qmin (ilog m e - f.mb)
  (roundTo r m e q, q)

/-- Encodes a magnitude t · 2^q that fits the format's precision; `none` beyond the largest finite. -/
def Fmt.encMag (f : Fmt) (t : Nat) (q : Int) : Option Nat :=
  if t = 0 then some 0
  else
    let (t, q) := if t = 2 ^ (f.mb + 1) then (2 ^ f.mb, q + 1) else (t, q)
    let b := if t < 2 ^ f.mb then t else (q + f.mb + f.bias).toNat * 2 ^ f.mb + (t - 2 ^ f.mb)
    if f.maxFin < b then none else some b

/-- The encoding of a rounded value, and whether a finite value exceeded the largest finite. Overflow gives the infinity
of the sign, or the largest finite where the format has none or rounding is toward zero (R61, R96, R115). A NaN gives
the quiet NaN, sign clear. -/
def Fmt.enc (f : Fmt) (r : Rnd) (v : FV) : Nat × Bool :=
  match v with
  | .nan => (f.nanBits, false)
  | .inf n => if f.kind = .ieee then (f.signBit n + f.infBits, false) else (f.signBit n + f.maxFin, true)
  | .fin n m e =>
    if m = 0 then (f.signBit n, false)
    else
      let (t, q) := f.roundMag r m e
      match f.encMag t q with
      | some b => (f.signBit n + b, false)
      | none => (f.signBit n + (if f.kind = .ieee ∧ r ≠ .rtz then f.infBits else f.maxFin), true)

/-- Sum of two values; `none` for infinities of opposite sign. Zeros of opposite sign, and an exact cancellation,
give +0. -/
def FV.add (a b : FV) : Option FV :=
  match a, b with
  | .nan, _ => some .nan
  | _, .nan => some .nan
  | .inf x, .inf y => if x = y then some (.inf x) else none
  | .inf x, _ => some (.inf x)
  | _, .inf y => some (.inf y)
  | .fin x m e, .fin y n g =>
    let q := min e g
    let p : Int := (m * 2 ^ (e - q).toNat : Nat)
    let r : Int := (n * 2 ^ (g - q).toNat : Nat)
    let z := (if x then -p else p) + (if y then -r else r)
    if z = 0 then some (.fin (m = 0 && n = 0 && x && y) 0 q) else some (.fin (decide (z < 0)) z.natAbs q)

/-- Negation. -/
def FV.negate : FV → FV
  | .nan => .nan
  | .inf n => .inf (!n)
  | .fin n m e => .fin (!n) m e

/-- Product; `none` for zero times infinity. -/
def FV.mul (a b : FV) : Option FV :=
  match a, b with
  | .nan, _ => some .nan
  | _, .nan => some .nan
  | .inf x, .inf y => some (.inf (x != y))
  | .inf x, .fin y n _ => if n = 0 then none else some (.inf (x != y))
  | .fin x m _, .inf y => if m = 0 then none else some (.inf (x != y))
  | .fin x m e, .fin y n g => some (.fin (x != y) (m * n) (e + g))

/-- Quotient to at least 64 significant bits, with a sticky bit below them, so that any rounding of it is that of the
exact quotient; `none` for 0/0 and ∞/∞. The second component says that a finite number was divided by zero. -/
def FV.div (a b : FV) : Option (FV × Bool) :=
  match a, b with
  | .nan, _ => some (.nan, false)
  | _, .nan => some (.nan, false)
  | .inf _, .inf _ => none
  | .inf x, .fin y _ _ => some (.inf (x != y), false)
  | .fin x _ _, .inf y => some (.fin (x != y) 0 0, false)
  | .fin x m e, .fin y n g =>
    if n = 0 then (if m = 0 then none else some (.inf (x != y), true))
    else if m = 0 then some (.fin (x != y) 0 0, false)
    else
      let k := 68 + Nat.log2 n
      let p := m * 2 ^ k
      let qt := p / n
      some (.fin (x != y) (2 * qt + (if p % n = 0 then 0 else 1)) (e - g - k - 1), false)

/-- ⌊√n⌋, bit by bit from bit `k` down. -/
def isqrtFrom : Nat → Nat → Nat → Nat
  | 0, _, acc => acc
  | k + 1, n, acc =>
    let c := acc + 2 ^ k
    isqrtFrom k n (if c * c ≤ n then c else acc)

/-- ⌊√n⌋. -/
def isqrt (n : Nat) : Nat := isqrtFrom (Nat.log2 n / 2 + 1) n 0

/-- Square root with a sticky bit; `none` for a negative non-zero number. √−0 is −0. -/
def FV.sqrt (a : FV) : Option FV :=
  match a with
  | .nan => some .nan
  | .inf n => if n then none else some (.inf false)
  | .fin n m e =>
    if m = 0 then some (.fin n 0 0)
    else if n then none
    else
      let e2 := if e % 2 = 0 then e else e - 1
      let m2 := if e % 2 = 0 then m else 2 * m
      let p := m2 * 2 ^ 128
      let r := isqrt p
      some (.fin false (2 * r + (if r * r = p then 0 else 1)) (e2 / 2 - 64 - 1))

/-- Numeric comparison of two values that are not NaN; −0 equals +0. -/
def FV.lt (a b : FV) : Bool :=
  match a, b with
  | .nan, _ => false
  | _, .nan => false
  | .inf x, .inf y => x && !y
  | .inf x, .fin _ _ _ => x
  | .fin _ _ _, .inf y => !y
  | .fin x m e, .fin y n g =>
    let q := min e g
    let p : Int := (m * 2 ^ (e - q).toNat : Nat)
    let r : Int := (n * 2 ^ (g - q).toNat : Nat)
    decide ((if x then -p else p) < (if y then -r else r))

/-- Numeric equality of two values that are not NaN. -/
def FV.eqv (a b : FV) : Bool :=
  match a, b with
  | .nan, _ => false
  | _, .nan => false
  | .inf x, .inf y => x == y
  | .fin _ _ _, .fin _ _ _ => !FV.lt a b && !FV.lt b a
  | _, _ => false

/-- A NaN of an IEEE format, and whether it is signalling (its top mantissa bit clear). -/
def Fmt.isNaN (f : Fmt) (b : Nat) : Bool := f.dec b == .nan
def Fmt.isSNaN (f : Fmt) (b : Nat) : Bool := f.isNaN b && f.mant b / 2 ^ (f.mb - 1) % 2 == 0 && f.kind == .ieee
/-- A NaN made quiet, sign and payload kept. -/
def Fmt.quiet (f : Fmt) (b : Nat) : Nat := if f.mant b / 2 ^ (f.mb - 1) % 2 = 0 then b + 2 ^ (f.mb - 1) else b

/-! ### FP32 words -/

/-- The value of an FP32 word. -/
abbrev f32 (w : W32) : FV := fmtFP32.dec w.toNat
/-- The FP32 word nearest to a value. -/
def toF32 (v : FV) : W32 := u32 (fmtFP32.enc .rne v).1
/-- The one NaN the array and the optimizer write. -/
def qnan : W32 := 0x7FC00000
/-- FP32 addition to nearest, every NaN the quiet NaN (R52). -/
def fadd32 (a b : W32) : W32 := match (f32 a).add (f32 b) with | some v => toF32 v | none => qnan
/-- FP32 multiplication to nearest, every NaN the quiet NaN. -/
def fmul32 (a b : W32) : W32 := match (f32 a).mul (f32 b) with | some v => toF32 v | none => qnan
/-- FP32 fused multiply-add to nearest. -/
def ffma32 (a b c : W32) : W32 :=
  match (f32 a).mul (f32 b) with
  | some p => match p.add (f32 c) with | some v => toF32 v | none => qnan
  | none => qnan
/-- FP32 division to nearest. -/
def fdiv32 (a b : W32) : W32 := match (f32 a).div (f32 b) with | some (v, _) => toF32 v | none => qnan
/-- FP32 square root to nearest. -/
def fsqrt32 (a : W32) : W32 := match (f32 a).sqrt with | some v => toF32 v | none => qnan
/-- Sign change and magnitude. -/
def fneg32 (a : W32) : W32 := a ^^^ 0x80000000
def fabs32 (a : W32) : W32 := a &&& 0x7FFFFFFF
/-- FP32 word of an integer. -/
def ofInt32 (i : Int) : W32 := toF32 (.fin (decide (i < 0)) i.natAbs 0)
/-- The word is finite. -/
def isFin32 (w : W32) : Bool := w.toNat / 8388608 % 256 != 255
/-- 2^k as an FP32 value. -/
def pow2 (k : Int) : FV := .fin false 1 k

/-! ### Formats by their 4-bit code (R113) -/

/-- The element format of a float or MX code. -/
def codeFmt (c : Nat) : Option Fmt :=
  match c with
  | 0x0 => some fmtE4M3 | 0x1 => some fmtE5M2 | 0x2 => some fmtBF16 | 0x3 => some fmtFP16 | 0x4 => some fmtFP32
  | 0x5 => some fmtE4M3 | 0x6 => some fmtE5M2 | 0x7 => some fmtE2M3 | 0x8 => some fmtE3M2 | 0x9 => some fmtE2M1
  | _ => none

/-- Bits of a stored element. -/
def codeBits (c : Nat) : Nat :=
  match c with
  | 0x2 | 0x3 | 0xC => 16
  | 0x4 => 32
  | 0x7 | 0x8 => 6
  | 0x9 | 0xB => 4
  | _ => 8

/-- The families of R46: 0 float, 1 MX, 2 integer; `none` for a code the array does not accept. -/
def codeFamily (c : Nat) : Option Nat :=
  if c ≤ 3 then some 0 else if 5 ≤ c ∧ c ≤ 9 then some 1 else if c = 0xA ∨ c = 0xB then some 2 else none

/-- Dense K of a format (R46). -/
def codeK (c : Nat) : Nat := if c = 7 ∨ c = 8 ∨ c = 9 ∨ c = 0xB then 256 else 128

/-- Element i of a packed little-endian bit stream of `bits`-bit elements (R47). -/
def packGet (b : Bytes) (bits i : Nat) : Nat :=
  let o := i * bits
  bfield b (o / 8) (if bits = 6 then 2 else if bits ≤ 8 then 1 else bits / 8) / 2 ^ (o % 8) % 2 ^ bits

/-- Packs elements into a little-endian bit stream (R47). -/
def packAll (bits : Nat) (l : List Nat) : Bytes :=
  let n := l.foldr (fun x a => x % 2 ^ bits + 2 ^ bits * a) 0
  toLE ((l.length * bits + 7) / 8) n

/-- Value of an element of a float or MX code without its block scale. -/
def elemVal (c x : Nat) : FV := match codeFmt c with | some f => f.dec x | none => .nan

/-- Value of an element of an integer code. -/
def elemInt (c x : Nat) : Int := if c = 0xB then sext 4 x else sext 8 x

/-- Value of an element of an array code without its block scale: an integer's value, or the float's. -/
def elemFv (c x : Nat) : FV :=
  if codeFamily c = some 2 then .fin (decide (elemInt c x < 0)) (elemInt c x).natAbs 0 else elemVal c x

/-- Scales a value by 2^k. -/
def FV.scale (v : FV) (k : Int) : FV := match v with | .fin n m e => .fin n m (e + k) | v => v

/-- ⌊log2⌋ of a finite non-zero value's magnitude. -/
def FV.ilog : FV → Int
  | .fin _ m e => Machine.ilog m e
  | _ => 0

/-- A value is zero, is finite. -/
def FV.isZero : FV → Bool
  | .fin _ m _ => m == 0
  | _ => false
def FV.isFin : FV → Bool
  | .fin _ _ _ => true
  | _ => false
def FV.isNeg : FV → Bool
  | .fin n _ _ => n
  | .inf n => n
  | .nan => false

/-- |x| of a value. -/
def FV.mag : FV → FV
  | .nan => .nan
  | .inf _ => .inf false
  | .fin _ m e => .fin false m e

/-- emax of an MX element format (R116). -/
def mxEmax (c : Nat) : Int := match c with | 5 => 8 | 6 => 15 | 7 => 2 | 8 => 4 | 9 => 2 | _ => 0

/-- A value of a format for conversions: FP8 E4M3 and MX elements saturate. A NaN keeps the sign `nneg`; overflow is
counted as R61 and R115 say. -/
def Fmt.cvt (f : Fmt) (r : Rnd) (v : FV) (nneg : Bool) : Nat × Bool :=
  match v with
  | .nan => (f.signBit nneg + f.nanBits, false)
  | v => f.enc r v

/-- Writes a block of 32 values as an MX block (R116): scale byte and elements. -/
def mxEncode (c : Nat) (r : Nat → Rnd) (l : List FV) : Nat × List Nat :=
  match codeFmt c with
  | none => (0, l.map fun _ => 0)
  | some f =>
    if l.any (fun v => !v.isFin) then (0xFF, l.map fun _ => 0)
    else
      let nz := l.filter (fun v => !v.isZero)
      match nz with
      | [] => (0, l.map fun _ => 0)
      | v :: vs =>
        let lg := vs.foldl (fun a x => max a x.ilog) v.ilog
        let x := clampI (-127) 127 (lg - mxEmax c)
        let enc1 (p : FV × Nat) : Nat :=
          let (b, o) := f.enc (r p.2) (p.1.scale (-x))
          if o then f.signBit p.1.isNeg + f.maxFin else b
        ((x + 127).toNat, (l.zip (List.range l.length)).map enc1)

/-! ### BS16 (R117–R120) -/

/-- A BS16 block: 32 mantissas, exponent, flags. -/
structure Bs16 where
  mant : List (BitVec 16)
  exp  : Int
  esc  : Bool
  nf   : Bool
  sat  : Bool
deriving DecidableEq, Repr

/-- Reads a 68-byte unit (R117). -/
def bs16Of (b : Bytes) : Bs16 :=
  let fl := bfield b 65 1
  { mant := (List.range 32).map fun j => BitVec.ofNat 16 (bfield b (2 * j) 2)
    exp := sext 8 (bfield b 64 1), esc := fl % 2 == 1, nf := fl / 2 % 2 == 1, sat := fl / 4 % 2 == 1 }

/-- Flag byte of a block. -/
def Bs16.flags (b : Bs16) : Nat := b2n b.esc + 2 * b2n b.nf + 4 * b2n b.sat

/-- Writes a 68-byte unit. -/
def Bs16.bytes (b : Bs16) : Bytes :=
  b.mant.flatMap (fun m => toLE 2 m.toNat) ++ toLE 1 (ofInt 8 b.exp) ++ toLE 1 b.flags ++ [0, 0]

/-- Value of a mantissa under an exponent (R118). -/
def bs16Val (m : BitVec 16) (e : Int) : FV :=
  if m = 0x8000 then .nan else .fin (decide (m.toInt < 0)) m.toInt.natAbs (e - 15)

/-- Rounds an exact signed value m · 2^k to an integer (sr() and round() of R119, R125, R295). -/
def roundInt (r : Rnd) (m : Int) (k : Int) : Int :=
  let t : Int := roundTo r m.natAbs k 0
  if m < 0 then -t else t

/-- A mantissa from an integer. -/
def mantOf (i : Int) : BitVec 16 := BitVec.ofInt 16 i

/-- The mantissas of R119 at exponent `e`. -/
def bs16Mants (r : Nat → Rnd) (l : List FV) (e : Int) : List Int :=
  (l.zip (List.range l.length)).map fun p =>
    match p.1 with
    | .fin n m x => roundInt (r p.2) (if n then -(m : Int) else m) (x + 15 - e)
    | _ => -32768

/-- Encodes 32 values (R119); `r j` is the rounding of element j. -/
def bs16Encode (r : Nat → Rnd) (l : List FV) : Bs16 :=
  let nf := l.any (fun v => !v.isFin)
  let nz := l.filter (fun v => v.isFin && !v.isZero)
  let e0 : Int := match nz with
    | [] => -128
    | v :: vs => max (-128) (vs.foldl (fun a x => max a x.ilog) v.ilog + 1)
  let big (ms : List Int) : Bool := (ms.zip l).any fun p => p.2.isFin && decide (p.1.natAbs = 32768)
  let fix (v : Int × FV) : BitVec 16 := if v.2.isFin then mantOf v.1 else 0x8000
  let fixS (v : Int × FV) : BitVec 16 := if v.2.isFin then mantOf (clampI (-32767) 32767 v.1) else 0x8000
  let satAt : Bs16 := { mant := ((bs16Mants r l 127).zip l).map fixS, exp := 127, esc := false, nf := nf, sat := true }
  if 127 < e0 then satAt
  else
    let m0 := bs16Mants r l e0
    if big m0 then
      (if 127 < e0 + 1 then satAt
       else { mant := ((bs16Mants r l (e0 + 1)).zip l).map fix, exp := e0 + 1, esc := false, nf := nf, sat := false })
    else { mant := (m0.zip l).map fix, exp := e0, esc := false, nf := nf, sat := false }

/-- Mantissas that an encoding clamps. -/
def bs16Clamps (r : Nat → Rnd) (l : List FV) : Nat :=
  if (bs16Encode r l).sat then ((bs16Mants r l 127).zip l).countP fun p => p.2.isFin && decide (32767 < p.1.natAbs) else 0

/-- Adds two blocks with one raise-and-halve step (R125, R296): `r k j` is the rounding of element j for draw k, with
`ka`, `kb` and `kh` the draws of the two terms and of the halving. -/
def bs16Add (r : Nat → Nat → Rnd) (ka kb kh : Nat) (a b : Bs16) : Bs16 :=
  let e := max a.exp b.exp
  let term (k : Nat) (x : Bs16) (j : Nat) : Int := roundInt (r k j) (x.mant.getD j 0).toInt (x.exp - e)
  let bad (j : Nat) : Bool := a.mant.getD j 0 == 0x8000 || b.mant.getD j 0 == 0x8000
  let s : List (Option Int) := (List.range 32).map fun j => if bad j then none else some (term ka a j + term kb b j)
  let isOver := s.any fun x => match x with | some i => decide (32768 ≤ i.natAbs) | none => false
  let fl : Bs16 := { mant := [], exp := e, esc := a.esc || b.esc, nf := a.nf || b.nf || s.any Option.isNone,
                     sat := a.sat || b.sat }
  if isOver then
    if e = 127 then
      { fl with mant := s.map fun x => match x with | some i => mantOf (clampI (-32767) 32767 i) | none => 0x8000
                sat := true }
    else
      { fl with mant := (s.zip (List.range 32)).map fun p =>
                  match p.1 with | some i => mantOf (roundInt (r kh p.2) i (-1)) | none => 0x8000
                exp := e + 1, esc := true }
  else { fl with mant := s.map fun x => match x with | some i => mantOf i | none => 0x8000 }

/-! ### The special-function path (R97) -/

/-- Fixed-point 2^f for f = x / 2^64, x < 2^64, with 128 fraction bits: multiplies the square roots 2^(2^−i) of the set
bits of f, most significant first. -/
def exp2Frac : Nat → Nat → Nat → Nat → Nat
  | 0, _, _, acc => acc
  | k + 1, x, root, acc =>
    let root := isqrt (root * 2 ^ 128)
    exp2Frac k x root (if x / 2 ^ k % 2 = 1 then acc * root / 2 ^ 128 else acc)

/-- Fraction bits of log2 m, m a fixed-point number in [1, 2) with 192 fraction bits. -/
def log2Frac : Nat → Nat → Nat → Nat
  | 0, _, acc => acc
  | k + 1, m, acc =>
    let q := m * m / 2 ^ 192
    if 2 ^ 193 ≤ q then log2Frac k (q / 2) (2 * acc + 1) else log2Frac k q (2 * acc)

/-- The FP32 word `k` ulps above a truncated magnitude, not below zero and not beyond the largest finite. -/
def bandAt (neg : Bool) (r : Nat) (k : Int) : W32 :=
  u32 (fmtFP32.signBit neg + min fmtFP32.maxFin ((r : Int) + k).toNat)

/-- EXP2 of a finite word: bits and OVF. EXP2 of a zero is exactly 1: a skipped block could not otherwise be bit-identical
to one computed with −∞ scores (DEDUCED from R170 and R236, log 98). -/
def exp2Fin (w : W32) : W32 × Bool :=
  match f32 w with
  | .fin n m e =>
    if m = 0 then (0x3F800000, false) else
    -- x in units of 2^-64, rounded down
    let mag : Nat := if -64 ≤ e then m * 2 ^ (e + 64).toNat else m / 2 ^ (-64 - e).toNat
    let low : Bool := decide (e < -64) && decide (m % 2 ^ (-64 - e).toNat ≠ 0)
    let x : Int := if n then -(mag : Int) - (if low then 1 else 0) else mag
    let ip := x / 2 ^ 64
    let fp := (x % 2 ^ 64).toNat
    if 128 ≤ ip then (0x7F800000, true)
    else if ip < -160 then (bandAt false 0 ((Config.sfuPick 0 w % 4 : Nat) - 1 : Int), false)
    else
      let y := exp2Frac 64 fp (2 * 2 ^ 128) (2 ^ 128)
      let (t, q) := fmtFP32.roundMag .rtz y (ip - 128)
      match fmtFP32.encMag t q with
      | some b => (bandAt false b ((Config.sfuPick 0 w % 4 : Nat) - 1 : Int), false)
      | none => (0x7F800000, true)
  | _ => (qnan, false)

/-- LOG2 of a finite positive word. -/
def log2Fin (w : W32) : W32 :=
  if w = 0x3F800000 then 0
  else
    match f32 w with
    | .fin _ m e =>
      let lg := Nat.log2 m
      let fr := log2Frac 72 (m * 2 ^ (192 - lg)) 0
      let v : Int := ((lg : Int) + e) * 2 ^ 72 + fr
      let (t, q) := fmtFP32.roundMag .rtz v.natAbs (-72)
      match fmtFP32.encMag t q with
      | some b => bandAt (decide (v < 0)) b ((Config.sfuPick 1 w % 4 : Nat) - 1 : Int)
      | none => qnan
    | _ => qnan

/-- RCP of a finite non-zero word: bits and OVF. -/
def rcpFin (w : W32) : W32 × Bool :=
  match (FV.fin false 1 0).div (f32 w) with
  | some (.fin n m e, _) =>
    let (t, q) := fmtFP32.roundMag .rtz m e
    match fmtFP32.encMag t q with
    | some b => (bandAt n b (Config.sfuPick 2 w % 2 : Nat), false)
    | none => (u32 (fmtFP32.signBit n + fmtFP32.infBits), true)
  | _ => (qnan, false)

/-- RSQRT of a finite positive word. -/
def rsqrtFin (w : W32) : W32 :=
  match (f32 w).sqrt with
  | some r =>
    match (FV.fin false 1 0).div r with
    | some (.fin _ m e, _) =>
      let (t, q) := fmtFP32.roundMag .rtz m e
      match fmtFP32.encMag t q with
      | some b => bandAt false b (Config.sfuPick 3 w % 2 : Nat)
      | none => qnan
    | _ => qnan
  | none => qnan

/-- A special function with its VFLAGS (R97, R98): 0 EXP2, 1 LOG2, 2 RCP, 3 RSQRT. A NaN operand is made quiet; a
signalling one sets INVALID. -/
def sfu (op : Nat) (w : W32) : W32 × BitVec 6 :=
  match f32 w with
  | .nan => (u32 (fmtFP32.quiet w.toNat), if fmtFP32.isSNaN w.toNat then 2 else 0)
  | .inf n =>
    if op = 0 then (if n then 0 else 0x7F800000, 0)
    else if op = 2 then (if n then 0x80000000 else 0, 0)
    else if n then (qnan, 2) else (if op = 1 then 0x7F800000 else 0, 0)
  | .fin n m _ =>
    if op = 0 then let (r, o) := exp2Fin w; (r, if o then 8 else 0)
    else if m = 0 then
      (if op = 1 then 0xFF800000 else if n then 0xFF800000 else 0x7F800000, 4)
    else if op = 2 then let (r, o) := rcpFin w; (r, if o then 8 else 0)
    else if n then (qnan, 2)
    else (if op = 1 then log2Fin w else rsqrtFin w, 0)

/-! ### Mix-10 (R107) -/

/-- The four words of a Mix-10 key, counter or output. -/
abbrev Quad : Type := W32 × W32 × W32 × W32

def mixP : List Nat := [11, 25, 6, 17, 29]
def mixQ : List Nat := [20, 3, 14, 9, 23]

/-- Round i of Mix-10. -/
def mixRound (k : Quad) (x : Quad) (i : Nat) : Quad :=
  let (x0, x1, x2, x3) := x
  let x0 := x0 + x2 + (0x3C6EF35F + u32 i)
  let x3 := rotl (x3 ^^^ x0) (mixP.getD (i % 5) 0)
  let x2 := x2 + x3
  let x1 := rotl (x1 ^^^ x2) (mixQ.getD (i % 5) 0)
  if i = 4 then (x1 ^^^ k.2.2.2, x2 ^^^ k.2.2.1, x3 ^^^ k.2.1, x0 ^^^ k.1) else (x1, x2, x3, x0)

/-- Mix-10 of a key and a counter. -/
def mix10 (k c : Quad) : Quad :=
  let x := (c.1 ^^^ k.1, c.2.1 ^^^ k.2.1, c.2.2.1 ^^^ k.2.2.1, c.2.2.2 ^^^ k.2.2.2)
  let (x0, x1, x2, x3) := (List.range 10).foldl (mixRound k) x
  (x0 + k.2.1, x1 + k.1, x2 + k.2.2.2, x3 + k.2.2.1)

/-- w0 of the draw at (stream, logical index, draw number) under a key (R105). -/
def draw (k : Quad) (stream : W32) (idx : W64) (dn : W32) : Quad :=
  mix10 k (stream, u32 idx.toNat, u32 (idx.toNat / 4294967296), dn)

/-- r of R109 from w0. -/
def srOf (w0 : W32) : Rnd := .sr (w0.toNat / 268435456)

end Sys2Proof.Machine
end

