-- ==== Sys2Proof/Machine/RegMap.lean ====
section
/-! DEFINITION. The register pages of the device (R438) as tables: for every class the registers its chapter
lists, with offset, spacing and number of an indexed register, reset value, the bits a write may change, and the
access code of R12.  The offsets also get names, one namespace a page.  Registers whose value is computed when
they are read (TIME, LEASE_LEFT, ERR_HEAD and so on) are listed as RO; `Machine/Regs.lean` computes them. -/
namespace Sys2Proof.Machine

/-- The access codes of R12. -/
inductive Acc where
  | rw | ro | w1c | wo | rc
deriving DecidableEq, Repr

/-- One row of a page's register table. -/
structure RegRow where
  /-- offset of the first register of the row -/
  off : Nat
  /-- spacing of an indexed register -/
  step : Nat
  /-- number of registers in the row -/
  cnt : Nat
  /-- reset value -/
  rst : Nat
  /-- bits that a write changes (RW) or clears (W1C) -/
  mask : Nat
  acc : Acc
deriving DecidableEq, Repr

/-- Class of the SYS page (R438). -/
abbrev cSYS : Nat := 0x0
/-- Class of the OWN page (R438). -/
abbrev cOWN : Nat := 0x1
/-- Class of the PWR page (R438). -/
abbrev cPWR : Nat := 0x2
/-- Class of the TIM page (R438). -/
abbrev cTIM : Nat := 0x3
/-- Class of the AGE page (R438). -/
abbrev cAGE : Nat := 0x4
/-- Class of the SEC page (R438). -/
abbrev cSEC : Nat := 0x5
/-- Class of the ERR page (R438). -/
abbrev cERR : Nat := 0x6
/-- Class of the TILE page (R438). -/
abbrev cTILE : Nat := 0x10
/-- Class of the VEC page (R438). -/
abbrev cVEC : Nat := 0x11
/-- Class of the DSP page (R438). -/
abbrev cDSP : Nat := 0x12
/-- Class of the CTX page (R438). -/
abbrev cCTX : Nat := 0x13
/-- Class of the HBM page (R438). -/
abbrev cHBM : Nat := 0x20
/-- Class of the CVU page (R438). -/
abbrev cCVU : Nat := 0x22
/-- Class of the PORT page (R438). -/
abbrev cPORT : Nat := 0x30
/-- Class of the MIR page (R438). -/
abbrev cMIR : Nat := 0x31
/-- Class of the OPL page (R438). -/
abbrev cOPL : Nat := 0x32
/-- Class of the RED page (R438). -/
abbrev cRED : Nat := 0x33
/-- Class of the CALV page (R438). -/
abbrev cCALV : Nat := 0x34
/-- Class of the XCH page (R438). -/
abbrev cXCH : Nat := 0x40
/-- Class of the SMP page (R438). -/
abbrev cSMP : Nat := 0x41
/-- Class of the PRN page (R438). -/
abbrev cPRN : Nat := 0x43
/-- Class of the OPT page (R438). -/
abbrev cOPT : Nat := 0x45
/-- Class of the FIRN page (R438). -/
abbrev cFIRN : Nat := 0x46
/-- Class of the SHD page (R438). -/
abbrev cSHD : Nat := 0x47
/-- Class of the ARB page (R438). -/
abbrev cARB : Nat := 0x48

/-- Instances of a class (R438); 0 for a class that is not in the page index. -/
def instances (cls : Nat) : Nat :=
  match cls with
  | 0x0 => 1
  | 0x1 => 1
  | 0x2 => 1
  | 0x3 => 1
  | 0x4 => 1
  | 0x5 => 1
  | 0x6 => 1
  | 0x10 => 128
  | 0x11 => 128
  | 0x12 => 2
  | 0x13 => 2
  | 0x20 => 8
  | 0x22 => 4
  | 0x30 => 8
  | 0x31 => 1
  | 0x32 => 1
  | 0x33 => 64
  | 0x34 => 1
  | 0x40 => 2
  | 0x41 => 2
  | 0x43 => 2
  | 0x45 => 2
  | 0x46 => 2
  | 0x47 => 2
  | 0x48 => 146
  | _ => 0

/-- The common header of R436. -/
abbrev hPAGE_ID : Nat := 0x0
/-- Header offset of PAGE_VER (R436). -/
abbrev hPAGE_VER : Nat := 0x4
/-- Header offset of CAP (R436). -/
abbrev hCAP : Nat := 0x8
/-- Header offset of CTRL (R436). -/
abbrev hCTRL : Nat := 0x10
/-- Header offset of STAT (R436). -/
abbrev hSTAT : Nat := 0x14
/-- Header offset of IRQ_STAT (R436). -/
abbrev hIRQ_STAT : Nat := 0x18
/-- Header offset of IRQ_EN (R436). -/
abbrev hIRQ_EN : Nat := 0x1c
/-- Header offset of ERR_HEAD (R436). -/
abbrev hERR_HEAD : Nat := 0x20
/-- Header offset of ERR_COUNT (R436). -/
abbrev hERR_COUNT : Nat := 0x24
/-- Header offset of FREEZE (R436). -/
abbrev hFREEZE : Nat := 0x28

namespace SYS
abbrev TILE_MAP : Nat := 0x040
abbrev TEST_FAIL : Nat := 0x050
abbrev T_BOOT : Nat := 0x060
abbrev T_MEM : Nat := 0x064
abbrev T_READY : Nat := 0x068
abbrev RESET_CAUSE : Nat := 0x06c
abbrev LOCK_DROP_CNT : Nat := 0x070
abbrev HBM_TRAIN : Nat := 0x074
end SYS

/-- Registers of the SYS page. -/
def rowsSYS : List RegRow :=
  [⟨0x8, 0x4, 1, 0x0, 0x0, .ro⟩,
   ⟨0x10, 0x4, 1, 0x0, 0x0, .rw⟩,
   ⟨0x14, 0x4, 1, 0x0, 0x0, .ro⟩,
   ⟨0x18, 0x4, 1, 0x0, 0xf, .w1c⟩,
   ⟨0x1c, 0x4, 1, 0x0, 0xffffffff, .rw⟩,
   ⟨0x24, 0x4, 1, 0x0, 0x0, .rc⟩,
   ⟨0x40, 0x4, 4, 0x0, 0x0, .ro⟩,
   ⟨0x50, 0x4, 4, 0x0, 0x0, .ro⟩,
   ⟨0x60, 0x4, 1, 0x0, 0x0, .ro⟩,
   ⟨0x64, 0x4, 1, 0x0, 0x0, .ro⟩,
   ⟨0x68, 0x4, 1, 0x0, 0x0, .ro⟩,
   ⟨0x6c, 0x4, 1, 0x0, 0x0, .ro⟩] ++
  [⟨0x70, 0x4, 1, 0x0, 0x0, .rc⟩,
   ⟨0x74, 0x4, 1, 0x0, 0x0, .ro⟩]

namespace OWN
abbrev CLAIM : Nat := 0x040
abbrev CLAIM_NONCE : Nat := 0x044
abbrev OWNER : Nat := 0x048
abbrev OWNER_NONCE : Nat := 0x04c
abbrev STATE : Nat := 0x050
abbrev LEASE : Nat := 0x054
abbrev RENEW : Nat := 0x058
abbrev LEASE_LEFT : Nat := 0x05c
abbrev RELEASE : Nat := 0x060
abbrev CLAIM_WIN : Nat := 0x064
abbrev HANDOVER_TMO : Nat := 0x068
abbrev MY_MASTER : Nat := 0x06c
abbrev DROP_CNT : Nat := 0x070
abbrev LAST_DROP_ADDR : Nat := 0x080
abbrev LAST_DROP_ADDR_HI : Nat := 0x084
abbrev LAST_DROP_INFO : Nat := 0x088
abbrev ELECT_CNT : Nat := 0x08c
abbrev EXPIRE_CNT : Nat := 0x090
end OWN

/-- Registers of the OWN page. -/
def rowsOWN : List RegRow :=
  [⟨0x8, 0x4, 1, 0x2, 0x0, .ro⟩,
   ⟨0x10, 0x4, 1, 0x0, 0x0, .rw⟩,
   ⟨0x14, 0x4, 1, 0x0, 0x0, .ro⟩,
   ⟨0x18, 0x4, 1, 0x0, 0xf, .w1c⟩,
   ⟨0x1c, 0x4, 1, 0x0, 0xffffffff, .rw⟩,
   ⟨0x24, 0x4, 1, 0x0, 0x0, .rc⟩,
   ⟨0x40, 0x4, 1, 0x0, 0x0, .wo⟩,
   ⟨0x44, 0x4, 1, 0x0, 0x0, .wo⟩,
   ⟨0x48, 0x4, 1, 0x0, 0x0, .ro⟩,
   ⟨0x4c, 0x4, 1, 0x0, 0x0, .ro⟩,
   ⟨0x50, 0x4, 1, 0x0, 0x0, .ro⟩,
   ⟨0x54, 0x4, 1, 0x64, 0x3ff, .rw⟩] ++
  [⟨0x58, 0x4, 1, 0x0, 0x0, .wo⟩,
   ⟨0x5c, 0x4, 1, 0x0, 0x0, .ro⟩,
   ⟨0x60, 0x4, 1, 0x0, 0x0, .wo⟩,
   ⟨0x64, 0x4, 1, 0x2710, 0xffffff, .rw⟩,
   ⟨0x68, 0x4, 1, 0xf4240, 0xffffff, .rw⟩,
   ⟨0x6c, 0x4, 1, 0x0, 0x0, .ro⟩,
   ⟨0x70, 0x4, 3, 0x0, 0x0, .rc⟩,
   ⟨0x80, 0x4, 1, 0x0, 0x0, .ro⟩,
   ⟨0x84, 0x4, 1, 0x0, 0x0, .ro⟩,
   ⟨0x88, 0x4, 1, 0x0, 0x0, .ro⟩,
   ⟨0x8c, 0x4, 1, 0x0, 0x0, .rc⟩,
   ⟨0x90, 0x4, 1, 0x0, 0x0, .rc⟩]

namespace PWR
abbrev PD_ON0 : Nat := 0x040
abbrev PD_ON1 : Nat := 0x044
abbrev PD_ON2 : Nat := 0x048
abbrev PD_STAT : Nat := 0x050
abbrev PD_PEND : Nat := 0x060
abbrev SLEW : Nat := 0x070
abbrev WAKE_GAP : Nat := 0x074
abbrev E_LIMIT : Nat := 0x078
abbrev BACKFEED_LIMIT : Nat := 0x07c
abbrev VDECL : Nat := 0x080
abbrev I_CAP : Nat := 0x084
abbrev SHED_CAP : Nat := 0x088
abbrev THERM_CFG : Nat := 0x08c
abbrev THERM_CAP : Nat := 0x090
abbrev I_MEAS_A : Nat := 0x094
abbrev I_MEAS_B : Nat := 0x098
abbrev V_MEAS : Nat := 0x09c
abbrev E_STORED : Nat := 0x0a0
abbrev TJ : Nat := 0x0a4
abbrev TJ_PEAK : Nat := 0x0a8
abbrev CHARGE_A : Nat := 0x0b0
abbrev CHARGE_A_HI : Nat := 0x0b4
abbrev CHARGE_B : Nat := 0x0b8
abbrev CHARGE_B_HI : Nat := 0x0bc
abbrev THROTTLE : Nat := 0x0c0
abbrev THROTTLE_HI : Nat := 0x0c4
abbrev REFUSE_CNT : Nat := 0x0c8
abbrev SHED_CNT : Nat := 0x0cc
abbrev SAG_CNT : Nat := 0x0d0
abbrev WAKE_CNT : Nat := 0x0d4
abbrev OFF_ACT_CNT : Nat := 0x0d8
abbrev LAST_BLEED : Nat := 0x0dc
end PWR

/-- Registers of the PWR page. -/
def rowsPWR : List RegRow :=
  [⟨0x8, 0x4, 1, 0x15f, 0x0, .ro⟩,
   ⟨0x10, 0x4, 1, 0x0, 0x4, .rw⟩,
   ⟨0x14, 0x4, 1, 0x1, 0x0, .ro⟩,
   ⟨0x18, 0x4, 1, 0x0, 0x3f, .w1c⟩,
   ⟨0x1c, 0x4, 1, 0x0, 0xffffffff, .rw⟩,
   ⟨0x24, 0x4, 1, 0x0, 0x0, .rc⟩,
   ⟨0x40, 0x4, 1, 0x0, 0xffffffff, .rw⟩,
   ⟨0x44, 0x4, 1, 0x0, 0xffffffff, .rw⟩,
   ⟨0x48, 0x4, 1, 0x0, 0xffffffff, .rw⟩,
   ⟨0x50, 0x4, 3, 0x0, 0x0, .ro⟩,
   ⟨0x60, 0x4, 3, 0x0, 0x0, .ro⟩,
   ⟨0x70, 0x4, 1, 0x64, 0x1ff, .rw⟩] ++
  [⟨0x74, 0x4, 1, 0xc8, 0xffffff, .rw⟩,
   ⟨0x78, 0x4, 1, 0x5dc, 0x7ff, .rw⟩,
   ⟨0x7c, 0x4, 1, 0x3e8, 0x3ff, .rw⟩,
   ⟨0x80, 0x4, 1, 0x3520352, 0x3ff03ff, .rw⟩,
   ⟨0x84, 0x4, 1, 0x3840384, 0x3ff03ff, .rw⟩,
   ⟨0x88, 0x4, 1, 0x1c201c2, 0x3ff03ff, .rw⟩,
   ⟨0x8c, 0x4, 1, 0x645f, 0xffff, .rw⟩,
   ⟨0x90, 0x4, 1, 0x2580258, 0x3ff03ff, .rw⟩,
   ⟨0x94, 0x4, 1, 0x0, 0x0, .ro⟩,
   ⟨0x98, 0x4, 1, 0x0, 0x0, .ro⟩,
   ⟨0x9c, 0x4, 1, 0x0, 0x0, .ro⟩,
   ⟨0xa0, 0x4, 1, 0x0, 0x0, .ro⟩] ++
  [⟨0xa4, 0x4, 1, 0x0, 0x0, .ro⟩,
   ⟨0xa8, 0x4, 1, 0x0, 0x0, .ro⟩,
   ⟨0xb0, 0x4, 1, 0x0, 0x0, .ro⟩,
   ⟨0xb4, 0x4, 1, 0x0, 0x0, .ro⟩,
   ⟨0xb8, 0x4, 1, 0x0, 0x0, .ro⟩,
   ⟨0xbc, 0x4, 1, 0x0, 0x0, .ro⟩,
   ⟨0xc0, 0x4, 1, 0x0, 0x0, .ro⟩,
   ⟨0xc4, 0x4, 1, 0x0, 0x0, .ro⟩,
   ⟨0xc8, 0x4, 1, 0x0, 0x0, .rc⟩,
   ⟨0xcc, 0x4, 1, 0x0, 0x0, .rc⟩,
   ⟨0xd0, 0x4, 1, 0x0, 0x0, .rc⟩,
   ⟨0xd4, 0x4, 1, 0x0, 0x0, .rc⟩] ++
  [⟨0xd8, 0x4, 1, 0x0, 0x0, .rc⟩,
   ⟨0xdc, 0x4, 1, 0x0, 0x0, .ro⟩]

namespace TIM
abbrev TIME_LO : Nat := 0x040
abbrev TIME_HI : Nat := 0x044
abbrev RATE_A : Nat := 0x048
abbrev RATE_B : Nat := 0x04c
abbrev ARRAY_HS_A : Nat := 0x050
abbrev ARRAY_HS_A_HI : Nat := 0x054
abbrev ARRAY_HS_B : Nat := 0x058
abbrev ARRAY_HS_B_HI : Nat := 0x05c
abbrev VEC_HS_A : Nat := 0x060
abbrev VEC_HS_A_HI : Nat := 0x064
abbrev VEC_HS_B : Nat := 0x068
abbrev VEC_HS_B_HI : Nat := 0x06c
abbrev BRIDGE_WDOG : Nat := 0x080
abbrev BRIDGE_STAT : Nat := 0x084
abbrev GPT_LOAD_LO : Nat := 0x100
abbrev GPT_LOAD_HI : Nat := 0x104
abbrev GPT_TCTRL : Nat := 0x108
abbrev GPT_REMAIN : Nat := 0x10c
end TIM

/-- Registers of the TIM page. -/
def rowsTIM : List RegRow :=
  [⟨0x10, 0x4, 1, 0x0, 0x0, .rw⟩,
   ⟨0x14, 0x4, 1, 0x0, 0x0, .ro⟩,
   ⟨0x18, 0x4, 1, 0x0, 0x2ffff, .w1c⟩,
   ⟨0x1c, 0x4, 1, 0x0, 0xffffffff, .rw⟩,
   ⟨0x24, 0x4, 1, 0x0, 0x0, .rc⟩,
   ⟨0x40, 0x4, 1, 0x0, 0x0, .ro⟩,
   ⟨0x44, 0x4, 1, 0x0, 0x0, .ro⟩,
   ⟨0x48, 0x4, 1, 0x0, 0x0, .ro⟩,
   ⟨0x4c, 0x4, 1, 0x0, 0x0, .ro⟩,
   ⟨0x50, 0x4, 1, 0x0, 0x0, .ro⟩,
   ⟨0x54, 0x4, 1, 0x0, 0x0, .ro⟩,
   ⟨0x58, 0x4, 1, 0x0, 0x0, .ro⟩] ++
  [⟨0x5c, 0x4, 1, 0x0, 0x0, .ro⟩,
   ⟨0x60, 0x4, 1, 0x0, 0x0, .ro⟩,
   ⟨0x64, 0x4, 1, 0x0, 0x0, .ro⟩,
   ⟨0x68, 0x4, 1, 0x0, 0x0, .ro⟩,
   ⟨0x6c, 0x4, 1, 0x0, 0x0, .ro⟩,
   ⟨0x80, 0x4, 1, 0x3e8, 0xffffff, .rw⟩,
   ⟨0x84, 0x4, 1, 0xf0, 0x0, .ro⟩,
   ⟨0x100, 0x10, 16, 0x0, 0xffffffff, .rw⟩,
   ⟨0x104, 0x10, 16, 0x0, 0xffff, .rw⟩,
   ⟨0x108, 0x10, 16, 0x0, 0x3, .rw⟩,
   ⟨0x10c, 0x10, 16, 0x0, 0x0, .ro⟩]

namespace AGE
abbrev AGE_PERIOD : Nat := 0x040
abbrev AGE_WINDOW : Nat := 0x044
abbrev SAMPLES : Nat := 0x048
abbrev TILE_SEL : Nat := 0x04c
abbrev TILE_DRIFT : Nat := 0x050
abbrev TILE_REL : Nat := 0x054
abbrev SPREAD : Nat := 0x058
abbrev MAX_DRIFT : Nat := 0x05c
abbrev EOL_HOURS : Nat := 0x060
abbrev EOL_LO : Nat := 0x064
abbrev EOL_HI : Nat := 0x068
abbrev LIMITER : Nat := 0x06c
abbrev CONF : Nat := 0x070
abbrev EYE_MIN : Nat := 0x074
abbrev HBM_CE_RATE : Nat := 0x078
abbrev CHG_USED : Nat := 0x07c
abbrev POH : Nat := 0x080
abbrev POH_HI : Nat := 0x084
abbrev WARN_HOURS : Nat := 0x088
end AGE

/-- Registers of the AGE page. -/
def rowsAGE : List RegRow :=
  [⟨0x8, 0x4, 1, 0xf, 0x0, .ro⟩,
   ⟨0x10, 0x4, 1, 0x1, 0x1, .rw⟩,
   ⟨0x14, 0x4, 1, 0x1, 0x0, .ro⟩,
   ⟨0x18, 0x4, 1, 0x0, 0x3, .w1c⟩,
   ⟨0x1c, 0x4, 1, 0x0, 0xffffffff, .rw⟩,
   ⟨0x24, 0x4, 1, 0x0, 0x0, .rc⟩,
   ⟨0x40, 0x4, 1, 0x258, 0xffff, .rw⟩,
   ⟨0x44, 0x4, 1, 0x3f0, 0x1fff, .rw⟩,
   ⟨0x48, 0x4, 1, 0x0, 0x0, .ro⟩,
   ⟨0x4c, 0x4, 1, 0x0, 0x7f, .rw⟩,
   ⟨0x50, 0x4, 1, 0x0, 0x0, .ro⟩,
   ⟨0x54, 0x4, 1, 0x0, 0x0, .ro⟩] ++
  [⟨0x58, 0x4, 1, 0x0, 0x0, .ro⟩,
   ⟨0x5c, 0x4, 1, 0x0, 0x0, .ro⟩,
   ⟨0x60, 0x4, 1, 0xffffff, 0x0, .ro⟩,
   ⟨0x64, 0x4, 1, 0xffffff, 0x0, .ro⟩,
   ⟨0x68, 0x4, 1, 0xffffff, 0x0, .ro⟩,
   ⟨0x6c, 0x4, 1, 0x0, 0x0, .ro⟩,
   ⟨0x70, 0x4, 1, 0x50, 0x0, .ro⟩,
   ⟨0x74, 0x4, 1, 0x0, 0x0, .ro⟩,
   ⟨0x78, 0x4, 1, 0x0, 0x0, .ro⟩,
   ⟨0x7c, 0x4, 1, 0x0, 0x0, .ro⟩,
   ⟨0x80, 0x4, 1, 0x0, 0x0, .ro⟩,
   ⟨0x84, 0x4, 1, 0x0, 0x0, .ro⟩] ++
  [⟨0x88, 0x4, 1, 0x2710, 0xffffff, .rw⟩]

namespace SEC
abbrev BOOT_STAT : Nat := 0x040
abbrev BOOT_FAIL_CNT : Nat := 0x044
abbrev FUSE_STAT : Nat := 0x048
abbrev TILE_PAIRS : Nat := 0x050
abbrev TILE_PAIRS_HI : Nat := 0x054
abbrev ARB_SEL : Nat := 0x058
abbrev ARB_VAL : Nat := 0x05c
abbrev CMD : Nat := 0x060
abbrev CMD_STAT : Nat := 0x064
abbrev DBG_STAT : Nat := 0x068
abbrev WIN_SEL : Nat := 0x06c
abbrev OBJ_LEN : Nat := 0x070
abbrev DATA : Nat := 0x080
abbrev ROT_KEY_HASH : Nat := 0x0a0
abbrev ID_KEY_HASH : Nat := 0x0c0
abbrev MEAS : Nat := 0x100
abbrev FW_VER : Nat := 0x200
abbrev FW_VER_HI : Nat := 0x204
abbrev WIN : Nat := 0x800
end SEC

/-- Registers of the SEC page. -/
def rowsSEC : List RegRow :=
  [⟨0x8, 0x4, 1, 0x8, 0x0, .ro⟩,
   ⟨0x10, 0x4, 1, 0x0, 0x0, .rw⟩,
   ⟨0x14, 0x4, 1, 0x1, 0x0, .ro⟩,
   ⟨0x18, 0x4, 1, 0x0, 0x7, .w1c⟩,
   ⟨0x1c, 0x4, 1, 0x0, 0xffffffff, .rw⟩,
   ⟨0x24, 0x4, 1, 0x0, 0x0, .rc⟩,
   ⟨0x40, 0x4, 1, 0x0, 0x0, .ro⟩,
   ⟨0x44, 0x4, 1, 0x0, 0x0, .rc⟩,
   ⟨0x48, 0x4, 1, 0x0, 0x0, .ro⟩,
   ⟨0x50, 0x4, 1, 0x0, 0x0, .ro⟩,
   ⟨0x54, 0x4, 1, 0x0, 0x0, .ro⟩,
   ⟨0x58, 0x4, 1, 0x0, 0x3f, .rw⟩] ++
  [⟨0x5c, 0x4, 1, 0x0, 0x0, .ro⟩,
   ⟨0x60, 0x4, 1, 0x0, 0x0, .wo⟩,
   ⟨0x64, 0x4, 1, 0x0, 0x0, .ro⟩,
   ⟨0x68, 0x4, 1, 0x0, 0x0, .ro⟩,
   ⟨0x6c, 0x4, 1, 0x0, 0x70001, .rw⟩,
   ⟨0x70, 0x4, 1, 0x520, 0x0, .ro⟩,
   ⟨0x80, 0x4, 8, 0x0, 0xffffffff, .rw⟩,
   ⟨0xa0, 0x4, 8, 0x0, 0x0, .ro⟩,
   ⟨0xc0, 0x4, 8, 0x0, 0x0, .ro⟩,
   ⟨0x100, 0x4, 64, 0x0, 0x0, .ro⟩,
   ⟨0x200, 0x4, 1, 0x0, 0x0, .ro⟩,
   ⟨0x204, 0x4, 1, 0x0, 0x0, .ro⟩] ++
  [⟨0x800, 0x4, 512, 0x0, 0x0, .ro⟩]

namespace ERR
abbrev SEL : Nat := 0x040
abbrev POP : Nat := 0x044
abbrev CLR_FIRST : Nat := 0x048
abbrev NEXT_SRC : Nat := 0x04c
abbrev INT_SEV : Nat := 0x050
abbrev BOOT_CNT : Nat := 0x054
abbrev LOG_WR : Nat := 0x058
abbrev LOG_LOST : Nat := 0x05c
abbrev HEAD_REC : Nat := 0x060
abbrev FIRST_REC : Nat := 0x080
abbrev FATAL_REC : Nat := 0x0a0
abbrev LOG_SEL : Nat := 0x0c0
abbrev LOG_REC : Nat := 0x0e0
end ERR

/-- Registers of the ERR page. -/
def rowsERR : List RegRow :=
  [⟨0x8, 0x4, 1, 0x4000800, 0x0, .ro⟩,
   ⟨0x10, 0x4, 1, 0x0, 0x0, .rw⟩,
   ⟨0x14, 0x4, 1, 0x1, 0x0, .ro⟩,
   ⟨0x18, 0x4, 1, 0x0, 0xf, .w1c⟩,
   ⟨0x1c, 0x4, 1, 0x0, 0xffffffff, .rw⟩,
   ⟨0x24, 0x4, 1, 0x0, 0x0, .rc⟩,
   ⟨0x40, 0x4, 1, 0x0, 0xffffff, .rw⟩,
   ⟨0x44, 0x4, 1, 0x0, 0x0, .wo⟩,
   ⟨0x48, 0x4, 1, 0x0, 0x0, .wo⟩,
   ⟨0x4c, 0x4, 1, 0x0, 0x0, .ro⟩,
   ⟨0x50, 0x4, 1, 0xe, 0xf, .rw⟩,
   ⟨0x54, 0x4, 1, 0x0, 0x0, .ro⟩] ++
  [⟨0x58, 0x4, 1, 0x0, 0x0, .ro⟩,
   ⟨0x5c, 0x4, 1, 0x0, 0x0, .ro⟩,
   ⟨0x60, 0x4, 8, 0x0, 0x0, .ro⟩,
   ⟨0x80, 0x4, 8, 0x0, 0x0, .ro⟩,
   ⟨0xa0, 0x4, 8, 0x0, 0x0, .ro⟩,
   ⟨0xc0, 0x4, 1, 0x0, 0x3ff, .rw⟩,
   ⟨0xe0, 0x4, 8, 0x0, 0x0, .ro⟩]

namespace TILE
abbrev DRAIN_CTRL : Nat := 0x040
abbrev DRAIN_DST : Nat := 0x044
abbrev DRAIN_DSTRIDE : Nat := 0x048
abbrev DRAIN_OUT : Nat := 0x04c
abbrev DRAIN_STREAM : Nat := 0x050
abbrev DRAIN_BASE_LO : Nat := 0x054
abbrev DRAIN_BASE_HI : Nat := 0x058
abbrev DRAIN_RSTRIDE : Nat := 0x05c
abbrev DRAIN_STAT : Nat := 0x060
abbrev DRAIN_DONE_MAP : Nat := 0x064
abbrev ARRAY_HS : Nat := 0x068
abbrev ARRAY_HS_HI : Nat := 0x06c
abbrev SAT_CNT : Nat := 0x070
abbrev EXIT_OVF_CNT : Nat := 0x074
abbrev TS_CORR_CNT : Nat := 0x078
abbrev TS_UNCORR_CNT : Nat := 0x07c
abbrev WBUF : Nat := 0x080
abbrev HOLDER : Nat := 0x084
abbrev SAT_MAP : Nat := 0x0c0
abbrev POISON_MAP : Nat := 0x100
abbrev TYPE_MAP : Nat := 0x140
end TILE

/-- Registers of the TILE page. -/
def rowsTILE : List RegRow :=
  [⟨0x8, 0x4, 1, 0x200c, 0x0, .ro⟩,
   ⟨0x10, 0x4, 1, 0x1, 0x1, .rw⟩,
   ⟨0x14, 0x4, 1, 0x1, 0x0, .ro⟩,
   ⟨0x18, 0x4, 1, 0x0, 0x3f, .w1c⟩,
   ⟨0x1c, 0x4, 1, 0x0, 0xffffffff, .rw⟩,
   ⟨0x28, 0x4, 1, 0x0, 0x1, .rw⟩,
   ⟨0x24, 0x4, 1, 0x0, 0x0, .rc⟩,
   ⟨0x40, 0x4, 1, 0x0, 0xfc3ffff, .rw⟩,
   ⟨0x44, 0x4, 1, 0x0, 0x3fffc0, .rw⟩,
   ⟨0x48, 0x4, 1, 0x200, 0xffc0, .rw⟩,
   ⟨0x4c, 0x4, 1, 0x0, 0x1f00030f, .rw⟩,
   ⟨0x50, 0x4, 1, 0x0, 0xffffffff, .rw⟩] ++
  [⟨0x54, 0x4, 1, 0x0, 0xffffffff, .rw⟩,
   ⟨0x58, 0x4, 1, 0x0, 0xffffffff, .rw⟩,
   ⟨0x5c, 0x4, 1, 0x80, 0xffffffff, .rw⟩,
   ⟨0x60, 0x4, 1, 0x0, 0x0, .ro⟩,
   ⟨0x64, 0x4, 1, 0x0, 0x7fff, .w1c⟩,
   ⟨0x68, 0x4, 1, 0x0, 0x0, .ro⟩,
   ⟨0x6c, 0x4, 1, 0x0, 0x0, .ro⟩,
   ⟨0x70, 0x4, 1, 0x0, 0x0, .rc⟩,
   ⟨0x74, 0x4, 1, 0x0, 0x0, .rc⟩,
   ⟨0x78, 0x4, 1, 0x0, 0x0, .rc⟩,
   ⟨0x7c, 0x4, 1, 0x0, 0x0, .rc⟩,
   ⟨0x80, 0x4, 1, 0x0, 0x0, .ro⟩] ++
  [⟨0x84, 0x4, 1, 0x0, 0x0, .ro⟩,
   ⟨0xc0, 0x4, 16, 0x0, 0x0, .ro⟩,
   ⟨0x100, 0x4, 16, 0x0, 0x0, .ro⟩,
   ⟨0x140, 0x4, 16, 0x0, 0x0, .ro⟩]

namespace VEC
abbrev SEED0 : Nat := 0x040
abbrev SEED1 : Nat := 0x044
abbrev SEED2 : Nat := 0x048
abbrev SEED3 : Nat := 0x04c
abbrev KEY_CHK : Nat := 0x050
abbrev FAULT : Nat := 0x054
abbrev VEC_HS : Nat := 0x058
abbrev VEC_HS_HI : Nat := 0x05c
abbrev SFU_HS : Nat := 0x060
abbrev SFU_HS_HI : Nat := 0x064
abbrev SAT_CNT : Nat := 0x068
abbrev POISON_CNT : Nat := 0x06c
abbrev FAULT_CNT : Nat := 0x070
end VEC

/-- Registers of the VEC page. -/
def rowsVEC : List RegRow :=
  [⟨0x8, 0x4, 1, 0x800c, 0x0, .ro⟩,
   ⟨0x10, 0x4, 1, 0x1, 0x1, .rw⟩,
   ⟨0x14, 0x4, 1, 0x3, 0x0, .ro⟩,
   ⟨0x18, 0x4, 1, 0x0, 0x1f, .w1c⟩,
   ⟨0x1c, 0x4, 1, 0x0, 0xffffffff, .rw⟩,
   ⟨0x24, 0x4, 1, 0x0, 0x0, .rc⟩,
   ⟨0x40, 0x4, 1, 0x0, 0xffffffff, .rw⟩,
   ⟨0x44, 0x4, 1, 0x0, 0xffffffff, .rw⟩,
   ⟨0x48, 0x4, 1, 0x0, 0xffffffff, .rw⟩,
   ⟨0x4c, 0x4, 1, 0x0, 0xffffffff, .rw⟩,
   ⟨0x50, 0x4, 1, 0x0, 0x0, .ro⟩,
   ⟨0x54, 0x4, 1, 0x0, 0x0, .ro⟩] ++
  [⟨0x58, 0x4, 1, 0x0, 0x0, .ro⟩,
   ⟨0x5c, 0x4, 1, 0x0, 0x0, .ro⟩,
   ⟨0x60, 0x4, 1, 0x0, 0x0, .ro⟩,
   ⟨0x64, 0x4, 1, 0x0, 0x0, .ro⟩,
   ⟨0x68, 0x4, 1, 0x0, 0x0, .rc⟩,
   ⟨0x6c, 0x4, 1, 0x0, 0x0, .rc⟩,
   ⟨0x70, 0x4, 1, 0x0, 0x0, .rc⟩]

namespace DSP
abbrev QUANTUM : Nat := 0x040
abbrev HOLD_LIMIT : Nat := 0x044
abbrev TILE_MASK : Nat := 0x048
abbrev TILE_MASK_HI : Nat := 0x04c
abbrev RUNNING : Nat := 0x050
abbrev READY : Nat := 0x054
abbrev SWITCH : Nat := 0x058
abbrev SWITCH_HI : Nat := 0x05c
abbrev PREEMPT_CNT : Nat := 0x060
abbrev HOLD_REL_CNT : Nat := 0x064
abbrev FAULT_CNT : Nat := 0x068
end DSP

/-- Registers of the DSP page. -/
def rowsDSP : List RegRow :=
  [⟨0x8, 0x4, 1, 0x0, 0x0, .ro⟩,
   ⟨0x10, 0x4, 1, 0x0, 0x5, .rw⟩,
   ⟨0x14, 0x4, 1, 0x1, 0x0, .ro⟩,
   ⟨0x18, 0x4, 1, 0x0, 0x7, .w1c⟩,
   ⟨0x1c, 0x4, 1, 0x0, 0xffffffff, .rw⟩,
   ⟨0x24, 0x4, 1, 0x0, 0x0, .rc⟩,
   ⟨0x40, 0x4, 1, 0x186a0, 0xffffff, .rw⟩,
   ⟨0x44, 0x4, 1, 0xf4240, 0xffffff, .rw⟩,
   ⟨0x48, 0x4, 1, 0xffffffff, 0xffffffff, .rw⟩,
   ⟨0x4c, 0x4, 1, 0x0, 0xffffffff, .rw⟩,
   ⟨0x50, 0x4, 1, 0x0, 0x0, .ro⟩,
   ⟨0x54, 0x4, 1, 0x0, 0x0, .ro⟩] ++
  [⟨0x58, 0x4, 1, 0x0, 0x0, .ro⟩,
   ⟨0x5c, 0x4, 1, 0x0, 0x0, .ro⟩,
   ⟨0x60, 0x4, 1, 0x0, 0x0, .rc⟩,
   ⟨0x64, 0x4, 1, 0x0, 0x0, .rc⟩,
   ⟨0x68, 0x4, 1, 0x0, 0x0, .rc⟩]

namespace CTX
abbrev CTX_BASE_LO : Nat := 0x040
abbrev CTX_BASE_HI : Nat := 0x044
abbrev CMD : Nat := 0x048
abbrev CMD_STAT : Nat := 0x04c
abbrev SEL : Nat := 0x050
abbrev SEL_STATE : Nat := 0x054
abbrev N_READY_PARKED : Nat := 0x058
abbrev N_DONE_FAULTED : Nat := 0x05c
abbrev LAST_FAULT : Nat := 0x060
abbrev SAVES : Nat := 0x068
abbrev SAVES_HI : Nat := 0x06c
abbrev RESUMES : Nat := 0x070
abbrev RESUMES_HI : Nat := 0x074
abbrev REFUSE_CNT : Nat := 0x078
end CTX

/-- Registers of the CTX page. -/
def rowsCTX : List RegRow :=
  [⟨0x8, 0x4, 1, 0x7fff, 0x0, .ro⟩,
   ⟨0x10, 0x4, 1, 0x0, 0x1, .rw⟩,
   ⟨0x14, 0x4, 1, 0x1, 0x0, .ro⟩,
   ⟨0x18, 0x4, 1, 0x0, 0x7, .w1c⟩,
   ⟨0x1c, 0x4, 1, 0x0, 0xffffffff, .rw⟩,
   ⟨0x24, 0x4, 1, 0x0, 0x0, .rc⟩,
   ⟨0x40, 0x4, 1, 0x0, 0xffff0000, .rw⟩,
   ⟨0x44, 0x4, 1, 0x0, 0xffff, .rw⟩,
   ⟨0x48, 0x4, 1, 0x0, 0x0, .wo⟩,
   ⟨0x4c, 0x4, 1, 0x0, 0x0, .ro⟩,
   ⟨0x50, 0x4, 1, 0x0, 0x7fff, .rw⟩,
   ⟨0x54, 0x4, 1, 0x0, 0x0, .ro⟩] ++
  [⟨0x58, 0x4, 1, 0x0, 0x0, .ro⟩,
   ⟨0x5c, 0x4, 1, 0x0, 0x0, .ro⟩,
   ⟨0x60, 0x4, 1, 0x0, 0x0, .ro⟩,
   ⟨0x68, 0x4, 1, 0x0, 0x0, .ro⟩,
   ⟨0x6c, 0x4, 1, 0x0, 0x0, .ro⟩,
   ⟨0x70, 0x4, 1, 0x0, 0x0, .ro⟩,
   ⟨0x74, 0x4, 1, 0x0, 0x0, .ro⟩,
   ⟨0x78, 0x4, 1, 0x0, 0x0, .rc⟩]

namespace HBM
abbrev ECC_MODE : Nat := 0x040
abbrev SCRUB_STEP : Nat := 0x044
abbrev SCRUB_POS : Nat := 0x048
abbrev SCRUB_PASS : Nat := 0x04c
abbrev INIT_POS : Nat := 0x050
abbrev CE_CNT : Nat := 0x054
abbrev UE_CNT : Nat := 0x058
abbrev MISDIR_CNT : Nat := 0x05c
abbrev POISON_RD_CNT : Nat := 0x060
abbrev SCRUB_CE_CNT : Nat := 0x064
abbrev SCRUB_UE_CNT : Nat := 0x068
abbrev ODECC_CNT : Nat := 0x06c
abbrev LAST_ERR_ADDR : Nat := 0x070
abbrev LAST_ERR_ADDR_HI : Nat := 0x074
abbrev LAST_ERR_INFO : Nat := 0x078
abbrev RD_SECT : Nat := 0x080
abbrev RD_SECT_HI : Nat := 0x084
abbrev WR_SECT : Nat := 0x088
abbrev WR_SECT_HI : Nat := 0x08c
abbrev INJ_ADDR : Nat := 0x090
abbrev INJ_ADDR_HI : Nat := 0x094
abbrev INJ_CTRL : Nat := 0x098
abbrev INJ_PAT : Nat := 0x09c
end HBM

/-- Registers of the HBM page. -/
def rowsHBM : List RegRow :=
  [⟨0x8, 0x4, 1, 0x3f4001, 0x0, .ro⟩,
   ⟨0x10, 0x4, 1, 0x4, 0x4, .rw⟩,
   ⟨0x14, 0x4, 1, 0x1, 0x0, .ro⟩,
   ⟨0x18, 0x4, 1, 0x0, 0x3f, .w1c⟩,
   ⟨0x1c, 0x4, 1, 0x0, 0xffffffff, .rw⟩,
   ⟨0x28, 0x4, 1, 0x0, 0x1, .rw⟩,
   ⟨0x24, 0x4, 1, 0x0, 0x0, .rc⟩,
   ⟨0x40, 0x4, 1, 0x0, 0x1, .rw⟩,
   ⟨0x44, 0x4, 1, 0x7dba8, 0xffffff, .rw⟩,
   ⟨0x48, 0x4, 1, 0x0, 0x0, .ro⟩,
   ⟨0x4c, 0x4, 1, 0x0, 0x0, .ro⟩,
   ⟨0x50, 0x4, 1, 0x0, 0x0, .ro⟩] ++
  [⟨0x54, 0x4, 1, 0x0, 0x0, .rc⟩,
   ⟨0x58, 0x4, 1, 0x0, 0x0, .rc⟩,
   ⟨0x5c, 0x4, 1, 0x0, 0x0, .rc⟩,
   ⟨0x60, 0x4, 1, 0x0, 0x0, .rc⟩,
   ⟨0x64, 0x4, 1, 0x0, 0x0, .rc⟩,
   ⟨0x68, 0x4, 1, 0x0, 0x0, .rc⟩,
   ⟨0x6c, 0x4, 1, 0x0, 0x0, .rc⟩,
   ⟨0x70, 0x4, 1, 0x0, 0x0, .ro⟩,
   ⟨0x74, 0x4, 1, 0x0, 0x0, .ro⟩,
   ⟨0x78, 0x4, 1, 0x0, 0x0, .ro⟩,
   ⟨0x80, 0x4, 1, 0x0, 0x0, .ro⟩,
   ⟨0x84, 0x4, 1, 0x0, 0x0, .ro⟩] ++
  [⟨0x88, 0x4, 1, 0x0, 0x0, .ro⟩,
   ⟨0x8c, 0x4, 1, 0x0, 0x0, .ro⟩,
   ⟨0x90, 0x4, 1, 0x0, 0xffffffc0, .rw⟩,
   ⟨0x94, 0x4, 1, 0x0, 0xffff, .rw⟩,
   ⟨0x98, 0x4, 1, 0x3f3f, 0x80003f3f, .rw⟩,
   ⟨0x9c, 0x4, 1, 0x0, 0xffffffff, .rw⟩]

namespace CVU
abbrev POLY : Nat := 0x040
abbrev POLY_HI : Nat := 0x044
abbrev INIT : Nat := 0x048
abbrev INIT_HI : Nat := 0x04c
abbrev XOROUT : Nat := 0x050
abbrev XOROUT_HI : Nat := 0x054
abbrev CFG : Nat := 0x058
abbrev FOLD_VAL : Nat := 0x060
abbrev FOLD_VAL_HI : Nat := 0x064
abbrev SCAN_ADDR : Nat := 0x068
abbrev SCAN_ADDR_HI : Nat := 0x06c
abbrev SCAN_LEN : Nat := 0x070
abbrev SCAN_LEN_HI : Nat := 0x074
abbrev RESULT : Nat := 0x078
abbrev RESULT_HI : Nat := 0x07c
abbrev RESULT_STAT : Nat := 0x080
abbrev BYTES : Nat := 0x088
abbrev BYTES_HI : Nat := 0x08c
abbrev SCAN_CNT : Nat := 0x090
abbrev POISON_CNT : Nat := 0x094
abbrev DESC_ERR_CNT : Nat := 0x098
end CVU

/-- Registers of the CVU page. -/
def rowsCVU : List RegRow :=
  [⟨0x8, 0x4, 1, 0x4008, 0x0, .ro⟩,
   ⟨0x10, 0x4, 1, 0x0, 0x0, .rw⟩,
   ⟨0x14, 0x4, 1, 0x1, 0x0, .ro⟩,
   ⟨0x18, 0x4, 1, 0x0, 0x7, .w1c⟩,
   ⟨0x1c, 0x4, 1, 0x0, 0xffffffff, .rw⟩,
   ⟨0x24, 0x4, 1, 0x0, 0x0, .rc⟩,
   ⟨0x40, 0x4, 1, 0x0, 0xffffffff, .rw⟩,
   ⟨0x44, 0x4, 1, 0x0, 0xffffffff, .rw⟩,
   ⟨0x48, 0x4, 1, 0x0, 0xffffffff, .rw⟩,
   ⟨0x4c, 0x4, 1, 0x0, 0xffffffff, .rw⟩,
   ⟨0x50, 0x4, 1, 0x0, 0xffffffff, .rw⟩,
   ⟨0x54, 0x4, 1, 0x0, 0xffffffff, .rw⟩] ++
  [⟨0x58, 0x4, 1, 0x40, 0x737f, .rw⟩,
   ⟨0x60, 0x4, 1, 0x0, 0xffffffff, .rw⟩,
   ⟨0x64, 0x4, 1, 0x0, 0xffffffff, .rw⟩,
   ⟨0x68, 0x4, 1, 0x0, 0xffffffff, .rw⟩,
   ⟨0x6c, 0x4, 1, 0x0, 0xffff, .rw⟩,
   ⟨0x70, 0x4, 1, 0x0, 0xffffffff, .rw⟩,
   ⟨0x74, 0x4, 1, 0x0, 0x1ff, .rw⟩,
   ⟨0x78, 0x4, 1, 0x0, 0x0, .ro⟩,
   ⟨0x7c, 0x4, 1, 0x0, 0x0, .ro⟩,
   ⟨0x80, 0x4, 1, 0x0, 0x0, .ro⟩,
   ⟨0x88, 0x4, 1, 0x0, 0x0, .ro⟩,
   ⟨0x8c, 0x4, 1, 0x0, 0x0, .ro⟩] ++
  [⟨0x90, 0x4, 1, 0x0, 0x0, .rc⟩,
   ⟨0x94, 0x4, 1, 0x0, 0x0, .rc⟩,
   ⟨0x98, 0x4, 1, 0x0, 0x0, .rc⟩]

namespace PORT
abbrev LINK_CTRL : Nat := 0x040
abbrev LINK_STAT : Nat := 0x044
abbrev GEOM : Nat := 0x048
abbrev MY_RANK : Nat := 0x04c
abbrev PEER : Nat := 0x050
abbrev XDIE : Nat := 0x054
abbrev RETRY_CFG : Nat := 0x058
abbrev DEGRADE_CFG : Nat := 0x05c
abbrev TX_FLITS : Nat := 0x060
abbrev TX_FLITS_HI : Nat := 0x064
abbrev RX_FLITS : Nat := 0x068
abbrev RX_FLITS_HI : Nat := 0x06c
abbrev FEC_CORR : Nat := 0x070
abbrev FEC_CORR_HI : Nat := 0x074
abbrev FEC_UNCORR_CNT : Nat := 0x078
abbrev CRC_ERR_CNT : Nat := 0x07c
abbrev REPLAY_CNT : Nat := 0x080
abbrev DEGRADE_CNT : Nat := 0x084
abbrev DISCARD_CNT : Nat := 0x088
abbrev LANE_STAT : Nat := 0x0c0
end PORT

/-- Registers of the PORT page. -/
def rowsPORT : List RegRow :=
  [⟨0x8, 0x4, 1, 0x860, 0x0, .ro⟩,
   ⟨0x10, 0x4, 1, 0x0, 0x1, .rw⟩,
   ⟨0x14, 0x4, 1, 0x1, 0x0, .ro⟩,
   ⟨0x18, 0x4, 1, 0x0, 0x1f, .w1c⟩,
   ⟨0x1c, 0x4, 1, 0x0, 0xffffffff, .rw⟩,
   ⟨0x28, 0x4, 1, 0x0, 0x1, .rw⟩,
   ⟨0x24, 0x4, 1, 0x0, 0x0, .rc⟩,
   ⟨0x40, 0x4, 1, 0x1ff, 0x1ff, .rw⟩,
   ⟨0x44, 0x4, 1, 0x0, 0x0, .ro⟩,
   ⟨0x48, 0x4, 1, 0x0, 0x3f3f, .rw⟩,
   ⟨0x4c, 0x4, 1, 0x0, 0x0, .ro⟩,
   ⟨0x50, 0x4, 1, 0x0, 0x0, .ro⟩] ++
  [⟨0x54, 0x4, 1, 0x0, 0x1, .rw⟩,
   ⟨0x58, 0x4, 1, 0x80001f4, 0xfffffff, .rw⟩,
   ⟨0x5c, 0x4, 1, 0x10, 0xffff, .rw⟩,
   ⟨0x60, 0x4, 1, 0x0, 0x0, .ro⟩,
   ⟨0x64, 0x4, 1, 0x0, 0x0, .ro⟩,
   ⟨0x68, 0x4, 1, 0x0, 0x0, .ro⟩,
   ⟨0x6c, 0x4, 1, 0x0, 0x0, .ro⟩,
   ⟨0x70, 0x4, 1, 0x0, 0x0, .ro⟩,
   ⟨0x74, 0x4, 1, 0x0, 0x0, .ro⟩,
   ⟨0x78, 0x4, 1, 0x0, 0x0, .rc⟩,
   ⟨0x7c, 0x4, 1, 0x0, 0x0, .rc⟩,
   ⟨0x80, 0x4, 1, 0x0, 0x0, .rc⟩] ++
  [⟨0x84, 0x4, 1, 0x0, 0x0, .rc⟩,
   ⟨0x88, 0x4, 1, 0x0, 0x0, .rc⟩,
   ⟨0xc0, 0x4, 8, 0x0, 0x0, .ro⟩]

namespace MIR
abbrev SUB0_CTRL : Nat := 0x040
abbrev SUB0_STAT : Nat := 0x044
abbrev SUB1_CTRL : Nat := 0x048
abbrev SUB1_STAT : Nat := 0x04c
abbrev RETRY_CFG : Nat := 0x050
abbrev DEGRADE_CFG : Nat := 0x054
abbrev TX_FLITS : Nat := 0x058
abbrev TX_FLITS_HI : Nat := 0x05c
abbrev RX_FLITS : Nat := 0x060
abbrev RX_FLITS_HI : Nat := 0x064
abbrev FEC_UNCORR_CNT : Nat := 0x068
abbrev CRC_ERR_CNT : Nat := 0x06c
abbrev REPLAY_CNT : Nat := 0x070
abbrev MGMT_DROP_CNT : Nat := 0x074
abbrev LANE_STAT : Nat := 0x0c0
end MIR

/-- Registers of the MIR page. -/
def rowsMIR : List RegRow :=
  [⟨0x8, 0x4, 1, 0x1000, 0x0, .ro⟩,
   ⟨0x10, 0x4, 1, 0x4, 0x5, .rw⟩,
   ⟨0x14, 0x4, 1, 0x1, 0x0, .ro⟩,
   ⟨0x18, 0x4, 1, 0x0, 0xf, .w1c⟩,
   ⟨0x1c, 0x4, 1, 0x0, 0xffffffff, .rw⟩,
   ⟨0x28, 0x4, 1, 0x0, 0x1, .rw⟩,
   ⟨0x24, 0x4, 1, 0x0, 0x0, .rc⟩,
   ⟨0x40, 0x4, 1, 0x1ff, 0x1ff, .rw⟩,
   ⟨0x44, 0x4, 1, 0x0, 0x0, .ro⟩,
   ⟨0x48, 0x4, 1, 0x1ff, 0x1ff, .rw⟩,
   ⟨0x4c, 0x4, 1, 0x0, 0x0, .ro⟩,
   ⟨0x50, 0x4, 1, 0x80001f4, 0xfffffff, .rw⟩] ++
  [⟨0x54, 0x4, 1, 0x10, 0xffff, .rw⟩,
   ⟨0x58, 0x4, 1, 0x0, 0x0, .ro⟩,
   ⟨0x5c, 0x4, 1, 0x0, 0x0, .ro⟩,
   ⟨0x60, 0x4, 1, 0x0, 0x0, .ro⟩,
   ⟨0x64, 0x4, 1, 0x0, 0x0, .ro⟩,
   ⟨0x68, 0x4, 1, 0x0, 0x0, .rc⟩,
   ⟨0x6c, 0x4, 1, 0x0, 0x0, .rc⟩,
   ⟨0x70, 0x4, 1, 0x0, 0x0, .rc⟩,
   ⟨0x74, 0x4, 1, 0x0, 0x0, .rc⟩,
   ⟨0xc0, 0x4, 16, 0x0, 0x0, .ro⟩]

namespace OPL
abbrev LINK_CTRL : Nat := 0x040
abbrev LINK_STAT : Nat := 0x044
abbrev RETRY_CFG : Nat := 0x048
abbrev DEGRADE_CFG : Nat := 0x04c
abbrev COH_WIN : Nat := 0x050
abbrev TXN_TMO : Nat := 0x054
abbrev SNP_TMO : Nat := 0x058
abbrev OUTSTANDING : Nat := 0x05c
abbrev TX_MSG : Nat := 0x060
abbrev TX_MSG_HI : Nat := 0x064
abbrev RX_MSG : Nat := 0x068
abbrev RX_MSG_HI : Nat := 0x06c
abbrev LC_HIT : Nat := 0x070
abbrev LC_HIT_HI : Nat := 0x074
abbrev LC_MISS : Nat := 0x078
abbrev LC_MISS_HI : Nat := 0x07c
abbrev FEC_UNCORR_CNT : Nat := 0x080
abbrev CRC_ERR_CNT : Nat := 0x084
abbrev REPLAY_CNT : Nat := 0x088
abbrev DEGRADE_CNT : Nat := 0x08c
abbrev SNP_CNT : Nat := 0x090
abbrev BACKINV_CNT : Nat := 0x094
abbrev SNP_TMO_CNT : Nat := 0x098
abbrev TXN_TMO_CNT : Nat := 0x09c
abbrev LATE_RSP_CNT : Nat := 0x0a0
abbrev ADDR_ERR_CNT : Nat := 0x0a4
abbrev PROTO_ERR_CNT : Nat := 0x0a8
abbrev POISON_CNT : Nat := 0x0ac
abbrev LC_LOST_CNT : Nat := 0x0b0
abbrev SF_OCC : Nat := 0x0b4
abbrev LANE_STAT : Nat := 0x0c0
abbrev WIN_DBASE : Nat := 0x100
abbrev WIN_CBASE_LO : Nat := 0x104
abbrev WIN_CBASE_HI : Nat := 0x108
abbrev WIN_CFG : Nat := 0x10c
end OPL

/-- Registers of the OPL page. -/
def rowsOPL : List RegRow :=
  [⟨0x8, 0x4, 1, 0x200840, 0x0, .ro⟩,
   ⟨0x10, 0x4, 1, 0x1, 0x9, .rw⟩,
   ⟨0x14, 0x4, 1, 0x9, 0x0, .ro⟩,
   ⟨0x18, 0x4, 1, 0x0, 0xff, .w1c⟩,
   ⟨0x1c, 0x4, 1, 0x0, 0xffffffff, .rw⟩,
   ⟨0x28, 0x4, 1, 0x0, 0x1, .rw⟩,
   ⟨0x24, 0x4, 1, 0x0, 0x0, .rc⟩,
   ⟨0x40, 0x4, 1, 0x1ff, 0x1ff, .rw⟩,
   ⟨0x44, 0x4, 1, 0x0, 0x0, .ro⟩,
   ⟨0x48, 0x4, 1, 0x80001f4, 0xfffffff, .rw⟩,
   ⟨0x4c, 0x4, 1, 0x10, 0xffff, .rw⟩,
   ⟨0x50, 0x4, 1, 0x0, 0x3ff01ff, .rw⟩] ++
  [⟨0x54, 0x4, 1, 0x2710, 0xffffff, .rw⟩,
   ⟨0x58, 0x4, 1, 0x186a0, 0xffffff, .rw⟩,
   ⟨0x5c, 0x4, 1, 0x0, 0x0, .ro⟩,
   ⟨0x60, 0x4, 1, 0x0, 0x0, .ro⟩,
   ⟨0x64, 0x4, 1, 0x0, 0x0, .ro⟩,
   ⟨0x68, 0x4, 1, 0x0, 0x0, .ro⟩,
   ⟨0x6c, 0x4, 1, 0x0, 0x0, .ro⟩,
   ⟨0x70, 0x4, 1, 0x0, 0x0, .ro⟩,
   ⟨0x74, 0x4, 1, 0x0, 0x0, .ro⟩,
   ⟨0x78, 0x4, 1, 0x0, 0x0, .ro⟩,
   ⟨0x7c, 0x4, 1, 0x0, 0x0, .ro⟩,
   ⟨0x80, 0x4, 1, 0x0, 0x0, .rc⟩] ++
  [⟨0x84, 0x4, 1, 0x0, 0x0, .rc⟩,
   ⟨0x88, 0x4, 1, 0x0, 0x0, .rc⟩,
   ⟨0x8c, 0x4, 1, 0x0, 0x0, .rc⟩,
   ⟨0x90, 0x4, 1, 0x0, 0x0, .rc⟩,
   ⟨0x94, 0x4, 1, 0x0, 0x0, .rc⟩,
   ⟨0x98, 0x4, 1, 0x0, 0x0, .rc⟩,
   ⟨0x9c, 0x4, 1, 0x0, 0x0, .rc⟩,
   ⟨0xa0, 0x4, 1, 0x0, 0x0, .rc⟩,
   ⟨0xa4, 0x4, 1, 0x0, 0x0, .rc⟩,
   ⟨0xa8, 0x4, 1, 0x0, 0x0, .rc⟩,
   ⟨0xac, 0x4, 1, 0x0, 0x0, .rc⟩,
   ⟨0xb0, 0x4, 1, 0x0, 0x0, .rc⟩] ++
  [⟨0xb4, 0x4, 1, 0x0, 0x0, .ro⟩,
   ⟨0xc0, 0x4, 8, 0x0, 0x0, .ro⟩,
   ⟨0x100, 0x10, 16, 0x0, 0xffffffff, .rw⟩,
   ⟨0x104, 0x10, 16, 0x0, 0xffff0000, .rw⟩,
   ⟨0x108, 0x10, 16, 0x0, 0xfffff, .rw⟩,
   ⟨0x10c, 0x10, 16, 0x0, 0x8000013f, .rw⟩]

namespace RED
abbrev CQ_BASE_LO : Nat := 0x040
abbrev CQ_BASE_HI : Nat := 0x044
abbrev CQ_SIZE : Nat := 0x048
abbrev CQ_HEAD : Nat := 0x04c
abbrev CQ_TAIL : Nat := 0x050
abbrev DONE_CNT : Nat := 0x054
abbrev LAST : Nat := 0x058
abbrev NEXT_SEQ : Nat := 0x05c
abbrev DEADLINE : Nat := 0x060
abbrev LEVEL_SLACK : Nat := 0x064
abbrev RESULT_TMO : Nat := 0x068
abbrev GATE_POLL : Nat := 0x06c
abbrev SEED0 : Nat := 0x070
abbrev SEED1 : Nat := 0x074
abbrev SEED2 : Nat := 0x078
abbrev SEED3 : Nat := 0x07c
abbrev KEY_CHK : Nat := 0x080
abbrev LATE_CNT : Nat := 0x084
abbrev LATE_DROP_CNT : Nat := 0x088
abbrev QUAR_CNT : Nat := 0x08c
abbrev ESC_CNT : Nat := 0x090
abbrev SAT_CNT : Nat := 0x094
abbrev MISMATCH_CNT : Nat := 0x098
abbrev ORPHAN_CNT : Nat := 0x09c
abbrev DESC_ERR_CNT : Nat := 0x0a0
abbrev BLOCKS : Nat := 0x0a8
abbrev BLOCKS_HI : Nat := 0x0ac
abbrev INFLIGHT : Nat := 0x0b0
abbrev OLDEST_SEQ : Nat := 0x0b4
end RED

/-- Registers of the RED page. -/
def rowsRED : List RegRow :=
  [⟨0x8, 0x4, 1, 0x3f0407, 0x0, .ro⟩,
   ⟨0x10, 0x4, 1, 0x0, 0x3, .rw⟩,
   ⟨0x14, 0x4, 1, 0x7, 0x0, .ro⟩,
   ⟨0x18, 0x4, 1, 0x0, 0x7f, .w1c⟩,
   ⟨0x1c, 0x4, 1, 0x0, 0xffffffff, .rw⟩,
   ⟨0x28, 0x4, 1, 0x0, 0x1, .rw⟩,
   ⟨0x24, 0x4, 1, 0x0, 0x0, .rc⟩,
   ⟨0x40, 0x4, 1, 0x0, 0xffffff80, .rw⟩,
   ⟨0x44, 0x4, 1, 0x0, 0xffff, .rw⟩,
   ⟨0x48, 0x4, 1, 0x4, 0x1f, .rw⟩,
   ⟨0x4c, 0x4, 1, 0x0, 0x0, .ro⟩,
   ⟨0x50, 0x4, 1, 0x0, 0xffff, .rw⟩] ++
  [⟨0x54, 0x4, 1, 0x0, 0x0, .ro⟩,
   ⟨0x58, 0x4, 1, 0x0, 0x0, .ro⟩,
   ⟨0x5c, 0x4, 1, 0x0, 0x0, .ro⟩,
   ⟨0x60, 0x4, 1, 0x7d0, 0xffffff, .rw⟩,
   ⟨0x64, 0x4, 1, 0x1f4, 0xffffff, .rw⟩,
   ⟨0x68, 0x4, 1, 0x186a0, 0xffffff, .rw⟩,
   ⟨0x6c, 0x4, 1, 0x32, 0xffff, .rw⟩,
   ⟨0x70, 0x4, 1, 0x0, 0xffffffff, .rw⟩,
   ⟨0x74, 0x4, 1, 0x0, 0xffffffff, .rw⟩,
   ⟨0x78, 0x4, 1, 0x0, 0xffffffff, .rw⟩,
   ⟨0x7c, 0x4, 1, 0x0, 0xffffffff, .rw⟩,
   ⟨0x80, 0x4, 1, 0x0, 0x0, .ro⟩] ++
  [⟨0x84, 0x4, 1, 0x0, 0x0, .rc⟩,
   ⟨0x88, 0x4, 1, 0x0, 0x0, .rc⟩,
   ⟨0x8c, 0x4, 1, 0x0, 0x0, .rc⟩,
   ⟨0x90, 0x4, 1, 0x0, 0x0, .rc⟩,
   ⟨0x94, 0x4, 1, 0x0, 0x0, .rc⟩,
   ⟨0x98, 0x4, 1, 0x0, 0x0, .rc⟩,
   ⟨0x9c, 0x4, 1, 0x0, 0x0, .rc⟩,
   ⟨0xa0, 0x4, 1, 0x0, 0x0, .rc⟩,
   ⟨0xa8, 0x4, 1, 0x0, 0x0, .ro⟩,
   ⟨0xac, 0x4, 1, 0x0, 0x0, .ro⟩,
   ⟨0xb0, 0x4, 1, 0x0, 0x0, .ro⟩,
   ⟨0xb4, 0x4, 1, 0x0, 0x0, .ro⟩]

namespace CALV
abbrev CHUNK_CFG : Nat := 0x040
abbrev FENCE_TMO : Nat := 0x044
abbrev COPY_TMO : Nat := 0x048
abbrev DECIDE_TMO : Nat := 0x04c
abbrev CHECK_CFG : Nat := 0x050
abbrev ACTIVE : Nat := 0x054
abbrev ACTIVE_SEQ : Nat := 0x058
abbrev LAST_DECISION : Nat := 0x05c
abbrev LAST_DEC_SEQ : Nat := 0x060
abbrev RESOLVE : Nat := 0x064
abbrev BYTES_OUT : Nat := 0x068
abbrev BYTES_OUT_HI : Nat := 0x06c
abbrev BYTES_IN : Nat := 0x070
abbrev BYTES_IN_HI : Nat := 0x074
abbrev COMMIT_CNT : Nat := 0x078
abbrev ABORT_CNT : Nat := 0x07c
abbrev FENCE_WAIT_CNT : Nat := 0x080
abbrev FENCE_HOLD_CNT : Nat := 0x084
abbrev STALE_CNT : Nat := 0x088
abbrev MISSING_CNT : Nat := 0x08c
abbrev INDOUBT_CNT : Nat := 0x090
abbrev DESC_ERR_CNT : Nat := 0x094
end CALV

/-- Registers of the CALV page. -/
def rowsCALV : List RegRow :=
  [⟨0x8, 0x4, 1, 0x100f, 0x0, .ro⟩,
   ⟨0x10, 0x4, 1, 0x1, 0x1, .rw⟩,
   ⟨0x14, 0x4, 1, 0x1, 0x0, .ro⟩,
   ⟨0x18, 0x4, 1, 0x0, 0x3f, .w1c⟩,
   ⟨0x1c, 0x4, 1, 0x0, 0xffffffff, .rw⟩,
   ⟨0x24, 0x4, 1, 0x0, 0x0, .rc⟩,
   ⟨0x40, 0x4, 1, 0x10, 0x1f, .rw⟩,
   ⟨0x44, 0x4, 1, 0xc350, 0xffffff, .rw⟩,
   ⟨0x48, 0x4, 1, 0xf4240, 0xffffff, .rw⟩,
   ⟨0x4c, 0x4, 1, 0x186a0, 0xffffff, .rw⟩,
   ⟨0x50, 0x4, 1, 0x0, 0x103, .rw⟩,
   ⟨0x54, 0x4, 1, 0x0, 0x0, .ro⟩] ++
  [⟨0x58, 0x4, 1, 0x0, 0x0, .ro⟩,
   ⟨0x5c, 0x4, 1, 0x0, 0x0, .ro⟩,
   ⟨0x60, 0x4, 1, 0x0, 0x0, .ro⟩,
   ⟨0x64, 0x4, 1, 0x0, 0x0, .wo⟩,
   ⟨0x68, 0x4, 1, 0x0, 0x0, .ro⟩,
   ⟨0x6c, 0x4, 1, 0x0, 0x0, .ro⟩,
   ⟨0x70, 0x4, 1, 0x0, 0x0, .ro⟩,
   ⟨0x74, 0x4, 1, 0x0, 0x0, .ro⟩,
   ⟨0x78, 0x4, 1, 0x0, 0x0, .rc⟩,
   ⟨0x7c, 0x4, 1, 0x0, 0x0, .rc⟩,
   ⟨0x80, 0x4, 1, 0x0, 0x0, .rc⟩,
   ⟨0x84, 0x4, 1, 0x0, 0x0, .rc⟩] ++
  [⟨0x88, 0x4, 1, 0x0, 0x0, .rc⟩,
   ⟨0x8c, 0x4, 1, 0x0, 0x0, .rc⟩,
   ⟨0x90, 0x4, 1, 0x0, 0x0, .rc⟩,
   ⟨0x94, 0x4, 1, 0x0, 0x0, .rc⟩]

namespace XCH
abbrev CQ_BASE_LO : Nat := 0x040
abbrev CQ_BASE_HI : Nat := 0x044
abbrev CQ_SIZE : Nat := 0x048
abbrev CQ_HEAD : Nat := 0x04c
abbrev CQ_TAIL : Nat := 0x050
abbrev DONE_CNT : Nat := 0x054
abbrev LAST : Nat := 0x058
abbrev TBL_BASE_LO : Nat := 0x060
abbrev TBL_BASE_HI : Nat := 0x064
abbrev DEADLINE : Nat := 0x068
abbrev APPLY_WAIT : Nat := 0x06c
abbrev LEDGER_BASE_LO : Nat := 0x070
abbrev LEDGER_BASE_HI : Nat := 0x074
abbrev LEDGER_LOG : Nat := 0x078
abbrev STAGE_BASE_LO : Nat := 0x07c
abbrev STAGE_BASE_HI : Nat := 0x080
abbrev STAGE_LEN : Nat := 0x084
abbrev INBOX_BASE_LO : Nat := 0x088
abbrev INBOX_BASE_HI : Nat := 0x08c
abbrev INBOX_LEN : Nat := 0x090
abbrev ROWS : Nat := 0x098
abbrev ROWS_HI : Nat := 0x09c
abbrev PART_FAIL_CNT : Nat := 0x0a0
abbrev STALE_CNT : Nat := 0x0a4
abbrev RETRY_CNT : Nat := 0x0a8
abbrev DUP_IGNORED_CNT : Nat := 0x0ac
abbrev LATE_APPLY_CNT : Nat := 0x0b0
abbrev LEDGER_FULL_CNT : Nat := 0x0b4
abbrev POISON_CNT : Nat := 0x0b8
abbrev EMPTY_BAG_CNT : Nat := 0x0bc
abbrev DESC_ERR_CNT : Nat := 0x0c0
abbrev HOT_HIT_CNT : Nat := 0x0c4
abbrev NF_ROW_CNT : Nat := 0x0c8
abbrev CUR_VER : Nat := 0x400
abbrev SLOT : Nat := 0x800
end XCH

/-- Registers of the XCH page. -/
def rowsXCH : List RegRow :=
  [⟨0x8, 0x4, 1, 0x8f, 0x0, .ro⟩,
   ⟨0x10, 0x4, 1, 0x2, 0x3, .rw⟩,
   ⟨0x14, 0x4, 1, 0x3, 0x0, .ro⟩,
   ⟨0x18, 0x4, 1, 0x0, 0x3f, .w1c⟩,
   ⟨0x1c, 0x4, 1, 0x0, 0xffffffff, .rw⟩,
   ⟨0x28, 0x4, 1, 0x0, 0x1, .rw⟩,
   ⟨0x24, 0x4, 1, 0x0, 0x0, .rc⟩,
   ⟨0x40, 0x4, 1, 0x0, 0xffffff80, .rw⟩,
   ⟨0x44, 0x4, 1, 0x0, 0xffff, .rw⟩,
   ⟨0x48, 0x4, 1, 0x4, 0x1f, .rw⟩,
   ⟨0x4c, 0x4, 1, 0x0, 0x0, .ro⟩,
   ⟨0x50, 0x4, 1, 0x0, 0xffff, .rw⟩] ++
  [⟨0x54, 0x4, 1, 0x0, 0x0, .ro⟩,
   ⟨0x58, 0x4, 1, 0x0, 0x0, .ro⟩,
   ⟨0x60, 0x4, 1, 0x0, 0xffffff80, .rw⟩,
   ⟨0x64, 0x4, 1, 0x0, 0xffff, .rw⟩,
   ⟨0x68, 0x4, 1, 0x2002710, 0x7ffffff, .rw⟩,
   ⟨0x6c, 0x4, 1, 0x186a0, 0xffffff, .rw⟩,
   ⟨0x70, 0x4, 1, 0x0, 0xffffffc0, .rw⟩,
   ⟨0x74, 0x4, 1, 0x0, 0xffff, .rw⟩,
   ⟨0x78, 0x4, 1, 0x10, 0x1f, .rw⟩,
   ⟨0x7c, 0x4, 1, 0x0, 0xffff0000, .rw⟩,
   ⟨0x80, 0x4, 1, 0x0, 0xffff, .rw⟩,
   ⟨0x84, 0x4, 1, 0x10, 0xffff, .rw⟩] ++
  [⟨0x88, 0x4, 1, 0x0, 0xffff0000, .rw⟩,
   ⟨0x8c, 0x4, 1, 0x0, 0xffff, .rw⟩,
   ⟨0x90, 0x4, 1, 0x100, 0xffff, .rw⟩,
   ⟨0x98, 0x4, 1, 0x0, 0x0, .ro⟩,
   ⟨0x9c, 0x4, 1, 0x0, 0x0, .ro⟩,
   ⟨0xa0, 0x4, 1, 0x0, 0x0, .rc⟩,
   ⟨0xa4, 0x4, 1, 0x0, 0x0, .rc⟩,
   ⟨0xa8, 0x4, 1, 0x0, 0x0, .rc⟩,
   ⟨0xac, 0x4, 1, 0x0, 0x0, .rc⟩,
   ⟨0xb0, 0x4, 1, 0x0, 0x0, .rc⟩,
   ⟨0xb4, 0x4, 1, 0x0, 0x0, .rc⟩,
   ⟨0xb8, 0x4, 1, 0x0, 0x0, .rc⟩] ++
  [⟨0xbc, 0x4, 1, 0x0, 0x0, .rc⟩,
   ⟨0xc0, 0x4, 1, 0x0, 0x0, .rc⟩,
   ⟨0xc4, 0x4, 1, 0x0, 0x0, .rc⟩,
   ⟨0xc8, 0x4, 1, 0x0, 0x0, .rc⟩,
   ⟨0x400, 0x4, 256, 0x0, 0xffff, .rw⟩,
   ⟨0x800, 0x4, 512, 0x0, 0x8000ffff, .rw⟩]

namespace SMP
abbrev SEED0 : Nat := 0x040
abbrev SEED1 : Nat := 0x044
abbrev SEED2 : Nat := 0x048
abbrev SEED3 : Nat := 0x04c
abbrev KEY_CHK : Nat := 0x050
abbrev ACTIVE : Nat := 0x054
abbrev WALKS_DONE : Nat := 0x058
abbrev LAST : Nat := 0x05c
abbrev DRAWS : Nat := 0x060
abbrev DRAWS_HI : Nat := 0x064
abbrev EDGES : Nat := 0x068
abbrev EDGES_HI : Nat := 0x06c
abbrev RESERVOIR_CNT : Nat := 0x070
abbrev REMOTE_OUT_CNT : Nat := 0x074
abbrev REMOTE_SRV_CNT : Nat := 0x078
abbrev FAILED_CNT : Nat := 0x07c
abbrev CAP_STOP_CNT : Nat := 0x080
abbrev STRUCT_ERR_CNT : Nat := 0x084
abbrev POISON_CNT : Nat := 0x088
abbrev DESC_ERR_CNT : Nat := 0x08c
abbrev DUP_SEED_CNT : Nat := 0x090
end SMP

/-- Registers of the SMP page. -/
def rowsSMP : List RegRow :=
  [⟨0x8, 0x4, 1, 0x1000f84, 0x0, .ro⟩,
   ⟨0x10, 0x4, 1, 0x2, 0x3, .rw⟩,
   ⟨0x14, 0x4, 1, 0x9, 0x0, .ro⟩,
   ⟨0x18, 0x4, 1, 0x0, 0x3f, .w1c⟩,
   ⟨0x1c, 0x4, 1, 0x0, 0xffffffff, .rw⟩,
   ⟨0x28, 0x4, 1, 0x0, 0x1, .rw⟩,
   ⟨0x24, 0x4, 1, 0x0, 0x0, .rc⟩,
   ⟨0x40, 0x4, 1, 0x0, 0xffffffff, .rw⟩,
   ⟨0x44, 0x4, 1, 0x0, 0xffffffff, .rw⟩,
   ⟨0x48, 0x4, 1, 0x0, 0xffffffff, .rw⟩,
   ⟨0x4c, 0x4, 1, 0x0, 0xffffffff, .rw⟩,
   ⟨0x50, 0x4, 1, 0x0, 0x0, .ro⟩] ++
  [⟨0x54, 0x4, 1, 0x0, 0x0, .ro⟩,
   ⟨0x58, 0x4, 1, 0x0, 0x0, .ro⟩,
   ⟨0x5c, 0x4, 1, 0x0, 0x0, .ro⟩,
   ⟨0x60, 0x4, 1, 0x0, 0x0, .ro⟩,
   ⟨0x64, 0x4, 1, 0x0, 0x0, .ro⟩,
   ⟨0x68, 0x4, 1, 0x0, 0x0, .ro⟩,
   ⟨0x6c, 0x4, 1, 0x0, 0x0, .ro⟩,
   ⟨0x70, 0x4, 1, 0x0, 0x0, .rc⟩,
   ⟨0x74, 0x4, 1, 0x0, 0x0, .rc⟩,
   ⟨0x78, 0x4, 1, 0x0, 0x0, .rc⟩,
   ⟨0x7c, 0x4, 1, 0x0, 0x0, .rc⟩,
   ⟨0x80, 0x4, 1, 0x0, 0x0, .rc⟩] ++
  [⟨0x84, 0x4, 1, 0x0, 0x0, .rc⟩,
   ⟨0x88, 0x4, 1, 0x0, 0x0, .rc⟩,
   ⟨0x8c, 0x4, 1, 0x0, 0x0, .rc⟩,
   ⟨0x90, 0x4, 1, 0x0, 0x0, .rc⟩]

namespace PRN
abbrev CQ_BASE_LO : Nat := 0x040
abbrev CQ_BASE_HI : Nat := 0x044
abbrev CQ_SIZE : Nat := 0x048
abbrev CQ_HEAD : Nat := 0x04c
abbrev CQ_TAIL : Nat := 0x050
abbrev DONE_CNT : Nat := 0x054
abbrev LAST : Nat := 0x058
abbrev S24_CNT : Nat := 0x05c
abbrev FALLBACK_CNT : Nat := 0x060
abbrev BITMAP_CNT : Nat := 0x064
abbrev MERGE_REC : Nat := 0x068
abbrev MERGE_REC_HI : Nat := 0x06c
abbrev MISS_CNT : Nat := 0x070
abbrev HUB_ROWS_CNT : Nat := 0x074
abbrev SEG_CNT : Nat := 0x078
abbrev ORDER_ERR_CNT : Nat := 0x07c
abbrev POISON_CNT : Nat := 0x080
abbrev DESC_ERR_CNT : Nat := 0x084
end PRN

/-- Registers of the PRN page. -/
def rowsPRN : List RegRow :=
  [⟨0x8, 0x4, 1, 0x3f, 0x0, .ro⟩,
   ⟨0x10, 0x4, 1, 0x0, 0x1, .rw⟩,
   ⟨0x14, 0x4, 1, 0x3, 0x0, .ro⟩,
   ⟨0x18, 0x4, 1, 0x0, 0x1f, .w1c⟩,
   ⟨0x1c, 0x4, 1, 0x0, 0xffffffff, .rw⟩,
   ⟨0x28, 0x4, 1, 0x0, 0x1, .rw⟩,
   ⟨0x24, 0x4, 1, 0x0, 0x0, .rc⟩,
   ⟨0x40, 0x4, 1, 0x0, 0xffffff80, .rw⟩,
   ⟨0x44, 0x4, 1, 0x0, 0xffff, .rw⟩,
   ⟨0x48, 0x4, 1, 0x4, 0x1f, .rw⟩,
   ⟨0x4c, 0x4, 1, 0x0, 0x0, .ro⟩,
   ⟨0x50, 0x4, 1, 0x0, 0xffff, .rw⟩] ++
  [⟨0x54, 0x4, 1, 0x0, 0x0, .ro⟩,
   ⟨0x58, 0x4, 1, 0x0, 0x0, .ro⟩,
   ⟨0x5c, 0x4, 1, 0x0, 0x0, .rc⟩,
   ⟨0x60, 0x4, 1, 0x0, 0x0, .rc⟩,
   ⟨0x64, 0x4, 1, 0x0, 0x0, .rc⟩,
   ⟨0x68, 0x4, 1, 0x0, 0x0, .ro⟩,
   ⟨0x6c, 0x4, 1, 0x0, 0x0, .ro⟩,
   ⟨0x70, 0x4, 1, 0x0, 0x0, .rc⟩,
   ⟨0x74, 0x4, 1, 0x0, 0x0, .rc⟩,
   ⟨0x78, 0x4, 1, 0x0, 0x0, .rc⟩,
   ⟨0x7c, 0x4, 1, 0x0, 0x0, .rc⟩,
   ⟨0x80, 0x4, 1, 0x0, 0x0, .rc⟩] ++
  [⟨0x84, 0x4, 1, 0x0, 0x0, .rc⟩]

namespace OPT
abbrev CQ_BASE_LO : Nat := 0x040
abbrev CQ_BASE_HI : Nat := 0x044
abbrev CQ_SIZE : Nat := 0x048
abbrev CQ_HEAD : Nat := 0x04c
abbrev CQ_TAIL : Nat := 0x050
abbrev DONE_CNT : Nat := 0x054
abbrev LAST : Nat := 0x058
abbrev SKIP_CNT : Nat := 0x05c
abbrev NF_CNT : Nat := 0x060
abbrev POISON_CNT : Nat := 0x064
abbrev SATBLK_CNT : Nat := 0x068
abbrev ESC_CNT : Nat := 0x06c
abbrev ELEM : Nat := 0x070
abbrev ELEM_HI : Nat := 0x074
abbrev DESC_ERR_CNT : Nat := 0x078
abbrev SEED0 : Nat := 0x080
abbrev SEED1 : Nat := 0x084
abbrev SEED2 : Nat := 0x088
abbrev SEED3 : Nat := 0x08c
abbrev KEY_CHK : Nat := 0x090
end OPT

/-- Registers of the OPT page. -/
def rowsOPT : List RegRow :=
  [⟨0x8, 0x4, 1, 0x31f, 0x0, .ro⟩,
   ⟨0x10, 0x4, 1, 0x8, 0xb, .rw⟩,
   ⟨0x14, 0x4, 1, 0xb, 0x0, .ro⟩,
   ⟨0x18, 0x4, 1, 0x0, 0x1f, .w1c⟩,
   ⟨0x1c, 0x4, 1, 0x0, 0xffffffff, .rw⟩,
   ⟨0x28, 0x4, 1, 0x0, 0x1, .rw⟩,
   ⟨0x24, 0x4, 1, 0x0, 0x0, .rc⟩,
   ⟨0x40, 0x4, 1, 0x0, 0xffffff80, .rw⟩,
   ⟨0x44, 0x4, 1, 0x0, 0xffff, .rw⟩,
   ⟨0x48, 0x4, 1, 0x4, 0x1f, .rw⟩,
   ⟨0x4c, 0x4, 1, 0x0, 0x0, .ro⟩,
   ⟨0x50, 0x4, 1, 0x0, 0xffff, .rw⟩] ++
  [⟨0x54, 0x4, 1, 0x0, 0x0, .ro⟩,
   ⟨0x58, 0x4, 1, 0x0, 0x0, .ro⟩,
   ⟨0x5c, 0x4, 1, 0x0, 0x0, .rc⟩,
   ⟨0x60, 0x4, 1, 0x0, 0x0, .rc⟩,
   ⟨0x64, 0x4, 1, 0x0, 0x0, .rc⟩,
   ⟨0x68, 0x4, 1, 0x0, 0x0, .rc⟩,
   ⟨0x6c, 0x4, 1, 0x0, 0x0, .rc⟩,
   ⟨0x70, 0x4, 1, 0x0, 0x0, .ro⟩,
   ⟨0x74, 0x4, 1, 0x0, 0x0, .ro⟩,
   ⟨0x78, 0x4, 1, 0x0, 0x0, .rc⟩,
   ⟨0x80, 0x4, 1, 0x0, 0xffffffff, .rw⟩,
   ⟨0x84, 0x4, 1, 0x0, 0xffffffff, .rw⟩] ++
  [⟨0x88, 0x4, 1, 0x0, 0xffffffff, .rw⟩,
   ⟨0x8c, 0x4, 1, 0x0, 0xffffffff, .rw⟩,
   ⟨0x90, 0x4, 1, 0x0, 0x0, .ro⟩]

namespace FIRN
abbrev CMDA_ADDR_LO : Nat := 0x040
abbrev CMDA_ADDR_HI : Nat := 0x044
abbrev CMDA : Nat := 0x048
abbrev CMDK_ADDR_LO : Nat := 0x04c
abbrev CMDK_ADDR_HI : Nat := 0x050
abbrev CMDK : Nat := 0x054
abbrev WORK_BASE_LO : Nat := 0x058
abbrev WORK_BASE_HI : Nat := 0x05c
abbrev WORK_LEN : Nat := 0x060
abbrev MSTORE_BASE_LO : Nat := 0x064
abbrev MSTORE_BASE_HI : Nat := 0x068
abbrev MSTORE_LEN : Nat := 0x06c
abbrev MSTORE_USED : Nat := 0x070
abbrev EPOCH_CUR : Nat := 0x078
abbrev EPOCH_CUR_HI : Nat := 0x07c
abbrev EPOCH_SEALED : Nat := 0x080
abbrev EPOCH_SEALED_HI : Nat := 0x084
abbrev KEEP_SEALED : Nat := 0x088
abbrev KEEP_SEALED_HI : Nat := 0x08c
abbrev CUT_TIME : Nat := 0x090
abbrev CUT_TIME_HI : Nat := 0x094
abbrev SEAL_DUR : Nat := 0x098
abbrev PENDING : Nat := 0x09c
abbrev RESIDUE : Nat := 0x0a0
abbrev MIRROR_TMO : Nat := 0x0a4
abbrev GATE_POLL : Nat := 0x0a8
abbrev RATE_LIMIT : Nat := 0x0ac
abbrev PSET_GRAN : Nat := 0x0b0
abbrev SEAL_FAIL_CNT : Nat := 0x0b4
abbrev SENT_GRAN : Nat := 0x0c0
abbrev SENT_GRAN_HI : Nat := 0x0c4
abbrev SENT_BYTES : Nat := 0x0c8
abbrev SENT_BYTES_HI : Nat := 0x0cc
abbrev RECV_BYTES : Nat := 0x0d0
abbrev RECV_BYTES_HI : Nat := 0x0d4
abbrev HOLD_CNT : Nat := 0x0d8
abbrev RESEND_CNT : Nat := 0x0dc
abbrev ZERO_CNT : Nat := 0x0e0
abbrev RAW_CNT : Nat := 0x0e4
abbrev CHECK_ERR_CNT : Nat := 0x0e8
abbrev POISON_CNT : Nat := 0x0ec
abbrev FOLD_BACKLOG : Nat := 0x0f0
end FIRN

/-- Registers of the FIRN page. -/
def rowsFIRN : List RegRow :=
  [⟨0x8, 0x4, 1, 0xff80, 0x0, .ro⟩,
   ⟨0x10, 0x4, 1, 0xc, 0xd, .rw⟩,
   ⟨0x14, 0x4, 1, 0x1, 0x0, .ro⟩,
   ⟨0x18, 0x4, 1, 0x0, 0xff, .w1c⟩,
   ⟨0x1c, 0x4, 1, 0x0, 0xffffffff, .rw⟩,
   ⟨0x28, 0x4, 1, 0x0, 0x1, .rw⟩,
   ⟨0x24, 0x4, 1, 0x0, 0x0, .rc⟩,
   ⟨0x40, 0x4, 1, 0x0, 0xffffff00, .rw⟩,
   ⟨0x44, 0x4, 1, 0x0, 0xffff, .rw⟩,
   ⟨0x48, 0x4, 1, 0x0, 0x0, .rw⟩,
   ⟨0x4c, 0x4, 1, 0x0, 0xffffff00, .rw⟩,
   ⟨0x50, 0x4, 1, 0x0, 0xffff, .rw⟩] ++
  [⟨0x54, 0x4, 1, 0x0, 0x0, .rw⟩,
   ⟨0x58, 0x4, 1, 0x0, 0xffff0000, .rw⟩,
   ⟨0x5c, 0x4, 1, 0x0, 0xffff, .rw⟩,
   ⟨0x60, 0x4, 1, 0x0, 0xffffff, .rw⟩,
   ⟨0x64, 0x4, 1, 0x0, 0xffff0000, .rw⟩,
   ⟨0x68, 0x4, 1, 0x0, 0xffff, .rw⟩,
   ⟨0x6c, 0x4, 1, 0x0, 0xffffff, .rw⟩,
   ⟨0x70, 0x4, 1, 0x0, 0x0, .ro⟩,
   ⟨0x78, 0x4, 1, 0x1, 0x0, .ro⟩,
   ⟨0x7c, 0x4, 1, 0x0, 0x0, .ro⟩,
   ⟨0x80, 0x4, 1, 0x0, 0x0, .ro⟩,
   ⟨0x84, 0x4, 1, 0x0, 0x0, .ro⟩] ++
  [⟨0x88, 0x4, 1, 0x0, 0x0, .ro⟩,
   ⟨0x8c, 0x4, 1, 0x0, 0x0, .ro⟩,
   ⟨0x90, 0x4, 1, 0x0, 0x0, .ro⟩,
   ⟨0x94, 0x4, 1, 0x0, 0x0, .ro⟩,
   ⟨0x98, 0x4, 1, 0x0, 0x0, .ro⟩,
   ⟨0x9c, 0x4, 1, 0x0, 0x0, .ro⟩,
   ⟨0xa0, 0x4, 1, 0x0, 0x0, .ro⟩,
   ⟨0xa4, 0x4, 1, 0xf4240, 0xffffff, .rw⟩,
   ⟨0xa8, 0x4, 1, 0x32, 0xffff, .rw⟩,
   ⟨0xac, 0x4, 1, 0x0, 0xffff, .rw⟩,
   ⟨0xb0, 0x4, 1, 0x0, 0x0, .ro⟩,
   ⟨0xb4, 0x4, 1, 0x0, 0x0, .rc⟩] ++
  [⟨0xc0, 0x4, 1, 0x0, 0x0, .ro⟩,
   ⟨0xc4, 0x4, 1, 0x0, 0x0, .ro⟩,
   ⟨0xc8, 0x4, 1, 0x0, 0x0, .ro⟩,
   ⟨0xcc, 0x4, 1, 0x0, 0x0, .ro⟩,
   ⟨0xd0, 0x4, 1, 0x0, 0x0, .ro⟩,
   ⟨0xd4, 0x4, 1, 0x0, 0x0, .ro⟩,
   ⟨0xd8, 0x4, 1, 0x0, 0x0, .rc⟩,
   ⟨0xdc, 0x4, 1, 0x0, 0x0, .rc⟩,
   ⟨0xe0, 0x4, 1, 0x0, 0x0, .rc⟩,
   ⟨0xe4, 0x4, 1, 0x0, 0x0, .rc⟩,
   ⟨0xe8, 0x4, 1, 0x0, 0x0, .rc⟩,
   ⟨0xec, 0x4, 1, 0x0, 0x0, .rc⟩] ++
  [⟨0xf0, 0x4, 1, 0x0, 0x0, .ro⟩]

namespace SHD
abbrev SAMPLE : Nat := 0x040
abbrev STREAM : Nat := 0x044
abbrev FLOOR : Nat := 0x048
abbrev THRESH : Nat := 0x04c
abbrev HIST_SEL : Nat := 0x050
abbrev TRIP_LAYER : Nat := 0x054
abbrev SAMPLES : Nat := 0x058
abbrev SAMPLES_HI : Nat := 0x05c
abbrev SKIP_CNT : Nat := 0x060
abbrev HIST_BIN : Nat := 0x080
end SHD

/-- Registers of the SHD page. -/
def rowsSHD : List RegRow :=
  [⟨0x8, 0x4, 1, 0xff8f, 0x0, .ro⟩,
   ⟨0x10, 0x4, 1, 0x0, 0x1, .rw⟩,
   ⟨0x14, 0x4, 1, 0x1, 0x0, .ro⟩,
   ⟨0x18, 0x4, 1, 0x0, 0x3, .w1c⟩,
   ⟨0x1c, 0x4, 1, 0x0, 0xffffffff, .rw⟩,
   ⟨0x24, 0x4, 1, 0x0, 0x0, .rc⟩,
   ⟨0x40, 0x4, 1, 0xc, 0x1f, .rw⟩,
   ⟨0x44, 0x4, 1, 0x0, 0xffffffff, .rw⟩,
   ⟨0x48, 0x4, 1, 0xec, 0xff, .rw⟩,
   ⟨0x4c, 0x4, 1, 0xc0010, 0xfffff, .rw⟩,
   ⟨0x50, 0x4, 1, 0x0, 0xff, .rw⟩,
   ⟨0x54, 0x4, 1, 0x0, 0x0, .ro⟩] ++
  [⟨0x58, 0x4, 1, 0x0, 0x0, .ro⟩,
   ⟨0x5c, 0x4, 1, 0x0, 0x0, .ro⟩,
   ⟨0x60, 0x4, 1, 0x0, 0x0, .rc⟩,
   ⟨0x80, 0x4, 16, 0x0, 0x0, .ro⟩]

namespace ARB
abbrev WAIT_LIMIT : Nat := 0x040
abbrev FORCED_CNT : Nat := 0x080
abbrev MASK : Nat := 0x0c0
abbrev PENDING : Nat := 0x0c4
abbrev GRANTS : Nat := 0x0c8
abbrev GRANTS_HI : Nat := 0x0cc
end ARB

/-- Registers of the ARB page. -/
def rowsARB : List RegRow :=
  [⟨0x8, 0x4, 1, 0x0, 0x0, .ro⟩,
   ⟨0x10, 0x4, 1, 0x0, 0x0, .rw⟩,
   ⟨0x14, 0x4, 1, 0x1, 0x0, .ro⟩,
   ⟨0x18, 0x4, 1, 0x0, 0x1, .w1c⟩,
   ⟨0x1c, 0x4, 1, 0x0, 0xffffffff, .rw⟩,
   ⟨0x28, 0x4, 1, 0x0, 0x1, .rw⟩,
   ⟨0x24, 0x4, 1, 0x0, 0x0, .rc⟩,
   ⟨0x40, 0x4, 16, 0x10, 0xff, .rw⟩,
   ⟨0x80, 0x4, 16, 0x0, 0x0, .rc⟩,
   ⟨0xc0, 0x4, 1, 0x0, 0x0, .ro⟩,
   ⟨0xc4, 0x4, 1, 0x0, 0x0, .ro⟩,
   ⟨0xc8, 0x4, 1, 0x0, 0x0, .ro⟩] ++
  [⟨0xcc, 0x4, 1, 0x0, 0x0, .ro⟩]

/-- The register table of a class. -/
def pageRows (cls : Nat) : List RegRow :=
  match cls with
  | 0x0 => rowsSYS
  | 0x1 => rowsOWN
  | 0x2 => rowsPWR
  | 0x3 => rowsTIM
  | 0x4 => rowsAGE
  | 0x5 => rowsSEC
  | 0x6 => rowsERR
  | 0x10 => rowsTILE
  | 0x11 => rowsVEC
  | 0x12 => rowsDSP
  | 0x13 => rowsCTX
  | 0x20 => rowsHBM
  | 0x22 => rowsCVU
  | 0x30 => rowsPORT
  | 0x31 => rowsMIR
  | 0x32 => rowsOPL
  | 0x33 => rowsRED
  | 0x34 => rowsCALV
  | 0x40 => rowsXCH
  | 0x41 => rowsSMP
  | 0x43 => rowsPRN
  | 0x45 => rowsOPT
  | 0x46 => rowsFIRN
  | 0x47 => rowsSHD
  | 0x48 => rowsARB
  | _ => []

/-- The _LO words of the 64-bit registers of a class (R436): offset, spacing, count. -/
def loRows (cls : Nat) : List (Nat × Nat × Nat) :=
  match cls with
  | 0x1 => [(0x80, 0x4, 1)]
  | 0x2 => [(0xb0, 0x4, 1), (0xb8, 0x4, 1), (0xc0, 0x4, 1)]
  | 0x3 => [(0x40, 0x4, 1), (0x50, 0x4, 1), (0x58, 0x4, 1), (0x60, 0x4, 1), (0x68, 0x4, 1), (0x100, 0x10, 16)]
  | 0x4 => [(0x80, 0x4, 1)]
  | 0x5 => [(0x50, 0x4, 1), (0x200, 0x4, 1)]
  | 0x10 => [(0x54, 0x4, 1), (0x68, 0x4, 1)]
  | 0x11 => [(0x58, 0x4, 1), (0x60, 0x4, 1)]
  | 0x12 => [(0x48, 0x4, 1), (0x58, 0x4, 1)]
  | 0x13 => [(0x40, 0x4, 1), (0x68, 0x4, 1), (0x70, 0x4, 1)]
  | 0x20 => [(0x70, 0x4, 1), (0x80, 0x4, 1), (0x88, 0x4, 1), (0x90, 0x4, 1)]
  | 0x22 => [(0x40, 0x4, 1), (0x48, 0x4, 1), (0x50, 0x4, 1), (0x60, 0x4, 1), (0x68, 0x4, 1), (0x70, 0x4, 1), (0x78, 0x4, 1), (0x88, 0x4, 1)]
  | 0x30 => [(0x60, 0x4, 1), (0x68, 0x4, 1), (0x70, 0x4, 1)]
  | 0x31 => [(0x58, 0x4, 1), (0x60, 0x4, 1)]
  | 0x32 => [(0x60, 0x4, 1), (0x68, 0x4, 1), (0x70, 0x4, 1), (0x78, 0x4, 1), (0x104, 0x10, 16)]
  | 0x33 => [(0x40, 0x4, 1), (0xa8, 0x4, 1)]
  | 0x34 => [(0x68, 0x4, 1), (0x70, 0x4, 1)]
  | 0x40 => [(0x40, 0x4, 1), (0x60, 0x4, 1), (0x70, 0x4, 1), (0x7c, 0x4, 1), (0x88, 0x4, 1), (0x98, 0x4, 1)]
  | 0x41 => [(0x60, 0x4, 1), (0x68, 0x4, 1)]
  | 0x43 => [(0x40, 0x4, 1), (0x68, 0x4, 1)]
  | 0x45 => [(0x40, 0x4, 1), (0x70, 0x4, 1)]
  | 0x46 => [(0x40, 0x4, 1), (0x4c, 0x4, 1), (0x58, 0x4, 1), (0x64, 0x4, 1), (0x78, 0x4, 1), (0x80, 0x4, 1), (0x88, 0x4, 1), (0x90, 0x4, 1), (0xc0, 0x4, 1), (0xc8, 0x4, 1), (0xd0, 0x4, 1)]
  | 0x47 => [(0x58, 0x4, 1)]
  | 0x48 => [(0xc8, 0x4, 1)]
  | _ => []

/-- Does the row hold the register at offset `o`? -/
def RegRow.covers (r : RegRow) (o : Nat) : Bool :=
  r.off ≤ o && (o - r.off) % r.step == 0 && (o - r.off) / r.step < r.cnt

/-- The row of the register at offset `off` of class `cls`, if the offset is not reserved. -/
def regRow (cls off : Nat) : Option RegRow := (pageRows cls).find? (·.covers off)

/-- Requesters of an arbiter group (R70, R273, R378, R432, R462). -/
def arbReqs (g : Nat) : Nat := if g < 128 then 6 else if g < 136 then 10 else if g < 144 then 11 else if g = 144 then 3 else 8

/-- An offset of a page that is reserved although its class has a register there: WAIT_LIMITr of a group with fewer
requesters (R13, R462). -/
def regHidden (cls inst off : Nat) : Bool :=
  cls == 0x48 && decide (0x40 ≤ off) && decide (off < 0x80) && decide (arbReqs inst ≤ (off - 0x40) / 4)

/-- Reset value of a register; 0 at reserved offsets (R13). -/
def regReset (cls off : Nat) : BitVec 32 :=
  match regRow cls off with
  | some r => BitVec.ofNat 32 r.rst
  | none => 0

/-- Key of a register: its address less 0xF000_0000_0000 (R16). -/
abbrev rk (cls inst off : Nat) : Nat := cls * 1048576 + inst * 4096 + off

/-- Reset value by key. -/
def keyReset (k : Nat) : BitVec 32 := regReset (k / 1048576) (k % 4096)

end Sys2Proof.Machine
end

