-- ==== Sys2Proof/Machine/SMap.lean ====
section
/-! DEFINITION. Sparse storage: reading and writing a key of a list of (key, value) pairs, in the canonical form
that memory, the register file and every indexed unit of the device share: keys strictly rising, and no entry equal to
what an unlisted key reads as. -/
namespace Sys2Proof.Machine

/-- The value at key `k`; `d` is what an unlisted key reads as. -/
def mget {α : Type} (d : α) : SMap α → Nat → α
  | [], _ => d
  | (k', v) :: r, k => if k = k' then v else mget d r k

/-- Puts an entry in its place in a list of rising keys that does not list the key. -/
def minsert {α : Type} : SMap α → Nat → α → SMap α
  | [], k, v => [(k, v)]
  | (k', v') :: r, k, v => if k < k' then (k, v) :: (k', v') :: r else (k', v') :: minsert r k v

/-- Takes a key out of the list. -/
def merase {α : Type} (m : SMap α) (k : Nat) : SMap α := m.filter (fun e => e.1 != k)

/-- Writes the value at key `k`. Writing the default takes the entry out, so equal stores are equal lists. -/
def mset {α : Type} [DecidableEq α] (d : α) (m : SMap α) (k : Nat) (v : α) : SMap α :=
  if v = d then merase m k else minsert (merase m k) k v

/-- Canonical form: keys strictly rising, no entry equal to the default of its key. -/
def mwf {α : Type} [DecidableEq α] (d : Nat → α) : SMap α → Bool
  | [] => true
  | [(k, v)] => decide (v ≠ d k)
  | (k, v) :: (k', v') :: r => decide (v ≠ d k) && decide (k < k') && mwf d ((k', v') :: r)

end Sys2Proof.Machine
end

