-- ==== Sys2Proof/Syntax.lean ====
section
/-! DEFINITION. The commands of the block and their operands. -/
namespace Sys2Proof

/-- The fields of an instruction word (R80), all but OP, which the constructor names. -/
structure VecFields where
  type : BitVec 4
  vd   : BitVec 5
  vs1  : BitVec 5
  vs2  : BitVec 5
  vs3  : BitVec 5
  msk  : BitVec 3
  mu   : BitVec 1
  rm   : BitVec 2
  rs   : BitVec 2
  dinc : BitVec 1
  binc : BitVec 1
  scal : BitVec 1
  imm  : BitVec 21
deriving DecidableEq, Repr

/-- The data of a 64-byte tile-store write (R69, R71): enabled bytes, the 64 bytes, and the poison of its eight words. -/
structure LineWrite where
  mask : BitVec 64
  data : Bytes
  pois : BitVec 8
deriving DecidableEq, Repr

/-- A remote expansion batch of another rank's sampler (R195): source rank and tag, the CSR of the owner that it is
served from, then what the batch carries. -/
structure RemoteBatch where
  src     : Nat
  tag     : Nat
  rowptr  : Nat
  colidx  : Nat
  rowBase : Nat
  numRows : Nat
  hop     : Nat
  fanout  : Nat
  thresh  : Nat
  stream  : W32
  idx64   : Bool
  nodes   : List Nat
deriving DecidableEq, Repr

/-- A node of an answered remote expansion (R195): its degree and its edges as (EID, neighbour), whether it failed, whether
its row was read with poison. -/
structure ExpNode where
  node   : Nat
  degree : Nat
  edges  : List (Nat × Nat)
  failed : Bool
  pois   : Bool
deriving DecidableEq, Repr

/-- What a part belongs to: the command at a ring index, or a sampler's walk (R226). -/
inductive PartOf where
  | ring (k : Nat)
  | walk (c : Nat)
deriving DecidableEq, Repr

/-- What the other end of a link declares while it trains (R257, R276, R402). -/
structure PeerInfo where
  rank   : Nat
  coord  : List Nat
  lens   : List Nat
  axis   : Nat
  minus  : Bool
deriving DecidableEq, Repr

/-- A packet: the header fields of R266, the body, and whether its bytes are poisoned (R262). -/
structure Packet where
  dst   : Nat
  src   : Nat
  coord : List Nat
  ep    : Nat
  cls   : Nat
  tag   : BitVec 32
  body  : Bytes
  pois  : Bool
deriving DecidableEq, Repr

/-- What travels with a reduction partial (R291, R302): late and non-finite bitmaps of both axes, escalations and
saturations at the nodes so far, and the present ranks as second coordinate · 64 + first coordinate, ascending. -/
structure RedPartial where
  late0 : BitVec 64 := 0
  late1 : BitVec 64 := 0
  nf0   : BitVec 64 := 0
  nf1   : BitVec 64 := 0
  esc   : Nat := 0
  sat   : Nat := 0
  map   : List Nat := []
deriving DecidableEq, Repr

/-- A Firn chunk record (R343). -/
structure ChunkRec where
  addr   : Nat
  vepoch : Nat
  check  : W64
  code   : Nat
  pois   : Bool
  payload : Bytes
deriving DecidableEq, Repr

/-- Temperature sensors in °C (R477): one a tile pair, eight a Serac. -/
structure Temps where
  pairs  : List Nat
  seracA : List Nat
  seracB : List Nat
deriving DecidableEq, Repr

/-- Inputs measured at an ageing sample (R491, R493), by instance: tile drift in 0.001 %, tile speed relative to its
Floe's rate monitor in 0.01 %, and the stacks' own on-die corrections that were reported and not yet counted. -/
structure AgeInputs where
  drift : List (Nat × Int)
  rel   : List (Nat × Int)
  odecc : List (Nat × Nat)
deriving DecidableEq, Repr


/-- What one reading of a sector meets in the stack: symbols that come from another sector, as a misdirected access returns
them, and symbol errors (position, pattern) of this reading alone (R382, R383, R385). -/
structure Seeing where
  src  : Option Nat := none
  errs : List (Nat × BitVec 16) := []
deriving DecidableEq, Repr

/-- The commands of the block: one constructor for every row of the table of operations and events.
The docstrings name the row, its rule and what the operands say; `m` is the master that writes or reads (R439). -/
inductive Instr where
  /-- WLOAD (R43): tile t, instruction fields of R80 -/
  | wload (t : Nat) (f : VecFields)
  /-- MMA (R42): tile t, instruction fields -/
  | mma (t : Nat) (f : VecFields)
  /-- DRAIN (R63): tile t, instruction fields -/
  | drain (t : Nat) (f : VecFields)
  /-- RELEASE (R73): tile t, instruction fields -/
  | release (t : Nat) (f : VecFields)
  /-- SETVL (R83): tile t, instruction fields of R80 -/
  | vSetvl (t : Nat) (f : VecFields)
  /-- SETRS (R83): tile t, instruction fields of R80 -/
  | vSetrs (t : Nat) (f : VecFields)
  /-- GETRS (R83): tile t, instruction fields of R80 -/
  | vGetrs (t : Nat) (f : VecFields)
  /-- VGETF (R83): tile t, instruction fields of R80 -/
  | vGetf (t : Nat) (f : VecFields)
  /-- VCLRF (R98): tile t, instruction fields of R80 -/
  | vClrf (t : Nat) (f : VecFields)
  /-- VFENCE (R88): tile t, instruction fields of R80 -/
  | vFence (t : Nat) (f : VecFields)
  /-- VLD (R89): tile t, instruction fields of R80 -/
  | vLd (t : Nat) (f : VecFields)
  /-- VLDS (R89): tile t, instruction fields of R80 -/
  | vLds (t : Nat) (f : VecFields)
  /-- VLDX (R89): tile t, instruction fields of R80 -/
  | vLdx (t : Nat) (f : VecFields)
  /-- VST (R90): tile t, instruction fields of R80 -/
  | vSt (t : Nat) (f : VecFields)
  /-- VSTS (R90): tile t, instruction fields of R80 -/
  | vSts (t : Nat) (f : VecFields)
  /-- VSTX (R91): tile t, instruction fields of R80 -/
  | vStx (t : Nat) (f : VecFields)
  /-- ADD (R93): tile t, instruction fields of R80 -/
  | vAdd (t : Nat) (f : VecFields)
  /-- SUB (R93): tile t, instruction fields of R80 -/
  | vSub (t : Nat) (f : VecFields)
  /-- MUL (R93): tile t, instruction fields of R80 -/
  | vMul (t : Nat) (f : VecFields)
  /-- MULH (R93): tile t, instruction fields of R80 -/
  | vMulh (t : Nat) (f : VecFields)
  /-- MIN (R83): tile t, instruction fields of R80 -/
  | vMin (t : Nat) (f : VecFields)
  /-- MAX (R83): tile t, instruction fields of R80 -/
  | vMax (t : Nat) (f : VecFields)
  /-- ABS (R93): tile t, instruction fields of R80 -/
  | vAbs (t : Nat) (f : VecFields)
  /-- NEG (R93): tile t, instruction fields of R80 -/
  | vNeg (t : Nat) (f : VecFields)
  /-- SLL (R94): tile t, instruction fields of R80 -/
  | vSll (t : Nat) (f : VecFields)
  /-- SRL (R94): tile t, instruction fields of R80 -/
  | vSrl (t : Nat) (f : VecFields)
  /-- SRA (R94): tile t, instruction fields of R80 -/
  | vSra (t : Nat) (f : VecFields)
  /-- SRAR (R94): tile t, instruction fields of R80 -/
  | vSrar (t : Nat) (f : VecFields)
  /-- SLLS (R94): tile t, instruction fields of R80 -/
  | vSlls (t : Nat) (f : VecFields)
  /-- ROTL (R94): tile t, instruction fields of R80 -/
  | vRotl (t : Nat) (f : VecFields)
  /-- AND (R83): tile t, instruction fields of R80 -/
  | vAnd (t : Nat) (f : VecFields)
  /-- OR (R83): tile t, instruction fields of R80 -/
  | vOr (t : Nat) (f : VecFields)
  /-- XOR (R83): tile t, instruction fields of R80 -/
  | vXor (t : Nat) (f : VecFields)
  /-- ANDN (R83): tile t, instruction fields of R80 -/
  | vAndn (t : Nat) (f : VecFields)
  /-- NOT (R83): tile t, instruction fields of R80 -/
  | vNot (t : Nat) (f : VecFields)
  /-- MOV (R83): tile t, instruction fields of R80 -/
  | vMov (t : Nat) (f : VecFields)
  /-- IDX (R83): tile t, instruction fields of R80 -/
  | vIdx (t : Nat) (f : VecFields)
  /-- FADD (R95): tile t, instruction fields of R80 -/
  | vFadd (t : Nat) (f : VecFields)
  /-- FSUB (R95): tile t, instruction fields of R80 -/
  | vFsub (t : Nat) (f : VecFields)
  /-- FMUL (R95): tile t, instruction fields of R80 -/
  | vFmul (t : Nat) (f : VecFields)
  /-- FMA (R95): tile t, instruction fields of R80 -/
  | vFma (t : Nat) (f : VecFields)
  /-- FMIN (R95): tile t, instruction fields of R80 -/
  | vFmin (t : Nat) (f : VecFields)
  /-- FMAX (R95): tile t, instruction fields of R80 -/
  | vFmax (t : Nat) (f : VecFields)
  /-- FABS (R95): tile t, instruction fields of R80 -/
  | vFabs (t : Nat) (f : VecFields)
  /-- FNEG (R95): tile t, instruction fields of R80 -/
  | vFneg (t : Nat) (f : VecFields)
  /-- EXP2 (R97): tile t, instruction fields of R80 -/
  | vExp2 (t : Nat) (f : VecFields)
  /-- LOG2 (R97): tile t, instruction fields of R80 -/
  | vLog2 (t : Nat) (f : VecFields)
  /-- RCP (R97): tile t, instruction fields of R80 -/
  | vRcp (t : Nat) (f : VecFields)
  /-- RSQRT (R97): tile t, instruction fields of R80 -/
  | vRsqrt (t : Nat) (f : VecFields)
  /-- CVT (R115): tile t, instruction fields of R80 -/
  | vCvt (t : Nat) (f : VecFields)
  /-- RSUM (R100): tile t, instruction fields of R80 -/
  | vRsum (t : Nat) (f : VecFields)
  /-- RPROD (R100): tile t, instruction fields of R80 -/
  | vRprod (t : Nat) (f : VecFields)
  /-- RMAX (R100): tile t, instruction fields of R80 -/
  | vRmax (t : Nat) (f : VecFields)
  /-- RMIN (R100): tile t, instruction fields of R80 -/
  | vRmin (t : Nat) (f : VecFields)
  /-- RMEAN (R100): tile t, instruction fields of R80 -/
  | vRmean (t : Nat) (f : VecFields)
  /-- RARGMAX (R101): tile t, instruction fields of R80 -/
  | vRargmax (t : Nat) (f : VecFields)
  /-- RARGMIN (R101): tile t, instruction fields of R80 -/
  | vRargmin (t : Nat) (f : VecFields)
  /-- CMPEQ (R83): tile t, instruction fields of R80 -/
  | vCmpeq (t : Nat) (f : VecFields)
  /-- CMPLT (R83): tile t, instruction fields of R80 -/
  | vCmplt (t : Nat) (f : VecFields)
  /-- CMPLE (R83): tile t, instruction fields of R80 -/
  | vCmple (t : Nat) (f : VecFields)
  /-- CMPUN (R83): tile t, instruction fields of R80 -/
  | vCmpun (t : Nat) (f : VecFields)
  /-- MAND (R83): tile t, instruction fields of R80 -/
  | vMand (t : Nat) (f : VecFields)
  /-- MOR (R83): tile t, instruction fields of R80 -/
  | vMor (t : Nat) (f : VecFields)
  /-- MXOR (R83): tile t, instruction fields of R80 -/
  | vMxor (t : Nat) (f : VecFields)
  /-- MNOT (R83): tile t, instruction fields of R80 -/
  | vMnot (t : Nat) (f : VecFields)
  /-- MPOP (R83): tile t, instruction fields of R80 -/
  | vMpop (t : Nat) (f : VecFields)
  /-- MSEL (R83): tile t, instruction fields of R80 -/
  | vMsel (t : Nat) (f : VecFields)
  /-- RANDU (R108): tile t, instruction fields of R80 -/
  | vRandu (t : Nat) (f : VecFields)
  /-- RANDF (R108): tile t, instruction fields of R80 -/
  | vRandf (t : Nat) (f : VecFields)
  /-- RANDB (R108): tile t, instruction fields of R80 -/
  | vRandb (t : Nat) (f : VecFields)
  /-- RANDG (R108): tile t, instruction fields of R80 -/
  | vRandg (t : Nat) (f : VecFields)
  /-- RANDN (R108): tile t, instruction fields of R80 -/
  | vRandn (t : Nat) (f : VecFields)
  /-- DMAIN (R447): tile t, instruction fields of R80 -/
  | dmain (t : Nat) (f : VecFields)
  /-- DMAOUT (R447): tile t, instruction fields of R80 -/
  | dmaout (t : Nat) (f : VecFields)
  /-- DMAWAIT (R447): tile t, instruction fields of R80 -/
  | dmawait (t : Nat) (f : VecFields)
  /-- SLI (R447): tile t, instruction fields of R80 -/
  | sli (t : Nat) (f : VecFields)
  /-- SADD (R447): tile t, instruction fields of R80 -/
  | sadd (t : Nat) (f : VecFields)
  /-- SSUB (R447): tile t, instruction fields of R80 -/
  | ssub (t : Nat) (f : VecFields)
  /-- SMUL (R447): tile t, instruction fields of R80 -/
  | smul (t : Nat) (f : VecFields)
  /-- SAND (R447): tile t, instruction fields of R80 -/
  | sand (t : Nat) (f : VecFields)
  /-- SOR (R447): tile t, instruction fields of R80 -/
  | sor (t : Nat) (f : VecFields)
  /-- SXOR (R447): tile t, instruction fields of R80 -/
  | sxor (t : Nat) (f : VecFields)
  /-- SSHL (R447): tile t, instruction fields of R80 -/
  | sshl (t : Nat) (f : VecFields)
  /-- SSHR (R447): tile t, instruction fields of R80 -/
  | sshr (t : Nat) (f : VecFields)
  /-- SLD (R447): tile t, instruction fields of R80 -/
  | sld (t : Nat) (f : VecFields)
  /-- SST (R447): tile t, instruction fields of R80 -/
  | sst (t : Nat) (f : VecFields)
  /-- BRZ (R447): tile t, instruction fields of R80 -/
  | brz (t : Nat) (f : VecFields)
  /-- BRNZ (R447): tile t, instruction fields of R80 -/
  | brnz (t : Nat) (f : VecFields)
  /-- WAITW (R448): tile t, instruction fields of R80 -/
  | waitw (t : Nat) (f : VecFields)
  /-- SETLAYER (R447): tile t, instruction fields of R80 -/
  | setlayer (t : Nat) (f : VecFields)
  /-- YIELD (R447): tile t, instruction fields of R80 -/
  | yield (t : Nat) (f : VecFields)
  /-- END (R447): tile t, instruction fields of R80 -/
  | ctxEnd (t : Nat) (f : VecFields)
  /-- SPAWN (R447): tile t, instruction fields of R80 -/
  | spawn (t : Nat) (f : VecFields)
  /-- REGISTER_WRITE (R14): master m writes the low `width` bytes of v at device address addr -/
  | registerWrite (m addr width : Nat) (v : BitVec 64)
  /-- LO_READ_LATCH (R38): master m reads 32 bits at addr -/
  | loReadLatch (m addr : Nat)
  /-- CLR_CNT (R75): master m writes CTRL of page (cls, inst) with CLR_CNT = 1 (other bits as CTRL holds them) -/
  | clrCnt (m cls inst : Nat)
  /-- FREEZE_WRITE (R458): master m writes FREEZE of page (cls, inst) -/
  | freezeWrite (m cls inst : Nat) (f : Bool)
  /-- BRIDGE_WORD_TRANSFER (R26): bridge b (bit order of R40), channel ch, direction, the 32 digits' wires at event 2 and after event 3, the flit
  that carries the word -/
  | bridgeWordTransfer (b ch : Nat) (toSecond : Bool) (digits after : List (BitVec 4)) (flit : Nat)
  /-- BRIDGE_STALL (R28): bridge b, channel ch in a direction waits at event ev (2 or 4) past BRIDGE_WDOG -/
  | bridgeStall (b ch : Nat) (toSecond : Bool) (ev : Nat)
  /-- GPT_TCTRL_WRITE (R35): master m writes GPTn_TCTRL -/
  | gptTctrlWrite (m n : Nat) (v : BitVec 32)
  /-- GPT_EXPIRE (R35): timer n -/
  | gptExpire (n : Nat)
  /-- RATE_WINDOW_END (R37): ring handshakes each Floe's monitor made in the window -/
  | rateWindowEnd (ringA ringB : Nat)
  /-- CLR_HS (R39): master m writes TIM CTRL.CLR_HS -/
  | clrHs (m : Nat)
  /-- EMPTY_TOKEN_EXIT (R22): pipeline p -/
  | emptyTokenExit (p : Nat)
  /-- WLOAD_DONE (R43): tile t -/
  | wloadDone (t : Nat)
  /-- MMA_VECTOR_ACCUMULATE (R42): tile t -/
  | mmaVectorAccumulate (t : Nat)
  /-- DRAIN_CTRL_GO (R68): master m writes DRAIN_CTRL of tile t with GO set -/
  | drainCtrlGo (m t : Nat) (v : BitVec 32)
  /-- DRAIN_READOUT (R66): tile t -/
  | drainReadout (t : Nat)
  /-- DRAIN_COMPLETE (R65): tile t -/
  | drainComplete (t : Nat)
  /-- ACC_WINDOW_READ (R72): reader m, address in the accumulator window, bytes -/
  | accWindowRead (m addr len : Nat)
  /-- ARRAY_HOLD_LIMIT (R74): tile t -/
  | arrayHoldLimit (t : Nat)
  /-- TS_ACCESS (R71): tile t, 64-byte line at off, requester of R70, the write if it is one, code bits newly flipped by word 0-7 of the line -/
  | tsAccess (t off req : Nat) (wr : Option LineWrite) (flips : List (Nat × BitVec 72))
  /-- SEED3_WRITE (R106): master m writes SEED3 of a VEC, OPT, SMP or RED page -/
  | seed3Write (m cls inst : Nat) (v : BitVec 32)
  /-- KEY_DERIVED (R106): the page whose key derivation ends -/
  | keyDerived (cls inst : Nat)
  /-- KAT_GO (R111): master m writes VEC CTRL.KAT_GO of tile t -/
  | katGo (m t : Nat)
  /-- KAT_COMPLETE (R112): tile t, lanes whose hardware gave a wrong output -/
  | katComplete (t : Nat) (badLanes : List Nat)
  /-- CQ_TAIL_WRITE (R129): master m writes CQ_TAIL of an OPT, PRN, XCH or RED page -/
  | cqTailWrite (m cls inst : Nat) (v : BitVec 32)
  /-- UPDATE (R131): optimizer unit n -/
  | update (n : Nat)
  /-- ACCUM (R125): optimizer unit n -/
  | accum (n : Nat)
  /-- ACCUM32 (R127): optimizer unit n -/
  | accum32 (n : Nat)
  /-- COPY (R133): optimizer unit n -/
  | copy (n : Nat)
  /-- ZERO (R129): optimizer unit n -/
  | zero (n : Nat)
  /-- OPT_WAIT_RELEASE (R135): optimizer unit n -/
  | optWaitRelease (n : Nat)
  /-- OPT_CMD_COMPLETE (R129): optimizer unit n -/
  | optCmdComplete (n : Nat)
  /-- SHD_SAMPLE_COMPARE (R141): shadow checker n -/
  | shdSampleCompare (n : Nat)
  /-- SHD_CLR (R144): master m, checker n -/
  | shdClr (m n : Nat)
  /-- SHD_EN_SET (R139): master m, checker n -/
  | shdEnSet (m n : Nat)
  /-- PRUNE24 (R151): pruner-codec n -/
  | prune24 (n : Nat)
  /-- ENCODE (R155): pruner-codec n -/
  | encodeTiles (n : Nat)
  /-- DECODE (R156): pruner-codec n -/
  | decodeTiles (n : Nat)
  /-- MERGE (R158): merge unit n -/
  | merge (n : Nat)
  /-- SPLIT (R161): hub splitter n -/
  | split (n : Nat)
  /-- COMBINE (R163): hub splitter n -/
  | combine (n : Nat)
  /-- PRN_CMD_COMPLETE (R171): pruner-codec n -/
  | prnCmdComplete (n : Nat)
  /-- SAMPLE (R193): walk context c -/
  | sample (c : Nat)
  /-- SAMPLE_HOP_WRITE (R193): walk context c -/
  | sampleHopWrite (c : Nat)
  /-- REMOTE_EXPANSION_SERVE (R195): sampler n, the batch of another rank -/
  | remoteExpansionServe (n : Nat) (b : RemoteBatch)
  /-- REPLAY (R197): walk context c -/
  | replay (c : Nat)
  /-- WALK_END (R201): walk context c -/
  | walkEnd (c : Nat)
  /-- LOOKUP (R220): exchange engine n -/
  | lookup (n : Nat)
  /-- LOOKUP_BATCH_SERVE (R220): engine n serves rank src: table, version, part tag, local rows -/
  | lookupBatchServe (n src table ver tag : Nat) (rows : List Nat)
  /-- LOOKUP_ANSWER (R220): engine n, ring index of the command, owner rank, part status, the row records in request order -/
  | lookupAnswer (n ring owner status : Nat) (recs : List Bytes) (poison : List Bool)
  /-- SCATTER (R222): exchange engine n -/
  | scatter (n : Nat)
  /-- SCATTER_BATCH_ACCEPT (R223): engine n, the batch: local rows with summed FP32 gradients and poison -/
  | scatterBatchAccept (n src table ver step batch : Nat) (rows : List (Nat × List (BitVec 32) × Bool))
  /-- SCATTER_APPLY (R223): engine n applies one group -/
  | scatterApply (n table step batch : Nat)
  /-- APPLY_WAIT_EXPIRE (R223): engine n -/
  | applyWaitExpire (n table step batch : Nat)
  /-- GATHER (R221): exchange engine n -/
  | gather (n : Nat)
  /-- DISPATCH (R227): exchange engine n -/
  | dispatch (n : Nat)
  /-- RETURN (R227): exchange engine n -/
  | xchReturn (n : Nat)
  /-- PART_DEADLINE_EXPIRE (R225): engine n, the command or walk, the part of that owner -/
  | partDeadlineExpire (n : Nat) (p : PartOf) (owner : Nat)
  /-- PART_ANSWER (R225): engine n, the command or walk, the part of that owner, the status answered, the nodes of a remote expansion -/
  | partAnswer (n : Nat) (p : PartOf) (owner status : Nat) (nodes : List ExpNode)
  /-- XCH_CMD_COMPLETE (R218): exchange engine n -/
  | xchCmdComplete (n : Nat)
  /-- SLOT_WRITE (R213): master m writes SLOTt_s of engine n -/
  | slotWrite (m n tbl slot : Nat) (v : BitVec 32)
  /-- OFFLOAD (R246): exchange engine n -/
  | offload (n : Nat)
  /-- PREFETCH (R246): exchange engine n -/
  | prefetch (n : Nat)
  /-- DROP (R246): exchange engine n -/
  | drop (n : Nat)
  /-- KV_SHIFT (R240): exchange engine n -/
  | kvShift (n : Nat)
  /-- KV_READY (R241): engine n, READY from the downstream rank -/
  | kvReady (n dir round len : Nat)
  /-- KV_SHIFT_DATA (R240): engine n, the share from the upstream rank, poison of its 64-byte parts -/
  | kvShiftData (n dir round : Nat) (data : Bytes) (pois : List Bool)
  /-- KV_SHIFT_ACK (R240): engine n -/
  | kvShiftAck (n dir round : Nat)
  /-- LINK_TRAIN (R257): port p (0-7 torus, 8 and 9 mirror sub-links, 10 Oplis), what the partner declares -/
  | linkTrain (p : Nat) (peer : PeerInfo)
  /-- LINK_UP (R260): port p, lanes good and enabled at the other end -/
  | linkUp (p : Nat) (peerGood : BitVec 8)
  /-- FLIT_RECEIVE (R264): port p, the 256 bytes, whether an uncorrectable codeword overlaps it -/
  | flitReceive (p : Nat) (flit : Bytes) (fecBad : Bool)
  /-- NAK_RECEIVE (R264): port p, expected sequence number -/
  | nakReceive (p seq : Nat)
  /-- RETRY_TMO_EXPIRE (R264): port p -/
  | retryTmoExpire (p : Nat)
  /-- FLIT_SEND (R273): port p -/
  | flitSend (p : Nat)
  /-- FEC_WINDOW_END (R260): port p: per lane uncorrectable codewords and corrected symbols of the window, lanes holding lock, vertical and horizontal eye margins -/
  | fecWindowEnd (p : Nat) (uncorr corr : List Nat) (lock : BitVec 8) (eyes : List (Nat × Nat))
  /-- LANE_FAULT (R261): port p, lane -/
  | laneFault (p lane : Nat)
  /-- RETRAIN (R261): master m, port p -/
  | retrain (m p : Nat)
  /-- DEGRADE_RETRAIN_DONE (R261): port p, partner's lanes, whether retraining succeeded -/
  | degradeRetrainDone (p : Nat) (peerGood : BitVec 8) (ok : Bool)
  /-- PACKET_ROUTE (R268): arrival port 0-7 or local injector 8-10 (R273), VC, the packet -/
  | packetRoute (src vc : Nat) (pkt : Packet)
  /-- PORT_CTRL_EN (R275): master m, port p -/
  | portCtrlEn (m p : Nat) (en : Bool)
  /-- GEOM_WRITE (R275): master m, port p -/
  | geomWrite (m p : Nat) (v : BitVec 32)
  /-- MGMT_ACCESS (R277): the twin's companion reads or writes addr -/
  | mgmtAccess (addr width : Nat) (wr : Option (BitVec 64))
  /-- REDUCE (R291): channel c -/
  | reduce (c : Nat)
  /-- BARRIER (R292): channel c -/
  | barrier (c : Nat)
  /-- GATE_POLL (R287): channel c -/
  | gatePoll (c : Nat)
  /-- JOIN (R291): channel c, child rank -/
  | join (c src seq digest : Nat)
  /-- RED_READY (R291): channel c, parent rank -/
  | redReady (c src seq digest : Nat)
  /-- RED_DROP (R299): channel c -/
  | redDrop (c src seq digest level : Nat)
  /-- AGREE (R294): channel c, child's partial bitmaps, exponents per block -/
  | agree (c src seq digest : Nat) (p : RedPartial) (exps : List Int)
  /-- AGREE_RES (R294): channel c, agreed exponents -/
  | agreeRes (c src seq digest : Nat) (exps : List Int)
  /-- RED_DATA (R296): channel c, chunk of the child's partial with the poison of each unit (no units: nothing present), bitmaps and counts with the last chunk -/
  | redData (c src seq digest stage level first : Nat) (units : List (Bytes × Bool)) (last : Option RedPartial)
  /-- RESULT (R291): channel c, chunk of the result, header and present ranks with the last chunk -/
  | result (c src seq digest first : Nat) (units : List (Bytes × Bool)) (hdr : Option (Bytes × List Nat))
  /-- RED_ACK (R291): channel c, child rank -/
  | redAck (c src seq digest : Nat)
  /-- LEVEL_DEADLINE_EXPIRE (R298): channel c, level counted over the stages -/
  | levelDeadlineExpire (c level : Nat)
  /-- RESULT_TMO_EXPIRE (R300): channel c -/
  | resultTmoExpire (c : Nat)
  /-- RED_OP_COMPLETE (R284): channel c -/
  | redOpComplete (c : Nat)
  /-- RED_RESET (R308): master m, channel c -/
  | redReset (m c : Nat)
  /-- CALVE (R318): channel c -/
  | calve (c : Nat)
  /-- LAND (R326): channel c -/
  | land (c : Nat)
  /-- CALV_GATHER (R327): channel c -/
  | calvGather (c : Nat)
  /-- REGATHER (R329): channel c -/
  | regather (c : Nat)
  /-- CALV_CHUNK (R317): channel c, plan entry, byte offset in the NEW shard (or in the source's shard), bytes with their poison, version record (EPOCH, UPDATE_CNT, CHECK) with the last chunk of a gather -/
  | calvChunk (c src seq digest entry off : Nat) (data : Bytes) (pois : List Bool) (ver : Option (Nat × Nat × Nat))
  /-- COPY_DONE (R318): channel c, child's report, the reason when it is not OK -/
  | copyDone (c src seq digest : Nat) (ok : Bool) (reason : Nat)
  /-- CALV_DECISION (R318): channel c -/
  | calvDecision (c src seq digest reason : Nat) (commit : Bool)
  /-- CALV_ACK (R318): channel c, the child's ACK of its decision, or the receipt of a chunk by its entry and offset -/
  | calvAck (c src seq digest : Nat) (chunk : Option (Nat × Nat))
  /-- COPY_TMO_EXPIRE (R318): channel c -/
  | copyTmoExpire (c : Nat)
  /-- DECIDE_TMO_EXPIRE (R322): channel c -/
  | decideTmoExpire (c : Nat)
  /-- FENCE_RELEASE (R323): channel c -/
  | fenceRelease (c : Nat)
  /-- FENCE_TMO_EXPIRE (R323): channel c -/
  | fenceTmoExpire (c : Nat)
  /-- GATHER_SHARD_DEADLINE (R330): channel c -/
  | gatherShardDeadline (c : Nat)
  /-- RESOLVE_COMMIT (R322): master m -/
  | resolveCommit (m : Nat)
  /-- RESOLVE_ABORT (R322): master m -/
  | resolveAbort (m : Nat)
  /-- PSET (R337): master m writes CMDA.GO with a PSET descriptor -/
  | pset (m : Nat)
  /-- SEAL (R352): master m writes CMDA.GO with a SEAL descriptor -/
  | seal (m : Nat)
  /-- SEAL_CANCEL (R359): master m writes FIRN CTRL.SEAL_CANCEL -/
  | sealCancel (m : Nat)
  /-- RESYNC (R358): master m writes CMDA.GO -/
  | resync (m : Nat)
  /-- RESTORE_TWIN (R364): master m writes CMDA.GO with SRC 0 -/
  | restoreTwin (m : Nat)
  /-- RESTORE_COMPANION (R364): master m writes CMDA.GO with SRC 1 -/
  | restoreCompanion (m : Nat)
  /-- RESTORE_OWN_STORE (R367): master m writes CMDA.GO with SRC 2 -/
  | restoreOwnStore (m : Nat)
  /-- ROLLBACK (R366): master m writes CMDA.GO with ROLLBACK -/
  | rollback (m : Nat)
  /-- EXPORT (R369): master m writes CMDK.GO -/
  | firnExport (m : Nat)
  /-- FIRN_RELEASE (R362): master m writes CMDK.GO -/
  | firnRelease (m : Nat)
  /-- FIRN_SCAN_GRANULE (R341): Firn instance n -/
  | firnScanGranule (n : Nat)
  /-- HELLO (R361): the twin's HELLO, as sender and as keeper -/
  | hello (keyHash : Bytes) (epochSealed epochCur grade kstate : Nat) (heldHash : Bytes) (heldEpoch freeStore : Nat) (keeps : Bool)
  /-- CHUNKS (R342): the twin's CHUNKS message -/
  | chunks (epoch gran : Nat) (recs : List ChunkRec)
  /-- GACK (R360): the keeper's answer -/
  | gack (gran status : Nat)
  /-- MANIFEST (R352): the twin's manifest -/
  | manifest (m : Bytes)
  /-- SEALED (R352): the keeper's answer -/
  | sealed (epoch status : Nat)
  /-- KEEPER_FOLD (R342): chunk address folded -/
  | keeperFold (addr : Nat)
  /-- RQ_RESTORE (R363): the twin's request -/
  | rqRestore (mode epoch : Nat) (grans : List Nat)
  /-- R_MANIFEST (R364): manifest of the held epoch -/
  | rManifest (m : Bytes)
  /-- R_CHUNKS (R364): restore records -/
  | rChunks (gran : Nat) (recs : List ChunkRec)
  /-- R_RESEND (R364): granule asked again -/
  | rResend (gran : Nat)
  /-- RESTORED (R365): the twin's restore result -/
  | restored (epoch status : Nat)
  /-- HBM_READ (R385): sector address, requester of R378, what the read and its re-read meet -/
  | hbmRead (addr req : Nat) (e1 e2 : Seeing)
  /-- HBM_WRITE (R376): sector address, requester, byte mask, 64 bytes, what the read of a merge and its re-read meet -/
  | hbmWrite (addr req : Nat) (mask : BitVec 64) (data : Bytes) (pois : Bool) (e1 e2 : Seeing)
  /-- INIT (R388): master m, stack n -/
  | init (m n : Nat)
  /-- INIT_DONE (R388): stack n -/
  | initDone (n : Nat)
  /-- SCRUB_STEP_EXPIRE (R384, R389): stack n, what the reads and re-reads meet (pseudo-channel, read, re-read), on-die
  corrections that the stack has reported -/
  | scrubStepExpire (n : Nat) (errs : List (Nat × Seeing × Seeing)) (odecc : Nat)
  /-- SCRUB_EN_WRITE (R390): master m, stack n -/
  | scrubEnWrite (m n : Nat) (en : Bool)
  /-- CVU_GO (R394): master m, unit n -/
  | cvuGo (m n : Nat)
  /-- CVU_ABORT (R395): master m, unit n -/
  | cvuAbort (m n : Nat)
  /-- CVU_SCAN_DONE (R394): unit n -/
  | cvuScanDone (n : Nat)
  /-- RD_SHARED (R415): companion request -/
  | rdShared (addr txid : Nat)
  /-- RD_OWN (R415): companion request -/
  | rdOwn (addr txid : Nat)
  /-- RD_UNCACHED (R415): companion request, size log2 -/
  | rdUncached (addr size txid : Nat)
  /-- WR_FULL (R415): companion request -/
  | wrFull (addr txid : Nat) (data : Bytes) (plo phi : Bool)
  /-- WR_PARTIAL (R415): companion request -/
  | wrPartial (addr txid : Nat) (mask : BitVec 128) (data : Bytes) (plo phi : Bool)
  /-- EVICT (R414): companion request -/
  | evict (addr txid : Nat) (dirty : Bool) (data : Bytes) (plo phi : Bool)
  /-- DOORBELL (R423): companion request -/
  | doorbell (addr txid : Nat) (v : BitVec 32)
  /-- SNP_INV (R413): the companion's home snoops the device's line cache -/
  | snpInv (addr txid : Nat)
  /-- SNP_SHARE (R413): as SNP_INV -/
  | snpShare (addr txid : Nat)
  /-- OPLIS_ACK (R414): an Ack from the companion -/
  | oplisAck (txid rkind st status : Nat) (evp : Bool)
  /-- OPLIS_DATA (R415): a Data message from the companion -/
  | oplisData (txid rkind st status : Nat) (dirty : Bool) (data : Bytes) (plo phi : Bool)
  /-- LINE_CACHE_ACCESS (R419): a device unit's access to the companion-window range -/
  | lineCacheAccess (addr unit : Nat) (stream : Bool) (wr : Option (BitVec 128 × Bytes))
  /-- QUIESCE (R420): master m -/
  | quiesce (m : Nat)
  /-- TXN_TMO_EXPIRE (R428): device request -/
  | txnTmoExpire (txid : Nat)
  /-- SNP_TMO_EXPIRE (R429): device snoop -/
  | snpTmoExpire (txid : Nat)
  /-- CLAIM (R441): master m writes CLAIM (with the nonce in the upper half when the write is 8 bytes) -/
  | claim (m : Nat) (prio : BitVec 32) (nonce : Option (BitVec 32))
  /-- CLAIM_NONCE (R440): master m -/
  | claimNonce (m : Nat) (v : BitVec 32)
  /-- RENEW (R442): master m writes RENEW -/
  | renew (m : Nat) (v : BitVec 32)
  /-- OWN_RELEASE (R443): master m writes RELEASE -/
  | ownRelease (m : Nat) (v : BitVec 32)
  /-- START (R450): master m, Floe, context within the Floe -/
  | start (m fl c : Nat)
  /-- PARK (R450): as START -/
  | park (m fl c : Nat)
  /-- KILL (R450): as START -/
  | kill (m fl c : Nat)
  /-- CTX_CTRL_EN (R455): master m sets CTX CTRL.EN of the Floe -/
  | ctxCtrlEn (m fl : Nat)
  /-- DSP_HOLD_WRITE (R451): master m, Floe -/
  | dspHoldWrite (m fl : Nat) (hold : Bool)
  /-- CONTEXT_DISPATCH (R451): Floe -/
  | contextDispatch (fl : Nat)
  /-- QUANTUM_EXPIRE (R451): running context -/
  | quantumExpire (c : Nat)
  /-- CONTEXT_SAVE (R452): context at its save boundary -/
  | contextSave (c : Nat)
  /-- DMA_DONE (R448): tile t, cursor -/
  | dmaDone (t cur : Nat)
  /-- PD_ON_WRITE (R480): master m writes PD_ONw -/
  | pdOnWrite (m w : Nat) (v : BitVec 32)
  /-- PD_WAKE (R466): domain -/
  | pdWake (pd : Nat)
  /-- PD_WAKE_READY (R466): domain -/
  | pdWakeReady (pd : Nat)
  /-- PD_SWITCH_OFF (R467): domain -/
  | pdSwitchOff (pd : Nat)
  /-- GOV_WINDOW (R470): measured currents (0.25 A), voltages (mV), whether tokens were held -/
  | govWindow (iA iB vA vB : Nat) (held : Bool)
  /-- SHED_FORCE_WRITE (R475): master m -/
  | shedForceWrite (m : Nat) (on : Bool)
  /-- SAG (R476): rail voltages in mV -/
  | sag (vA vB : Nat)
  /-- OVER_DECL (R474): rail voltages in mV -/
  | overDecl (vA vB : Nat)
  /-- THERM_THROTTLE (R477): sensor readings -/
  | thermThrottle (tj : Temps)
  /-- THERM_RELEASE (R477): sensor readings -/
  | thermRelease (tj : Temps)
  /-- THERMTRIP (R477): sensor readings -/
  | thermtrip (tj : Temps)
  /-- POWER_LOSS (R478): PWRGOOD fell (true) or a rail below 0.55 V -/
  | powerLoss (pin : Bool)
  /-- BLEED_END (R478): measured mJ -/
  | bleedEnd (diss ret : Nat)
  /-- POP (R485): master m -/
  | pop (m : Nat)
  /-- CLR_FIRST (R485): master m -/
  | clrFirst (m : Nat)
  /-- CLR_LOG (R494): master m -/
  | clrLog (m : Nat)
  /-- AGE_SAMPLE (R491): measured wear inputs -/
  | ageSample (inp : AgeInputs)
  /-- SAMPLE_NOW (R495): master m -/
  | sampleNow (m : Nat) (inp : AgeInputs)
  /-- CLR_HIST (R496): master m -/
  | clrHist (m : Nat)
  /-- RESET_N_ASSERT (R517): readings at the edge -/
  | resetNAssert (tj : Temps)
  /-- WARM_RESET (R520): master m -/
  | warmReset (m : Nat)
  /-- APPEND (R501): bytes after the command byte -/
  | append (data : Bytes)
  /-- ATTEST (R510): master m writes SEC CMD -/
  | attest (m : Nat)
  /-- ARB_COMMIT (R506): master m, ARG -/
  | arbCommit (m k : Nat)
  /-- EXTEND (R509): master m, ARG -/
  | extend (m slot : Nat)
  /-- DBG_REQ (R512): master m, ARG -/
  | dbgReq (m arg : Nat)
  /-- DBG_TOKEN (R512): master m -/
  | dbgToken (m : Nat)
  /-- BRINGUP_TRAIN (R519): stack failure map, lanes that fail calibration (port × 8 + lane bitmap), stack identification -/
  | bringupTrain (failed badLanes : Nat) (ids : List Bytes)
  /-- BRINGUP_TEST (R522): tiles that fail a self-test -/
  | bringupTest (failTiles : List Nat)
  /-- WAITW_REREAD (R448): tile t -/
  | waitwReread (t : Nat)
  /-- SEC_CMD_END (R514): bits that read back as blown (ARB_COMMIT) -/
  | secCmdEnd (blown : Nat)
  /-- FIRN_CMD_END (R370): slot K or slot A -/
  | firnCmdEnd (slotK : Bool)
  /-- EXPERT_BATCH_RECEIVE (R227): engine n, source rank, rows with poison, whether the batch failed -/
  | expertBatchReceive (n src step : Nat) (isReturn : Bool) (rows : List (List (BitVec 32) × Bool)) (failed : Bool)
  /-- JTAG_INSTRUCTION (R511): instruction loaded -/
  | jtagInstruction (ir : BitVec 8)
  /-- REFCLK_LOST (R34): no REFCLK edge for 1 us -/
  | refclkLost
  /-- TWIN_ALIVE_FALL (R278): TWIN_ALIVE_IN is taken as low -/
  | twinAliveFall
  /-- SEAL_CUT (R352): gates polled, cut if everything holds -/
  | sealCut
  /-- SEAL_FLUSH_DONE (R352): flush complete -/
  | sealFlushDone
  /-- MIRROR_TMO_EXPIRE (R358): MIRROR_TMO has passed with the mirror down -/
  | mirrorTmoExpire
  /-- QUIESCE_DONE (R420): line cache and filter empty -/
  | quiesceDone
  /-- OPLIS_LINK_DOWN (R430): the Oplis link goes down -/
  | oplisLinkDown
  /-- ELECTION_CLOSE (R441): CLAIM_WIN has passed -/
  | electionClose
  /-- LEASE_EXPIRE (R442): the lease has passed -/
  | leaseExpire
  /-- HANDOVER_TMO_EXPIRE (R443): HANDOVER_TMO has passed -/
  | handoverTmoExpire
  /-- GOV_ALERT_ASSERT (R475): GOV_ALERT_N low for two samples -/
  | govAlertAssert
  /-- GOV_ALERT_DEASSERT (R475): GOV_ALERT_N high for two samples -/
  | govAlertDeassert
  /-- RESET_N_RELEASE (R500): RESET_N rises -/
  | resetNRelease
  /-- FUSES_SENSED (R500): sensing ends -/
  | fusesSensed
  /-- BOOT_RESTART (R501): command byte 0x01 -/
  | bootRestart
  /-- VERIFY (R503): command byte 0x02 -/
  | verify
  /-- BRINGUP_POWER (R519): firmware stage 2 -/
  | bringupPower
  /-- VAON_COMES_UP (R487): VAON in range -/
  | vaonComesUp
  /-- VAON_LEAVES_RANGE (R487): VAON out of range -/
  | vaonLeavesRange
deriving DecidableEq, Repr

end Sys2Proof
end

