-- ==== Sys2Proof/Machine/State.lean ====
section
/-! DEFINITION. The state of the block as plain data, what stops a step, and the state right after reset. -/
namespace Sys2Proof.Machine

/-! ### Errors (chapter 17) -/

/-- An error record (R483). `src` is the PAGE_ID of the reporting page. -/
structure ErrRec where
  sev    : Nat
  nested : Bool
  halt   : Bool
  cause  : Nat
  detail : Nat
  src    : Nat
  time   : W64
  addr   : Option W64
  info   : W32
  ctx    : Option Nat
  boot   : BitVec 8
deriving DecidableEq, Repr

/-- The error state: page queues and first-error latches by PAGE_ID (R484), the device log, FATAL_REC with the boot it
was taken in (R486, R487). -/
structure ErrSt where
  queues : SMap (List ErrRec) := []
  first  : SMap (Option ErrRec) := []
  log    : SMap (Option ErrRec) := []
  /-- records the log holds, at most 1,024 -/
  logCnt : Nat := 0
  fatal  : Option (ErrRec × Nat) := none
deriving DecidableEq, Repr

/-! ### Ownership (chapter 15) -/

/-- The owner state of R441. -/
inductive OwnMode where
  | vacant | electing | owned | handover
deriving DecidableEq, Repr

/-- A claim (R440). -/
structure Claim where
  prio  : BitVec 8
  nonce : BitVec 32
deriving DecidableEq, Repr

/-- Owner, election and handover. `deadline` ends the window, the lease or the handover, by mode. -/
structure OwnSt where
  mode   : OwnMode := .vacant
  /-- master, priority and nonce of the present or last owner -/
  owner  : Nat := 0
  claim  : Claim := ⟨0, 0⟩
  /-- OWNER.VALID -/
  valid  : Bool := false
  succ   : Nat := 0
  deadline : Nat := 0
  /-- the claims entered in the window, by master -/
  claims : SMap (Option Claim) := []
  /-- CLAIM_NONCE of each master -/
  nonces : SMap W32 := []
deriving DecidableEq, Repr

/-! ### Power (chapter 16) -/

/-- Where a domain stands in the sequences of R466 and R467. -/
inductive PdPhase where
  | off
  /-- a wake that passed event 2 and waits at event 3 -/
  | wakeWait
  /-- the switch closes or readiness is awaited; the argument is when the switch began to close -/
  | settling (start : Nat)
  | on
  /-- a switch-off that waits at event 3 of R467 -/
  | offWait
deriving DecidableEq, Repr

/-- A power domain: its phase and the requests written behind the present transition (R468). -/
structure PdSt where
  phase : PdPhase := .off
  queue : List Bool := []
deriving DecidableEq, Repr

/-- Governor state: the domains, the last wake's start, the shed's pin cause, the thermal cap, sag and over-declaration
levels, charge drawn in units of 0.025 µC, and the bleeder. -/
structure PwrSt where
  pd       : SMap PdSt := []
  lastWake : Option Nat := none
  alert    : Bool := false
  therm    : Bool := false
  sag      : Bool := false
  overDecl : Bool := false
  capped   : Bool := false
  chargeA  : Nat := 0
  chargeB  : Nat := 0
  bleeding : Bool := false
deriving DecidableEq, Repr

/-! ### Reset, halt, pins, timebase (chapters 1, 18, 19) -/

/-- Whether the device runs, and what the next release of RESET_N reports (R517, R526). -/
structure LifeSt where
  /-- VAON is in its range -/
  vaon     : Bool := true
  inReset  : Bool := false
  halted   : Bool := false
  /-- VAON came up and no release has followed -/
  cold     : Bool := false
  /-- the present reset is an assertion of the pin, of a warm reset, of power loss; a halt came before it -/
  pin      : Bool := false
  warm     : Bool := false
  loss     : Bool := false
  hadHalt  : Bool := false
  /-- firmware is past stage 2 and its lanes and stacks have trained once since reset -/
  trained  : Bool := false
  /-- stage 4 has asked for the tile pairs -/
  woken    : Bool := false
deriving DecidableEq, Repr

/-- Levels of the package's signals (chapter 20): inputs, then outputs. INT_N follows R488 and is computed. -/
structure PinSt where
  resetN      : Bool := true
  pwrgood     : Bool := true
  govAlertN   : Bool := true
  twinAliveIn : Bool := false
  twinAliveOut : Bool := false
  thermtripN  : Bool := true
deriving DecidableEq, Repr

/-- A general-purpose timer: when it reaches zero while it runs, and what is left of it while it does not. -/
structure GptSt where
  due  : Nat := 0
  left : Nat := 0
deriving DecidableEq, Repr

/-- A bridge channel whose handshake waits: at event 2 or 4 of R26, since when (R28). -/
structure ChanWait where
  ev    : Nat
  since : Nat
deriving DecidableEq, Repr

/-- The timebase and what counts against it (R32–R37). -/
structure ClkSt where
  /-- REFCLK counts since the release of RESET_N; TIME reads it modulo 2^64 -/
  time    : Nat := 0
  /-- the timebase counts: a REFCLK that was lost stops it until reset (R34) -/
  running : Bool := true
  gpt     : SMap GptSt := []
  /-- bridge channels that wait, by `chanKey` (R26, R28) -/
  chans   : SMap (Option ChanWait) := []
deriving DecidableEq, Repr

/-! ### Fuses and the security controller (chapter 18) -/

/-- What manufacture fixes (R497, R498), and the anti-rollback counters, whose bits ARB_COMMIT blows. -/
structure FuseSt where
  grade9632   : Bool := false
  /-- bit p: tile pair p is enabled -/
  tilePairs   : W64 := 0xFFFFFFFFFFFFFFFF
  rotKeyHash  : Bytes := List.replicate 32 0
  idSeed      : Bytes := List.replicate 32 0
  dbgDisable  : Bool := false
  cert        : Bytes := []
  /-- die identity records in KIND order, 16 bytes each -/
  dies        : List Bytes := []
  /-- fuse bits of the 64 anti-rollback counters -/
  arb         : SMap W64 := []
  /-- Mix-10 keys and secrets apart, the measurement of the boot ROM (slot 0 of R509) -/
  romHash     : Bytes := List.replicate 32 0
deriving DecidableEq, Repr

/-- A running command of the security controller. -/
structure SecCmd where
  op    : Nat
  arg   : Nat
  start : Nat
  /-- DATA0–7 as latched when the command started (R510) -/
  nonce : Bytes
  /-- status decided when the command started, 0 if the end decides it -/
  status : Nat
deriving DecidableEq, Repr

/-- What the TAP does (R511). -/
inductive JtagMode where
  | bypass | idcode | bscan | debug
deriving DecidableEq, Repr

/-- The security controller: boot buffer, running image, objects of the window, debug scopes, the TAP. -/
structure SecSt where
  buffer   : Bytes := []
  overflow : Bool := false
  done     : Bool := false
  runIdx   : Nat := 0
  runSvn   : Nat := 0
  idPub    : Bytes := []
  report   : Bytes := []
  chal     : Bytes := []
  token    : SMap Byte := []
  chalValid : Bool := false
  scopesReq : BitVec 2 := 0
  bscan    : Bool := false
  full     : Bool := false
  cmd      : Option SecCmd := none
  /-- identification data of the stacks, 16 bytes each (R499) -/
  stackIds : SMap Bytes := []
  /-- the instruction in force in the TAP -/
  tap      : JtagMode := .idcode
deriving DecidableEq, Repr

/-! ### Ageing (chapter 17) -/

/-- One ageing sample (R491): powered-on seconds, tile drift in 0.001 %, eye margin in mV by lane, corrected sectors
per day of each stack, charge of each rail in µC. -/
structure AgeSample where
  poh    : Nat
  drift  : List (Nat × Int)
  rel    : List (Nat × Int)
  eye    : List (Nat × Nat)
  ce     : List (Nat × Nat)
  charge : List (Nat × Nat)
  /-- corrected symbols and uncorrectable codewords of each port, mirror and Oplis link, as counted then (R281) -/
  fec    : List (Nat × Nat × Nat)
deriving DecidableEq, Repr

/-- The ageing block: history (oldest first), powered-on REFCLK counts before the present release, when the present
period began, corrected-sector counts by stack · 4 + counter at the last sample, whether a sample was taken since reset. -/
structure AgeSt where
  hist   : List AgeSample := []
  pohBase : Nat := 0
  last   : Nat := 0
  ceLast : SMap Nat := []
  shown  : Bool := false
  /-- SAMPLE_NOW has been written with another access than its own command: the sample is due -/
  asked  : Bool := false
deriving DecidableEq, Repr
/-! ### Tiles (chapter 2) -/

/-- An accumulator row (R42, R54–R56): 128 values of 32 bits, its type, saturation flag, poison bit. An empty list of
values stands for 128 zeros. -/
structure AccRow where
  vals : List W32 := []
  int  : Bool := false
  sat  : Bool := false
  pois : Bool := false
deriving DecidableEq, Repr

/-- A weight tile in a buffer of the array (R43, R47–R49): format code, 2:4 flag, the stored weights row by row, the
index plane, the MX scales, poison, and the layer of its tile object (R155). -/
structure WTile where
  fmt    : Nat
  sparse : Bool
  w      : Bytes
  idx    : Bytes
  scale  : Bytes
  pois   : Bool
  /-- K indices at and above it are gated in a tile held as dense (R150) -/
  kspan  : Nat
deriving DecidableEq, Repr

/-- Where the rows of a drain go. -/
inductive DrainDest where
  /-- the drain instruction or the register path, with the context that issued it -/
  | store (ctx : Option Nat)
  /-- a read of the accumulator window: reader, address, bytes; a companion's read carries its TXID (R72) -/
  | window (m addr len : Nat) (txid : Option Nat)
deriving DecidableEq, Repr

/-- A drain (R63, R67): the fields of the drain registers. -/
structure DrainReq where
  tag    : Nat
  mode   : Nat
  start  : Nat
  count  : Nat
  dst    : Nat
  stride : Nat
  shift  : Nat
  round  : Nat
  fmt    : Nat
  stream : W32
  base   : W64
  rstride : W32
  dest   : DrainDest
deriving DecidableEq, Repr

/-- An issued activation vector (R42): packed elements, format, MX scales, poison, the weight tile it meets, K, the
accumulator row, ACC, the number of its MMA, and the layer when the shadow checker has selected it (R139, R140). -/
structure VecItem where
  a      : Bytes
  afmt   : Nat
  ascale : Bytes
  pois   : Bool
  wt     : WTile
  k      : Nat
  row    : Nat
  add    : Bool
  mma    : Nat
  samp   : Option Nat
deriving DecidableEq, Repr

/-- What travels through the array, in order: an activation vector, or an empty token with the drains that share it, in
ascending tag order, its readouts done or not, and when it was inserted (R23, R42, R63, R65). -/
inductive PipeItem where
  | vec (v : VecItem)
  | drain (ds : List DrainReq) (done : Bool) (since : Nat)
deriving DecidableEq, Repr

/-- The array of a tile. -/
structure TileSt where
  acc     : SMap AccRow := []
  active  : Option WTile := none
  shadow  : Option WTile := none
  loading : Option WTile := none
  pipe    : List PipeItem := []
  /-- the context that holds the array (CTX index on its Floe), since when, and whether it has been released and the array
  waits for its tile store to let the last drains out (R66, R73, R74) -/
  holder  : Option Nat := none
  since   : Nat := 0
  leaving : Bool := false
  /-- number of the next MMA, and the last MMA that has recorded a saturation (R76) -/
  mmas    : Nat := 0
  satRec  : Option Nat := none
  /-- the Mix-10 test of the lanes runs; a vector instruction that was issued waits (R111) -/
  kat     : Bool := false
  vbusy   : Bool := false
deriving DecidableEq, Repr

/-- The tile stores: bytes by tile · 2^22 + offset, poisoned 64-bit words and words in error (bits that differ from
the valid code word: 64 data, 8 check bits), both by word number (R69, R71). -/
structure TsSt where
  mem  : List Host.Cell := []
  pois : SMap Bool := []
  err  : SMap (BitVec 72) := []
deriving DecidableEq, Repr

/-- A sample in a shadow checker's queue (R140, R145): the vector with its weight tile, the 128 values that left the
array, and the layer, FLOOR, BIN and COUNT it is compared under. -/
structure ShdSample where
  item  : VecItem
  d     : List W32
  layer : Nat
  floor : Int
  bin   : Nat
  count : Nat
deriving DecidableEq, Repr

/-- A shadow checker: queue, histogram bins by layer · 16 + bin, trip counters, layers that have tripped, and the
vectors each tile has issued since EN was last set (R139–R142). -/
structure ShdSt where
  queue : List ShdSample := []
  hist  : SMap Nat := []
  trips : SMap Nat := []
  tripped : SMap Bool := []
  issued : SMap Nat := []
deriving DecidableEq, Repr

/-! ### Vector state and task contexts (chapters 3 and 15) -/

/-- Vector registers, element poison and masks of a tile (R77): element i of v_r at 2048·r + i, bit i of m_k at
2048·k + i. -/
structure VecSt where
  v : SMap W32 := []
  p : SMap Bool := []
  m : SMap Bool := []
deriving DecidableEq, Repr

/-- A DMA cursor (R445): ACTIVE, DIR (true: tile store to HBM), next HBM address, next tile-store offset, bytes left. -/
structure DmaCur where
  active : Bool := false
  out    : Bool := false
  haddr  : Nat := 0
  toff   : Nat := 0
  left   : Nat := 0
deriving DecidableEq, Repr

/-- STATE of a context (R445). -/
inductive CtxState where
  | free | ready | running | saving | parked | done | faulted
deriving DecidableEq, Repr

/-- What a running context awaits at its next save boundary (R450, R451): nothing, a save to READY for the quantum, for
HOLD, for YIELD or for a switch-off, a save to PARKED, an end by KILL. -/
inductive CtxWant where
  | none | quantum | save | park | kill
deriving DecidableEq, Repr

/-- A stream register (R77). -/
structure StreamReg where
  stream : W32 := 0
  base   : W64 := 0
  draw   : W32 := 0
deriving DecidableEq, Repr

/-- A task context as the dispatcher knows it (R445). For a sampler walk `s` holds the cursor of R199 in 64-bit words
and `wdesc` the walk descriptor's address. -/
structure Ctx where
  state  : CtxState := .free
  kind   : Nat := 0
  flags  : Nat := 0
  prio   : Nat := 0
  affinity : Nat := 0xFF
  layer  : Nat := 0
  exit   : Nat := 0
  pc     : Nat := 0
  save   : Nat := 0
  vlen   : Nat := 0
  vflags : BitVec 6 := 0
  tsOff  : Nat := 0
  tsLen  : Nat := 0
  rs0 : StreamReg := {}
  rs1 : StreamReg := {}
  rs2 : StreamReg := {}
  rs3 : StreamReg := {}
  s      : SMap W64 := []
  dma0   : DmaCur := {}
  dma1   : DmaCur := {}
  wdesc  : Nat := 0
  /-- the tile it runs on (for a walk, its sampler), since when, and what it awaits -/
  tile   : Option Nat := none
  since  : Nat := 0
  want   : CtxWant := .none
  /-- it waits in a WAITW: address of the word, the value it is compared with -/
  waitw  : Option (Nat × Nat) := none
deriving DecidableEq, Repr

/-! ### Rings and the optimizer units (chapter 4) -/

/-- A ring command in progress: its ring index, its OP, the STATUS it will end with once that is decided, IRQ on
completion. -/
structure RingCmd where
  idx    : Nat
  op     : Nat
  status : Option Nat
  irq    : Bool
deriving DecidableEq, Repr

/-- An optimizer unit: the command in progress, and whether the command at CQ_HEAD is held under WAIT (R135). -/
structure OptSt where
  cur  : Option RingCmd := none
  held : Option (Nat × Bytes) := none
deriving DecidableEq, Repr

/-! ### Pruner-codec, merge unit and hub splitter (chapter 5) -/

/-- An instance: the command in progress and the runs of bytes it writes, unspecified to a load until it is counted
(R173). -/
structure PrnSt where
  cur  : Option RingCmd := none
  dsts : List (Nat × Nat) := []
deriving DecidableEq, Repr

/-! ### Samplers (chapter 6) and exchange engines (chapters 7 and 8) -/

/-- A part of an exchange operation (R220, R225): the owner rank, its rows (local rows, node ids or record positions),
sends made, when its deadline falls, the status it was answered with or failed with. -/
structure XPart where
  owner  : Nat
  rows   : List Nat
  sends  : Nat
  due    : Nat
  status : Option Nat
deriving DecidableEq, Repr

/-- A node as a hop expanded it (R186, R191): degree, edges as (EID, neighbour), flags. -/
structure Expn where
  node   : Nat
  degree : Nat
  edges  : List (Nat × Nat)
  resv   : Bool := false
  remote : Bool := false
  failed : Bool := false
  pois   : Bool := false
  leaf   : Bool := false
deriving DecidableEq, Repr

/-- A walk between events 3 and 5 of a hop (R193), or decided to end: the hop, the expansions held, the parts sent to
owners, the STATUS it ends with. -/
structure WalkSt where
  hop   : Nat
  exps  : List Expn
  parts : List XPart
  fin   : Option Nat
  /-- a row was read with poison at a hop that did not complete -/
  pois  : Bool := false
deriving DecidableEq, Repr

/-- Where the row of a logical index lives (R206, R216): a hot replica, a local row of an owner, nowhere; or its id was
read with poison. -/
inductive XRow where
  | hot (replica : Nat)
  | at (owner row : Nat)
  | bad
  | pois
deriving DecidableEq, Repr

/-- A KV_SHIFT in progress (R240): LEN that downstream said it is ready for, whether the send is out and acknowledged,
whether the receive is complete, when the deadline falls, sends made. -/
structure KvSt where
  ready : Option Nat := none
  sent  : Bool := false
  acked : Bool := false
  got   : Bool := false
  fail  : Bool := false
  due   : Nat := 0
  sends : Nat := 0
deriving DecidableEq, Repr

/-- A command of an exchange engine in progress. `desc` and `tdesc` are the command and the table descriptor as they
were read; `ver` the latched version; `rows` the row of each logical index; `bags` the bag offsets of a pooled command;
`vals` the rows that have come, by (owner, row), `none` for one read with poison; `recvd` the expert batches that have
come, by source. -/
structure XchCmd where
  idx   : Nat
  op    : Nat
  irq   : Bool
  desc  : Bytes
  tdesc : Bytes := []
  ver   : Nat := 0
  rows  : List XRow := []
  bags  : List Nat := []
  parts : List XPart := []
  vals  : List ((Nat × Nat) × Option (List W32)) := []
  recvd : List (Nat × Option (List (List W32 × Bool))) := []
  /-- what each owner was sent, by owner: a row number, its data, poison -/
  out   : List (Nat × List (Nat × List W32 × Bool)) := []
  kv    : KvSt := {}
  /-- off-load: directory entries still to copy, bytes of the first of them that are copied, whether its copy has failed -/
  ents  : List Nat := []
  pos   : Nat := 0
  bad   : Bool := false
  partial' : Bool := false
  pois  : Bool := false
  /-- STATUS when it is decided before the parts are -/
  status : Option Nat := none
deriving DecidableEq, Repr

/-- Accepted update batches of one (TABLE, STEP, BATCH) that have not been applied (R223): the slot they pin, the rows by
source, when APPLY_WAIT ends, whether it has ended, whether this is a batch that came after its group's apply. -/
structure XGroup where
  table : Nat
  step  : Nat
  batch : Nat
  slot  : Nat
  from' : List (Nat × List (Nat × List W32 × Bool))
  due   : Nat
  expired : Bool
  late  : Bool
deriving DecidableEq, Repr

/-- A batch that has come to an engine, or to the sampler of its Floe, and waits until it can be served (R200, R228). -/
inductive XArr where
  | look (src table ver tag : Nat) (rows : List Nat)
  | scatter (src table ver step batch : Nat) (rows : List (Nat × List W32 × Bool))
  | expert (src step : Nat) (isReturn : Bool) (rows : List (List W32 × Bool)) (failed : Bool)
  | expand (b : RemoteBatch)
deriving DecidableEq, Repr

/-- A DISPATCH of an engine (R227): its step, and for each owner the positions of the records sent to it. -/
structure DispSt where
  step   : Nat
  owners : List (Nat × List Nat)
deriving DecidableEq, Repr

/-- An exchange engine: commands in progress in ring order, batches that wait, accepted batches, applied groups of the kept
steps (R223), the DISPATCHes of each step (R227), READY messages and shares that wait, by DIR and round (R241), and the
round of the last share that was received from each side. -/
structure XchSt where
  cmds    : List XchCmd := []
  arrived : List XArr := []
  groups  : List XGroup := []
  applied : List (Nat × Nat × Nat) := []
  disp    : List DispSt := []
  ready   : List (Nat × Nat × Nat) := []
  held    : List (Nat × Nat × Bytes × List Bool) := []
  last    : List (Nat × Nat) := []
deriving DecidableEq, Repr

/-! ### Links (chapters 9 and 14) and the router -/

/-- A DATA flit in a retry buffer (R262, R264): what it carries, without the fields that each sending fills in. -/
structure TxFlit where
  vc   : Nat
  head : Bool
  tail : Bool
  pois : Bool
  payload : Bytes
deriving DecidableEq, Repr

/-- A packet at an egress (R273): the bytes of header and body, where it came from (an input port or 8 to 10) and on
which of its VCs, the VC it leaves on, the flits that have left, and the credits it still holds there. -/
structure EgPkt where
  src   : Nat
  inVc  : Nat
  outVc : Nat
  bytes : Bytes
  pois  : Bool
  sent  : Nat
  owed  : Nat
deriving DecidableEq, Repr

/-- A packet that comes in on a VC: its bytes, its flits, poison; whether its TAIL has come. -/
structure InPkt where
  vc    : Nat
  bytes : Bytes
  flits : Nat
  pois  : Bool
  done  : Bool
deriving DecidableEq, Repr

/-- One end of a link (R260–R267): lanes in lock and the uncorrectable codewords of the last window; the retry buffer
with the number of the next flit, the place of a replay in it, replays in a row, when an acknowledgement must have
advanced; the number expected, whether any flit was accepted, whether a NAK is out; credits held for each VC, the last
count of returned credits seen, the credits returned and last reported, the VC reported next; packets coming in and going
out; the VC and the requester of each VC that were granted last; whether a retraining offers every enabled lane. -/
structure LinkSt where
  lock    : BitVec 8 := 0
  win     : List Nat := []
  retry   : List TxFlit := []
  txNext  : Nat := 0
  replay  : Option Nat := none
  replays : Nat := 0
  ackDue  : Nat := 0
  rxNext  : Nat := 0
  rxAny   : Bool := false
  nakked  : Bool := false
  credit  : List Nat := []
  crSeen  : List Nat := []
  crRet   : List Nat := []
  crRep   : List Nat := []
  crTurn  : Nat := 0
  inq     : List InPkt := []
  egress  : List EgPkt := []
  lastVc  : Nat := 0
  lastReq : List Nat := []
  /-- the wait counters of the egress requesters (R456) -/
  waits   : List Nat := []
  /-- Oplis: bytes of each virtual network's stream that have been sent (R404) -/
  outAt   : List Nat := []
  /-- Oplis: slots of each virtual network that have come and are no whole message yet (R404) -/
  inAt    : List Bytes := []
  full    : Bool := false
deriving DecidableEq, Repr

/-! ### Reduction channels and Calving (chapters 10 and 11) -/

/-- Where a channel operation stands. -/
inductive ChPhase where
  /-- taken: it waits for its turn, its gate, or a fence -/
  | wait
  /-- agreement of exponents (R294) -/
  | agree
  /-- adding partials (R296) -/
  | data
  /-- its partial has gone up, or it was dropped: it waits for the result -/
  | up
  /-- it holds the result and waits for its children -/
  | down
  /-- a Calving operation has started (R318, R327) -/
  | calving
deriving DecidableEq, Repr

/-- A child of this rank in a tree (R288, R319): stage, level counted over the stages and within its stage, subtree start
of the node, rank; what has come from it. -/
structure RedKid where
  stage  : Nat
  glevel : Nat
  level  : Nat
  start  : Nat
  rank   : Nat
  joined : Bool := false
  exps   : Option (List Int) := none
  units  : List (Bytes × Bool) := []
  part   : Option RedPartial := none
  dropped : Bool := false
  acked  : Bool := false
  orphan : Bool := false
  exSent : Bool := false
  resSent : Bool := false
  /-- the bitmaps of its AGREE partial; its AGREE and its DATA partial have been discarded and counted (R299) -/
  apart  : RedPartial := {}
  lateA  : Bool := false
  lateD  : Bool := false
  /-- COPY_DONE of a Calving: OK, and the reason when not -/
  report : Option (Bool × Nat) := none
deriving DecidableEq, Repr

/-- A message of an operation that has not been taken yet. -/
inductive RedMsg where
  | join (src digest : Nat)
  | ready (src digest : Nat)
  | drop (src digest level : Nat)
  | copyDone (src digest : Nat) (ok : Bool) (reason : Nat)
  | chunk (src digest entry off : Nat) (data : Bytes) (pois : List Bool) (ver : Option (Nat × Nat × Nat))
  | decision (src digest reason : Nat) (commit : Bool)
deriving DecidableEq, Repr

/-- A run of bytes that a Calving sends (R318): plan entry, destination rank, offset in the destination's NEW shard, the
runs it is read from; since when the fence holds it. -/
structure CalOut where
  entry : Nat
  dst   : Nat
  off   : Nat
  segs  : List (Nat × Nat)
  held  : Option Nat := none
deriving DecidableEq, Repr

/-- A chunk that has arrived and is not yet written, with the time since when the fence holds it; of a gather, a shard
that has arrived, `entry` being its index, with its version record, or none for one that is missing. -/
structure CalIn where
  entry : Nat
  src   : Nat
  off   : Nat
  data  : Bytes
  pois  : List Bool
  held  : Option Nat := none
  ver   : Option (Nat × Nat × Nat) := none
deriving DecidableEq, Repr

/-- A Calving operation that has started: chunks to send, sent and unacknowledged (entry, destination, offset), chunks
held on arrival, runs still expected (entry, source, offset, length), staged runs (NEW address, staging address, length),
its failure, whether COPY_DONE went out, the decision with its reason, when the copy phase and the decision fall due; of a
gather, the shards that have arrived in part (by shard index: bytes, poison) and the shards that are done. -/
structure CalRun where
  plan    : List Bytes := []
  /-- the source map of a LAND -/
  map     : List Bytes := []
  /-- OLD, NEW and staging ranges on this rank -/
  ranges  : List (Nat × Nat) := []
  out     : List CalOut := []
  unacked : List (Nat × Nat × Nat) := []
  held    : List CalIn := []
  expect  : List (Nat × Nat × Nat × Nat) := []
  staged  : List (Nat × Nat × Nat) := []
  stageAt : Nat := 0
  stagedN : Nat := 0
  fail    : Option Nat := none
  doneSent : Bool := false
  decided : Option (Bool × Nat) := none
  tDecide : Nat := 0
  bytesOut : Nat := 0
  bytesIn : Nat := 0
  shards  : SMap (Option (Bytes × List Bool)) := []
  done    : List Nat := []
  stale   : Nat := 0
  missing : Nat := 0
  /-- the check-value unit that a gather uses (R396) -/
  cvu     : Option Nat := none
deriving DecidableEq, Repr

/-- An operation of a channel in progress (R284): SEQ, ring index, descriptor, phase, T0, the T of R298, when the result
came, when the gate is polled next; tree; agreed exponents; the partial so far and whether its blocks stand in DST; the
children whose partials of this phase are in; what arrived from the parent; the STATUS once it is decided. -/
structure ChOp where
  seq    : Nat
  idx    : Nat
  op     : Nat
  irq    : Bool
  desc   : Bytes
  phase  : ChPhase := .wait
  t0     : Nat := 0
  tPhase : Nat := 0
  tRes   : Nat := 0
  gateDue : Nat := 0
  parent : Option Nat := none
  kids   : List RedKid := []
  ready  : Bool := false
  dropped : Bool := false
  aSent  : Bool := false
  done   : Nat := 0
  mexp   : List Int := []
  ea     : Option (List Int) := none
  empty  : Bool := false
  inDst  : Bool := false
  part   : RedPartial := {}
  /-- the bitmaps of the agreement phase -/
  apart  : RedPartial := {}
  hdr    : Bytes := []
  pres   : List Nat := []
  pois   : Bool := false
  /-- result units that have come from the parent; a Deferred record of poison has been made -/
  res    : List (Bytes × Bool) := []
  poisRec : Bool := false
  fenced : Bool := false
  satRec : Bool := false
  cal    : CalRun := {}
  status : Option Nat := none
deriving DecidableEq, Repr

/-- A child that was dropped in an operation that is complete: SEQ, rank, which of its partials have been counted (R299). -/
structure LateKid where
  seq   : Nat
  rank  : Nat
  lateA : Bool
  lateD : Bool
deriving DecidableEq, Repr

/-- A reduction channel (R283, R284, R300): operations in progress in SEQ order, messages of operations to come, children
dropped in operations that are complete, halted. -/
structure RedSt where
  ops    : List ChOp := []
  past   : List LateKid := []
  held   : List (Nat × RedMsg) := []
  halted : Bool := false
deriving DecidableEq, Repr

/-- An operation that completed in doubt on this rank (R322), with its channel. -/
structure DoubtSt where
  chan : Nat
  op   : ChOp
deriving DecidableEq, Repr

/-! ### Firn (chapter 12) -/

/-- The version of a chunk's content: version epoch, check value, poison (R346–R348). -/
structure ChkVal where
  vepoch : Nat
  check  : W64
  pois   : Bool
deriving DecidableEq, Repr

/-- A coded form of a chunk that the keeper holds for its twin (R342, R344): the version, the code, the payload. -/
structure KForm where
  v       : ChkVal
  code    : Nat
  payload : Bytes
deriving DecidableEq, Repr

/-- What the keeper holds of a chunk (R342): the sealed form, coded against zero; what has been sealed since and awaits its
fold, and the in-progress form, both coded against the content of the sealed form. -/
structure KChunk where
  sealed : Option KForm := none
  delta  : Option KForm := none
  prog   : Option KForm := none
deriving DecidableEq, Repr

/-- Where a seal stands (R352). -/
inductive SealPhase where
  | idle
  /-- event 2: gates -/
  | gates
  /-- event 3: the gates have opened, the conditions of R355 and R356 are awaited -/
  | cutWait
  /-- event 5 -/
  | flush
  /-- event 7: the manifest is sent -/
  | manifest
deriving DecidableEq, Repr

/-- A command of slot A or K as it was taken (R370): descriptor address and bytes, STATUS once it is decided, the time
of the next gate poll, how far a long command has come. -/
structure FirnCmd where
  desc   : Nat
  bytes  : Bytes
  status : Option Nat := none
  due    : Nat := 0
  pos    : Nat := 0
  /-- bytes of the image that are behind it, second tries of the present record -/
  off    : Nat := 0
  tries  : Nat := 0
deriving DecidableEq, Repr

/-- The twin's HELLO as sender and as keeper (R360). -/
structure TwinHello where
  keyHash : Bytes
  sealed  : Nat
  cur     : Nat
  kstate  : Nat
  heldHash : Bytes
  heldEpoch : Nat
  /-- its keeper takes the stream -/
  keeps   : Bool
deriving DecidableEq, Repr

/-- A granule sent and not yet answered: its epoch and its records. -/
structure SentGran where
  epoch : Nat
  recs  : List ChunkRec
deriving DecidableEq, Repr

/-- A restore or rollback in progress: the manifest once it is accepted, the chunks entered, tries of R_RESEND by granule,
the granules a rollback awaits, poison seen. -/
structure RestSt where
  manifest : Option Bytes := none
  got      : SMap (Option ChkVal) := []
  tries    : SMap Nat := []
  want     : List Nat := []
  pois     : Bool := false
  /-- the signer's public key; chunk messages that wait for their writes -/
  key      : Bytes := []
  queue    : List (Nat × List ChunkRec) := []
deriving DecidableEq, Repr

/-- Both Firn instances. -/
structure FirnSt where
  /-- protected set in force as (START, GRANULES), the set that waits for the next cut, the set of the epoch being sealed -/
  pset     : List (Nat × Nat) := []
  psetNext : Option (List (Nat × Nat)) := none
  psetSeal : List (Nat × Nat) := []
  /-- CTRL.EN has been set since reset (R337) -/
  everEn   : Bool := false
  /-- the current and the sealing bitmap by granule (R340) -/
  cur      : SMap Bool := []
  sealing  : SMap Bool := []
  phase    : SealPhase := .idle
  slotA    : Option FirnCmd := none
  slotK    : Option FirnCmd := none
  /-- granules sent and not yet answered, by granule -/
  sent     : SMap (Option SentGran) := []
  /-- by chunk number: the values of the last seal, and those sent in the epoch in progress (R348) -/
  sealed   : SMap (Option ChkVal) := []
  prog     : SMap (Option ChkVal) := []
  /-- epoch of the last Deferred record of poison sent (R347) -/
  poisEpoch : Nat := 0
  /-- where each instance's scan goes on; the 10 µs window it last started granules in and how many -/
  next     : SMap Nat := []
  started  : SMap (Nat × Nat) := []
  /-- since when both sub-links have been down -/
  mirDown  : Option Nat := some 0
  /-- the epoch being sealed, the rank at its cut, the manifest that was sent -/
  sealEpoch : Nat := 0
  sealRank : Nat := 0
  sealMan  : Bytes := []
  /-- ROOT of the last sealed epoch -/
  sealRoot : Bytes := []
  /-- the twin's HELLO since the mirror came up -/
  hello    : Option TwinHello := none
  rest     : RestSt := {}
  /-- keeper side: the twin's key hash, its chunks by chunk number, its manifest, the epoch of its in-progress forms -/
  kKey     : Bytes := []
  kChunks  : SMap KChunk := []
  kManifest : Bytes := []
  kEpochCur : Nat := 0
  /-- granules that failed a check and have not come again -/
  kBad     : SMap Bool := []
  /-- state to return to after serving, and whether a rollback is served -/
  kReturn  : Nat := 0
  kRoll    : Bool := false
  /-- a manifest of the twin that waits for the end of an export (R369) -/
  kWait    : Option Bytes := none
  /-- runs of writes of units, as address and bytes, that wait for a granule of the sealing bitmap (R354) -/
  unitHeld : List (Nat × Nat) := []
  /-- descriptors of refused commands whose STATUS has still to be written (R371) -/
  refused  : List Nat := []
deriving DecidableEq, Repr

/-! ### HBM, check-value units (chapter 13) and the Oplis link (chapter 14) -/

/-- A CVU's scan in progress: its range and its start. -/
structure ScanSt where
  addr  : Nat
  len   : Nat
  start : Nat
deriving DecidableEq, Repr

/-- HBM: the bytes; for each sector whose stored symbols are no valid codeword, the remainder that tells how they
differ from the valid check symbols of the stored bytes (16 bits a check symbol, R380–R382); when the next scrub step
of each stack falls due; the running scans; and when each stack's INIT started. -/
structure HbmSt where
  mem  : List Host.Cell := []
  chk  : SMap W64 := []
  scrubDue : SMap Nat := []
  scans : SMap (Option ScanSt) := []
  initAt : SMap Nat := []
deriving DecidableEq, Repr

/-- A line of the line cache (R419): companion line number, M, dirty, data, poison of each half. -/
structure LcLine where
  line  : Nat
  m     : Bool
  dirty : Bool
  data  : Bytes
  plo   : Bool
  phi   : Bool
  /-- filled and not yet used: the access that missed uses it without counting a hit -/
  fill  : Bool
deriving DecidableEq, Repr

/-- What a device request on Oplis is (R405). -/
inductive TxnKind where
  | rdShared | rdOwn | rdUncached | wrFull | wrPartial | evict
deriving DecidableEq, Repr

/-- A device request: kind, companion address, the egress requester that issued it (R432), when it times out, whether
it has failed and only its TXID is kept (R428), and the line of an Evict with its data. -/
structure DevTxn where
  kind  : TxnKind
  caddr : Nat
  unit  : Nat
  due   : Nat
  dead  : Bool
  /-- the bytes a Rd_Uncached asks for -/
  size  : Nat
  line  : Option LcLine
deriving DecidableEq, Repr

/-- A device snoop of an HBM line (R416, R418, R420): Snp_Inv or Snp_Share, when it times out, whether it was resolved
without its answer (R429), and whether an answer with EVP has come and the Evict is awaited (R414). -/
structure DevSnp where
  line : Nat
  inv  : Bool
  due  : Nat
  dead : Bool
  evp  : Bool
deriving DecidableEq, Repr

/-- A companion request (R405, R415): opcode, address, TXID, log2 of the size, byte mask, data, poison of each half,
DIRTY of an Evict. -/
structure CoReq where
  opc  : Nat
  addr : Nat
  txid : Nat
  size : Nat
  mask : BitVec 128
  data : Bytes
  plo  : Bool
  phi  : Bool
  dirty : Bool
deriving DecidableEq, Repr

/-- An access that waits at a controller for its line, its granule or a thaw (R354, R411, R416, R458). -/
inductive Wait where
  /-- a device requester's sector read: address, requester, what the read and its re-read will meet -/
  | rd (addr req : Nat) (e1 e2 : Seeing)
  /-- a device requester's sector write -/
  | wr (addr req : Nat) (mask : BitVec 64) (data : Bytes) (pois : Bool) (e1 e2 : Seeing)
  /-- a companion request in the tracker -/
  | co (r : CoReq)
deriving DecidableEq, Repr

/-- The answer to a Rd_Uncached of a unit, kept until the unit uses it. -/
structure RdBuf where
  unit  : Nat
  caddr : Nat
  data  : Bytes
  plo   : Bool
  phi   : Bool
  ok    : Bool
deriving DecidableEq, Repr

/-- A LINE_CACHE_ACCESS that waits for its line. -/
structure LcWait where
  addr   : Nat
  unit   : Nat
  stream : Bool
  wr     : Option (BitVec 128 × Bytes)
deriving DecidableEq, Repr

/-- The Oplis agent. -/
structure OplSt where
  /-- the snoop filter: lines of the coherent window, true for M, least recently granted first (R418) -/
  sf   : List (Nat × Bool) := []
  /-- the line cache, least recently used first (R419) -/
  lc   : List LcLine := []
  txns : SMap (Option DevTxn) := []
  snps : SMap (Option DevSnp) := []
  /-- lines granted whose completion Ack is awaited, with the TXID of the read (R411) -/
  busy : List (Nat × Nat) := []
  /-- accesses that wait, in order of arrival -/
  waits : List Wait := []
  lcw   : List LcWait := []
  rdbuf : List RdBuf := []
  /-- egress requesters a write of which has failed since they last looked (R428) -/
  fails : List Nat := []
  quiescing : Bool := false
  quiesced : Bool := false
deriving DecidableEq, Repr


/-! ### What leaves the device -/

/-- What the device sends, oldest first in the outbox: answers to masters, messages on Oplis, packets and flits, Firn
messages, pin-visible answers. Each constructor names the rule of the message. -/
inductive OutMsg where
  /-- answer of a register read (R38) or a read of the device by a master -/
  | rdata (m addr width : Nat) (v : W64)
  /-- answer of a register write: status 0 done, 1 address error, 3 dropped (R14, R436, R439) -/
  | wack (m addr status : Nat)
  /-- Notify: PAGE_ID and pending bits (R426) -/
  | notify (page : Nat) (pend : W32)
  /-- a word latched at the far side of a die bridge: bridge, channel, direction, word, its flit, poisoned (R26, R27) -/
  | bridgeWord (b ch : Nat) (toSecond : Bool) (w : W64) (flit : Nat) (poison : Bool)
  /-- a word returned by a bridge's entry stage: bridge, channel, direction, flit, status 4 (R29) -/
  | bridgeBack (b ch : Nat) (toSecond : Bool) (flit status : Nat)
  /-- a controller's answer to a read: sector address, requester, status 0 or 4, data, poison (R376, R379) -/
  | hbmData (addr req status : Nat) (data : Bytes) (pois : Bool)
  /-- a controller's acknowledge of a write (R376) -/
  | hbmAck (addr req status : Nat)
  /-- an Oplis message (R405): opcode, TXID, RKIND, STATE, STATUS, SIZE, address, DIRTY, EVP, byte mask, data, poison -/
  | oplis (opc txid rkind st status size addr : Nat) (dirty evp : Bool) (mask : BitVec 128) (data : Bytes) (plo phi : Bool)
  /-- a line cache access of a unit is served: address, unit, data, poison of its halves, whether it failed (R419) -/
  | lcData (addr unit : Nat) (data : Bytes) (plo phi fail : Bool)
  /-- an answer from the accumulator window: reader, address, bytes, poison, status 0, 1 or 4 (R72) -/
  | accData (m addr : Nat) (data : Bytes) (pois : Bool) (status : Nat)
  /-- an answer from a tile store: tile, offset, requester, bytes, poison of the eight words (R69, R71) -/
  | tsData (t off req : Nat) (data : Bytes) (pois : BitVec 8)
  /-- a part of a LOOKUP or GATHER to its owner: engine, owner, ring index, table, version (65,536: the owner's current
  one), local rows (R220) -/
  | xchRead (n owner ring table ver : Nat) (rows : List Nat)
  /-- a SCATTER batch: engine, owner, ring index, table, version, step, batch, local rows with gradients and poison (R222) -/
  | xchUpdate (n owner ring table ver step batch : Nat) (rows : List (Nat × List W32 × Bool))
  /-- a DISPATCH or RETURN batch (R227): engine, destination rank, ring index, step, direction, rows with poison -/
  | xchExpert (n owner ring step : Nat) (isReturn : Bool) (rows : List (List W32 × Bool))
  /-- a remote expansion batch (R195): sampler, owner, walk context, hop, fan-out, THRESH, STREAM, IDX64, nodes -/
  | xchExpand (n owner walk hop fanout thresh : Nat) (stream : W32) (idx64 : Bool) (nodes : List Nat)
  /-- an owner's answer to a read part: engine, source rank, table, tag, status, row records with poison (R220) -/
  | xchRows (n src table tag status : Nat) (recs : List (Bytes × Bool))
  /-- an owner's answer to a SCATTER batch: engine, source rank, table, step, batch, status (R223, R224) -/
  | xchAck (n src table step batch status : Nat)
  /-- an owner's answer to a remote expansion batch: sampler, source rank, tag, nodes (R195) -/
  | xchExpanded (n src tag : Nat) (nodes : List ExpNode)
  /-- READY of a KV_SHIFT to the upstream rank: engine, that rank, direction, round, length (R240) -/
  | kvReady (n dst dir round len : Nat)
  /-- the share sent downstream: engine, that rank, direction, round, data, poison of its 64-byte parts (R240) -/
  | kvData (n dst dir round : Nat) (data : Bytes) (pois : List Bool)
  /-- acknowledgement of a share to the upstream rank (R240) -/
  | kvAck (n dst dir round : Nat)
  /-- reduction messages of a channel (R291): destination rank, SEQ, digest -/
  | redJoin (c dst seq digest : Nat)
  | redReady (c dst seq digest : Nat)
  | redDrop (c dst seq digest level : Nat)
  | redAgree (c dst seq digest : Nat) (p : RedPartial) (exps : List Int)
  | redAgreeRes (c dst seq digest : Nat) (exps : List Int)
  | redData (c dst seq digest stage level first : Nat) (units : List (Bytes × Bool)) (last : Option RedPartial)
  | redResult (c dst seq digest first : Nat) (units : List (Bytes × Bool)) (hdr : Option (Bytes × List Nat))
  | redAck (c dst seq digest : Nat)
  /-- Calving messages of a channel (R318, R327): chunks and their receipts, COPY_DONE, decisions, ACK -/
  | calvChunk (c dst seq digest entry off : Nat) (data : Bytes) (pois : List Bool) (ver : Option (Nat × Nat × Nat))
  | calvReceipt (c dst seq digest entry off : Nat)
  | calvCopyDone (c dst seq digest : Nat) (ok : Bool) (reason : Nat)
  | calvDecision (c dst seq digest reason : Nat) (commit : Bool)
  | calvAck (c dst seq digest : Nat)
  /-- what a link's end declares while it trains, and the lanes it advertises as good (R257, R260, R276, R402): link -/
  | train (p : Nat) (me : PeerInfo)
  | lanes (p good : Nat)
  /-- a flit on a link: port (0-7 torus, 8 and 9 mirror sub-links, 10 Oplis), the 256 bytes (R262) -/
  | flit (p : Nat) (b : Bytes)
  /-- a packet delivered to a local endpoint (R268): arrival port or injector, endpoint, source rank, TAG, body, poison -/
  | deliver (src ep rank : Nat) (tag : W32) (body : Bytes) (pois : Bool)
  /-- the device identification code that the TAP captures (R542) -/
  | jtagId (v : W32)
  /-- Firn messages (R360) -/
  | firnHello (keyHash : Bytes) (epochSealed epochCur grade kstate : Nat) (heldHash : Bytes) (heldEpoch freeStore : Nat) (keeps : Bool)
  | firnChunks (n epoch gran : Nat) (recs : List ChunkRec)
  | firnGack (gran status : Nat)
  | firnManifest (m : Bytes)
  | firnSealed (epoch status : Nat)
  | firnRqRestore (mode epoch : Nat) (grans : List Nat)
  | firnRManifest (m : Bytes)
  | firnRChunks (gran : Nat) (recs : List ChunkRec)
  | firnRResend (gran : Nat)
  | firnRestored (epoch status : Nat)
deriving DecidableEq, Repr

/-- A Notify that waits until the companion has answered the units' writes that came before it (R426): its page, the bits
pending when it arose, the TXIDs that are still without Ack. -/
structure NoteWait where
  page  : Nat
  pend  : W32
  after : List Nat
deriving DecidableEq, Repr

/-! ### The whole state -/

/-- The block. `regs` holds every software-visible register that is stored, by `rk`; an unlisted register reads its
reset value. -/
structure State where
  /-- commands waiting, first in first out -/
  pending : List Instr := []
  /-- messages sent, oldest first -/
  outbox  : List OutMsg := []
  /-- the model's own counter behind the free values (log 3) -/
  fresh   : Nat := 0
  regs    : SMap W32 := []
  /-- the _HI shadows of R38, by (master, register) -/
  shadows : SMap (Option W32) := []
  life    : LifeSt := {}
  pins    : PinSt := {}
  clk     : ClkSt := {}
  fuses   : FuseSt := {}
  err     : ErrSt := {}
  own     : OwnSt := {}
  pwr     : PwrSt := {}
  sec     : SecSt := {}
  age     : AgeSt := {}
  tiles   : SMap TileSt := []
  ts      : TsSt := {}
  shd     : SMap ShdSt := []
  vec     : SMap VecSt := []
  /-- the contexts that are not FREE, by index 0–65,535 -/
  ctxs    : SMap Ctx := []
  /-- seed words behind the key in force of a page, by `rk cls inst 0` (R106) -/
  keySeed : SMap (W32 × W32 × W32 × W32) := []
  /-- seed words of a key whose derivation runs: a write of SEED3, or a wake of the domain (R106) -/
  keyNext : SMap (Option (W32 × W32 × W32 × W32)) := []
  /-- Floes whose context table is to be read once their dispatcher is on: EN was set while it was off -/
  scanDue : SMap Bool := []
  /-- the context command of a Floe that waits for memory, as its code and context: CMD_STAT.BUSY (R461) -/
  ctxBusy : SMap (Option (Nat × Nat)) := []
  opt     : SMap OptSt := []
  prn     : SMap PrnSt := []
  walks   : SMap (Option WalkSt) := []
  xch     : SMap XchSt := []
  links   : SMap LinkSt := []
  red     : SMap RedSt := []
  /-- operations that are in doubt (R322) -/
  doubt   : List DoubtSt := []
  hbm     : HbmSt := {}
  opl     : OplSt := {}
  /-- Notify messages that wait, oldest first (R426) -/
  notes   : List NoteWait := []
  firn    : FirnSt := {}
deriving DecidableEq, Repr

/-- Why the machine stops with a fault. No meaning of this block raises one: every command of the table has an effect
that the spec gives, and a command that does not apply changes nothing or is answered. The one constructor keeps the
type closed and inhabited. -/
inductive Fault where
  /-- raised by no definition (safe) -/
  | none
deriving DecidableEq, Repr

/-- Why a command is refused by the model. -/
inductive Refusal where
  /-- the command has no meaning in the model yet; raised by the arms of `exec` that say so (safe) -/
  | notModelled (mnemonic : String)
deriving DecidableEq, Repr

/-- The device right after the first release of RESET_N that follows VAON coming up (log 1). -/
def State.reset : State :=
  { regs := [(rk cSYS 0 SYS.RESET_CAUSE, 3), (rk cERR 0 ERR.BOOT_CNT, 1)] }

end Sys2Proof.Machine
end

