-- ==== Sys2Proof/Machine/Ops.lean ====
section
/-! DEFINITION. The operations every chapter shares: reading and writing registers, counters, interrupt causes and
Notify, error records (R484) and the Fatal halt (R486), power-domain and path checks, and what happens to a master's
write on its way to a register (R14, R436, R439, R465, R523). -/
namespace Sys2Proof.Machine

/-- The outcome type of a meaning. -/
abbrev Res : Type := Host.Outcome State Fault Refusal

/-! ### Registers -/

/-- The stored value of a register; an unlisted one reads its reset value. -/
def State.rd (s : State) (cls inst off : Nat) : W32 := mget (regReset cls off) s.regs (rk cls inst off)

/-- Stores a register. -/
def State.wr (s : State) (cls inst off : Nat) (v : W32) : State :=
  { s with regs := mset (regReset cls off) s.regs (rk cls inst off) v }

/-- A field of a stored register. -/
def State.rdf (s : State) (cls inst off lo n : Nat) : Nat := fld (s.rd cls inst off) lo n

/-- Writes a field of a stored register. -/
def State.wrf (s : State) (cls inst off lo n x : Nat) : State := s.wr cls inst off (setFld (s.rd cls inst off) lo n x)

/-- One bit of a stored register. -/
def State.rdb (s : State) (cls inst off i : Nat) : Bool := bit (s.rd cls inst off) i

/-- Writes one bit of a stored register. -/
def State.wrb (s : State) (cls inst off i : Nat) (b : Bool) : State := s.wrf cls inst off i 1 (b2n b)

/-- A 64-bit register from its _LO and _HI words (R436). -/
def State.rd64 (s : State) (cls inst off : Nat) : Nat :=
  (s.rd cls inst off).toNat + (s.rd cls inst (off + 4)).toNat * 4294967296

/-- Stores a 64-bit register, modulo 2^64. -/
def State.wr64 (s : State) (cls inst off n : Nat) : State :=
  (s.wr cls inst off (u32 n)).wr cls inst (off + 4) (u32 (n / 4294967296))

/-- Adds to a saturating 32-bit counter. -/
def State.bump (s : State) (cls inst off : Nat) (n : Nat := 1) : State :=
  s.wr cls inst off (u32 (min 4294967295 ((s.rd cls inst off).toNat + n)))

/-- Adds to a wrapping 32-bit counter. -/
def State.bumpW (s : State) (cls inst off : Nat) (n : Nat := 1) : State :=
  s.wr cls inst off (u32 ((s.rd cls inst off).toNat + n))

/-- Adds to a 64-bit counter, modulo 2^64. -/
def State.bump64 (s : State) (cls inst off : Nat) (n : Nat := 1) : State :=
  s.wr64 cls inst off (s.rd64 cls inst off + n)

/-- A message leaves the device. -/
def State.send (s : State) (m : OutMsg) : State := { s with outbox := s.outbox ++ [m] }

/-- TIME: the timebase modulo 2^64 (R32). -/
def State.time64 (s : State) : W64 := u64 s.clk.time

/-- The device runs: VAON in range, RESET_N high, no halt. -/
def State.live (s : State) : Bool := s.life.vaon && !s.life.inReset && !s.life.halted

/-- A value the spec leaves open; the counter in State moves on, so that each use is its own value (log 3). -/
def State.free (s : State) : W32 × State := (Config.freeW32 s.fresh, { s with fresh := s.fresh + 1 })

/-! ### Interrupt causes and Notify (R426) -/

/-- The pending set of a page: IRQ_STAT AND IRQ_EN. -/
def State.pendSet (s : State) (cls inst : Nat) : W32 := s.rd cls inst hIRQ_STAT &&& s.rd cls inst hIRQ_EN

/-- PAGE_ID of a page (R436). -/
abbrev pageId (cls inst : Nat) : Nat := cls * 65536 + inst

/-- A LINK_STAT word of a link that is up: STATE up or degrading (R261, R279). -/
def linkWordUp (v : W32) : Bool := fld v 28 4 == 2 || fld v 28 4 == 3

/-- The Oplis link is up and the device runs. -/
def State.oplUp (s : State) : Bool := s.live && linkWordUp (s.rd cOPL 0 OPL.LINK_STAT)

/-- A Notify leaves, granted by the Oplis egress and counted in TX_MSG (R426, R432). -/
def State.notifyOut (s : State) (page : Nat) (pend : W32) : State :=
  ((s.bump64 cOPL 0 OPL.TX_MSG).bump64 cARB 145 ARB.GRANTS).send (.notify page pend)

/-- TXIDs of the writes of units to companion memory that no Ack has answered. -/
def State.unitWrites (s : State) : List Nat :=
  s.opl.txns.filterMap fun e =>
    if e.2.any fun x => !x.dead && (x.kind == .wrFull || x.kind == .wrPartial) then some e.1 else none

/-- A Notify with the page's pending bits is due: it leaves at once, or waits for the Acks of the writes that units have
made before it (R426). -/
def State.notifyDue (s : State) (cls inst : Nat) : State :=
  if s.unitWrites.isEmpty then s.notifyOut (pageId cls inst) (s.pendSet cls inst)
  else { s with notes := s.notes ++ [⟨pageId cls inst, s.pendSet cls inst, s.unitWrites⟩] }

/-- A unit's write has been answered, or has failed: the Notify messages that waited for it alone leave (R426). -/
def State.noteDone (s : State) (id : Nat) : State :=
  let ns := s.notes.map fun n => { n with after := n.after.filter (· != id) }
  (ns.filter (·.after.isEmpty)).foldl (fun s n => s.notifyOut n.page n.pend) { s with notes := ns.filter (!·.after.isEmpty) }

/-- Notify when a page's pending set has turned from zero, as `before` had it, to non-zero (R426). -/
def State.notifyFrom (before s : State) (cls inst : Nat) : State :=
  if before.pendSet cls inst == 0 && s.pendSet cls inst != 0 && s.rdb cOPL 0 hCTRL 3 && s.oplUp then s.notifyDue cls inst
  else s

/-- Sets bits of a page's IRQ_STAT, with Notify when its pending set turns non-zero (R426). -/
def State.irq (s : State) (cls inst : Nat) (bits : Nat) : State :=
  s.notifyFrom (s.wr cls inst hIRQ_STAT (s.rd cls inst hIRQ_STAT ||| u32 bits)) cls inst

/-! ### Error records (R483–R488) -/

/-- What a block says of an error it detects. -/
structure ErrIn where
  sev    : Nat
  cause  : Nat
  detail : Nat := 0
  addr   : Option Nat := none
  /-- INFO where a rule gives it; the rest is block-specific and left open: a free value (log 26) -/
  info   : Option W32 := none
  ctx    : Option Nat := none

/-- CODE of a record: detail byte and cause (R483). -/
def ErrRec.code (r : ErrRec) : Nat := r.detail % 256 * 256 + r.cause % 256

/-- Word k of a record as its page shows it (R483). -/
def ErrRec.word (r : ErrRec) (k : Nat) : W32 :=
  match k with
  | 0 => u32 (0x80 + r.sev % 4 + 256 * (b2n r.addr.isSome + 2 * b2n r.ctx.isSome + 4 * b2n r.nested + 8 * b2n r.halt) +
           65536 * r.code)
  | 1 => u32 r.src
  | 2 => u32 r.time.toNat
  | 3 => u32 (r.time.toNat / 4294967296)
  | 4 => u32 ((r.addr.getD 0).toNat)
  | 5 => u32 ((r.addr.getD 0).toNat / 4294967296)
  | 6 => r.info
  | 7 => u32 (r.ctx.getD 0 % 65536 + 65536 * r.boot.toNat)
  | _ => 0

/-- Word k of a record that may be absent: zero. -/
def recWord (r : Option ErrRec) (k : Nat) : W32 := match r with | some r => r.word k | none => 0

/-- The queue of a page. -/
def State.errQ (s : State) (page : Nat) : List ErrRec := mget [] s.err.queues page

/-- The ERR_COUNT field of a severity, by its low bit (R484, R494). -/
def errField (sev : Nat) : Nat := if sev = 0 then 0 else if sev = 1 then 8 else 16

/-- Adds one to an 8-bit saturating field of a page's ERR_COUNT. -/
def State.bumpErrField (s : State) (cls inst lo : Nat) : State :=
  s.wrf cls inst hERR_COUNT lo 8 (min 255 (s.rdf cls inst hERR_COUNT lo 8 + 1))

/-- Appends a record to the device log (R487). -/
def State.logAppend (s : State) (r : ErrRec) : State :=
  let w := s.rdf cERR 0 ERR.LOG_WR 0 10
  let s1 := { s with err := { s.err with log := mset none s.err.log w (some r), logCnt := min 1024 (s.err.logCnt + 1) } }
  let s2 := s1.wr cERR 0 ERR.LOG_WR (u32 ((w + 1) % 1024))
  if s.err.logCnt < 1024 then s2 else s2.bump cERR 0 ERR.LOG_LOST

/-- Detection of an error by a page (R484): the record is formed, counted, latched, queued and logged, and the ERR page
tells of it. `halt` marks a Fatal record (R486). -/
def State.recErrH (s0 : State) (halt : Bool) (cls inst : Nat) (e : ErrIn) : State :=
  let info := e.info.getD s0.free.1
  let s := if e.info.isSome then s0 else s0.free.2
  let pg := pageId cls inst
  let q := s.errQ pg
  let r : ErrRec := { sev := e.sev, nested := false, halt := halt, cause := e.cause, detail := e.detail, src := pg,
                      time := s.time64, addr := e.addr.map u64, info := info, ctx := e.ctx,
                      boot := BitVec.ofNat 8 (s.rd cERR 0 ERR.BOOT_CNT).toNat }
  let rq := { r with nested := !q.isEmpty }
  let s1 := s.bumpErrField cls inst (errField e.sev)
  let s2 := if (mget none s1.err.first pg).isNone then
      { s1 with err := { s1.err with first := mset none s1.err.first pg (some rq) } } else s1
  let s3 := if q.length < 8 then
      ({ s2 with err := { s2.err with queues := mset [] s2.err.queues pg (q ++ [rq]) } }).irq cERR 0 (2 ^ (e.sev % 4))
    else s2.bumpErrField cls inst 24
  s3.logAppend rq

/-- Detection of an error that does not halt the device. -/
def State.recErr (s : State) (cls inst : Nat) (e : ErrIn) : State := s.recErrH false cls inst e

/-- An Uncorrected-contained record of a cause. -/
def State.recUC (s : State) (cls inst cause : Nat) (addr : Option Nat := none) (info : Option W32 := none) (ctx : Option Nat := none) :
    State := s.recErr cls inst { sev := 2, cause := cause, addr := addr, info := info, ctx := ctx }

/-- A Deferred record of a cause. -/
def State.recDef (s : State) (cls inst cause : Nat) (addr : Option Nat := none) (info : Option W32 := none) : State :=
  s.recErr cls inst { sev := 1, cause := cause, addr := addr, info := info }

/-- A Corrected record of a cause. -/
def State.recCE (s : State) (cls inst cause : Nat) (addr : Option Nat := none) (info : Option W32 := none) : State :=
  s.recErr cls inst { sev := 0, cause := cause, addr := addr, info := info }

/-- INT_N is asserted: some queued record has a severity enabled in INT_SEV, or the device is halted (R488). -/
def State.intN (s : State) : Bool :=
  s.life.halted || s.err.queues.any fun e => e.2.any fun r => s.rdb cERR 0 ERR.INT_SEV r.sev

/-! ### Power domains -/

/-- Switch time of a domain in 10 ns counts (R464). -/
def switchTime (d : Nat) : Nat := if d < 72 then 400 else 200

/-- The state of a domain. -/
def State.pdst (s : State) (d : Nat) : PdSt := mget {} s.pwr.pd d

/-- Replaces the state of a domain. -/
def State.setPd (s : State) (d : Nat) (p : PdSt) : State := { s with pwr := { s.pwr with pd := mset {} s.pwr.pd d p } }

/-- PD_STAT: the domain is switched on (R466, R467). -/
def State.pdStat (s : State) (d : Nat) : Bool :=
  match (s.pdst d).phase with
  | .on | .offWait => true
  | .settling t => decide (t + switchTime d ≤ s.clk.time)
  | .off | .wakeWait => false

/-- A block in the domain can work: the device runs and the domain is on. -/
def State.on (s : State) (d : Nat) : Bool := s.live && s.pdStat d

/-- A domain is off or switching (R457). -/
def State.masked (s : State) (d : Nat) : Bool := (s.pdst d).phase != .on

/-- No tile pair of the Floe is on. -/
def State.noTiles (s : State) (f : Nat) : Bool := (List.range 32).all fun k => s.masked (32 * f + k)

/-- MASK: requester r of group g is masked (R457; the requesters of R70, R273, R378, R432, and of the mirror port the
Firn instances and the management channel). -/
def State.arbMasked (s : State) (g r : Nat) : Bool :=
  if g < 128 then decide (r < 5) && s.masked (g / 2)
  else if g < 136 then
    let f := (g - 128) / 4
    match r with
    | 0 => s.noTiles f
    | 1 => s.masked 89
    | 2 => s.masked 88
    | 3 => s.masked (84 + f)
    | 4 => s.masked (82 + f)
    | 5 => s.masked (94 + f)
    | 6 => s.masked (86 + f)
    | 7 => s.masked 81
    | 8 => s.masked (64 + (g - 128))
    | 9 => s.masked (90 + f)
    | _ => false
  else if g < 144 then
    if r < 8 then s.masked (72 + r) else if r = 9 then s.masked 82 else if r = 10 then s.masked 83 else false
  else if g = 144 then (if r < 2 then s.masked (86 + r) else false)
  else
    match r with
    | 0 | 1 => s.masked 81
    | 2 => s.masked 82
    | 3 => s.masked 83
    | 4 => s.masked 86
    | 5 => s.masked 87
    | 6 => s.noTiles 0
    | 7 => s.noTiles 1
    | _ => false

/-- The domain of a page, if its block has one (R464). -/
def pageDomain (cls inst : Nat) : Option Nat :=
  match cls with
  | 0x10 | 0x11 => some (inst / 2)
  | 0x12 | 0x13 => some (92 + inst)
  | 0x20 => some (64 + inst)
  | 0x22 => some (90 + inst / 2)
  | 0x30 => some (72 + inst)
  | 0x31 => some 80
  | 0x32 => some 81
  | 0x40 | 0x41 => some (82 + inst)
  | 0x43 => some (94 + inst)
  | 0x45 => some (84 + inst)
  | 0x46 => some (86 + inst)
  | 0x48 => if inst < 128 then some (inst / 2) else if inst < 136 then some (64 + (inst - 128)) else
            if inst < 144 then some (72 + (inst - 136)) else if inst = 144 then some 80 else some 81
  | _ => none

/-- The page's block can work. -/
def State.pageOn (s : State) (cls inst : Nat) : Bool :=
  match pageDomain cls inst with | some d => s.on d | none => s.live

/-- The Floe of a tile. -/
abbrev floeOf (t : Nat) : Nat := t / 64

/-- A tile is enabled: its pair is not fused off (R3). -/
def State.tileEnabled (s : State) (t : Nat) : Bool := bit s.fuses.tilePairs (t / 2) && decide (t < 128)

/-- A tile works: enabled, its domain on. -/
def State.tileOn (s : State) (t : Nat) : Bool := s.tileEnabled t && s.on (t / 2)

/-! ### The Fatal halt (R486) -/

/-- Every link goes down: LINK_STAT of the ports, of the mirror sub-links and of Oplis reads down, and the Oplis and
mirror status bits follow. -/
def State.linksDown (s : State) : State :=
  let s := (List.range 8).foldl (fun s p => s.wr cPORT p PORT.LINK_STAT 0) s
  ((s.wr cMIR 0 MIR.SUB0_STAT 0).wr cMIR 0 MIR.SUB1_STAT 0).wr cOPL 0 OPL.LINK_STAT 0

/-- A Fatal error (R482, R486): the record with HALT, FATAL_REC, TWIN_ALIVE_OUT low, every transmitter stopped, the
device halted until reset. -/
def State.fatal (s : State) (cls inst cause : Nat) (addr : Option Nat := none) (info : Option W32 := none) : State :=
  let s1 := s.recErrH true cls inst { sev := 3, cause := cause, addr := addr, info := info }
  let boot := (s.rd cERR 0 ERR.BOOT_CNT).toNat
  let r := match mget none s1.err.log (s.rdf cERR 0 ERR.LOG_WR 0 10) with | some r => some (r, boot) | none => none
  let s2 := if s1.err.fatal.any (fun f => f.2 == boot) then s1 else { s1 with err := { s1.err with fatal := r } }
  let s3 := { s2 with life := { s2.life with halted := true }, pins := { s2.pins with twinAliveOut := false } }
  s3.linksDown

/-! ### Masters and their writes -/

/-- Pages that lie in AON (R501). -/
def inAon (cls : Nat) : Bool := decide (cls ≤ 6)

/-- The mirror link's management channel is up: a sub-link is up (R277). -/
def State.mirUp (s : State) : Bool :=
  s.live && (linkWordUp (s.rd cMIR 0 MIR.SUB0_STAT) || linkWordUp (s.rd cMIR 0 MIR.SUB1_STAT))

/-- A packet of the management channel joins VC 0 of sub-link 0, or of sub-link 1 while that is down (R277). -/
def State.mgmtOut (s : State) : State :=
  let p := if linkWordUp (s.rd cMIR 0 MIR.SUB0_STAT) then 8 else 9
  let l := mget {} s.links p
  let e : EgPkt := { src := 13, inVc := 6, outVc := 0, bytes := Config.mgmtPacket s.fresh, pois := false, sent := 0, owed := 0 }
  { s with links := mset {} s.links p { l with egress := l.egress ++ [e] }, fresh := s.fresh + 1 }

/-- The answer to a master's access: the twin's companion has it over the management channel (R277). -/
def State.answer (s : State) (m : Nat) (a : OutMsg) : State := (if m = 1 && s.mirUp then s.mgmtOut else s).send a

/-- A master's access can reach the device: the companion over Oplis, the twin's companion over the mirror link with
MGMT_EN, the board manager over I3C (R439, R277). -/
def State.pathOk (s : State) (m : Nat) : Bool :=
  match m with
  | 0 => s.oplUp
  | 1 => s.mirUp && s.rdb cMIR 0 hCTRL 2
  | 2 => s.life.vaon && !s.life.inReset
  | _ => false

/-- The register address names a page of R438, and the access has an allowed width and alignment (R436). -/
def regAddrOk (cls inst off width : Nat) : Bool :=
  decide (inst < instances cls) && (width == 4 || width == 8) && off % width == 0 && decide (off < 4096)

/-- An access of a master whose way is shut: the twin's companion is answered with an error while the mirror link is up and
MGMT_EN is 0, and counted (R277); the others reach nothing. -/
def State.pathShut (s : State) (m addr : Nat) : State :=
  if m = 1 && s.mirUp then (s.bump cMIR 0 MIR.MGMT_DROP_CNT).answer 1 (.wack 1 addr 1) else s

/-- Before the end of secure boot nothing is written; during a halt only the AON pages other than SYS are reached (R486,
R501). -/
def State.writeServed (s : State) (cls : Nat) : Bool := s.sec.done && (!s.life.halted || (inAon cls && cls != cSYS))

/-- The master owns the device now: the lease has not passed (R441, R442). -/
def State.isOwner (s : State) (m : Nat) : Bool :=
  s.own.mode == .owned && s.own.owner == m && decide (s.clk.time ≤ s.own.deadline)

/-- Device address of a register (R16). -/
abbrev regAddr (cls inst off : Nat) : Nat := 0xF00000000000 + rk cls inst off

/-- What R439 notes of a write that R14 drops: DROP_CNT, LAST_DROP, IRQ_STAT.DROP. -/
def State.dropNote (s : State) (m addr : Nat) : State :=
  let s := s.bump cOWN 0 (OWN.DROP_CNT + 4 * m)
  let s := s.wr64 cOWN 0 OWN.LAST_DROP_ADDR addr
  let s := s.wr cOWN 0 OWN.LAST_DROP_INFO (u32 (m % 4 * 65536 + 1))
  s.irq cOWN 0 8

/-- Status with which a dropped write is answered on its path (R439). -/
def dropStatus (m : Nat) : Nat := if m = 2 then 0 else 3

/-- A write that R14 drops: counted and latched, and answered on its path (R439). -/
def State.dropWrite (s : State) (m addr : Nat) : State := (s.dropNote m addr).answer m (.wack m addr (dropStatus m))

/-- What is noted of an access that completes with an address error (R15, R436): on Oplis the answer is counted and recorded
against the link (R431), on I3C it is recorded (R541; log 20). -/
def State.addrNote (s : State) (m addr : Nat) : State :=
  if m = 0 then (s.bump cOPL 0 OPL.ADDR_ERR_CNT).recUC cOPL 0 0x09 (some addr)
  else if m = 2 then s.recUC cSYS 0 0x09 (some addr) else s

/-- An access that completes with an address error and has no other effect. -/
def State.addrErr (s : State) (m addr : Nat) : State := (s.answer m (.wack m addr 1)).addrNote m addr

/-- Bring-up is over: BRINGUP is 5 or 6 (R523). -/
def State.bringupOver (s : State) : Bool := decide (5 ≤ s.rdf cSYS 0 hSTAT 12 4)

/-- MEM_READY (R526). -/
def State.memReady (s : State) : Bool := s.rdb cSYS 0 hSTAT 2

/-- A write that R523 ignores during bring-up is counted, whichever master makes it. -/
def State.lockDrop (s : State) (m addr : Nat) : State := (s.bump cSYS 0 SYS.LOCK_DROP_CNT).answer m (.wack m addr 0)

/-- Pages of disabled tiles ignore writes (R3). -/
def State.disabledPage (s : State) (cls inst : Nat) : Bool :=
  (cls == cTILE || cls == cVEC || (cls == cARB && decide (inst < 128))) && !s.tileEnabled inst

/-- A write of master `m` to a register, on its way (R14, R436, R439, R523, R3): `locked` says that R523 ignores it now;
`act` is what the write does when it arrives from the owner. -/
def State.ownerWrite (s : State) (m cls inst off : Nat) (locked : Bool) (act : State → State) : State :=
  if !s.pathOk m then s.pathShut m (regAddr cls inst off)
  else if !regAddrOk cls inst off 4 || !s.writeServed cls then s.addrErr m (regAddr cls inst off)
  else if locked then s.lockDrop m (regAddr cls inst off)
  else if !s.isOwner m then s.dropWrite m (regAddr cls inst off)
  else if s.disabledPage cls inst then s.answer m (.wack m (regAddr cls inst off) 0)
  else (act s).answer m (.wack m (regAddr cls inst off) 0)

/-- An action written to a page whose domain is off has no effect; it is counted and recorded (R465). -/
def State.offAction (s : State) (cls inst : Nat) : State := (s.bump cPWR 0 PWR.OFF_ACT_CNT).recUC cls inst 0x05

/-- A write that starts an action, from master `m` (R465 on top of `ownerWrite`). -/
def State.actionWrite (s : State) (m cls inst off : Nat) (locked : Bool) (act : State → State) : State :=
  s.ownerWrite m cls inst off locked fun s => if s.pageOn cls inst then act s else s.offAction cls inst

end Sys2Proof.Machine
end

