-- ==== Sys2Proof/Machine/Timers.lean ====
section
/-! DEFINITION. The timebase, the general-purpose timers, the rate monitor, the die bridges and REFCLK (R26–R40). -/
namespace Sys2Proof.Machine

/-- The timer n. -/
def State.gpt (s : State) (n : Nat) : GptSt := mget {} s.clk.gpt n

/-- Replaces timer n. -/
def State.setGpt (s : State) (n : Nat) (g : GptSt) : State := { s with clk := { s.clk with gpt := mset {} s.clk.gpt n g } }

/-- The load value of timer n; 0 acts as 1 (R35). -/
def State.gptLoad (s : State) (n : Nat) : Nat :=
  max 1 ((s.rd cTIM 0 (TIM.GPT_LOAD_LO + 16 * n)).toNat + s.rdf cTIM 0 (TIM.GPT_LOAD_HI + 16 * n) 0 16 * 4294967296)

/-- Counts remaining on timer n. -/
def State.gptRemain (s : State) (n : Nat) : Nat :=
  if s.rdb cTIM 0 (TIM.GPT_TCTRL + 16 * n) 0 then (s.gpt n).due - s.clk.time else (s.gpt n).left

/-- A write of GPTn_TCTRL: EN starts the timer from its load value, EN clear stops it where it stands (R35). -/
def State.tctrlWrite (s : State) (n : Nat) (v : W32) : State :=
  let g : GptSt := if bit v 0 then { due := s.clk.time + s.gptLoad n, left := 0 } else { due := 0, left := s.gptRemain n }
  (s.setGpt n g).wr cTIM 0 (TIM.GPT_TCTRL + 16 * n) (u32 (fld v 0 2))

/-- GPTn_TCTRL (R35). -/
def execGptTctrlWrite (m n : Nat) (v : BitVec 32) (s : State) : Res :=
  .next <| if n < 16 then s.ownerWrite m cTIM 0 (TIM.GPT_TCTRL + 16 * n) false (·.tctrlWrite n v) else s

/-- Timer n reaches zero: its GPT_EXP bit is set; periodic, it reloads, one-shot, it stops and EN clears (R35). -/
def execGptExpire (n : Nat) (s : State) : Res :=
  .next <|
    if n < 16 && s.life.vaon && !s.life.inReset && s.rdb cTIM 0 (TIM.GPT_TCTRL + 16 * n) 0 &&
        decide ((s.gpt n).due ≤ s.clk.time) then
      let s1 := if s.rdb cTIM 0 (TIM.GPT_TCTRL + 16 * n) 1 then s.setGpt n { due := (s.gpt n).due + s.gptLoad n, left := 0 }
        else (s.setGpt n {}).wrb cTIM 0 (TIM.GPT_TCTRL + 16 * n) 0 false
      s1.irq cTIM 0 (2 ^ n)
    else s

/-- The rail whose field of V_MEAS begins at bit `lo` measures below 0.65 V: RATE reads 0 (R37, R476, R547). -/
def State.railLow (s : State) (lo : Nat) : Bool := decide (s.rdf cPWR 0 PWR.V_MEAS lo 10 < 650)

/-- The end of a 10 µs window, at a multiple of 1,000 counts: RATE takes the ring handshakes of the window as the ring made
them (R37); a read while the rail is low answers 0 (`railLow`). -/
def execRateWindowEnd (ringA ringB : Nat) (s : State) : Res :=
  .next <|
    if s.life.vaon && !s.life.inReset && s.clk.running && s.clk.time % 1000 == 0 && s.clk.time != 0 then
      (s.wr cTIM 0 TIM.RATE_A (u32 (min 65535 ringA))).wr cTIM 0 TIM.RATE_B (u32 (min 65535 ringB))
    else s

/-- The four throughput counters clear at one instant (R39). -/
def State.clrHs (s : State) : State :=
  (((s.wr64 cTIM 0 TIM.ARRAY_HS_A 0).wr64 cTIM 0 TIM.ARRAY_HS_B 0).wr64 cTIM 0 TIM.VEC_HS_A 0).wr64 cTIM 0 TIM.VEC_HS_B 0

/-- TIM CTRL.CLR_HS (R39). -/
def execClrHs (m : Nat) (s : State) : Res := .next <| s.ownerWrite m cTIM 0 hCTRL false (·.clrHs)

/-- REFCLK is missing for 1 µs: REFCLK_LOST, the timebase stops, a Fatal error against the TIM page (R34, R482). -/
def execRefclkLost (s : State) : Res :=
  .next <|
    if s.life.vaon && !s.life.inReset && s.clk.running then
      let s := (s.wrf cTIM 0 hSTAT 0 2 2).fatal cTIM 0 0x11
      { s with clk := { s.clk with running := false } }
    else s

/-! ### The die bridges -/

/-- The domain of a bridge, in the bit order of R40: PD89, PD88, PD88, PD89 (R18). -/
def bridgeDomain (b : Nat) : Nat := if b = 0 ∨ b = 3 then 89 else 88

/-- Channels of a bridge in each direction (R18). -/
def bridgeChannels (b : Nat) : Nat := if b = 3 then 256 else 512

/-- The key of a bridge channel in one direction. -/
abbrev chanKey (b ch : Nat) (toSecond : Bool) : Nat := (b * 512 + ch) * 2 + b2n toSecond

/-- The wait of a bridge channel. -/
def State.chanWait (s : State) (k : Nat) : Option ChanWait := mget none s.clk.chans k

/-- A channel waits at event `ev` from now, or goes on waiting there. -/
def State.chanHold (s : State) (k ev : Nat) : State :=
  if (s.chanWait k).any (·.ev == ev) then s
  else { s with clk := { s.clk with chans := mset none s.clk.chans k (some ⟨ev, s.clk.time⟩) } }

/-- A channel has ended its handshake. -/
def State.chanFree (s : State) (k : Nat) : State :=
  { s with clk := { s.clk with chans := mset none s.clk.chans k none } }

/-- A word of the bridge waits on some channel. -/
def State.bridgeWaits (s : State) (b : Nat) : Bool := s.clk.chans.any fun e => e.1 / 1024 == b && e.2.isSome

/-- The channels of the bridges of a domain lose their words. -/
def State.bridgeClear (s : State) (d : Nat) : State :=
  { s with clk := { s.clk with chans := s.clk.chans.filter fun e => bridgeDomain (e.1 / 1024) != d } }

/-- A stall is recorded on the bridge (R40). -/
def State.bridgeStalled (s : State) (b : Nat) : Bool := s.rdb cTIM 0 TIM.BRIDGE_STAT (8 + b)

/-- BRIDGE_STAT as read: STALL is sticky, IDLE is 0 while a word waits on some channel, UP while the domain is on (R40). -/
def State.bridgeStat (s : State) : W32 :=
  u32 ((List.range 4).foldl (fun a b =>
    a + (if s.bridgeStalled b then 2 ^ (8 + b) else 0) + (if s.bridgeWaits b then 0 else 2 ^ (4 + b)) +
      b2n (s.pdStat (bridgeDomain b)) * 2 ^ b) 0)

/-- Value of a digit whose wires are valid: the index of the one wire that is high. The spec names no wire's value:
wire i stands for value i (DESIGN CHOICE, log 82). -/
def digitVal (d : BitVec 4) : Nat := if d = 1 then 0 else if d = 2 then 1 else if d = 4 then 2 else 3

/-- The word that the digits of a channel deliver: digit k gives bits [2k + 1 : 2k]; R26 gives no order of the digits
(DESIGN CHOICE, log 82). -/
def digitsWord (ds : List (BitVec 4)) : W64 :=
  u64 (ds.foldr (fun d a => digitVal d + 4 * a) 0)

/-- A path-unavailable return of a bridge whose domain is off (R29). The record's ADDR holds the bridge number, of which no
rule speaks (DESIGN CHOICE, log 83). -/
def State.bridgeUnavail (s : State) (b : Nat) : State := (s.recUC cTIM 0 0x05 (some b)).irq cTIM 0 0x20000

/-- The receiver latches a word; a digit with more than one wire high is a bridge code error, and the flit of the word is
poisoned (R26, R27). -/
def State.chanLatch (s : State) (b ch : Nat) (toSecond : Bool) (digits : List (BitVec 4)) (flit : Nat) : State :=
  let bad := digits.any fun d => !(d == 1 || d == 2 || d == 4 || d == 8)
  let s := if bad then (s.recDef cTIM 0 0x02 (some b)).irq cTIM 0 0x20000 else s
  s.send (.bridgeWord b ch toSecond (digitsWord digits) flit bad)

/-- One word over a bridge channel by the four-phase handshake (R26): `digits` are the wires that the receiver sees at event
2, `after` those it sees once the sender has lowered its wires. Some digit with no wire high: the channel waits at event 2,
nothing is latched. Some digit not empty afterwards: it waits at event 4, and begins no other word until all are. A bridge
that is off returns the word (R29). -/
def execBridgeWordTransfer (b ch : Nat) (toSecond : Bool) (digits after : List (BitVec 4)) (flit : Nat) (s : State) : Res :=
  .next <|
    let k := chanKey b ch toSecond
    if !s.live || !decide (b < 4) || !decide (ch < bridgeChannels b) || digits.length != 32 then s
    else if !s.pdStat (bridgeDomain b) then (s.bridgeUnavail b).send (.bridgeBack b ch toSecond flit 4)
    else if (s.chanWait k).any (·.ev == 4) then (if digits.all (· == 0) then s.chanFree k else s)
    else if digits.any (· == 0) then s.chanHold k 2
    else
      let s := (s.chanFree k).chanLatch b ch toSecond digits flit
      if after.all (· == 0) then s else s.chanHold k 4

/-- A channel has waited at event 2 or 4 for longer than BRIDGE_WDOG: STALL, a Fatal error (R28, R33, R40). -/
def execBridgeStall (b ch : Nat) (toSecond : Bool) (ev : Nat) (s : State) : Res :=
  .next <|
    if s.live && decide (b < 4) && s.pdStat (bridgeDomain b) &&
        (s.chanWait (chanKey b ch toSecond)).any (fun w => w.ev == ev && decide (w.since + s.rdf cTIM 0 TIM.BRIDGE_WDOG 0 24 < s.clk.time)) then
      (s.wrb cTIM 0 TIM.BRIDGE_STAT (8 + b) true).fatal cTIM 0 0x10 (some b)
    else s

end Sys2Proof.Machine
end

