-- ==== Sys2Proof/Machine/Memory.lean ====
section
/-! DEFINITION. Memory: the Glacier code, reading and writing HBM sectors (R374–R388, R549), Firn's marking and holds
(R339, R354), and the tile store with its SECDED words and poison (R69–R72). -/
namespace Sys2Proof.Machine

/-! ### Bytes in a cell list -/

/-- `n` bytes at address `a`. -/
def getBytes (m : List Host.Cell) (a n : Nat) : Bytes := (List.range n).map fun i => mget 0 m (a + i)

/-- Writes a run of bytes. -/
def setBytes (m : List Host.Cell) (a : Nat) : Bytes → List Host.Cell
  | [] => m
  | b :: r => setBytes (mset 0 m a b) (a + 1) r

/-! ### The field GF(2^16) and the Glacier code (R380–R383) -/

/-- Multiplication by x modulo x^16 + x^12 + x^3 + x + 1. -/
def gfX (a : BitVec 16) : BitVec 16 := if a.getLsbD 15 then (a <<< 1) ^^^ 0x100B else a <<< 1

/-- Product of two field elements: `n` bits of `b` remain, the present multiple of `a` is `a`. -/
def gfMulAux : Nat → BitVec 16 → BitVec 16 → BitVec 16
  | 0, _, _ => 0
  | n + 1, a, b => (if b.getLsbD 0 then a else 0) ^^^ gfMulAux n (gfX a) (b >>> 1)

/-- Product of two field elements. -/
def gfMul (a b : BitVec 16) : BitVec 16 := gfMulAux 16 a b

/-- α^k. -/
def gfPow : Nat → BitVec 16
  | 0 => 1
  | k + 1 => gfX (gfPow k)

/-- a^(2^n − 2) by squaring: the inverse of a non-zero element for n = 16. -/
def gfInvAux : Nat → BitVec 16 → BitVec 16
  | 0, _ => 1
  | n + 1, a => gfMul (gfMul a a) (gfInvAux n (gfMul a a))

/-- The inverse of a non-zero element. -/
def gfInv (a : BitVec 16) : BitVec 16 := gfInvAux 15 a

/-- Four symbols: coefficients x^0 to x^3 of a remainder, or the syndromes S0 to S3. -/
abbrev Sym4 : Type := BitVec 16 × BitVec 16 × BitVec 16 × BitVec 16

def Sym4.add (a b : Sym4) : Sym4 := (a.1 ^^^ b.1, a.2.1 ^^^ b.2.1, a.2.2.1 ^^^ b.2.2.1, a.2.2.2 ^^^ b.2.2.2)

/-- Packs four symbols, symbol 0 lowest. -/
def Sym4.pack (a : Sym4) : W64 := a.2.2.2 ++ a.2.2.1 ++ a.2.1 ++ a.1
/-- The four symbols of a packed word. -/
def sym4Of (w : W64) : Sym4 :=
  (w.extractLsb' 0 16, w.extractLsb' 16 16, w.extractLsb' 32 16, w.extractLsb' 48 16)

/-- Coefficients x^0 to x^3 of g(x) = (x + 1)(x + α)(x + α^2)(x + α^3). -/
def genPoly : Sym4 :=
  let mulRoot (p : List (BitVec 16)) (r : BitVec 16) : List (BitVec 16) :=
    ((0 :: p).zip ((p.map (gfMul r)) ++ [0])).map fun t => t.1 ^^^ t.2
  let g := [gfPow 0, gfPow 1, gfPow 2, gfPow 3].foldl mulRoot [1]
  (g.getD 0 0, g.getD 1 0, g.getD 2 0, g.getD 3 0)

/-- A remainder times x modulo g. -/
def remX (c : Sym4) : Sym4 :=
  let t := c.2.2.2
  (gfMul t genPoly.1, c.1 ^^^ gfMul t genPoly.2.1, c.2.1 ^^^ gfMul t genPoly.2.2.1, c.2.2.1 ^^^ gfMul t genPoly.2.2.2)

/-- pat · x^pos modulo g: how a symbol pattern at a position shows in the check symbols. -/
def errRem (pos : Nat) (pat : BitVec 16) : Sym4 :=
  match pos with
  | 0 => (pat, 0, 0, 0)
  | p + 1 => remX (errRem p pat)

/-- The syndrome S_j of a remainder. -/
def syn1 (c : Sym4) (j : Nat) : BitVec 16 :=
  c.1 ^^^ gfMul c.2.1 (gfPow j) ^^^ gfMul c.2.2.1 (gfPow (2 * j)) ^^^ gfMul c.2.2.2 (gfPow (3 * j))

/-- The four syndromes of a remainder. -/
def synOf (c : Sym4) : Sym4 := (syn1 c 0, syn1 c 1, syn1 c 2, syn1 c 3)

/-- The remainder of the poison marker: c38 XOR 0x8000 (R382). -/
def poisonRem : Sym4 := errRem 38 0x8000

/-- A pattern of one symbol with these syndromes. -/
def find1 (s : Sym4) : Option (List (Nat × BitVec 16)) :=
  let ok (i : Nat) : Bool :=
    let x := gfPow i
    s.1 != 0 && s.2.1 == gfMul s.1 x && s.2.2.1 == gfMul s.2.1 x && s.2.2.2 == gfMul s.2.2.1 x
  ((List.range 39).find? ok).map fun i => [(i, s.1)]

/-- A pattern of two symbols with these syndromes: positions i < j whose locators solve both recurrences. -/
def find2 (s : Sym4) : Option (List (Nat × BitVec 16)) :=
  let ok (p : Nat × Nat) : Bool :=
    let x := gfPow p.1
    let y := gfPow p.2
    s.2.2.1 == (gfMul (x ^^^ y) s.2.1 ^^^ gfMul (gfMul x y) s.1) &&
    s.2.2.2 == (gfMul (x ^^^ y) s.2.2.1 ^^^ gfMul (gfMul x y) s.2.1)
  let pairs := (List.range 39).flatMap fun i => ((List.range 39).filter (i < ·)).map fun j => (i, j)
  (pairs.find? ok).map fun p =>
    let x := gfPow p.1
    let y := gfPow p.2
    let ej := gfMul (s.2.1 ^^^ gfMul s.1 x) (gfInv (x ^^^ y))
    [(p.1, s.1 ^^^ ej), (p.2, ej)]

/-- The classes of `decode` (R382). -/
inductive Dec where
  | good
  | corrected (e : List (Nat × BitVec 16))
  | poisoned (e : List (Nat × BitVec 16))
  | misdirected
  | uncorrectable
deriving DecidableEq, Repr

/-- `decode` of R382 from the syndromes; `one` is MODE 1. -/
def decodeSyn (one : Bool) (s : Sym4) : Dec :=
  if s = (0, 0, 0, 0) then .good
  else
    match (find1 s).orElse (fun _ => if one then none else find2 s) with
    | none => .uncorrectable
    | some e =>
      let at' (i : Nat) : BitVec 16 := (e.find? (fun p => p.1 == i)).elim 0 (·.2)
      if at' 38 = 0x8000 ∧ at' 36 = 0 ∧ at' 37 = 0 then .poisoned (e.filter (fun p => p.1 != 38))
      else if at' 36 ≠ 0 ∨ at' 37 ≠ 0 ∨ at' 38 ≠ 0 then .misdirected
      else .corrected e

/-- Applies symbol patterns at stored data positions 4–35 to the 64 bytes of a sector. -/
def flipData (d : Bytes) (e : List (Nat × BitVec 16)) : Bytes :=
  (d.zip (List.range d.length)).map fun p =>
    e.foldl (fun b x => if x.1 = 4 + p.2 / 2 then b ^^^ x.2.extractLsb' (8 * (p.2 % 2)) 8 else b) p.1

/-! ### HBM addresses and requesters (R374, R378) -/

/-- Bytes of HBM. -/
abbrev hbmSize : Nat := 0x8000000000

/-- The stack of an HBM address. -/
def stackOf (a : Nat) : Nat := (a / 2 ^ 12 ^^^ a / 2 ^ 24 ^^^ a / 2 ^ 36) % 8

/-- Pseudo-channel and sector index of an HBM address. -/
abbrev pcOf (a : Nat) : Nat := a / 64 % 64
abbrev sectOf (a : Nat) : Nat := a / 2 ^ 15 % 2 ^ 24

/-- The address of sector index `i` of pseudo-channel `pc` of stack `n`. -/
def sectorAddr (n pc i : Nat) : Nat :=
  let hi := i * 2 ^ 15
  hi + ((n ^^^ hi / 2 ^ 24 ^^^ hi / 2 ^ 36) % 8) * 2 ^ 12 + pc * 64

/-- A unit as a requester: its Floe (2 for the Serac and the Oplis link, which reach each Floe on its own side) and its
index in the table of R378. -/
structure Rq where
  floe : Nat
  idx  : Nat
deriving DecidableEq, Repr

/-- The index under which a unit's request arrives at the stack of `a`. -/
def Rq.at (r : Rq) (a : Nat) : Nat := if r.floe = 2 ∨ stackOf a / 4 = r.floe then r.idx else 1

/-- The die bridge that is switched off on the way of a unit to Floe `f`, if one is (R17, R18, R29): a unit of the other
Floe crosses the Floe-to-Floe bridge; a Serac unit its Serac's bridge, and the Oplis link, which lies on Serac A, the
Floe-to-Floe bridge as well. -/
def State.pathOff (s : State) (q : Rq) (f : Nat) : Option Nat :=
  if q.floe = 2 then
    if !s.pdStat 88 then some (1 + f) else if q.idx = 7 ∧ f = 1 ∧ !s.pdStat 89 then some 0 else none
  else if q.floe ≠ f ∧ !s.pdStat 89 then some 0
  else none

/-- The stack answers requests: its domain is on and it is initialised (R379, R388). -/
def State.stackOk (s : State) (n : Nat) : Bool := s.on (64 + n) && s.rdb cHBM n hSTAT 3

/-- The stack's arbiters make no grant now: they are frozen, or the stack has woken and its PHY still trains (R464). -/
def State.hbmFrozen (s : State) (n : Nat) : Bool :=
  s.rdb cHBM n hFREEZE 0 || (s.stackOk n && !s.rdb cHBM n hSTAT 2)

/-! ### Firn's view of a write (R339, R354) -/

/-- A granule lies in the protected set in force. -/
def State.protectedGran (s : State) (g : Nat) : Bool :=
  s.firn.pset.any fun e => decide (e.1 / 65536 ≤ g) && decide (g < e.1 / 65536 + e.2)

/-- FIRN CTRL.EN. -/
def State.firnEn (s : State) : Bool := s.rdb cFIRN 0 hCTRL 0

/-- Marks a granule in the current bitmap (R339); PROT_CHANGED follows a protected one. -/
def State.firnMark (s : State) (g : Nat) : State :=
  if s.firnEn then
    let s1 := { s with firn := { s.firn with cur := mset false s.firn.cur g true } }
    if s.protectedGran g then s1.wrb cFIRN 0 hSTAT 6 true else s1
  else s

/-- A write to the granule waits: it is pending in the sealing bitmap and not yet read (R354). -/
def State.firnHeld (s : State) (g : Nat) : Bool :=
  s.firn.phase == .flush && mget false s.firn.sealing g

/-! ### Sectors -/

/-- The check remainder of a sector. -/
def State.chkOf (s : State) (a : Nat) : Sym4 := sym4Of (mget 0 s.hbm.chk (a / 64))

/-- Latches LAST_ERR_ADDR and LAST_ERR_INFO of a stack. -/
def State.hbmLast (s : State) (n a kind req : Nat) (e : List (Nat × BitVec 16)) : State :=
  let p0 := (e.getD 0 (0x3F, 0)).1
  let p1 := (e.getD 1 (0x3F, 0)).1
  (s.wr64 cHBM n HBM.LAST_ERR_ADDR (a / 64 * 64)).wr cHBM n HBM.LAST_ERR_INFO
    (u32 (kind * 2 ^ 28 + p1 * 2 ^ 16 + p0 * 2 ^ 8 + req))

/-- On-die corrections that the stacks report, by stack (R384). -/
def State.odecc (s : State) (l : List (Nat × Nat)) : State :=
  l.foldl (fun s p => if decide (p.1 < 8) && s.on (64 + p.1) then s.bump cHBM p.1 HBM.ODECC_CNT p.2 else s) s

/-- Sectors a pseudo-channel of a stack has written while INIT runs, at a pace the spec leaves open (R388, log 105). -/
def State.initShown (s : State) (n : Nat) : Nat := min 0xFFFFFF ((s.clk.time - mget 0 s.hbm.initAt n) * Config.initPace n / 2 ^ 16)

/-- Bytes a running scan has processed: whole sectors at a pace the spec leaves open (R399, log 105). -/
def State.scanShown (s : State) (n : Nat) (x : ScanSt) : Nat := min x.len ((s.clk.time - x.start) * Config.scanPace n / 2 ^ 16 * 64)

/-- LAST_ERR_INFO, which every record of the chapter carries (R400). -/
def State.hbmInfo (s : State) (n : Nat) : W32 := s.rd cHBM n HBM.LAST_ERR_INFO

/-- Stores the bytes and the remainder of a sector. -/
def State.putSector (s : State) (a : Nat) (d : Bytes) (c : Sym4) : State :=
  { s with hbm := { s.hbm with mem := setBytes s.hbm.mem (a / 64 * 64) d, chk := mset 0 s.hbm.chk (a / 64) c.pack } }

/-- A path-unavailable return of a stack (R379, R388, R400). -/
def State.hbmUnavail (s : State) (a : Nat) : State :=
  s.recUC cHBM (stackOf a) 0x05 (some (a / 64 * 64)) (s.hbmInfo (stackOf a))

/-- V0, V1 and V2 of an address (R381). -/
def vSyms (a : Nat) : List (BitVec 16) := [BitVec.ofNat 16 (a / 2 ^ 6), BitVec.ofNat 16 (a / 2 ^ 22), BitVec.ofNat 16 (a / 2 ^ 38 % 2 ^ 10)]

/-- D0 to D31 of a sector (R381). -/
def dSyms (d : Bytes) : List (BitVec 16) := (List.range 32).map fun k => BitVec.ofNat 16 (bfield d (2 * k) 2)

/-- P0 to P3 as `encode` of R382 makes them. -/
def encodeSyms (a : Nat) (d : Bytes) (pois : Bool) : Sym4 :=
  let v := (vSyms a).set 2 ((vSyms a).getD 2 0 ^^^ (if pois then 0x8000 else 0))
  remX (remX (remX (remX ((dSyms d ++ v).foldr (fun c r => (remX r).add (c, 0, 0, 0)) (0, 0, 0, 0)))))

/-- P0 to P3 as they stand on the check pins of a sector: `hbm.chk` holds how they differ from those of the clean codeword of
its bytes and address (R380–R382, log 5). -/
def State.checkPins (s : State) (a : Nat) : Sym4 :=
  (encodeSyms (a / 64 * 64) (getBytes s.hbm.mem (a / 64 * 64) 64) false).add (s.chkOf a)

/-- What a reading of a sector finds: the 64 bytes seen and the class. Symbols of another sector are a codeword of that
sector's address: under this one V0 to V2 are errors. -/
def State.seeSector (s : State) (a : Nat) (e : Seeing) : Bytes × Dec :=
  let b := e.src.getD a
  let stored := e.errs.filter fun p => decide (p.1 < 36)
  let v : List (Nat × BitVec 16) := if e.src.isSome then [36, 37, 38].zip (List.zipWith (· ^^^ ·) (vSyms a) (vSyms b)) else []
  let c := (v ++ stored).foldl (fun c p => c.add (errRem p.1 p.2)) (s.chkOf b)
  let d := flipData (getBytes s.hbm.mem (b / 64 * 64) 64) stored
  (d, decodeSyn (s.rdb cHBM (stackOf a) HBM.ECC_MODE 0) (synOf c))

/-- The outcome of a read after the one re-read of R385. -/
def State.seeTwice (s : State) (a : Nat) (e1 e2 : Seeing) : Bytes × Dec :=
  let r := s.seeSector a e1
  match r.2 with
  | .uncorrectable | .misdirected => s.seeSector a e2
  | _ => r

/-- Grants of an arbiter group (R456, R462): one for each 64-byte access. -/
def State.grant (s : State) (g : Nat) (n : Nat := 1) : State := s.bump64 cARB g ARB.GRANTS n

/-- A sector read by requester `req` (8 is the patrol scrub) of a stack that answers: data, poison, and what is
counted, recorded and written back (R385, R386). -/
def State.readSector (s : State) (a req : Nat) (e1 e2 : Seeing) : Bytes × Bool × State :=
  let n := stackOf a
  let scrub := req == 8
  let s := (s.bump64 cHBM n HBM.RD_SECT).grant (128 + n)
  let (d, o) := s.seeTwice a e1 e2
  match o with
  | .good => (d, false, s)
  | .poisoned e => (flipData d e, true, s.bump cHBM n HBM.POISON_RD_CNT)
  | .corrected e =>
    let d := flipData d e
    let s := s.hbmLast n a (if scrub then 4 else 1) req e
    let s := (s.bump cHBM n (if scrub then HBM.SCRUB_CE_CNT else HBM.CE_CNT)).irq cHBM n 2
    let s := s.putSector a d (0, 0, 0, 0)
    (d, false, s.recCE cHBM n 0x04 (some (a / 64 * 64)) (s.hbmInfo n))
  | .misdirected =>
    let s := s.hbmLast n a (if scrub then 6 else 3) req []
    let s := s.bump cHBM n HBM.MISDIR_CNT
    let s := if scrub then (s.bump cHBM n HBM.SCRUB_UE_CNT).irq cHBM n 24 else s.irq cHBM n 8
    let s := s.putSector a (getBytes s.hbm.mem (a / 64 * 64) 64) poisonRem
    (d, true, s.recDef cHBM n 0x02 (some (a / 64 * 64)) (s.hbmInfo n))
  | .uncorrectable =>
    let s := s.hbmLast n a (if scrub then 5 else 2) req []
    let s := if scrub then (s.bump cHBM n HBM.SCRUB_UE_CNT).irq cHBM n 16 else (s.bump cHBM n HBM.UE_CNT).irq cHBM n 4
    let s := s.putSector a (getBytes s.hbm.mem (a / 64 * 64) 64) poisonRem
    (d, true, s.recDef cHBM n 0x02 (some (a / 64 * 64)) (s.hbmInfo n))

/-- Stores a whole sector, poisoned or clean (R387), with the injection of R549, and marks its granule (R339). -/
def State.storeSector (s : State) (a : Nat) (d : Bytes) (pois : Bool) : State :=
  let n := stackOf a
  let s := s.bump64 cHBM n HBM.WR_SECT
  let c : Sym4 := if pois then poisonRem else (0, 0, 0, 0)
  let ctl := s.rd cHBM n HBM.INJ_CTRL
  let s :=
    if bit ctl 31 && s.rd64 cHBM n HBM.INJ_ADDR / 64 % 2 ^ 42 == a / 64 then
      let pat := s.rd cHBM n HBM.INJ_PAT
      let e := [(fld ctl 0 6, pat.extractLsb' 0 16), (fld ctl 8 6, pat.extractLsb' 16 16)].filter fun p => decide (p.1 < 36)
      (s.putSector a (flipData d e) (e.foldl (fun c p => c.add (errRem p.1 p.2)) c)).wr cHBM n HBM.INJ_CTRL
        (setFld ctl 31 1 0)
    else s.putSector a d c
  s.firnMark (a / 65536)

/-- Merges bytes enabled by a mask into 64 bytes. -/
def mergeMask {w : Nat} (mask : BitVec w) (old new : Bytes) : Bytes :=
  ((old.zip new).zip (List.range old.length)).map fun p => if mask.getLsbD p.2 then p.1.2 else p.1.1

/-- A sector write by requester `req` to a stack that answers (R376, R377, R387). -/
def State.writeSector (s : State) (a req : Nat) (mask : BitVec 64) (d : Bytes) (pois : Bool) (e1 e2 : Seeing := {}) : State :=
  if mask = BitVec.allOnes 64 then (s.grant (128 + stackOf a)).storeSector a (bpad d 64) pois
  else
    let (old, p, s) := s.readSector a req e1 e2
    s.storeSector a (mergeMask mask old (bpad d 64)) (p || pois)

/-! ### Runs of bytes in HBM -/

/-- What a unit's read gave: the bytes, the poison of each, and whether every part of it was available. -/
structure Rd where
  data : Bytes
  pois : List Bool
  ok   : Bool
deriving DecidableEq, Repr

/-- Some byte of the read is poisoned. -/
def Rd.anyPois (r : Rd) : Bool := r.pois.any id

/-- Sector addresses that a run of bytes touches. -/
def sectorsOf (a len : Nat) : List Nat :=
  if len = 0 then [] else (List.range ((a + len - 1) / 64 + 1 - a / 64)).map fun i => (a / 64 + i) * 64

/-- Reads one sector for a unit, or finds its stack unavailable. -/
def State.unitSector (s : State) (q : Rq) (a : Nat) : Option (Bytes × Bool) × State :=
  match s.pathOff q (stackOf a / 4) with
  | some b => (none, s.bridgeUnavail b)
  | none =>
    if s.stackOk (stackOf a) then
      let (d, p, s) := s.readSector a (q.at a) {} {}
      (some (d, p), s)
    else (none, s.hbmUnavail a)

/-- A unit reads `len` bytes of HBM (R376, R379). -/
def State.hbmRead (s : State) (q : Rq) (a len : Nat) : Rd × State :=
  let step (acc : Rd × State) (sec : Nat) : Rd × State :=
    let lo := max a sec - sec
    let n := min (a + len) (sec + 64) - (sec + lo)
    match acc.2.unitSector q sec with
    | (some (d, p), s) => ({ data := acc.1.data ++ bslice d lo n, pois := acc.1.pois ++ List.replicate n p, ok := acc.1.ok }, s)
    | (none, s) => ({ data := acc.1.data ++ List.replicate n 0, pois := acc.1.pois ++ List.replicate n true, ok := false }, s)
  (sectorsOf a len).foldl step ({ data := [], pois := [], ok := true }, s)

/-- Mask of bytes [lo, lo + n) of a sector. -/
def runMask (lo n : Nat) : BitVec 64 := BitVec.ofNat 64 ((2 ^ n - 1) * 2 ^ lo)

/-- A unit writes a run of bytes to HBM with a poison flag for each byte; `false` when some part was unavailable. -/
def State.hbmWriteP (s : State) (q : Rq) (a : Nat) (d : Bytes) (pois : List Bool) : Bool × State :=
  let len := d.length
  let step (acc : Bool × State) (sec : Nat) : Bool × State :=
    let lo := max a sec - sec
    let n := min (a + len) (sec + 64) - (sec + lo)
    let o := sec + lo - a
    match acc.2.pathOff q (stackOf sec / 4) with
    | some b => (false, acc.2.bridgeUnavail b)
    | none =>
      if acc.2.stackOk (stackOf sec) then
        (acc.1, acc.2.writeSector sec (q.at sec) (runMask lo n) (List.replicate lo 0 ++ bslice d o n)
          (((pois.drop o).take n).any id))
      else (false, acc.2.hbmUnavail sec)
  (sectorsOf a len).foldl step (true, s)

/-- A unit writes a run of bytes with one poison flag. -/
def State.hbmWrite (s : State) (q : Rq) (a : Nat) (d : Bytes) (pois : Bool := false) : Bool × State :=
  s.hbmWriteP q a d (List.replicate d.length pois)

/-! ### The tile store (R69–R72) -/

/-- Bytes of one tile's store. -/
abbrev tsSize : Nat := 0x400000
/-- The direct window (R72). -/
abbrev dwBase : Nat := 0x080000000000
/-- The accumulator window (R72). -/
abbrev awBase : Nat := 0x080020000000

/-- The tile's own store address as one number. -/
abbrev tsAddr (t off : Nat) : Nat := t * tsSize + off

/-- The tile store arbiters are frozen. -/
def State.tsFrozen (s : State) (t : Nat) : Bool := s.rdb cTILE t hFREEZE 0

/-- Error bits of a word. -/
def State.tsErrOf (s : State) (w : Nat) : BitVec 72 := mget 0 s.ts.err w

/-- Replaces the error bits and poison of a word. -/
def State.tsMark (s : State) (w : Nat) (e : BitVec 72) (p : Bool) : State :=
  { s with ts := { s.ts with err := mset 0 s.ts.err w e, pois := mset false s.ts.pois w p } }

/-- Reads a 64-bit word through SECDED (R71): the bytes, poison, and the counts and write-back of an error. A word that was
stored with poison and is free of code errors returns its poison uncounted and unrecorded: R71 and R75 count words that the
code finds uncorrectable and do not say so of these (DESIGN CHOICE, log 88). -/
def State.tsWord (s : State) (w : Nat) : Bytes × Bool × State :=
  let t := w * 8 / tsSize
  let d := getBytes s.ts.mem (w * 8) 8
  let p := mget false s.ts.pois w
  let e := s.tsErrOf w
  if e = 0 then (d, p, s)
  else if popcount e = 1 then
    let s := ((s.tsMark w 0 p).bump cTILE t TILE.TS_CORR_CNT).irq cTILE t 8
    (d, p, s.recCE cTILE t 0x04 (some (dwBase + w * 8)))
  else
    let s := (s.bump cTILE t TILE.TS_UNCORR_CNT).irq cTILE t 16
    (toLE 8 (leNat d ^^^ (e.toNat % 2 ^ 64)), true, s.recDef cTILE t 0x02 (some (dwBase + w * 8)))

/-- 64-byte lines that a run of bytes touches. -/
def tsLines (a len : Nat) : Nat := if len = 0 then 0 else (a + len - 1) / 64 + 1 - a / 64

/-- Reads a run of bytes of a tile's store. -/
def State.tsRead (s : State) (t off len : Nat) : Rd × State :=
  let a := tsAddr t off
  let step (acc : Rd × State) (w : Nat) : Rd × State :=
    let lo := max a (w * 8) - w * 8
    let n := min (a + len) (w * 8 + 8) - (w * 8 + lo)
    let (d, p, s) := acc.2.tsWord w
    ({ data := acc.1.data ++ bslice d lo n, pois := acc.1.pois ++ List.replicate n p, ok := acc.1.ok }, s)
  let ws := if len = 0 then [] else (List.range ((a + len - 1) / 8 + 1 - a / 8)).map (a / 8 + ·)
  ws.foldl step ({ data := [], pois := [], ok := true }, s.grant t (tsLines a len))

/-- A command of a pruner that has not been counted writes into a run of bytes of a tile store (R173). -/
def State.unsettled (s : State) (a len : Nat) : Bool :=
  s.prn.any fun e => e.2.cur.isSome && e.2.dsts.any fun r =>
    r.2 != 0 && decide (dwBase + a < r.1 + r.2) && decide (r.1 < dwBase + a + len)

/-- Bytes with free values. -/
def State.freeBytes (s : State) (n : Nat) : Bytes × State :=
  ((List.range n).map fun i => (Config.freeW32 (s.fresh + i)).setWidth 8, { s with fresh := s.fresh + n })

/-- Reads for a WLOAD: what a pruner command in progress writes has unspecified contents (R173). -/
def State.tsLoad (s : State) (t off len : Nat) : Rd × State :=
  let (r, s) := s.tsRead t off len
  if s.unsettled (tsAddr t off) len then
    let (b, s) := s.freeBytes len
    ({ r with data := b }, s)
  else (r, s)

/-- A word for a vector load, under the same rule. -/
def State.tsLoadWord (s : State) (w : Nat) : Bytes × Bool × State :=
  let (d, p, s) := s.tsWord w
  if s.unsettled (w * 8) 8 then
    let (b, s) := s.freeBytes 8
    (b, p, s)
  else (d, p, s)

/-- Writes part or all of a 64-bit word (R71). -/
def State.tsPutWord (s : State) (w lo : Nat) (d : Bytes) (pois : Bool) : State :=
  let put (s : State) (b : Bytes) (p : Bool) : State :=
    { (s.tsMark w 0 p) with ts := { (s.tsMark w 0 p).ts with mem := setBytes s.ts.mem (w * 8) b } }
  if lo = 0 ∧ d.length = 8 then put s d pois
  else
    let (old, p, s) := s.tsWord w
    put s (old.take lo ++ d ++ old.drop (lo + d.length)) (p || pois)

/-- Writes the bytes of a 64-bit word that a mask enables: all of them, or by one merge (R71). -/
def State.tsPutMask (s : State) (w : Nat) (m : BitVec 8) (d : Bytes) (pois : Bool) : State :=
  if m = 0 then s
  else if m = BitVec.allOnes 8 then s.tsPutWord w 0 d pois
  else
    let (old, q, s) := s.tsWord w
    s.tsPutWord w 0 (mergeMask m old d) (pois || q)

/-- Writes a run of bytes of a tile's store with a poison flag for each byte. -/
def State.tsWriteP (s : State) (t off : Nat) (d : Bytes) (pois : List Bool) : State :=
  let a := tsAddr t off
  let len := d.length
  let step (s : State) (w : Nat) : State :=
    let lo := max a (w * 8) - w * 8
    let n := min (a + len) (w * 8 + 8) - (w * 8 + lo)
    let o := w * 8 + lo - a
    s.tsPutWord w lo (bslice d o n) (((pois.drop o).take n).any id)
  let ws := if len = 0 then [] else (List.range ((a + len - 1) / 8 + 1 - a / 8)).map (a / 8 + ·)
  ws.foldl step (s.grant t (tsLines a len))

/-- Writes a run of bytes with one poison flag. -/
def State.tsWrite (s : State) (t off : Nat) (d : Bytes) (pois : Bool := false) : State :=
  s.tsWriteP t off d (List.replicate d.length pois)

/-- The tile slot of the direct window that holds the whole run, if one does. -/
def dwSlot (a len : Nat) : Option (Nat × Nat) :=
  if dwBase ≤ a ∧ a + len ≤ awBase then
    let t := (a - dwBase) / tsSize
    let off := (a - dwBase) % tsSize
    if off + len ≤ tsSize then some (t, off) else none
  else none

/-! ### The gate of a unit's accesses -/

/-- The stacks that a run of bytes touches. -/
def stacksOf (a len : Nat) : List Nat :=
  if len = 0 then []
  else if 32768 ≤ len then List.range 8
  else ((List.range ((a + len - 1) / 4096 + 1 - a / 4096)).map fun i => stackOf ((a / 4096 + i) * 4096)).eraseDups

/-- Granules of a run of bytes that hold writes back now: those pending in the sealing bitmap (R354). -/
def State.heldGrans (s : State) (a len : Nat) : List Nat :=
  if s.firn.phase == .flush then
    (s.firn.sealing.filter fun e => e.2 && decide (a < (e.1 + 1) * 65536) && decide (e.1 * 65536 < a + len) && s.firnHeld e.1).map (·.1)
  else []

/-- A write of a run of bytes to stacks that answer is held back. -/
def State.runHeld (s : State) (a len : Nat) : Bool := !(s.heldGrans a len).isEmpty && (stacksOf a len).any s.stackOk

/-- A unit's write waits for its granules: it is counted once, a sector each (R354). -/
def State.holdRun (s : State) (a len : Nat) : State :=
  if s.firn.unitHeld.contains (a, len) then s
  else
    let s := (s.heldGrans a len).foldl (fun s g =>
      s.bump cFIRN (g % 2) FIRN.HOLD_CNT (sectorsOf (max a (g * 65536)) (min (a + len) ((g + 1) * 65536) - max a (g * 65536))).length) s
    { s with firn := { s.firn with unitHeld := s.firn.unitHeld ++ [(a, len)] } }

/-- Address of a waiting access. -/
def Wait.addr : Wait → Nat
  | .rd a _ _ _ => a
  | .wr a _ _ _ _ _ _ => a
  | .co r => r.addr

/-- The waiting access writes memory. -/
def Wait.isWrite : Wait → Bool
  | .rd _ _ _ _ => false
  | .wr _ _ _ _ _ _ _ => true
  | .co r => r.opc == 0x04 || r.opc == 0x05 || (r.opc == 0x06 && r.dirty)

/-- A unit's access to a run of bytes must not pass the access that waits: some sector of it is the same, and one of the two
writes (R376). -/
def Wait.ahead (w : Wait) (a len : Nat) (wr : Bool) : Bool :=
  let n := match w with | .co _ => 128 | _ => 64
  let lo := w.addr / n * n
  (wr || w.isWrite) && decide (lo < a + len) && decide (a / 64 * 64 < lo + n)

/-- A 128-byte line meets a run of bytes. -/
def lineMeets (l a len : Nat) : Bool := decide (a < (l + 1) * 128) && decide (l * 128 < a + len)

/-- Sends an Oplis message and counts it, with the grant of the Oplis egress that lets it leave (R432, R456; log 110). -/
def State.oplSend (s : State) (m : OutMsg) : State :=
  let s := (s.bump64 cOPL 0 OPL.TX_MSG).grant 145
  match m with
  | .oplis _ _ _ _ _ _ _ _ _ _ _ plo phi => (if plo || phi then s.bump cOPL 0 OPL.POISON_CNT else s).send m
  | _ => s.send m

/-- The lowest TXID below `n` that the table leaves free. -/
def freeId {α : Type} (m : SMap (Option α)) (n : Nat) : Option Nat :=
  (List.range n).find? fun i => (mget none m i).isNone

/-- Sends a snoop for a line unless one is under way or all 256 are (R406, R416, R418). -/
def State.sendSnoop (s : State) (line : Nat) (inv : Bool) : State :=
  if s.opl.snps.any (fun e => e.2.any fun x => x.line == line && !x.dead) then s
  else
    match freeId s.opl.snps 256 with
    | none => s
    | some id =>
      let x : DevSnp := { line := line, inv := inv, due := s.clk.time + s.rdf cOPL 0 OPL.SNP_TMO 0 24, dead := false, evp := false }
      let s := { s with opl := { s.opl with snps := mset none s.opl.snps id (some x) } }
      (s.bump cOPL 0 OPL.SNP_CNT).oplSend
        (.oplis (if inv then 0x10 else 0x11) id 0 0 0 7 (line * 128) false false 0 [] false false)

/-- The lines of a run of bytes that keep it waiting for the companion: those granted and not yet acknowledged, and
those of the filter that the access must snoop (R411, R416). -/
def State.snoopsFor (s : State) (a len : Nat) (wr : Bool) : List (Nat × Bool) :=
  s.opl.sf.filter fun e => lineMeets e.1 a len && (wr || e.2)

/-- A unit's accesses, as (address, bytes, is a write), can be performed now: no arbiter it needs is frozen, no granule
is held, no access that waits lies ahead of it but those that `past` names, and no line is the companion's. Otherwise the
snoops it needs are sent and the unit waits. A stack that does not answer turns an access away at once (R379). -/
def State.gatePast (s : State) (past : Wait → Bool) (rs : List (Nat × Nat × Bool)) : Bool × State :=
  let one (acc : Bool × State) (r : Nat × Nat × Bool) : Bool × State :=
    let (a, len, w) := r
    let s := acc.2
    if (stacksOf a len).any fun n => s.stackOk n && s.hbmFrozen n then (false, s)
    else if w && s.runHeld a len then (false, s.holdRun a len)
    else
      let busy := s.opl.busy.any fun b => lineMeets b.1 a len
      let behind := s.opl.waits.any fun x => x.ahead a len w && !past x
      let need := s.snoopsFor a len w
      let s := need.foldl (fun s e => s.sendSnoop e.1 w) s
      (acc.1 && !busy && !behind && need.isEmpty, s)
  rs.foldl one (true, s)

/-- The gate of a unit that passes no waiting access. -/
def State.gate (s : State) (rs : List (Nat × Nat × Bool)) : Bool × State := s.gatePast (fun _ => false) rs

/-- Performs a unit's work when its HBM accesses can be made, and leaves it waiting otherwise. -/
def State.gated (s : State) (rs : List (Nat × Nat × Bool)) (act : State → State) : State :=
  let g := s.gate (rs.filter fun r => decide (r.1 < hbmSize) && r.2.1 != 0)
  if g.1 then act g.2 else g.2

end Sys2Proof.Machine
end

