-- ==== Sys2Proof/Machine/Age.lean ====
section
/-! DEFINITION. Ageing: samples of the wear inputs, the least-squares projection of the end of life, the history (R491–R496). -/
namespace Sys2Proof.Machine

/-- REFCLK counts in a second. -/
abbrev perSecond : Nat := 100000000

/-- Powered-on seconds (R492, R495). -/
def State.poh (s : State) : Nat := (s.age.pohBase + s.clk.time) / perSecond

/-! ### One sample (R491) -/

/-- A lane by its number in LIMITER: the page of its LANE_STAT, the instance, its index there, its link and its bit in the
link's lock map. -/
def ageLane (k : Nat) : Nat × Nat × Nat × Nat × Nat :=
  if k / 16 < 8 then (cPORT, k / 16, k % 16, k / 16, k % 16)
  else if k / 16 = 8 then (cMIR, 0, k % 16, 8 + k % 16 / 8, k % 8)
  else (cOPL, 0, k % 16, 10, k % 16)

/-- The lanes that exist: 8 of each torus port, 16 of the mirror port, 8 of Oplis. -/
def ageLanes : List Nat :=
  (List.range 160).filter fun k => k / 16 == 8 || decide (k % 16 < 8)

/-- The vertical margins of the lanes that hold lock; during a halt no link runs. -/
def State.ageEyes (s : State) : List (Nat × Nat) :=
  ageLanes.filterMap fun k =>
    let (cls, inst, l, link, b) := ageLane k
    if s.live && bit (mget {} s.links link).lock b then some (k, s.rdf cls inst (PORT.LANE_STAT + 4 * l) 16 8) else none

/-- The three counters of corrected errors of a stack. -/
def ceRegs : List Nat := [HBM.CE_CNT, HBM.SCRUB_CE_CNT, HBM.ODECC_CNT]

/-- Corrected sectors of a stack since the last sample; a counter that has fallen was cleared and counts whole. -/
def State.ceGrowth (s : State) (n : Nat) : Nat :=
  ((indexed ceRegs).map fun r =>
    let now := (s.rd cHBM n r.1).toNat
    let old := mget 0 s.age.ceLast (4 * n + r.2)
    if old ≤ now then now - old else now).foldl (· + ·) 0
where
  /-- A list with its indices. -/
  indexed (l : List Nat) : List (Nat × Nat) := l.zip (List.range l.length)

/-- Corrected sectors per day of each stack. -/
def State.ceRates (s : State) : List (Nat × Nat) :=
  (List.range 8).map fun n => (n, s.ceGrowth n * 86400 * perSecond / max 1 (s.clk.time - s.age.last))

/-- The counters as the next sample compares with them. -/
def State.ceNow (s : State) : SMap Nat :=
  (List.range 24).foldl (fun m k =>
    mset 0 m (4 * (k / 3) + k % 3) (s.rd cHBM (k / 3) (ceRegs.getD (k % 3) 0)).toNat) []

/-- The values of an input at the tiles: measured where the tile works, else as they were. -/
def State.ageTiles (s : State) (now before : List (Nat × Int)) : List (Nat × Int) :=
  (List.range 128).filterMap fun t =>
    if !s.tileEnabled t then none
    else match (if s.tileOn t then now.lookup t else none) with
      | some v => some (t, v)
      | none => (before.lookup t).map fun v => (t, v)

/-- The FEC counts of the links (R281): of the torus ports both counts, of the mirror port (8) and Oplis (10) the one they have.
R491 gives them no limit, so that no projection is made of them (log 104). -/
def State.ageFec (s : State) : List (Nat × Nat × Nat) :=
  ((List.range 8).map fun p => (p, s.rd64 cPORT p PORT.FEC_CORR, (s.rd cPORT p PORT.FEC_UNCORR_CNT).toNat)) ++
  [(8, 0, (s.rd cMIR 0 MIR.FEC_UNCORR_CNT).toNat), (10, 0, (s.rd cOPL 0 OPL.FEC_UNCORR_CNT).toNat)]

/-- The sample that is taken now. -/
def State.ageTake (s : State) (inp : AgeInputs) : AgeSample :=
  let p := s.age.hist.getLast?
  { poh := s.poh
    drift := s.ageTiles inp.drift ((p.map (·.drift)).getD [])
    rel := s.ageTiles inp.rel ((p.map (·.rel)).getD [])
    eye := s.ageEyes
    ce := s.ceRates
    charge := [(0, s.pwr.chargeA / 40), (1, s.pwr.chargeB / 40)]
    fec := s.ageFec }

/-! ### The fit (R492) -/

/-- The sums of a fit over points (powered-on seconds, value). -/
structure FitSums where
  n  : Int := 0
  sx : Int := 0
  sy : Int := 0
  xx : Int := 0
  xy : Int := 0
  yy : Int := 0
  last : Int := 0

/-- Adds a point. -/
def FitSums.add (f : FitSums) (p : Nat × Int) : FitSums :=
  { n := f.n + 1, sx := f.sx + p.1, sy := f.sy + p.2, xx := f.xx + p.1 * p.1, xy := f.xy + p.1 * p.2
    yy := f.yy + p.2 * p.2, last := p.1 }

/-- Hours from now, rounded to nearest, at most 0xFF_FFFF, of `num` over `den` seconds; 0 when the limit is past. -/
def fitHours (num den : Int) : Nat :=
  if den ≤ 0 then 0xFFFFFF
  else if num ≤ 0 then 0
  else min 0xFFFFFF ((2 * num + 3600 * den) / (2 * 3600 * den)).toNat

/-- A projection: hours, the band's edges, kind and instance as LIMITER has them. -/
structure Projection where
  hours : Nat
  lo    : Nat
  hi    : Nat
  kind  : Nat
  inst  : Nat
deriving DecidableEq, Repr

/-- The line through the points of an instance and the time at which it rises to `limit`; the band takes the slope ± 1.2816
standard errors. No projection for fewer than 16 points or a slope that does not rise. -/
def project (kind inst : Nat) (limit : Int) (pts : List (Nat × Int)) : Option Projection :=
  let f := pts.foldl FitSums.add {}
  let dn := f.n * f.xx - f.sx * f.sx
  let b := f.n * f.xy - f.sx * f.sy
  if f.n < 16 ∨ dn ≤ 0 ∨ b ≤ 0 then none
  else
    let e := (f.n * f.yy - f.sy * f.sy) * dn - b * b
    let r : Int := isqrt (12816 * 12816 * e.toNat / (f.n - 2).toNat)
    let num := limit * f.n * dn - f.sy * dn - b * (f.n * f.last - f.sx)
    some { hours := fitHours num (f.n * b), lo := fitHours (10000 * num) (f.n * (10000 * b + r))
           hi := fitHours (10000 * num) (f.n * (10000 * b - r)), kind := kind, inst := inst }

/-- The points of an instance in the samples. -/
def agePoints (h : List AgeSample) (get : AgeSample → Option Int) : List (Nat × Int) :=
  h.filterMap fun a => (get a).map fun v => (a.poh, v)

/-- Every projection, by kind and instance, under the end-of-life limits of R491. -/
def projections (h : List AgeSample) : List Projection :=
  (List.range 128).filterMap (fun t => project 1 t 8000 (agePoints h (·.drift.lookup t))) ++
  ageLanes.filterMap (fun l => project 2 l (-12) (agePoints h fun a => (a.eye.lookup l).map fun v => -(v : Int))) ++
  (List.range 8).filterMap (fun n => project 3 n 10000 (agePoints h fun a => (a.ce.lookup n).map Int.ofNat)) ++
  (List.range 2).filterMap (fun r => project 4 r 155000000000000000 (agePoints h fun a => (a.charge.lookup r).map Int.ofNat))

/-- The smallest projection; the first of equal ones. -/
def soonest (l : List Projection) : Option Projection :=
  l.foldl (fun a p => match a with | none => some p | some q => if p.hours < q.hours then some p else some q) none

/-- AGE_WINDOW; values outside 16–4,096 act as the nearest. -/
def State.ageWindow (s : State) : Nat := max 16 (min 4096 (s.rdf cAGE 0 AGE.AGE_WINDOW 0 13))

/-- The estimate registers; EOL_WARN when EOL_LO falls below WARN_HOURS (R492, R495, R496). -/
def State.ageEstimate (s : State) (p : Option Projection) : State :=
  let was := s.rd cAGE 0 AGE.EOL_LO
  let lo := (p.map (·.lo)).getD 0xFFFFFF
  let s := s.wr cAGE 0 AGE.EOL_HOURS (u32 ((p.map (·.hours)).getD 0xFFFFFF))
  let s := s.wr cAGE 0 AGE.EOL_LO (u32 lo)
  let s := s.wr cAGE 0 AGE.EOL_HI (u32 ((p.map (·.hi)).getD 0xFFFFFF))
  let s := s.wr cAGE 0 AGE.LIMITER (u32 ((p.map fun q => q.kind * 268435456 + q.inst).getD 0))
  let w := s.rdf cAGE 0 AGE.WARN_HOURS 0 24
  if decide (lo < w) && decide (w ≤ was.toNat) then (s.irq cAGE 0 2).recCE cAGE 0 0x0D else s

/-- The pair with the greatest value, the first of equal ones. -/
def maxPair (l : List (Nat × Int)) : Option (Nat × Int) :=
  l.foldl (fun a p => match a with | none => some p | some q => if q.2 < p.2 then some p else some q) none

/-- The registers that show the last sample (R493, R495). -/
def State.ageShow (s : State) (a : AgeSample) : State :=
  let hi := (maxPair a.rel).map (·.2)
  let lo := (maxPair (a.rel.map fun p => (p.1, -p.2))).map fun p => -p.2
  let s := s.wr cAGE 0 AGE.SPREAD (u32 (min 65535 (hi.getD 0 - lo.getD 0).toNat))
  let s := s.wr cAGE 0 AGE.MAX_DRIFT (u32 (match maxPair a.drift with
    | some (t, d) => t * 65536 + ofInt 16 d | none => 0))
  let s := s.wr cAGE 0 AGE.EYE_MIN (u32 (match maxPair (a.eye.map fun p => (p.1, -(p.2 : Int))) with
    | some (l, v) => ((-v).toNat % 256) * 65536 + l | none => 0))
  s.wr cAGE 0 AGE.HBM_CE_RATE (u32 (min 0xFFFFFF ((a.ce.map (·.2)).foldl max 0)))

/-- A sample with its fit; the period restarts. -/
def State.ageSample (s : State) (inp : AgeInputs) : State :=
  let a := s.ageTake inp
  let h := s.age.hist ++ [a]
  let h := h.drop (h.length - 4096)
  let s := { s with age := { s.age with hist := h, last := s.clk.time, ceLast := s.ceNow, shown := true, asked := false } }
  let w := h.drop (h.length - s.ageWindow)
  let ok := decide (16 ≤ w.length)
  let s := (s.ageShow a).ageEstimate (if ok then soonest (projections w) else none)
  (s.wrb cAGE 0 AGE.CONF 8 ok).irq cAGE 0 1

/-- AGE_PERIOD in counts; 0 acts as 1 s. -/
def State.agePeriod (s : State) : Nat := max 1 (s.rdf cAGE 0 AGE.AGE_PERIOD 0 16) * perSecond

/-- AGE_SAMPLE (R491): due AGE_PERIOD after the last sample while CTRL.EN is 1; AON goes on during a halt (R486). -/
def execAgeSample (inp : AgeInputs) (s : State) : Res :=
  .next <|
    let s := if s.live then s.odecc inp.odecc else s
    if s.life.vaon && !s.life.inReset && (s.age.asked || (s.rdb cAGE 0 hCTRL 0 && decide (s.age.last + s.agePeriod ≤ s.clk.time))) then s.ageSample inp
    else s

/-- SAMPLE_NOW (R495). -/
def execSampleNow (m : Nat) (inp : AgeInputs) (s : State) : Res :=
  .next <| (if s.live then s.odecc inp.odecc else s).ownerWrite m cAGE 0 hCTRL false (·.ageSample inp)

/-- CTRL.CLR_HIST: the history is empty; while SAMPLING is 1 the write is refused and recorded (R496). -/
def State.clrHist (s : State) : State :=
  if s.age.asked then s.recUC cAGE 0 0x01 else { s with age := { s.age with hist := [] } }

/-- CLR_HIST (R496): a write that is not the owner's is refused and recorded. -/
def execClrHist (m : Nat) (s : State) : Res :=
  .next <|
    if s.pathOk m && s.writeServed cAGE && !s.isOwner m then (s.dropWrite m (regAddr cAGE 0 hCTRL)).recUC cAGE 0 0x01
    else s.ownerWrite m cAGE 0 hCTRL false (·.clrHist)

end Sys2Proof.Machine
end

