-- ==== Sys2Proof/Machine/Array.lean ====
section
/-! DEFINITION. The tile array (chapter 2): weight tiles, products and their sums, accumulator rows, the converter, drains
and what travels through the array, with the samples of the shadow checker (R139, R140). -/
namespace Sys2Proof.Machine

/-! ### Tile state and keys -/

/-- The array state of a tile. -/
def State.tile (s : State) (t : Nat) : TileSt := mget {} s.tiles t

/-- Replaces the array state of a tile. -/
def State.setTile (s : State) (t : Nat) (x : TileSt) : State := { s with tiles := mset {} s.tiles t x }

/-- An accumulator row. -/
def TileSt.accRow (x : TileSt) (r : Nat) : AccRow := mget {} x.acc r

/-- Element c of a row. -/
def AccRow.val (a : AccRow) (c : Nat) : W32 := a.vals.getD c 0

/-- The key in force of a page: Mix-10 of its seed at the all-ones counter (R106). -/
def State.keyOf (s : State) (cls inst : Nat) : Quad :=
  mix10 (mget (0, 0, 0, 0) s.keySeed (rk cls inst 0)) (0xFFFFFFFF, 0xFFFFFFFF, 0xFFFFFFFF, 0xFFFFFFFF)

/-- The seed in the registers becomes the seed of the key (R106). -/
def State.deriveKey (s : State) (cls inst seed0 : Nat) : State :=
  let q := (s.rd cls inst seed0, s.rd cls inst (seed0 + 4), s.rd cls inst (seed0 + 8), s.rd cls inst (seed0 + 12))
  { s with keySeed := mset (0, 0, 0, 0) s.keySeed (rk cls inst 0) q }

/-! ### Refusals (R45, R76) -/

/-- A descriptor error: counted in no register, recorded against the tile with its interrupt. -/
def State.arrRefuse (s : State) (t : Nat) (cause : Nat := 0x01) : State := (s.irq cTILE t 32).recUC cTILE t cause

/-! ### Weight tiles -/

/-- Bytes of `n` packed elements of a format (R47). -/
abbrev elemBytes (fmt n : Nat) : Nat := n * codeBits fmt / 8

/-- A stored weight (s, c). -/
def WTile.weight (w : WTile) (r c : Nat) : Nat := packGet w.w (codeBits w.fmt) (r * 128 + c)

/-- The 2-bit index of stored weight (s, c) of a compressed tile (R49). -/
def WTile.index (w : WTile) (r c : Nat) : Nat := (w.idx.getD (r / 4 * 128 + c) 0).toNat / 4 ^ (r % 4) % 4

/-- K index that stored row r of column c meets (R47, R49). -/
def WTile.kOf (w : WTile) (r c : Nat) : Nat := if w.sparse then 4 * (r / 2) + w.index r c else r

/-- Some group of an index plane has two equal indices (R45). -/
def idxPlaneBad (kd : Nat) (idx : Bytes) : Bool :=
  (List.range (kd / 2)).any fun g => (List.range 128).any fun c =>
    let i (r : Nat) : Nat := (idx.getD (r / 4 * 128 + c) 0).toNat / 4 ^ (r % 4) % 4
    i (2 * g) == i (2 * g + 1)

/-- K of a product: the dense K of the wider operand (R46), doubled in the 2:4 mode (R50). -/
def prodK (wfmt afmt : Nat) (sparse : Bool) : Nat :=
  (if 8 ≤ max (codeBits wfmt) (codeBits afmt) then 128 else 256) * (if sparse then 2 else 1)

/-- Issue interval of a product in handshakes (R46). -/
def issueInterval (wfmt afmt : Nat) : Nat := if 16 ≤ max (codeBits wfmt) (codeBits afmt) then 2 else 1

/-! ### Sums (R52–R54) -/

/-- Takes entry i out of a list. -/
def dropAt {α : Type} (l : List α) (i : Nat) : List α := l.take i ++ l.drop (i + 1)

/-- Adds terms two at a time in the order the device's plan gives (R53); `fuel` is the number of terms. -/
def planSum {α : Type} (mode : Nat) (add : α → α → α) (z : α) : Nat → List α → α
  | 0, l => l.headD z
  | f + 1, l =>
    match l with
    | [] => z
    | [x] => x
    | x :: r =>
      let n := r.length + 1
      let p := Config.addPlan mode n
      let i := p.1 % n
      let rest := dropAt (x :: r) i
      let j := p.2 % (n - 1)
      planSum mode add z f (add ((x :: r).getD i z) (rest.getD j z) :: dropAt rest j)

/-- FP32 sum of products; a column that meets no product gives +0. -/
def fsum (mode : Nat) (l : List W32) : W32 := planSum mode fadd32 0 l.length l

/-- Clamps to 32 bits and counts (R54). -/
def addClamp (a b : Int × Nat) : Int × Nat :=
  let v := a.1 + b.1
  let c := clampI (-2147483648) 2147483647 v
  (c, a.2 + b.2 + (if c = v then 0 else 1))

/-- Saturating integer sum and the clamps it made. -/
def isum (mode : Nat) (l : List Int) : Int × Nat := planSum mode addClamp (0, 0) l.length (l.map fun x => (x, 0))

/-- A float product as the array forms it: exact, rounded to FP32 (R52). -/
def arrProd (a w : FV) : W32 := match a.mul w with | some v => (match v with | .nan => qnan | v => toF32 v) | none => qnan

/-- An addition mode number for the plan: the formats of the product. -/
abbrev VecItem.mode (v : VecItem) : Nat := v.wt.fmt * 32 + v.afmt * 2 + b2n v.wt.sparse

/-- The (stored row, K index) pairs of column c that meet an activation element: inside K, not gated (R46, R50, R150).
A dense weight tile of a narrower format holds more rows than the K of a product with a wider activation format; R46 does not
say what the rows beyond it do: they meet no activation element (DESIGN CHOICE, log 87). -/
def VecItem.pairs (v : VecItem) (c : Nat) : List (Nat × Nat) :=
  ((List.range (codeK v.wt.fmt)).map fun r => (r, v.wt.kOf r c)).filter fun p =>
    decide (p.2 < v.k) && (v.wt.sparse || decide (p.2 < v.wt.kspan))

/-- Activation element k. -/
def VecItem.act (v : VecItem) (k : Nat) : Nat := packGet v.a (codeBits v.afmt) k

/-- MX block scale of block b for column c: the exponent sA + sW − 254, `none` for NaN (R48). -/
def VecItem.blockExp (v : VecItem) (b c : Nat) : Option Int :=
  let sa := (v.ascale.getD b 0).toNat
  let sw := (v.wt.scale.getD (b * 128 + c) 0).toNat
  if sa = 255 ∨ sw = 255 then none else some ((sa : Int) + sw - 254)

/-- Scales an FP32 sum by a power of two. -/
def scale32 (x : W32) (k : Option Int) : W32 :=
  match k with
  | none => qnan
  | some k => match f32 x with | .nan => qnan | v => toF32 (v.scale k)

/-- The float value of column c that leaves the bottom of the array (R48, R52). -/
def VecItem.fcol (v : VecItem) (c : Nat) : W32 :=
  let prod (p : Nat × Nat) : W32 := arrProd (elemVal v.afmt (v.act p.2)) (elemVal v.wt.fmt (v.wt.weight p.1 c))
  if codeFamily v.wt.fmt = some 1 then
    let blocks := (List.range (v.k / 32)).filterMap fun b =>
      let ps := (v.pairs c).filter fun p => p.2 / 32 == b
      if ps.isEmpty then none else some (scale32 (fsum v.mode (ps.map prod)) (v.blockExp b c))
    fsum v.mode blocks
  else fsum v.mode ((v.pairs c).map prod)

/-- The integer value of column c and its clamps (R54). -/
def VecItem.icol (v : VecItem) (c : Nat) : Int × Nat :=
  isum v.mode ((v.pairs c).map fun p => elemInt v.afmt (v.act p.2) * elemInt v.wt.fmt (v.wt.weight p.1 c))

/-- The product is of the integer family. -/
abbrev VecItem.isInt (v : VecItem) : Bool := codeFamily v.wt.fmt == some 2

/-- The 128 values that leave the bottom of the array, and the clamps made. -/
def VecItem.out (v : VecItem) : List W32 × Nat :=
  if v.isInt then
    let l := (List.range 128).map v.icol
    (l.map fun x => u32 (ofInt 32 x.1), (l.map (·.2)).sum)
  else ((List.range 128).map v.fcol, 0)

/-- Adds a row of partial sums into an accumulator row, or writes it (R42 event 5, R55); the clamps made. -/
def accInto (v : VecItem) (o : List W32 × Nat) (a : AccRow) : AccRow × Nat :=
  if !v.add then ({ vals := o.1, int := v.isInt, sat := decide (o.2 ≠ 0), pois := v.pois || v.wt.pois }, o.2)
  else if v.isInt then
    let l := (List.range 128).map fun c => addClamp ((a.val c).toInt, 0) (((o.1.getD c 0).toInt), 0)
    let n := o.2 + (l.map (·.2)).sum
    ({ a with vals := l.map fun x => u32 (ofInt 32 x.1), sat := a.sat || decide (n ≠ 0), pois := a.pois || v.pois || v.wt.pois }, n)
  else
    ({ a with vals := (List.range 128).map fun c => fadd32 (a.val c) (o.1.getD c 0), pois := a.pois || v.pois || v.wt.pois }, 0)

/-! ### The shadow checker's capture -/

/-- The state of a checker. -/
def State.shdOf (s : State) (n : Nat) : ShdSt := mget {} s.shd n

/-- Replaces the state of a checker. -/
def State.setShd (s : State) (n : Nat) (x : ShdSt) : State := { s with shd := mset {} s.shd n x }

/-- Vector v of tile t is sampled (R139). -/
def State.shdSelect (s : State) (t v : Nat) : Bool :=
  let n := floeOf t
  let w := (mix10 (s.keyOf cVEC t) (s.rd cSHD n SHD.STREAM, u32 v, u32 (t * 65536 + v / 2 ^ 32 % 65536), 0)).1
  s.rdb cSHD n hCTRL 0 && w.toNat % 2 ^ s.rdf cSHD n SHD.SAMPLE 0 5 == 0

/-- A sampled vector leaves the array: it is queued with the settings in force, or skipped when 8 wait (R140, R145). The
32-bit sums of an integer product are taken as the FP32 values nearest to them (DESIGN CHOICE, log 96). -/
def State.shdCapture (s : State) (t : Nat) (v : VecItem) (d : List W32) : State :=
  match v.samp with
  | none => s
  | some layer =>
    let n := floeOf t
    let x := s.shdOf n
    if 8 ≤ x.queue.length then (s.bump cSHD n SHD.SKIP_CNT).irq cSHD n 2
    else
      let q : ShdSample := { item := v, d := if v.isInt then d.map fun x => ofInt32 x.toInt else d, layer := layer, floor := sext 8 (s.rdf cSHD n SHD.FLOOR 0 8)
                             bin := s.rdf cSHD n SHD.THRESH 16 4, count := s.rdf cSHD n SHD.THRESH 0 16 }
      s.setShd n { x with queue := x.queue ++ [q] }

/-! ### Vectors through the array -/

/-- The first vector in the array reaches the accumulator stage (R42, R54–R56, R76). -/
def State.accumulate (s : State) (t : Nat) (v : VecItem) (rest : List PipeItem) : State :=
  let x := s.tile t
  let o := v.out
  let (row, n) := accInto v o (x.accRow v.row)
  let s := s.setTile t { x with acc := mset {} x.acc v.row row, pipe := rest
                                satRec := if n ≠ 0 then some v.mma else x.satRec }
  let s := s.shdCapture t v o.1
  if n = 0 then s
  else
    let s := (s.bump cTILE t TILE.SAT_CNT n).irq cTILE t 2
    if x.satRec = some v.mma then s else s.recCE cTILE t 0x0D

/-! ### Drains (R59–R68, R72) -/

/-- Bytes of one drained row (R67). -/
def drainRowBytes (fmt : Nat) : Nat :=
  match fmt with | 0 | 5 => 512 | 1 | 2 => 256 | 3 | 4 | 6 => 128 | _ => 272

/-- Row type that an output format takes: true for INT32; `none` for a reserved format (R59). -/
def drainType (fmt : Nat) : Option Bool :=
  if fmt = 5 ∨ fmt = 6 then some true else if fmt ≤ 4 ∨ fmt = 7 then some false else none

/-- The type of a row once everything now in the array has passed (R43, R63). -/
def TileSt.typeAfter (x : TileSt) (r : Nat) : Bool :=
  x.pipe.foldl (fun ty i => match i with
    | .vec v => if v.row = r ∧ !v.add then v.isInt else ty
    | .drain ds _ _ => if ds.any (fun d => d.mode != 0 && decide (d.start ≤ r) && decide (r < d.start + d.count)) then false else ty)
    (x.accRow r).int

/-- A drain from the drain registers, or from an array descriptor in their form. ROUND is the field as it stands: no field
carries a tensor's precision class to a drain, so what R60 says of the dispatcher and the class is taken as what software
writes there (DESIGN CHOICE, log 84). -/
def drainOf (ctrl dst stride out stream blo bhi rstride : W32) (dest : DrainDest) : DrainReq :=
  { tag := fld ctrl 24 4, mode := fld ctrl 22 2, start := fld ctrl 0 9, count := fld ctrl 9 9 + 1, dst := dst.toNat
    stride := stride.toNat, shift := fld out 24 5, round := fld out 8 2, fmt := fld out 0 4, stream := stream
    base := u64 (blo.toNat + bhi.toNat * 2 ^ 32), rstride := rstride, dest := dest }

/-- A drain is refused by R45. In MODE "zero" it reads no row and writes none: its FMT, which may then be a reserved one, is
compared with nothing, and it has no destination row to lie outside the store (DESIGN CHOICE, log 85). A DRAIN_DSTRIDE below
the row size, for which R67 gives no consequence, is accepted: rows overlap and are written in ascending order, and the last
BS16 row counts 272 bytes (DESIGN CHOICE, log 86). -/
def TileSt.drainBad (x : TileSt) (d : DrainReq) : Bool :=
  let rows := (List.range d.count).map (d.start + ·)
  decide (512 < d.start + d.count) || d.mode == 3 || decide (1 < d.round) || d.tag == 15 || d.dst % 64 != 0 || d.stride % 64 != 0 ||
    (d.mode != 2 &&
      ((match drainType d.fmt with
        | none => true
        | some ty => rows.any fun r => x.typeAfter r != ty) ||
       decide (tsSize < d.dst + (d.count - 1) * d.stride + drainRowBytes d.fmt)))

/-- Puts a drain among those of its token, in ascending tag order. -/
def byTag (d : DrainReq) : List DrainReq → List DrainReq
  | [] => [d]
  | e :: r => if d.tag < e.tag then d :: e :: r else e :: byTag d r

/-- The token that a drain shares: one at the top of the array, inserted in the same count of the timebase. Whether two
requests of one count come at one moment (R23) is left free. -/
def State.shareToken (s : State) (t : Nat) : Option (List PipeItem × List DrainReq × Nat) :=
  match (s.tile t).pipe.getLast? with
  | some (.drain ds false at') =>
    if at' = s.clk.time ∧ Config.freeBit s.fresh then some ((s.tile t).pipe.dropLast, ds, at') else none
  | _ => none

/-- A drain enters the array behind what is in it, with a token of its own, or sharing that of the drains accepted at the
same moment (R23, R63 event 1, R65). -/
def State.acceptDrain (s : State) (t : Nat) (d : DrainReq) : State :=
  let s' := { s with fresh := s.fresh + 1 }
  match s.shareToken t with
  | some (l, ds, at') => s'.setTile t { s.tile t with pipe := l ++ [.drain (byTag d ds) false at'] }
  | none => s'.setTile t { s.tile t with pipe := (s.tile t).pipe ++ [.drain [d] false s.clk.time] }

/-- Rounding of element (j, c) of a drain: j counts from ROW_START (R60). -/
def DrainReq.rnd (d : DrainReq) (k : Quad) (sr : Bool) (j c : Nat) : Rnd :=
  if d.round = 1 ∧ sr then srOf (draw k d.stream (d.base + u64 (j * d.rstride.toNat + c)) 0).1 else .rne

/-- One row through the converter: bytes and conversions that overflowed or clamped (R59, R61). -/
def DrainReq.convert (d : DrainReq) (k : Quad) (sr : Bool) (j : Nat) (a : AccRow) : Bytes × Nat :=
  let cols := List.range 128
  let conv (f : Fmt) : Bytes × Nat :=
    let l := cols.map fun c => f.cvt (d.rnd k sr j c) (f32 (a.val c)) (fmtFP32.neg (a.val c).toNat)
    (packAll (1 + f.eb + f.mb) (l.map (·.1)), (l.filter (·.2)).length)
  match d.fmt with
  | 1 => conv fmtBF16
  | 2 => conv fmtFP16
  | 3 => conv fmtE4M3
  | 4 => conv fmtE5M2
  | 6 =>
    let l := cols.map fun c =>
      let v := roundInt .rne (a.val c).toInt (-(d.shift : Int))
      let w := clampI (-128) 127 v
      (ofInt 8 w, w != v)
    (packAll 8 (l.map (·.1)), (l.filter (·.2)).length)
  | 7 =>
    let rnd (b i : Nat) : Rnd := d.rnd k sr j (32 * b + i)
    let blk (b : Nat) : List FV := (List.range 32).map fun i => f32 (a.val (32 * b + i))
    ((List.range 4).flatMap fun b => (bs16Encode (rnd b) (blk b)).bytes, ((List.range 4).map fun b => bs16Clamps (rnd b) (blk b)).sum)
  | _ => (cols.flatMap fun c => toLE 4 (a.val c).toNat, 0)

/-- Raw bytes of rows of the accumulator file. -/
def TileSt.rawRows (x : TileSt) (r n : Nat) : Bytes :=
  (List.range n).flatMap fun i => (List.range 128).flatMap fun c => toLE 4 ((x.accRow (r + i)).val c).toNat

/-- Event 4 of R63 for one drain: rows are written out, then cleared if the mode says so. -/
def State.drainRows (s : State) (t : Nat) (d : DrainReq) : State :=
  let x := s.tile t
  let k := s.keyOf cVEC t
  let sr := s.rdb cTILE t hCTRL 0
  let put (s : State) (j : Nat) : State :=
    let a := x.accRow (d.start + j)
    let (b, n) := d.convert k sr j a
    let s := s.tsWrite t (d.dst + j * d.stride) b a.pois
    if n = 0 then s else (s.bump cTILE t TILE.EXIT_OVF_CNT n).irq cTILE t 4
  let s := match d.dest with
    | .store _ => if d.mode = 2 then s else (List.range d.count).foldl put s
    | .window m addr len txid =>
      let b := bslice (x.rawRows d.start d.count) ((addr - awBase) % tsSize % 512) len
      let p := (List.range d.count).any fun i => (x.accRow (d.start + i)).pois
      match txid with
      | none => s.send (.accData m addr b p 0)
      | some id =>
        s.oplSend (.oplis 0x30 id 0 0 0 7 addr false false 0 (bpad b 128) p (p && decide (64 < len)))
  let acc := if d.mode = 0 then x.acc else (List.range d.count).foldl (fun m i => mset {} m (d.start + i) {}) x.acc
  s.setTile t { x with acc := acc }

/-- Event 4 of R63 for the drains of a token, in ascending tag order (R65). -/
def State.drainReadout (s : State) (t : Nat) (ds : List DrainReq) (at' : Nat) (rest : List PipeItem) : State :=
  let s := ds.foldl (fun s d => s.drainRows t d) s
  s.setTile t { s.tile t with pipe := .drain ds true at' :: rest }

/-- One drain completes: LAST_TAG and DRAIN_DONE_MAP, except for a window read (R65, R72). -/
def State.drainTag (s : State) (t : Nat) (d : DrainReq) : State :=
  match d.dest with
  | .window _ _ _ _ => s
  | .store _ =>
    let s := s.wrf cTILE t TILE.DRAIN_STAT 0 5 (16 + d.tag)
    s.wr cTILE t TILE.DRAIN_DONE_MAP (s.rd cTILE t TILE.DRAIN_DONE_MAP ||| u32 (2 ^ d.tag))

/-- The drain is not a read of the accumulator window. -/
def DrainReq.told (d : DrainReq) : Bool := match d.dest with | .window _ _ _ _ => false | .store _ => true

/-- Event 5 of R63: the token leaves, its drains complete in ascending tag order, the interrupt is set once (R65). -/
def State.drainComplete (s : State) (t : Nat) (ds : List DrainReq) (rest : List PipeItem) : State :=
  let s := ds.foldl (fun s d => s.drainTag t d) (s.setTile t { s.tile t with pipe := rest })
  if ds.any (·.told) then s.irq cTILE t 1 else s

/-- One item leaves the array, whatever it is; a drain that is still to be read out waits for the tile store (R66). -/
def State.pipePop (s : State) (t : Nat) : State :=
  match (s.tile t).pipe with
  | [] => s
  | .vec v :: rest => s.accumulate t v rest
  | .drain ds false at' :: rest =>
    if s.tsFrozen t then s
    else
      let s := s.drainReadout t ds at' rest
      s.drainComplete t ds rest
  | .drain ds true _ :: rest => s.drainComplete t ds rest

/-- Everything in the array leaves it, as far as the tile store lets drains out. -/
def State.arrayFlush (s : State) (t : Nat) : State :=
  (List.range (s.tile t).pipe.length).foldl (fun s _ => s.pipePop t) s

/-- A released array that is empty is free: its weight buffers and accumulator file clear (R73). -/
def State.arraySettle (s : State) (t : Nat) : State :=
  let x := s.tile t
  if x.leaving && x.pipe.isEmpty then
    s.setTile t { x with acc := [], active := none, shadow := none, loading := none, holder := none, since := 0, leaving := false }
  else s

/-- The array is released: what is in it leaves, and it is free once it is empty (R66, R73, R74). -/
def State.arrayRelease (s : State) (t : Nat) : State :=
  let s := s.arrayFlush t
  (s.setTile t { s.tile t with leaving := true }).arraySettle t

/-! ### WLOAD, WLOAD_DONE, MMA, vectors and drains as the tile performs them -/

/-- Bytes of a 32-byte array descriptor as words (R447). -/
def descWord (b : Bytes) (k : Nat) : W32 := u32 (bfield b (4 * k) 4)

/-- The parts of a WLOAD: payload, index plane and MX scales as (offset, bytes), form, K span. -/
structure WSrc where
  fmt    : Nat
  sparse : Bool
  kspan  : Nat
  pay    : Nat × Nat
  idx    : Nat × Nat
  scl    : Nat × Nat
deriving DecidableEq, Repr

/-- MX scale rows of a tile covering K indices: K/32 rows of 128 bytes, none outside the MX family (R48). -/
def sclBytes (fmt k : Nat) : Nat := if codeFamily fmt = some 1 then (k + 31) / 32 * 128 else 0

/-- What a tile object's descriptor at `off` asks for under the WLOAD's format; `none` is a refusal (R147–R150). -/
def wsrcOfObject (off fmt : Nat) (b : Bytes) : Option WSrc :=
  let tag := bfield b 0 1
  let kspan := bfield b 2 2
  let po := bfield b 4 4
  let io := bfield b 12 4
  let so := bfield b 20 4
  let kd := codeK fmt
  if bfield b 1 1 ≠ fmt ∨ po % 64 ≠ 0 ∨ io % 64 ≠ 0 ∨ so % 64 ≠ 0 then none
  else if tag = 1 then
    if 2 * kd < kspan then none
    else some ⟨fmt, true, kspan, (off + po, elemBytes fmt (kd * 128)), (off + io, kd * 32), (off + so, sclBytes fmt (2 * kd))⟩
  else if tag = 0 ∨ tag = 0x10 ∨ tag = 0x12 then
    if kd < kspan then none
    else some ⟨fmt, false, kspan, (off + po, elemBytes fmt (kspan * 128)), (0, 0), (off + so, sclBytes fmt kspan)⟩
  else none

/-- The parts of a dense WLOAD (R47, R149). -/
def wsrcDense (off scl fmt : Nat) : WSrc :=
  ⟨fmt, false, codeK fmt, (off, elemBytes fmt (codeK fmt * 128)), (0, 0), (scl, sclBytes fmt (codeK fmt))⟩

/-- A part lies in the tile's own store. -/
def partIn (p : Nat × Nat) : Bool := p.2 == 0 || decide (p.1 + p.2 ≤ tsSize)

/-- The context takes the array from its first WLOAD or MMA that is not refused (R45, R73). -/
def State.takeArray (s : State) (t c : Nat) : State :=
  if (s.tile t).holder.isSome then s else s.setTile t { s.tile t with holder := some c, since := s.clk.time }

/-- The WLOAD reads its parts and the tile begins to load (R43, R56); an index plane with equal indices is refused. -/
def State.wloadRead (s : State) (t c : Nat) (w : WSrc) : State :=
  let (p, s) := s.tsLoad t w.pay.1 w.pay.2
  let (i, s) := s.tsLoad t w.idx.1 w.idx.2
  let (k, s) := s.tsLoad t w.scl.1 w.scl.2
  if w.sparse && idxPlaneBad (codeK w.fmt) i.data then s.arrRefuse t
  else
    let wt : WTile := { fmt := w.fmt, sparse := w.sparse, w := p.data, idx := i.data, scale := k.data, kspan := w.kspan
                        pois := p.anyPois || i.anyPois || k.anyPois }
    let s := s.takeArray t c
    s.setTile t { s.tile t with loading := some wt }

/-- A WLOAD of a context with its descriptor's words (R43–R45, R149). -/
def State.wload (s : State) (t c off ctl scl : Nat) : State :=
  let fmt := ctl % 16
  if off % 64 ≠ 0 ∨ codeFamily fmt = none then s.arrRefuse t
  else if ctl / 16 % 2 = 0 then
    let w := wsrcDense off scl fmt
    if partIn w.pay && partIn w.scl then s.wloadRead t c w else s.arrRefuse t
  else if tsSize < off + 64 then s.arrRefuse t
  else
    let (d, s) := s.tsLoad t off 32
    if d.anyPois then s.arrRefuse t 0x0E
    else
      match wsrcOfObject off fmt d.data with
      | none => s.arrRefuse t
      | some w => if partIn w.pay && partIn w.idx && partIn w.scl then s.wloadRead t c w else s.arrRefuse t

/-- An MMA as its descriptor gives it (R44). -/
structure MmaReq where
  off : Nat
  stride : Nat
  fmt : Nat
  m : Nat
  row : Nat
  add : Bool
  swap : Bool
  scl : Nat
  sclStride : Nat
deriving DecidableEq, Repr

/-- The weight tile an MMA would meet, `none` if its buffer holds none (R43, R45). -/
def TileSt.mmaTile (x : TileSt) (r : MmaReq) : Option WTile := if r.swap then x.shadow else x.active

/-- An MMA is refused by R45, given its weight tile. -/
def TileSt.mmaBad (x : TileSt) (r : MmaReq) (w : WTile) : Bool :=
  let k := prodK w.fmt r.fmt w.sparse
  let mx := codeFamily w.fmt == some 1
  r.m == 0 || decide (512 < r.m) || decide (512 < r.row + r.m) || codeFamily r.fmt == none ||
    codeFamily r.fmt != codeFamily w.fmt || r.off % 64 != 0 || r.stride % 64 != 0 ||
    decide (tsSize < r.off + (r.m - 1) * r.stride + elemBytes r.fmt k) ||
    (mx && decide (tsSize < r.scl + (r.m - 1) * r.sclStride + k / 32)) ||
    (r.add && (List.range r.m).any fun i => x.typeAfter (r.row + i) != (codeFamily w.fmt == some 2))

/-- Vector i of an MMA is read in full and issued (R42 event 1), counted, and offered to the shadow checker. -/
def State.issueVec (s : State) (t : Nat) (r : MmaReq) (w : WTile) (layer i : Nat) : State :=
  let k := prodK w.fmt r.fmt w.sparse
  let (a, s) := s.tsRead t (r.off + i * r.stride) (elemBytes r.fmt k)
  let (c, s) := if codeFamily w.fmt = some 1 then s.tsRead t (r.scl + i * r.sclStride) (k / 32) else (⟨[], [], true⟩, s)
  let n := floeOf t
  let sh := s.shdOf n
  let v := mget 0 sh.issued t
  let en := s.rdb cSHD n hCTRL 0
  let item : VecItem := { a := a.data, afmt := r.fmt, ascale := c.data, pois := a.anyPois || c.anyPois, wt := w, k := k
                          row := r.row + i, add := r.add, mma := (s.tile t).mmas
                          samp := if s.shdSelect t v then some layer else none }
  let s := if en then s.setShd n { sh with issued := mset 0 sh.issued t (v + 1) } else s
  let s := s.setTile t { s.tile t with pipe := (s.tile t).pipe ++ [.vec item] }
  let h := issueInterval w.fmt r.fmt
  (s.bump64 cTILE t TILE.ARRAY_HS h).bump64 cTIM 0 (if n = 0 then TIM.ARRAY_HS_A else TIM.ARRAY_HS_B) h

/-- Some vector of the MMA just issued, or its weight tile, carries poison (R56). -/
def TileSt.mmaPois (x : TileSt) : Bool :=
  x.pipe.any fun i => match i with | .vec v => v.mma == x.mmas && (v.pois || v.wt.pois) | .drain _ _ _ => false

/-- An MMA of a context (R42–R45, R56): its vectors issue, after the swap of the buffers when it asks for one. -/
def State.mma (s : State) (t c : Nat) (r : MmaReq) (layer : Nat) : State :=
  let x := s.tile t
  match x.mmaTile r with
  | none => s.arrRefuse t
  | some w =>
    if x.mmaBad r w then s.arrRefuse t
    else
      let s := s.takeArray t c
      let s := if r.swap then s.setTile t { s.tile t with active := some w, shadow := none } else s
      let s := (List.range r.m).foldl (fun s i => s.issueVec t r w layer i) s
      let p := (s.tile t).mmaPois
      let s := s.setTile t { s.tile t with mmas := (s.tile t).mmas + 1 }
      if p then s.recDef cTILE t 0x03 else s

/-- A drain, by instruction or by register (R45, R63, R68). -/
def State.drainIssue (s : State) (t : Nat) (d : DrainReq) : State :=
  if (s.tile t).drainBad d then s.arrRefuse t else s.acceptDrain t d

/-- The tile store's grants and the array's rows are at hand. -/
def State.arrOn (s : State) (t : Nat) : Bool := decide (t < 128) && s.tileOn t

/-- WLOAD_DONE (R43): the tile waits in the shadow buffer. -/
def execWloadDone (t : Nat) (s : State) : Res :=
  .next <|
    match (s.tile t).loading with
    | some w => if s.arrOn t then s.setTile t { s.tile t with shadow := some w, loading := none } else s
    | none => s

/-- MMA_VECTOR_ACCUMULATE (R42 events 4 and 5): the first vector in the array; a drain ahead of it holds it. -/
def execMmaVectorAccumulate (t : Nat) (s : State) : Res :=
  .next <|
    match (s.tile t).pipe with
    | .vec v :: rest => if s.arrOn t then (s.accumulate t v rest).arraySettle t else s
    | _ => s

/-- DRAIN_CTRL.GO (R63, R68): a register drain; a zeroing mode is refused while a context holds the array. -/
def State.drainGo (s : State) (t : Nat) (v : W32) : State :=
  let s := s.wr cTILE t TILE.DRAIN_CTRL (v &&& 0x0FC3FFFF)
  let d := drainOf v (s.rd cTILE t TILE.DRAIN_DST) (s.rd cTILE t TILE.DRAIN_DSTRIDE) (s.rd cTILE t TILE.DRAIN_OUT)
    (s.rd cTILE t TILE.DRAIN_STREAM) (s.rd cTILE t TILE.DRAIN_BASE_LO) (s.rd cTILE t TILE.DRAIN_BASE_HI)
    (s.rd cTILE t TILE.DRAIN_RSTRIDE) (.store none)
  if (s.tile t).holder.isSome && d.mode != 0 then s.arrRefuse t else s.drainIssue t d

/-- DRAIN_CTRL_GO (R68). -/
def execDrainCtrlGo (m t : Nat) (v : BitVec 32) (s : State) : Res :=
  .next <| s.actionWrite m cTILE t TILE.DRAIN_CTRL false (·.drainGo t v)

/-- DRAIN_READOUT (R63 event 4, R66): the first drain in the array, once the tile store grants. -/
def execDrainReadout (t : Nat) (s : State) : Res :=
  .next <|
    match (s.tile t).pipe with
    | .drain ds false at' :: rest => if s.arrOn t && !s.tsFrozen t then s.drainReadout t ds at' rest else s
    | _ => s

/-- DRAIN_COMPLETE (R63 event 5, R65). -/
def execDrainComplete (t : Nat) (s : State) : Res :=
  .next <|
    match (s.tile t).pipe with
    | .drain ds true _ :: rest => if s.arrOn t then (s.drainComplete t ds rest).arraySettle t else s
    | _ => s

/-- The rows that a read of the accumulator window covers: tile, first row, rows. -/
def accWinRows (addr len : Nat) : Option (Nat × Nat × Nat) :=
  if awBase ≤ addr ∧ addr < awBase + 128 * tsSize ∧ 0 < len then
    let o := (addr - awBase) % tsSize
    if o + len ≤ 0x40000 then some ((addr - awBase) / tsSize, o / 512, (o + len - 1) / 512 + 1 - o / 512) else none
  else none

/-- A read of the accumulator window enters the array as a drain with tag 15 (R72). -/
def State.accWindow (s : State) (m addr len : Nat) (txid : Option Nat) : State :=
  match accWinRows addr len with
  | none => s.send (.accData m addr [] false 1)
  | some (t, r, n) =>
    if !s.tileEnabled t then s.send (.accData m addr [] false 1)
    else if !s.on (t / 2) then (s.recUC cTILE t 0x05 (some addr)).send (.accData m addr [] false 4)
    else
      s.acceptDrain t { tag := 15, mode := 0, start := r, count := n, dst := 0, stride := 0, shift := 0, round := 0, fmt := 0
                        stream := 0, base := 0, rstride := 0, dest := .window m addr len txid }

/-- ACC_WINDOW_READ (R72). -/
def execAccWindowRead (m addr len : Nat) (s : State) : Res :=
  .next <| if s.live then s.accWindow m addr len none else s

/-! ### TS_ACCESS (R69–R71) -/

/-- Flips code bits of a word; data bits change the stored error, not the bytes (R71). -/
def State.tsFlip (s : State) (w : Nat) (m : BitVec 72) : State :=
  { s with ts := { s.ts with err := mset 0 s.ts.err w (s.tsErrOf w ^^^ m) } }

/-- A requester's access to one 64-byte line. -/
def State.tsAccess (s : State) (t off req : Nat) (wr : Option LineWrite) (flips : List (Nat × BitVec 72)) : State :=
  let w0 := tsAddr t off / 8
  let s := flips.foldl (fun s f => if f.1 < 8 then s.tsFlip (w0 + f.1) f.2 else s) s
  match wr with
  | none =>
    let (d, s) := s.tsRead t off 64
    s.send (.tsData t off req d.data (BitVec.ofNat 8 ((List.range 8).foldl (fun a i => a + b2n (d.pois.getD (8 * i) false) * 2 ^ i) 0)))
  | some w =>
    let s := s.grant t
    (List.range 8).foldl (fun s i =>
      let m := w.mask.extractLsb' (8 * i) 8
      let d := bslice w.data (8 * i) 8
      s.tsPutMask (w0 + i) m d (w.pois.getLsbD i)) s

/-- TS_ACCESS: a granted access; a frozen group grants none (R70, R71). -/
def execTsAccess (t off req : Nat) (wr : Option LineWrite) (flips : List (Nat × BitVec 72)) (s : State) : Res :=
  .next <|
    if s.arrOn t && off % 64 == 0 && decide (off < tsSize) && !s.tsFrozen t then s.tsAccess t off req wr flips else s

end Sys2Proof.Machine
end

