-- ==== Sys2Proof/Machine/Coherence.lean ====
section
/-! DEFINITION. The Oplis agent (chapter 14): messages and TXIDs, the device as home of HBM with its snoop filter, the
device as cacher with its line cache, the windows, and how a unit's access to companion memory waits for its lines. -/
namespace Sys2Proof.Machine

/-! ### Messages and counts -/

/-- The Oplis link is up. -/
abbrev State.linkUp (s : State) : Bool := s.oplUp

/-- The link is up and PD81 is on: a message can come or go. -/
def State.oplLive (s : State) : Bool := s.on 81 && s.oplUp

/-- A message is received: RX_MSG, and POISON_CNT when it carries poison. -/
def State.oplRecv (s : State) (pois : Bool) : State :=
  let s := s.bump64 cOPL 0 OPL.RX_MSG
  if pois then s.bump cOPL 0 OPL.POISON_CNT else s

/-- A message with an unknown TXID, or one that the protocol does not allow (log 68): discarded and counted (R431). -/
def State.oplProto (s : State) : State := (s.bump cOPL 0 OPL.PROTO_ERR_CNT).irq cOPL 0 128

/-- Counts and records an answer's status (R431): 1 and 4 in ADDR_ERR_CNT, 2 in PROTO_ERR_CNT. -/
def State.oplStatus (s : State) (status addr : Nat) : State :=
  if status = 1 then (s.bump cOPL 0 OPL.ADDR_ERR_CNT).recUC cOPL 0 0x09 (some addr)
  else if status = 4 then (s.bump cOPL 0 OPL.ADDR_ERR_CNT).recUC cOPL 0 0x05 (some addr)
  else if status = 2 then ((s.bump cOPL 0 OPL.PROTO_ERR_CNT).irq cOPL 0 128).recUC cOPL 0 0x09 (some addr)
  else s

/-- Answers a companion request with Ack. -/
def State.coAck (s : State) (r : CoReq) (status : Nat) : State :=
  (s.oplStatus status r.addr).oplSend (.oplis 0x20 r.txid 0 0 status 7 r.addr false false 0 [] false false)

/-- Answers a companion read with Data; `st` is the state granted. -/
def State.coData (s : State) (r : CoReq) (st : Nat) (d : Bytes) (plo phi : Bool) : State :=
  s.oplSend (.oplis 0x30 r.txid 0 st 0 7 r.addr false false 0 (bpad d 128) plo phi)

/-- One Deferred error for a message whose poisoned data was written (R431). -/
def State.coPoison (s : State) (r : CoReq) : State :=
  if r.plo || r.phi then s.recDef cOPL 0 0x03 (some r.addr) else s

/-! ### The device as home -/

/-- The line lies in the coherent window (R410). -/
def State.inCohWin (s : State) (a : Nat) : Bool :=
  let v := s.rd cOPL 0 OPL.COH_WIN
  let b := fld v 0 9 * 2 ^ 30
  decide (b ≤ a) && decide (a < b + fld v 16 10 * 2 ^ 30) && decide (a < hbmSize)

/-- Filter state of a line: `none` for I, true for M. -/
def State.sfGet (s : State) (l : Nat) : Option Bool := (s.opl.sf.find? (fun e => e.1 == l)).map (·.2)

/-- Frees the filter entry of a line. -/
def State.sfFree (s : State) (l : Nat) : State := { s with opl := { s.opl with sf := s.opl.sf.filter (fun e => e.1 != l) } }

/-- Enters a line, as most recently granted (R418). -/
def State.sfGrant (s : State) (l : Nat) (m : Bool) : State :=
  { s with opl := { s.opl with sf := s.opl.sf.filter (fun e => e.1 != l) ++ [(l, m)], quiesced := false } }

/-- A line is granted and not yet acknowledged, or snooped: a transaction on it is active (R411). -/
def State.lineActive (s : State) (l : Nat) : Bool :=
  s.opl.busy.any (fun b => b.1 == l) || s.opl.snps.any (fun e => e.2.any fun x => x.line == l && !x.dead)

/-- The set of the filter a line falls in: its stack's slice and a set within it. -/
def sfSetOf (l : Nat) : Nat × Nat := (stackOf (l * 128), Config.sfSet l)

/-- The entry that must go before line `l` can be granted (R418). -/
def State.sfVictim (s : State) (l : Nat) : Option Nat :=
  if (s.sfGet l).isSome then none
  else
    let set := s.opl.sf.filter fun e => sfSetOf e.1 == sfSetOf l
    if 16 ≤ set.length then set.head?.map (·.1) else none

/-- The Oplis link as an HBM requester (R378). -/
def rqOpl : Rq := ⟨2, 7⟩

/-- Writes the two sectors of a line from an Evict or a snoop answer (R414, R416). -/
def State.writeLine (s : State) (l : Nat) (d : Bytes) (plo phi : Bool) : State :=
  ((s.hbmWrite rqOpl (l * 128) (bslice d 0 64) plo).2.hbmWrite rqOpl (l * 128 + 64) (bslice d 64 64) phi).2

/-- Byte mask of a companion write. -/
def CoReq.bytes (r : CoReq) : BitVec 128 := if r.opc = 0x05 then r.mask else BitVec.allOnes 128

/-- Serves a companion write of HBM: both sectors, poison of each half (R415, R431). -/
def State.coWriteHbm (s : State) (r : CoReq) : State :=
  let half (s : State) (lo : Nat) (pois : Bool) : State :=
    let m := r.bytes.extractLsb' lo 64
    if m = 0 then s else s.writeSector (r.addr + lo) 7 m (bslice r.data lo 64) pois
  let s := half (half s 0 r.plo) 64 r.phi
  (s.coPoison r).coAck r 0

/-- Serves a companion read of HBM or of a tile store: Data with the bytes asked for, the rest zero. -/
def State.coReadAns (s : State) (r : CoReq) (st : Nat) (d : Rd) : State :=
  if d.ok then s.coData r st d.data ((d.pois.take 64).any id) ((d.pois.drop 64).any id) else s.coAck r 4

/-- A companion request to HBM tries to proceed (R410, R411, R415, R418, R420): true when it has been answered. -/
def State.coHbm (s : State) (r : CoReq) : Bool × State :=
  let l := r.addr / 128
  let n := stackOf r.addr
  let m := s.sfGet l
  if r.opc = 0x01 ∨ r.opc = 0x02 then
    if r.addr % 128 ≠ 0 then (true, s.coAck r 1)
    else if !s.inCohWin r.addr then (true, s.coAck r 2)
    else if s.opl.quiescing || s.lineActive l then (false, s)
    else if m = some true then (true, s.coAck r 2)
    else
      match s.sfVictim l with
      | some v =>
        if s.lineActive v || (freeId s.opl.snps 256).isNone then (false, s)
        else (false, ((s.bump cOPL 0 OPL.BACKINV_CNT).sendSnoop v true))
      | none =>
        if !s.stackOk n then (true, (s.hbmUnavail r.addr).coAck r 4)
        else if s.hbmFrozen n then (false, s)
        else
          let own := decide (r.opc = 0x02)
          let (d, s) := s.hbmRead rqOpl r.addr 128
          let s := s.sfGrant l own
          (true, ({ s with opl := { s.opl with busy := s.opl.busy ++ [(l, r.txid)] } }).coReadAns r (if own then 2 else 1) d)
  else if r.opc = 0x03 then
    let w := 2 ^ r.size
    if r.size < 2 ∨ 7 < r.size ∨ r.addr % w ≠ 0 then (true, s.coAck r 1)
    else if s.lineActive l then (false, s)
    else if !s.stackOk n then (true, (s.hbmUnavail r.addr).coAck r 4)
    else if s.hbmFrozen n then (false, s)
    else
      let (d, s) := s.hbmRead rqOpl r.addr w
      (true, s.coReadAns r 0 d)
  else if r.opc = 0x04 ∨ r.opc = 0x05 then
    if r.addr % 128 ≠ 0 then (true, s.coAck r 1)
    else if s.lineActive l then (false, s)
    else if m = some true then (true, s.coAck r 2)
    else if !s.stackOk n then (true, (s.hbmUnavail r.addr).coAck r 4)
    else if s.hbmFrozen n || s.firnHeld (r.addr / 65536) then (false, s)
    else (true, (s.sfFree l).coWriteHbm r)
  else if r.opc = 0x06 then
    if r.addr % 128 ≠ 0 then (true, s.coAck r 1)
    else if !s.inCohWin r.addr then (true, s.coAck r 2)
    else if s.lineActive l then (false, s)
    else if !r.dirty then (true, (s.sfFree l).coAck r 0)
    else if m ≠ some true then (true, s.coAck r 2)
    else if !s.stackOk n then (true, (s.hbmUnavail r.addr).coAck r 4)
    else if s.hbmFrozen n || s.firnHeld (r.addr / 65536) then (false, s)
    else (true, (((s.sfFree l).writeLine l r.data r.plo r.phi).coPoison r).coAck r 0)
  else (true, s.coAck r 1)

/-- A companion request to a tile's slot of the direct window tries to proceed (R407, R410, R72). -/
def State.coTile (s : State) (r : CoReq) (t off : Nat) : Bool × State :=
  if r.opc = 0x01 ∨ r.opc = 0x02 ∨ r.opc = 0x06 then (true, s.coAck r 2)
  else if !s.tileEnabled t then (true, s.coAck r 1)
  else if !s.on (t / 2) then (true, s.coAck r 4)
  else if s.tsFrozen t then (false, s)
  else if r.opc = 0x03 then
    if r.size < 2 ∨ 7 < r.size ∨ r.addr % 2 ^ r.size ≠ 0 then (true, s.coAck r 1)
    else
      let (d, s) := s.tsRead t off (2 ^ r.size)
      (true, s.coReadAns r 0 d)
  else if r.addr % 128 ≠ 0 then (true, s.coAck r 1)
  else
    let put (s : State) (i : Nat) : State :=
      s.tsPutMask (tsAddr t off / 8 + i) (r.bytes.extractLsb' (8 * i) 8) (bslice r.data (8 * i) 8) (if i < 8 then r.plo else r.phi)
    let lines := b2n (r.bytes.extractLsb' 0 64 != 0) + b2n (r.bytes.extractLsb' 64 64 != 0)
    (true, (((List.range 16).foldl put (s.grant t lines)).coPoison r).coAck r 0)

/-- A companion request to the register pages: it is performed in its turn, after what `Access.lean` says (R423, R424). -/
def CoReq.isReg (r : CoReq) : Bool := r.opc == 0x08 || (decide (0xF00000000000 ≤ r.addr) && (r.opc == 0x03 || r.opc == 0x05))

/-- A companion read of the accumulator window: an aligned Rd_Uncached of a row of an enabled tile whose domain is on enters
the array as a drain with tag 15, which answers it (R72, R407). -/
def State.coAcc (s : State) (r : CoReq) : Bool × State :=
  if r.opc ≠ 0x03 ∨ r.size < 2 ∨ 7 < r.size ∨ r.addr % 2 ^ r.size ≠ 0 then (true, s.coAck r 1)
  else
    match accWinRows r.addr (2 ^ r.size) with
    | none => (true, s.coAck r 1)
    | some (t, _, _) =>
      if !s.tileEnabled t then (true, s.coAck r 1)
      else
        match s.pathOff rqOpl (floeOf t) with
        | some b => (true, (s.bridgeUnavail b).coAck r 4)
        | none => if s.on (t / 2) then (true, s.accWindow 0 r.addr (2 ^ r.size) (some r.txid)) else (true, s.coAck r 4)

/-- A companion request that names memory tries to proceed (R407); one to a register stays queued here. -/
def State.coTry (s : State) (r : CoReq) : Bool × State :=
  if r.isReg then (false, s)
  else if awBase ≤ r.addr ∧ r.addr < awBase + 128 * tsSize then s.coAcc r
  else if r.addr < hbmSize then
    match s.pathOff rqOpl (stackOf r.addr / 4) with
    | some b => (true, (s.bridgeUnavail b).coAck r 4)
    | none => s.coHbm r
  else
    match dwSlot r.addr (if r.opc = 0x03 then 2 ^ r.size else 1) with
    | some (t, off) =>
      match s.pathOff rqOpl (floeOf t) with
      | some b => (true, (s.bridgeUnavail b).coAck r 4)
      | none => s.coTile r t off
    | none => (true, s.coAck r 1)

/-- An access of a device requester to one sector tries to proceed; that of a masked requester is not granted (R376, R379,
R416, R354, R457). -/
def State.devTry (s : State) (a req : Nat) (wr : Bool) (go unav : State → State) : Bool × State :=
  let l := a / 128
  let f := stackOf a / 4
  let q : Rq := ⟨if req = 1 then 1 - f else if req = 2 ∨ req = 7 then 2 else f, req⟩
  if let some b := s.pathOff q f then (true, unav (s.bridgeUnavail b))
  else if !s.stackOk (stackOf a) then (true, unav (s.hbmUnavail a))
  else if s.arbMasked (128 + stackOf a) req || s.hbmFrozen (stackOf a) || s.opl.busy.any (fun b => b.1 == l) || (wr && s.firnHeld (a / 65536)) then (false, s)
  else
    match s.sfGet l with
    | some m => if wr || m then (false, s.sendSnoop l wr) else (true, go s)
    | none => (true, go s)

/-- A waiting access tries to proceed. -/
def State.tryWait (s : State) (w : Wait) : Bool × State :=
  match w with
  | .rd a q e1 e2 => s.devTry a q false
      (fun s => let (d, p, s) := s.readSector a q e1 e2; s.send (.hbmData a q 0 d p)) (·.send (.hbmData a q 4 [] false))
  | .wr a q mask d p e1 e2 => s.devTry a q true
      (fun s => (s.writeSector a q mask d p e1 e2).send (.hbmAck a q 0)) (·.send (.hbmAck a q 4))
  | .co r => s.coTry r

/-- The later access must not pass the earlier one: same sector, or same line when the companion is in it (R376, R411). -/
def Wait.blocks (e l : Wait) : Bool :=
  match e, l with
  | .co x, .co y => x.addr / 128 == y.addr / 128 && !x.isReg
  | .co x, y => x.addr / 128 == y.addr / 128
  | x, .co y => x.addr / 128 == y.addr / 128
  | x, y => x.addr / 64 == y.addr / 64

/-- A companion request that takes one of the tracker's 1,984 entries that are not kept for Evict, and an Evict (R406). -/
def Wait.tracked (w : Wait) : Bool := match w with | .co r => r.opc != 0x06 | _ => false
def Wait.evicts (w : Wait) : Bool := match w with | .co r => r.opc == 0x06 | _ => false

/-- Tries the waiting accesses in order of arrival; `held` are those that stay. A companion request beyond the tracker's
entries is not tried. -/
def runWaitList : List Wait → List Wait → State → List Wait × State
  | [], held, s => (held, s)
  | w :: r, held, s =>
    if held.any (fun e => e.blocks w) || (w.tracked && decide (1984 ≤ held.countP (·.tracked))) then runWaitList r (held ++ [w]) s
    else
      let (done, s) := s.tryWait w
      runWaitList r (if done then held else held ++ [w]) s

/-- Lets every waiting access proceed that can. -/
def State.runWaits (s : State) : State :=
  let r := runWaitList s.opl.waits [] { s with opl := { s.opl with waits := [] } }
  { r.2 with opl := { r.2.opl with waits := r.1 } }

/-- An access arrives at its controller. -/
def State.arrive (s : State) (w : Wait) : State :=
  ({ s with opl := { s.opl with waits := s.opl.waits ++ [w] } }).runWaits

/-- A write that finds its granule held is counted (R354). -/
def State.countHeld (s : State) (a : Nat) : State :=
  if s.firnHeld (a / 65536) then s.bump cFIRN (a / 65536 % 2) FIRN.HOLD_CNT else s

/-- The two sector writes of a line, as requester 7, that wait (R354, R378). -/
def lineWaits (l : Nat) (d : Bytes) (mask : BitVec 128) (plo phi : Bool) : List Wait :=
  [.wr (l * 128) 7 (mask.extractLsb' 0 64) (bslice d 0 64) plo {} {}, .wr (l * 128 + 64) 7 (mask.extractLsb' 64 64) (bslice d 64 64) phi {} {}]

/-- The home writes a line that the companion has given back: at once, or ahead of every access that waits when the stack is
frozen or R354 holds the granule. -/
def State.lineBack (s : State) (l : Nat) (d : Bytes) (plo phi : Bool) : State :=
  let a := l * 128
  if s.stackOk (stackOf a) && (s.hbmFrozen (stackOf a) || s.firnHeld (a / 65536)) then
    let s := s.countHeld a
    { s with opl := { s.opl with waits := lineWaits l d (BitVec.allOnes 128) plo phi ++ s.opl.waits } }
  else s.writeLine l d plo phi

/-- A snoop ends (R416, R418): dirty data is written, the filter takes the answer's state. -/
def State.snoopEnd (s : State) (id : Nat) (x : DevSnp) (st : Nat) (data : Option (Bytes × Bool × Bool)) : State :=
  let s := { s with opl := { s.opl with snps := mset none s.opl.snps id none } }
  let s := match data with | some (d, plo, phi) => s.lineBack x.line d plo phi | none => s
  if st = 0 ∨ x.inv then s.sfFree x.line
  else { s with opl := { s.opl with sf := s.opl.sf.map fun e => if e.1 = x.line then (e.1, decide (st = 2)) else e } }

/-- The Evict of a line that waits in the tracker (R414). -/
def State.waitingEvict (s : State) (l : Nat) : Option CoReq :=
  s.opl.waits.findSome? fun w => match w with | .co r => if r.opc = 0x06 ∧ r.addr / 128 = l then some r else none | _ => none

/-- The home finishes a snoop whose line the companion was evicting: the Evict's data, its Ack, then the rest (R414). -/
def State.finishEvp (s : State) (id : Nat) (x : DevSnp) (r : CoReq) : State :=
  let s := { s with opl := { s.opl with waits := s.opl.waits.filter (fun w => w != Wait.co r) } }
  let s := s.snoopEnd id { x with inv := true } 0 (if r.dirty then some (r.data, r.plo, r.phi) else none)
  (s.coPoison r).coAck r 0

/-! ### The device as cacher -/

/-- The companion address of a device address of the window range, and whether its window is cached (R408). -/
def State.winLookup (s : State) (a : Nat) : Option (Nat × Bool) :=
  (List.range 16).findSome? fun n =>
    let cfg := s.rd cOPL 0 (OPL.WIN_CFG + 16 * n)
    let db := (s.rd cOPL 0 (OPL.WIN_DBASE + 16 * n)).toNat * 65536
    let cb := s.rdf cOPL 0 (OPL.WIN_CBASE_LO + 16 * n) 16 16 * 65536 + s.rdf cOPL 0 (OPL.WIN_CBASE_HI + 16 * n) 0 20 * 2 ^ 32
    let sz := 2 ^ fld cfg 0 6
    if bit cfg 31 ∧ 16 ≤ fld cfg 0 6 ∧ fld cfg 0 6 ≤ 46 ∧ db ≤ a ∧ a < db + sz then some (cb + (a - db), bit cfg 8) else none

/-- The companion-window range (R15). -/
def inCompRange (a : Nat) : Bool := decide (0x400000000000 ≤ a) && decide (a < 0x800000000000)

/-- A device request is outstanding on the companion line (R412). -/
def State.txnOn (s : State) (l : Nat) : Bool :=
  s.opl.txns.any fun e => e.2.any fun x => !x.dead && x.caddr / 128 == l

/-- Sends a device request if the egress grants one: link up, not frozen, a TXID free (R406, R432). -/
def State.sendTxn (s : State) (k : TxnKind) (opc caddr unit size : Nat) (line : Option LcLine) (dirty : Bool)
    (mask : BitVec 128) (d : Bytes) (plo phi : Bool) : Bool × State :=
  if !s.oplLive || s.rdb cOPL 0 hFREEZE 0 then (false, s)
  else
    match freeId s.opl.txns 2048 with
    | none => (false, s)
    | some id =>
      let x : DevTxn := { kind := k, caddr := caddr, unit := unit, size := size, dead := false, line := line
                          due := s.clk.time + s.rdf cOPL 0 OPL.TXN_TMO 0 24 }
      let s := { s with opl := { s.opl with txns := mset none s.opl.txns id (some x) } }
      (true, s.oplSend (.oplis opc id 0 0 0 (if k = .rdUncached then Nat.log2 size else 7) caddr dirty false mask d plo phi))

/-- The line held by the line cache. -/
def State.lcGet (s : State) (l : Nat) : Option LcLine := s.opl.lc.find? fun x => x.line == l

/-- Takes a line out of the line cache. -/
def State.lcOut (s : State) (e : LcLine) : State :=
  { s with opl := { s.opl with lc := s.opl.lc.filter (fun x => x.line != e.line) } }

/-- Gives up a line of the line cache (R412): M lines by Evict, S lines silently. A line whose Evict cannot leave now stays. -/
def State.lcDrop (s : State) (e : LcLine) : State :=
  if e.m then
    let r := s.sendTxn .evict 0x06 (e.line * 128) 1 128 (some e) e.dirty 0 (if e.dirty then e.data else []) e.plo e.phi
    if r.1 then r.2.lcOut e else s
  else s.lcOut e

/-- The lines held of the set that a line falls in, least recently used first. -/
def State.lcSetOf (s : State) (l : Nat) : List LcLine := s.opl.lc.filter fun x => Config.lcSet x.line == Config.lcSet l

/-- A way of the set is free for a fill, those of the fills under way counted; if not, the least recently used line of the set
is given up (R419). -/
def State.lcRoom (s : State) (l : Nat) : Bool × State :=
  let coming := s.opl.txns.countP fun e => e.2.any fun x =>
    !x.dead && (x.kind == .rdShared || x.kind == .rdOwn) && (s.lcGet (x.caddr / 128)).isNone && Config.lcSet (x.caddr / 128) == Config.lcSet l
  if (s.lcGet l).isSome || decide ((s.lcSetOf l).length + coming < 16) then (true, s)
  else
    match s.lcSetOf l with
    | e :: _ => (((s.lcDrop e).lcGet e.line).isNone, s.lcDrop e)
    | [] => (false, s)

/-- Installs a line, as most recently used; `lcRoom` has kept a way for it (R419). -/
def State.lcInstall (s : State) (l : Nat) (m : Bool) (d : Bytes) (plo phi : Bool) : State :=
  let s := { s with opl := { s.opl with lc := s.opl.lc.filter (fun x => x.line != l), quiesced := false } }
  { s with opl := { s.opl with lc := s.opl.lc ++ [⟨l, m, false, bpad d 128, plo, phi, true⟩] } }

/-- A use of a held line: it becomes most recently used; a use that had not missed counts as a hit. -/
def State.lcUse (s : State) (e : LcLine) : State :=
  let s := { s with opl := { s.opl with lc := s.opl.lc.filter (fun x => x.line != e.line) ++ [{ e with fill := false }] } }
  if e.fill then s else s.bump64 cOPL 0 OPL.LC_HIT

/-- The smallest aligned power of two, 4 to 128, that holds bytes [lo, hi] of a line (R405). -/
def uncSize (lo hi : Nat) : Nat := (([4, 8, 16, 32, 64].find? fun w => lo / w == hi / w).getD 128)

/-- The answer kept for a unit that covers an address, if one has come. -/
def State.rdbufGet (s : State) (unit ca : Nat) : Option RdBuf :=
  s.opl.rdbuf.find? fun b => b.unit == unit && b.caddr / 128 == ca / 128

/-- One part of a unit's access that lies in one line of the window range: can it be performed now? If not, what it
waits for is asked for (R408, R412, R419, R420). An access that no window contains, or made while the link is down, is
performed at once and fails. -/
def State.compReady (s : State) (unit a n : Nat) (wr stream : Bool) : Bool × State :=
  match s.winLookup a with
  | none => (true, s)
  | some (ca, cached) =>
    let l := ca / 128
    let ask (s : State) (k : TxnKind) (opc sz : Nat) : Bool × State :=
      (false, (s.sendTxn k opc (ca / sz * sz) unit sz none false 0 [] false false).2)
    if !s.oplLive then (true, s)
    else if (s.rdbufGet unit ca).isSome && !wr then (true, s)
    else if (s.rdbufGet unit ca).any (fun b => !b.ok) then (true, s)
    else if cached then
      if s.opl.quiescing then (false, s)
      else
        let held := s.lcGet l
        if wr && stream && n == 128 then
          match held with
          | some e => if s.txnOn l then (false, s) else if e.m then (false, s.lcDrop e) else (true, s.lcDrop e)
          | none => (!s.txnOn l, s)
        else if wr && held.any (·.m) || !wr && held.isSome then (true, s)
        else if s.txnOn l then (false, s)
        else
          let g := s.lcRoom l
          if !g.1 then g
          else
            let r := if wr then ask g.2 .rdOwn 0x02 128 else ask g.2 .rdShared 0x01 128
            if r.2.opl.txns = g.2.opl.txns then r else (false, r.2.bump64 cOPL 0 OPL.LC_MISS)
    else if s.txnOn l then (false, s)
    else if wr then (!s.rdb cOPL 0 hFREEZE 0 && (freeId s.opl.txns 2048).isSome, s)
    else ask s .rdUncached 0x03 (uncSize (ca % 128) (ca % 128 + n - 1))

/-- Cuts a run of bytes at line boundaries: (address, bytes, offset in the run). -/
def linesOf (a len : Nat) : List (Nat × Nat × Nat) :=
  if len = 0 then []
  else (List.range ((a + len - 1) / 128 + 1 - a / 128)).map fun i =>
    let lo := max a ((a / 128 + i) * 128)
    (lo, min (a + len) ((a / 128 + i + 1) * 128) - lo, lo - a)

/-- Takes the answer kept for a unit. -/
def State.takeRdbuf (s : State) (b : RdBuf) : State := { s with opl := { s.opl with rdbuf := s.opl.rdbuf.filter (· != b) } }

/-- Reads one part of a line for a unit, once `compReady` says it can: data, poison, and whether it was available. -/
def State.compRead1 (s : State) (unit a n : Nat) : Rd × State :=
  let bad : Rd := ⟨List.replicate n 0, List.replicate n true, false⟩
  match s.winLookup a with
  | none => (bad, s.recUC cOPL 0 0x09 (some a))
  | some (ca, _) =>
    match s.rdbufGet unit ca with
    | some b =>
      if b.ok then
        let p := (List.range n).map fun i => if ca - b.caddr + i < 64 then b.plo else b.phi
        (⟨bslice b.data (ca - b.caddr) n, p, true⟩, s.takeRdbuf b)
      else (bad, s.takeRdbuf b)
    | none =>
      match s.lcGet (ca / 128) with
      | some e =>
        let p := (List.range n).map fun i => if ca % 128 + i < 64 then e.plo else e.phi
        (⟨bslice e.data (ca % 128) n, p, true⟩, s.lcUse e)
      | none => (bad, s.recUC cOPL 0 0x05 (some a))

/-- Writes one part of a line for a unit, once `compReady` says it can; `false` when it fails. -/
def State.compWrite1 (s : State) (unit a : Nat) (d : Bytes) (mask : BitVec 128) (pl ph stream : Bool) : Bool × State :=
  match s.winLookup a with
  | none => (false, s.recUC cOPL 0 0x09 (some a))
  | some (ca, cached) =>
    let l := ca / 128
    match s.rdbufGet unit ca with
    | some b => if b.ok then (false, s) else (false, s.takeRdbuf b)
    | none =>
      let full := mask == BitVec.allOnes 128
      let plo := pl && mask.extractLsb' 0 64 != 0
      let phi := ph && mask.extractLsb' 64 64 != 0
      if cached && !(stream && full) then
        match s.lcGet l with
        | some e =>
          let e' := { e with dirty := true, data := mergeMask mask (bpad e.data 128) (bpad d 128)
                             plo := if plo || mask.extractLsb' 0 64 == BitVec.allOnes 64 then plo else e.plo
                             phi := if phi || mask.extractLsb' 64 64 == BitVec.allOnes 64 then phi else e.phi }
          (true, s.lcUse e')
        | none => (false, s.recUC cOPL 0 0x05 (some a))
      else
        let r := s.sendTxn (if full then .wrFull else .wrPartial) (if full then 0x04 else 0x05) (l * 128) unit 128 none false
          (if full then 0 else mask) (bpad d 128) plo phi
        if r.1 then r else (false, s.recUC cOPL 0 0x05 (some a))

/-- A unit reads a run of bytes of the window range. -/
def State.compRead (s : State) (unit a len : Nat) : Rd × State :=
  (linesOf a len).foldl (fun acc p =>
    let r := acc.2.compRead1 unit p.1 p.2.1
    (⟨acc.1.data ++ r.1.data, acc.1.pois ++ r.1.pois, acc.1.ok && r.1.ok⟩, r.2)) (⟨[], [], true⟩, s)

/-- Mask of `n` bytes of a line from byte `lo`. -/
def lineMask (lo n : Nat) : BitVec 128 := BitVec.ofNat 128 ((2 ^ n - 1) * 2 ^ lo)

/-- A unit writes a run of bytes of the window range with a poison flag for each byte. -/
def State.compWrite (s : State) (unit a : Nat) (d : Bytes) (pois : List Bool) (stream : Bool) : Bool × State :=
  (linesOf a d.length).foldl (fun acc p =>
    let lo := p.1 % 128
    let r := acc.2.compWrite1 unit p.1 (List.replicate lo 0 ++ bslice d p.2.2 p.2.1) (lineMask lo p.2.1)
      (((pois.drop p.2.2).take (min p.2.1 (64 - lo))).any id) (((pois.drop (p.2.2 + (64 - lo))).take (p.2.1 - (64 - lo))).any id) stream
    (acc.1 && r.1, r.2)) (true, s)

/-! ### A unit's access to HBM or to companion memory -/

/-- A device address that is neither HBM nor the window range is an address error of the unit (R15). -/
def State.unitRead (s : State) (q : Rq) (unit a len : Nat) : Rd × State :=
  if a + len ≤ hbmSize then s.hbmRead q a len
  else if inCompRange a && inCompRange (a + len - 1) then s.compRead unit a len
  else (⟨List.replicate len 0, List.replicate len true, false⟩, s)

/-- As `unitRead`, for a write; `stream` marks the streaming units of R419. -/
def State.unitWrite (s : State) (q : Rq) (unit a : Nat) (d : Bytes) (pois : List Bool) (stream : Bool) : Bool × State :=
  if a + d.length ≤ hbmSize then s.hbmWriteP q a d pois
  else if inCompRange a && inCompRange (a + d.length - 1) then s.compWrite unit a d pois stream
  else (false, s)

/-- The accesses (address, bytes, is a write) of a unit can be performed now, in HBM and in the window range; if not,
what they wait for has been asked for. -/
def State.unitGate (s : State) (unit : Nat) (stream : Bool) (rs : List (Nat × Nat × Bool)) : Bool × State :=
  let comp := (rs.filter fun r => inCompRange r.1).flatMap fun r => (linesOf r.1 r.2.1).map fun p => (p.1, p.2.1, r.2.2)
  let g := s.gate (rs.filter fun r => decide (r.1 < hbmSize) && r.2.1 != 0)
  comp.foldl (fun acc p =>
    let r := acc.2.compReady unit p.1 p.2.1 p.2.2 stream
    (acc.1 && r.1, r.2)) g

/-- Performs a unit's work when its accesses can be made, and leaves it waiting otherwise. -/
def State.unitGated (s : State) (unit : Nat) (stream : Bool) (rs : List (Nat × Nat × Bool)) (act : State → State) : State :=
  let g := s.unitGate unit stream rs
  if g.1 then act g.2 else g.2

/-- Requests of a unit are outstanding. -/
def State.unitBusy (s : State) (unit : Nat) : Bool := s.opl.txns.any fun e => e.2.any fun x => !x.dead && x.unit == unit

/-! ### LINE_CACHE_ACCESS -/

/-- A single access of a unit to the window range: true when it has been served. -/
def State.lcAccess (s : State) (w : LcWait) : Bool × State :=
  let full : BitVec 128 := BitVec.allOnes 128
  let (a, n, wr) : Nat × Nat × Bool := match w.wr with
    | none => (w.addr, 128 - w.addr % 128, false)
    | some (m, _) => (w.addr / 128 * 128, if m = full then 128 else 127, true)
  let g := s.compReady w.unit a n wr w.stream
  if !g.1 then g
  else
    match w.wr with
    | none =>
      let (d, s) := g.2.compRead1 w.unit a n
      (true, s.send (.lcData w.addr w.unit d.data ((d.pois.take (64 - a % 128)).any id) ((d.pois.drop (64 - a % 128)).any id) (!d.ok)))
    | some (m, d) =>
      let r := g.2.compWrite1 w.unit a (bpad d 128) m false false w.stream
      (true, r.2.send (.lcData w.addr w.unit [] false false (!r.1)))

/-- Tries the line cache accesses that wait, in order. -/
def runLcList : List LcWait → List LcWait → State → List LcWait × State
  | [], held, s => (held, s)
  | w :: r, held, s =>
    let (done, s) := s.lcAccess w
    runLcList r (if done then held else held ++ [w]) s

/-- Lets every waiting line cache access proceed that can. -/
def State.runLc (s : State) : State :=
  let r := runLcList s.opl.lcw [] { s with opl := { s.opl with lcw := [] } }
  { r.2 with opl := { r.2.opl with lcw := r.1 } }

/-- A device request fails at its unit with the unavailable status (R428, R430). -/
def State.failTxn (s : State) (x : DevTxn) : State :=
  match x.kind with
  | .rdShared | .rdOwn | .rdUncached =>
    { s with opl := { s.opl with rdbuf := s.opl.rdbuf ++ [⟨x.unit, x.caddr, [], false, false, false⟩] } }
  | .wrFull | .wrPartial => { s with opl := { s.opl with fails := s.opl.fails ++ [x.unit] } }
  | .evict => s

/-- QUIESCE goes on (R420): snoops for the filter's entries, Evicts for the line cache's M lines, S lines dropped. -/
def State.quiesceGo (s : State) : State :=
  if s.opl.quiescing then
    let s := s.opl.sf.foldl (fun s e => if s.lineActive e.1 then s else s.sendSnoop e.1 true) s
    s.opl.lc.foldl (fun s e => s.lcDrop e) s
  else s

/-- What follows any change of the agent's state: waiting accesses, line cache accesses, a running QUIESCE. -/
def State.oplSettle (s : State) : State := s.runWaits.runLc.quiesceGo

end Sys2Proof.Machine
end

