-- ==== Sys2Proof/Machine/Oplis.lean ====
section
/-! DEFINITION. Messages and events of the Oplis link (R411–R433) whose effect reaches no register page. -/
namespace Sys2Proof.Machine

/-! ### The companion as home: answers and snoops -/

/-- A snoop of the companion's home finds the line cache (R413). -/
def State.snoopLc (s : State) (addr txid : Nat) (inv : Bool) : State :=
  let l := addr / 128
  let ans (s : State) (opc st : Nat) (dirty evp : Bool) (d : Bytes) (plo phi : Bool) : State :=
    s.oplSend (.oplis opc txid 1 st 0 7 addr dirty evp 0 d plo phi)
  if s.opl.txns.any (fun e => e.2.any fun x => x.kind == .evict && !x.dead && x.caddr / 128 == l) then
    ans s 0x20 0 false true [] false false
  else
    match s.lcGet l with
    | none => ans s 0x20 0 false false [] false false
    | some e =>
      let rest := s.opl.lc.filter fun x => x.line != l
      let shared := s.opl.lc.map fun x => if x.line = l then { x with m := false, dirty := false } else x
      let s1 := { s with opl := { s.opl with lc := if inv then rest else shared } }
      let st := if inv then 0 else 1
      if e.m && e.dirty then ans s1 0x30 st true false e.data e.plo e.phi else ans s1 0x20 st false false [] false false

/-- SNP_INV (R413). -/
def execSnpInv (addr txid : Nat) (s : State) : Res :=
  .next <| if s.oplLive then ((s.oplRecv false).snoopLc addr txid true).oplSettle else s

/-- SNP_SHARE (R413). -/
def execSnpShare (addr txid : Nat) (s : State) : Res :=
  .next <| if s.oplLive then ((s.oplRecv false).snoopLc addr txid false).oplSettle else s

/-- The device request of a TXID. -/
def State.txn (s : State) (id : Nat) : Option DevTxn := mget none s.opl.txns id

/-- A request has ended: its TXID is free. -/
def State.endTxn (s : State) (id : Nat) : State := { s with opl := { s.opl with txns := mset none s.opl.txns id none } }

/-- A late answer: discarded and counted; the TXID is free again (R428). -/
def State.lateTxn (s : State) (id : Nat) : State := (s.endTxn id).bump cOPL 0 OPL.LATE_RSP_CNT

/-- A late snoop answer (R429). -/
def State.lateSnp (s : State) (id : Nat) : State :=
  ({ s with opl := { s.opl with snps := mset none s.opl.snps id none } }).bump cOPL 0 OPL.LATE_RSP_CNT

/-- An Ack that answers a device request (R415, R431). -/
def State.ackTxn (s : State) (id status : Nat) : State :=
  match s.txn id with
  | none => s.oplProto
  | some x =>
    if x.dead then s.lateTxn id
    else
      let s1 := (s.oplStatus status x.caddr).endTxn id
      match x.kind with
      | .wrFull | .wrPartial =>
        let s1 := s1.noteDone id
        if status = 0 then s1 else s1.failTxn x
      | .evict => if status = 0 then s1 else s1.failTxn x
      | .rdShared | .rdOwn | .rdUncached => if status = 0 then s1.oplProto else s1.failTxn x

/-- A snoop answer (R414, R416, R418). -/
def State.ansSnp (s : State) (id st : Nat) (evp : Bool) (data : Option (Bytes × Bool × Bool)) : State :=
  match mget none s.opl.snps id with
  | none => s.oplProto
  | some x =>
    if x.dead then s.lateSnp id
    else if evp then
      match s.waitingEvict x.line with
      | some r => s.finishEvp id x r
      | none => { s with opl := { s.opl with snps := mset none s.opl.snps id (some { x with evp := true }) } }
    else
      let s := s.snoopEnd id x st data
      if data.any fun d => d.2.1 || d.2.2 then s.recDef cOPL 0 0x03 (some (x.line * 128)) else s

/-- A completion Ack (R411). -/
def State.complete (s : State) (txid : Nat) : State :=
  if s.opl.busy.any (fun b => b.2 == txid) then
    { s with opl := { s.opl with busy := s.opl.busy.filter (fun b => b.2 != txid) } }
  else s.oplProto

/-- An Ack arrives (R411, R414, R428, R431). -/
def State.ackIn (s : State) (txid rkind st status : Nat) (evp : Bool) : State :=
  let s := s.oplRecv false
  (if rkind = 0 then s.ackTxn txid status
   else if rkind = 1 then s.ansSnp txid st evp none
   else if rkind = 2 then s.complete txid
   else s.oplProto).oplSettle

/-- Data that answers a device read (R419): the line is installed and acknowledged, or the bytes wait for their unit. -/
def State.dataTxn (s : State) (id st status : Nat) (d : Bytes) (plo phi : Bool) : State :=
  match s.txn id with
  | none => s.oplProto
  | some x =>
    if x.dead then s.lateTxn id
    else
      let s1 := (s.oplStatus status x.caddr).endTxn id
      let done (s : State) : State := s.oplSend (.oplis 0x20 id 2 st 0 7 x.caddr false false 0 [] false false)
      match x.kind with
      | .rdUncached =>
        if status = 0 then
          { s1 with opl := { s1.opl with rdbuf := s1.opl.rdbuf ++ [⟨x.unit, x.caddr, bpad d x.size, plo, phi, true⟩] } }
        else s1.failTxn x
      | .rdShared => if status = 0 then done (s1.lcInstall (x.caddr / 128) (st == 2) d plo phi) else s1.failTxn x
      | .rdOwn => if status = 0 then done (s1.lcInstall (x.caddr / 128) true d plo phi) else s1.failTxn x
      | _ => s.oplProto

/-- A Data message arrives (R415, R416, R419, R431). -/
def State.dataMsg (s : State) (txid rkind st status : Nat) (dirty : Bool) (data : Bytes) (plo phi : Bool) : State :=
  let s := s.oplRecv (plo || phi)
  (if rkind = 0 then s.dataTxn txid st status data plo phi
   else if rkind = 1 then s.ansSnp txid st false (if dirty then some (bpad data 128, plo, phi) else none)
   else s.oplProto).oplSettle

/-! ### Companion requests that name memory only -/

/-- A request that opens or closes a line, and writes of memory, enter the tracker (R406, R411). -/
def State.coArrive (s : State) (r : CoReq) : State :=
  let s := if r.opc = 0x04 ∨ r.opc = 0x05 ∨ (r.opc = 0x06 ∧ r.dirty) then s.countHeld r.addr else s
  (s.arrive (.co r)).oplSettle

/-- RD_SHARED (R415). -/
def execRdShared (addr txid : Nat) (s : State) : Res :=
  .next <| if s.oplLive then (s.oplRecv false).coArrive ⟨0x01, addr, txid, 7, 0, [], false, false, false⟩ else s

/-- RD_OWN (R415, R427). -/
def execRdOwn (addr txid : Nat) (s : State) : Res :=
  .next <| if s.oplLive then (s.oplRecv false).coArrive ⟨0x02, addr, txid, 7, 0, [], false, false, false⟩ else s

/-- An Evict meets the snoop of its line: answered with EVP, it ends the snoop; unanswered, it waits (R414). -/
def State.evictArrive (s : State) (r : CoReq) : State :=
  let snp := s.opl.snps.findSome? fun e => match e.2 with
    | some x => if x.line = r.addr / 128 ∧ x.evp ∧ !x.dead then some (e.1, x) else none
    | none => none
  match snp with
  | some (id, x) => (s.finishEvp id x r).oplSettle
  | none => s.coArrive r


/-! ### The line cache and QUIESCE -/

/-- A unit's access to the window range (R408, R419). -/
def execLineCacheAccess (addr unit : Nat) (stream : Bool) (wr : Option (BitVec 128 × Bytes)) (s : State) : Res :=
  .next <| if s.live && inCompRange addr then
      ({ s with opl := { s.opl with lcw := s.opl.lcw ++ [(⟨addr, unit, stream, wr⟩ : LcWait)] } }).oplSettle else s

/-- What a write of CTRL.QUIESCE starts. -/
def State.quiesce (s : State) : State := ({ s with opl := { s.opl with quiescing := true } }).quiesceGo

/-- QUIESCE (R420). -/
def execQuiesce (m : Nat) (s : State) : Res := .next <| s.actionWrite m cOPL 0 hCTRL false (·.quiesce)

/-- The line cache and the filter are empty (R420). -/
def State.oplEmpty (s : State) : Bool :=
  s.opl.sf.isEmpty && s.opl.lc.isEmpty && s.opl.snps.all (fun e => e.2.all (·.dead)) &&
    s.opl.txns.all (fun e => e.2.all fun x => x.dead || x.kind != .evict)

/-- QUIESCE ends (R420). -/
def execQuiesceDone (s : State) : Res :=
  .next <|
    if s.on 81 && s.opl.quiescing && s.oplEmpty then
      (({ s with opl := { s.opl with quiescing := false, quiesced := true } }).irq cOPL 0 64).oplSettle
    else s

/-! ### Timeouts and link down -/

/-- A device request times out: it fails at its unit, and its TXID waits for the late answer (R428). -/
def State.txnTimeout (s : State) (id : Nat) (x : DevTxn) (cause : Nat) : State :=
  let s := { s with opl := { s.opl with txns := mset none s.opl.txns id (some { x with dead := true }) } }
  let s := if x.kind == .wrFull || x.kind == .wrPartial then s.noteDone id else s
  (((s.bump cOPL 0 OPL.TXN_TMO_CNT).irq cOPL 0 32).recUC cOPL 0 cause (some id)).failTxn x

/-- TXN_TMO (R428). -/
def execTxnTmoExpire (txid : Nat) (s : State) : Res :=
  .next <|
    match s.txn txid with
    | some x => if s.on 81 && !x.dead && decide (x.due ≤ s.clk.time) then (s.txnTimeout txid x 0x06).oplSettle else s
    | none => s

/-- Both sectors of a line are written with the poison marker, and one Deferred error is recorded (R429, R430). -/
def State.poisonLine (s : State) (l : Nat) : State :=
  let d := getBytes s.hbm.mem (l * 128) 128
  if s.stackOk (stackOf (l * 128)) then (s.lineBack l d true true).recDef cOPL 0 0x02 (some (l * 128)) else s

/-- A snoop is resolved without the companion (R429). -/
def State.snpTimeout (s : State) (id : Nat) (x : DevSnp) : State :=
  let s := if s.sfGet x.line = some true then s.poisonLine x.line else s
  let s := s.sfFree x.line
  let s := { s with opl := { s.opl with snps := mset none s.opl.snps id (some { x with dead := true }) } }
  (s.bump cOPL 0 OPL.SNP_TMO_CNT).irq cOPL 0 16

/-- SNP_TMO passes without the answer to a snoop (R429). -/
def State.snpExpire (s : State) (txid : Nat) : State :=
  match mget none s.opl.snps txid with
  | some x => if s.on 81 && !x.dead && decide (x.due ≤ s.clk.time) then (s.snpTimeout txid x).oplSettle else s
  | none => s

/-- Every outstanding device request fails (R430). -/
def State.failAllTxns (s : State) : State :=
  s.opl.txns.foldl (fun s e => match e.2 with
    | some x => if x.dead then s else s.txnTimeout e.1 x 0x07
    | none => s) s

/-- What is left of an access that waits when the link goes down: a companion's write that a controller has accepted and R354
holds is still performed, its other requests are discarded (R430). -/
def State.afterDown (s : State) (w : Wait) : List Wait :=
  match w with
  | .co r =>
    if w.isWrite && decide (r.addr < hbmSize) && s.firnHeld (r.addr / 65536) then lineWaits (r.addr / 128) r.data r.bytes r.plo r.phi else []
  | _ => [w]

/-- What the agent loses when its link goes down (R430); a Notify that waits is lost with it. -/
def State.oplisLost (s : State) : State :=
  let s := ({ s with notes := [] }).failAllTxns
  let s := (s.opl.sf.filter (·.2)).foldl (fun s e => s.poisonLine e.1) s
  let s := (s.opl.lc.filter (·.dirty)).foldl
    (fun s e => (s.bump cOPL 0 OPL.LC_LOST_CNT).recUC cOPL 0 0x07 (some (e.line * 128))) s
  { s with opl := { s.opl with sf := [], lc := [], snps := [], busy := [], waits := s.opl.waits.flatMap s.afterDown } }

/-- The Oplis link goes down (R430, R435). -/
def execOplisLinkDown (s : State) : Res :=
  .next <|
    if s.oplUp then
      let s := s.oplisLost
      let s := { s with links := mset {} s.links 10 {} }
      (((s.wr cOPL 0 OPL.LINK_STAT 0).irq cOPL 0 2).recUC cOPL 0 0x07).oplSettle
    else s

end Sys2Proof.Machine
end

