-- ==== Sys2Proof/Machine/Owner.lean ====
section
/-! DEFINITION. Ownership: claims, elections, the lease and the handover (R440–R444). -/
namespace Sys2Proof.Machine

/-- The lease period in 10 ns counts: LEASE in ms, 0 acting as 1 and values above 1,000 as 1,000 (R459). -/
def State.leaseCounts (s : State) : Nat := max 1 (min 1000 (s.rdf cOWN 0 OWN.LEASE 0 10)) * 100000

/-- The order in which claims compare: priority, nonce, master id (R440). -/
def claimBefore (a b : Nat × Claim) : Bool :=
  if a.2.prio ≠ b.2.prio then decide (a.2.prio.toNat < b.2.prio.toNat)
  else if a.2.nonce ≠ b.2.nonce then decide (a.2.nonce.toNat < b.2.nonce.toNat)
  else decide (a.1 < b.1)

/-- The claims entered in the window, by ascending master. -/
def OwnSt.entered (o : OwnSt) : List (Nat × Claim) :=
  (List.range 3).filterMap fun m => (mget none o.claims m).map fun c => (m, c)

/-- The claim that compares lowest. -/
def winner : List (Nat × Claim) → Option (Nat × Claim)
  | [] => none
  | a :: r => match winner r with
    | none => some a
    | some b => if claimBefore b a then some b else some a

/-- A master becomes owner with a fresh lease; ELECT_CNT rises and IRQ_STAT.ELECTED is set (R441, R443). -/
def State.takeOwner (s : State) (m : Nat) (c : Claim) : State :=
  let s := { s with own := { s.own with mode := .owned, owner := m, claim := c, valid := true, claims := [],
                                        deadline := s.clk.time + s.leaseCounts } }
  (s.bump cOWN 0 OWN.ELECT_CNT).irq cOWN 0 1

/-- The window closes and the claim that compares lowest wins (R441 event 3). -/
def State.closeElection (s : State) : State :=
  match winner s.own.entered with
  | some (m, c) => s.takeOwner m c
  | none => { s with own := { s.own with mode := .vacant, claims := [] } }

/-- The lease passes: VACANT, OWNER.VALID clear, EXPIRE_CNT, IRQ_STAT.EXPIRED, a Corrected advisory record (R442, R444). -/
def State.expireLease (s : State) : State :=
  let s := { s with own := { s.own with mode := .vacant, valid := false } }
  ((s.bump cOWN 0 OWN.EXPIRE_CNT).irq cOWN 0 4).recCE cOWN 0 0x0D

/-- A handover that nobody takes up ends VACANT (R443). -/
def State.endHandover (s : State) : State := { s with own := { s.own with mode := .vacant } }

/-- What the timebase has already decided before an access that arrives now: an event whose time lies strictly before
now has happened (R442). -/
def State.ownSettle (s : State) : State :=
  if s.own.deadline < s.clk.time then
    match s.own.mode with
    | .vacant => s
    | .electing => s.closeElection
    | .owned => s.expireLease
    | .handover => s.endHandover
  else s

/-- The owner renews the lease (R442). -/
def State.renewLease (s : State) : State :=
  { s with own := { s.own with deadline := s.clk.time + s.leaseCounts } }

/-- A write of CLAIM that reaches the register: it opens an election, is entered, renews, takes a handover, or is
dropped (R441–R443). With it the status of the answer. -/
def State.claimTake (s : State) (m : Nat) (prio : BitVec 8) : Nat × State :=
  let s := s.ownSettle
  let c : Claim := ⟨prio, mget 0 s.own.nonces m⟩
  let drop : Nat × State := (dropStatus m, s.dropNote m (regAddr cOWN 0 OWN.CLAIM))
  match s.own.mode with
  | .vacant =>
    (0, { s with own := { s.own with mode := .electing, claims := mset none [] m (some c), valid := false,
                                     deadline := s.clk.time + s.rdf cOWN 0 OWN.CLAIM_WIN 0 24 } })
  | .electing => (0, { s with own := { s.own with claims := mset none s.own.claims m (some c) } })
  | .owned => if s.own.owner = m then (0, ({ s with own := { s.own with claim := c } }).renewLease) else drop
  | .handover => if s.own.succ = m then (0, s.takeOwner m c) else drop

/-- A write of CLAIM with its answer. -/
def State.claimWrite (s : State) (m : Nat) (prio : BitVec 8) : State :=
  let r := s.claimTake m prio
  r.2.answer m (.wack m (regAddr cOWN 0 OWN.CLAIM) r.1)

/-- Stores a master's nonce for its next claim (R440). -/
def State.storeNonce (s : State) (m : Nat) (v : W32) : State :=
  { s with own := { s.own with nonces := mset 0 s.own.nonces m v } }

/-- A claim register is reached by every master from the end of secure boot (R440, R501). -/
def State.claimReach (s : State) (m addr : Nat) (act : State → State) : State :=
  if !s.pathOk m then s else if !s.writeServed cOWN then s.addrErr m addr else act s

/-- CLAIM (R440, R441): in an 8-byte write the nonce of the upper half is stored first. -/
def execClaim (m : Nat) (prio : BitVec 32) (nonce : Option (BitVec 32)) (s : State) : Res :=
  .next <| s.claimReach m (regAddr cOWN 0 OWN.CLAIM) fun s =>
    let s := match nonce with | some n => s.storeNonce m n | none => s
    s.claimWrite m (BitVec.ofNat 8 prio.toNat)

/-- CLAIM_NONCE (R440). -/
def execClaimNonce (m : Nat) (v : BitVec 32) (s : State) : Res :=
  .next <| s.claimReach m (regAddr cOWN 0 OWN.CLAIM_NONCE) fun s =>
    (s.storeNonce m v).answer m (.wack m (regAddr cOWN 0 OWN.CLAIM_NONCE) 0)

/-- The end of CLAIM_WIN (R441 event 3), due once the window has passed. -/
def execElectionClose (s : State) : Res :=
  .next <| if s.life.vaon && !s.life.inReset && s.own.mode == .electing && decide (s.own.deadline ≤ s.clk.time) then
    s.closeElection else s

/-- An owner's write arrives after what the timebase has decided (R442). -/
def State.ownWrite (s : State) (m off : Nat) (act : State → State) : State :=
  s.ownSettle.ownerWrite m cOWN 0 off false act

/-- RENEW (R442): bit 0 renews the lease. -/
def execRenew (m : Nat) (v : BitVec 32) (s : State) : Res :=
  .next <| s.ownWrite m OWN.RENEW fun s => if bit v 0 then s.renewLease else s

/-- The lease period passes without a renewal (R442). -/
def execLeaseExpire (s : State) : Res :=
  .next <| if s.life.vaon && !s.life.inReset && s.own.mode == .owned && decide (s.own.deadline ≤ s.clk.time) then
    s.expireLease else s

/-- What a write of RELEASE does (R443): the state is VACANT, or HANDOVER to the named successor. -/
def State.releaseWrite (s : State) (v : W32) : State :=
  let o := if bit v 2 then
      { s.own with mode := .handover, succ := fld v 0 2, valid := false,
                   deadline := s.clk.time + s.rdf cOWN 0 OWN.HANDOVER_TMO 0 24 }
    else { s.own with mode := .vacant, valid := false }
  ({ s with own := o }).irq cOWN 0 2

/-- RELEASE of the OWN page (R443). -/
def execOwnRelease (m : Nat) (v : BitVec 32) (s : State) : Res :=
  .next <| s.ownWrite m OWN.RELEASE (·.releaseWrite v)

/-- HANDOVER_TMO passes without the successor's claim (R443). -/
def execHandoverTmoExpire (s : State) : Res :=
  .next <| if s.life.vaon && !s.life.inReset && s.own.mode == .handover && decide (s.own.deadline ≤ s.clk.time) then
    s.endHandover else s

end Sys2Proof.Machine
end

