-- ==== Sys2Proof/Machine/Hbm.lean ====
section
/-! DEFINITION. The commands of the HBM controllers and of the check-value units (R374–R400, R549). -/
namespace Sys2Proof.Machine

/-! ### Sector requests -/

/-- A device requester's sector read (R376, R378, R385, R416). -/
def execHbmRead (addr req : Nat) (e1 e2 : Seeing) (s : State) : Res :=
  .next <| if !s.live then s
    else if hbmSize ≤ addr ∨ addr % 64 ≠ 0 then s.send (.hbmData addr req 1 [] false)
    else s.arrive (.rd addr req e1 e2)

/-- A device requester's sector write (R376, R377, R387, R339, R354, R416, R549). -/
def execHbmWrite (addr req : Nat) (mask : BitVec 64) (data : Bytes) (pois : Bool) (e1 e2 : Seeing) (s : State) : Res :=
  .next <| if !s.live then s
    else if hbmSize ≤ addr ∨ addr % 64 ≠ 0 then s.send (.hbmAck addr req 1)
    else (s.countHeld addr).arrive (.wr addr req mask data pois e1 e2)

/-! ### INIT (R388) -/

/-- What a write of CTRL.INIT starts. -/
def State.hbmInit (s : State) (n : Nat) : State :=
  if s.firnEn || s.rdb cHBM n hSTAT 4 then s
  else
    let s := ((s.wrb cHBM n hSTAT 4 true).wrb cHBM n hSTAT 3 false).wr cHBM n HBM.INIT_POS 0
    { s with hbm := { s.hbm with initAt := mset 0 s.hbm.initAt n s.clk.time } }

/-- INIT (R388, R523). -/
def execInit (m n : Nat) (s : State) : Res := .next <| s.actionWrite m cHBM n hCTRL (!s.bringupOver) (·.hbmInit n)

/-- SCRUB_STEP in counts; values below 100 act as 100 (R389). -/
def State.scrubStep (s : State) (n : Nat) : Nat := max 100 (s.rdf cHBM n HBM.SCRUB_STEP 0 24)

/-- When the next scrub step of a stack falls due. -/
def State.setScrub (s : State) (n due : Nat) : State := { s with hbm := { s.hbm with scrubDue := mset 0 s.hbm.scrubDue n due } }

/-- Every sector of a stack holds zeros under valid check symbols. -/
def State.zeroStack (s : State) (n : Nat) : State :=
  { s with hbm := { s.hbm with mem := s.hbm.mem.filter (fun c => stackOf c.1 != n)
                               chk := s.hbm.chk.filter (fun c => stackOf (c.1 * 64) != n) } }

/-- INIT ends: INIT_DONE, its interrupt, and the scrub may start. -/
def State.initEnd (s : State) (n : Nat) : State :=
  let s := (s.zeroStack n).wr cHBM n HBM.INIT_POS 0x1000000
  let s := ((s.wrb cHBM n hSTAT 4 false).wrb cHBM n hSTAT 3 true).setScrub n (s.clk.time + s.scrubStep n)
  s.irq cHBM n 32

/-- INIT_DONE (R388). -/
def execInitDone (n : Nat) (s : State) : Res :=
  .next <| if s.on (64 + n) && s.rdb cHBM n hSTAT 4 && decide (n < 8) then s.initEnd n else s

/-! ### Patrol scrub (R389, R390) -/

/-- One scrub step: the sector at SCRUB_POS of each of the 64 pseudo-channels. -/
def State.scrubRead (s : State) (n : Nat) (errs : List (Nat × Seeing × Seeing)) : State :=
  let pos := s.rdf cHBM n HBM.SCRUB_POS 0 24
  let s := (List.range 64).foldl (fun s pc =>
    let e := (errs.lookup pc).getD ({}, {})
    (s.readSector (sectorAddr n pc pos) 8 e.1 e.2).2.2) s
  let s := (s.wr cHBM n HBM.SCRUB_POS (u32 ((pos + 1) % 0x1000000))).setScrub n (s.clk.time + s.scrubStep n)
  if pos + 1 = 0x1000000 then (s.bumpW cHBM n HBM.SCRUB_PASS).irq cHBM n 1 else s

/-- The scrub of a stack may read. -/
def State.scrubOn (s : State) (n : Nat) : Bool := s.stackOk n && s.rdb cHBM n hCTRL 2 && !s.hbmFrozen n && decide (n < 8)

/-- SCRUB_STEP passes (R389, R390); the controller reads the stack's on-die reports whether the scrub is on or not (R384). -/
def execScrubStepExpire (n : Nat) (errs : List (Nat × Seeing × Seeing)) (odecc : Nat) (s : State) : Res :=
  .next <| let s := if s.live then s.odecc [(n, odecc)] else s
    if s.scrubOn n && decide (mget 0 s.hbm.scrubDue n ≤ s.clk.time) then s.scrubRead n errs else s

/-- A write of SCRUB_EN: setting it restarts the step interval (R390). -/
def State.scrubEn (s : State) (n : Nat) (en : Bool) : State :=
  let s1 := if en && !s.rdb cHBM n hCTRL 2 then s.setScrub n (s.clk.time + s.scrubStep n) else s
  s1.wrb cHBM n hCTRL 2 en

/-- SCRUB_EN (R390). -/
def execScrubEnWrite (m n : Nat) (en : Bool) (s : State) : Res :=
  .next <| s.ownerWrite m cHBM n hCTRL false (·.scrubEn n en)

/-! ### Check values (R392) -/

/-- The `w` low bits of a number reversed. -/
def revBits (w n : Nat) : Nat := (List.range w).foldl (fun a i => 2 * a + n / 2 ^ i % 2) 0

/-- Eight shifts of the register. -/
def crcShift (w poly : Nat) : Nat → Nat → Nat
  | 0, c => c
  | k + 1, c => crcShift w poly k (if c / 2 ^ (w - 1) % 2 = 1 then (c * 2 ^^^ poly) % 2 ^ w else c * 2 % 2 ^ w)

/-- The register after a run of bytes. -/
def crcRun (w poly : Nat) (refin : Bool) (c : Nat) (bs : Bytes) : Nat :=
  bs.foldl (fun c b => crcShift w poly 8 (c ^^^ (if refin then revBits 8 b.toNat else b.toNat) * 2 ^ (w - 8))) c

/-- The CRC of R392: POLY, INIT and XOROUT in their low W bits. -/
def crcGen (w poly init xorout : Nat) (refin refout : Bool) (bs : Bytes) : Nat :=
  let c := crcRun w (poly % 2 ^ w) refin (init % 2 ^ w) bs
  (if refout then revBits w c else c) ^^^ (xorout % 2 ^ w)

/-- The scan engines of a Floe as HBM requester. -/
def rqScan (n : Nat) : Rq := ⟨n / 2, 9⟩

/-- Parameters of a CVU: W, POLY, INIT, XOROUT. -/
def State.cvuW (s : State) (n : Nat) : Nat := s.rdf cCVU n CVU.CFG 0 7

/-- The fold bytes that CFG.FOLD_SEL selects (R393). -/
def State.foldBytes (s : State) (n : Nat) : Bytes :=
  match s.rdf cCVU n CVU.CFG 12 2 with
  | 1 => toLE 8 (s.rd64 cCVU n CVU.FOLD_VAL)
  | 2 => toLE 8 (s.rd64 cCVU n CVU.SCAN_ADDR)
  | _ => []

/-- CRC of a run of bytes with the unit's programmed parameters, the fold bytes last (R392, R393, R396). -/
def State.cvuCrc (s : State) (n : Nat) (bs : Bytes) : Nat :=
  let bs := bs ++ s.foldBytes n
  crcGen (s.cvuW n) (s.rd64 cCVU n CVU.POLY) (s.rd64 cCVU n CVU.INIT) (s.rd64 cCVU n CVU.XOROUT)
    (s.rdb cCVU n CVU.CFG 8) (s.rdb cCVU n CVU.CFG 9) bs

/-- The scan that runs on a unit. -/
def State.scanOf (s : State) (n : Nat) : Option ScanSt := mget none s.hbm.scans n

/-- Replaces the scan of a unit. -/
def State.setScan (s : State) (n : Nat) (x : Option ScanSt) : State :=
  { s with hbm := { s.hbm with scans := mset none s.hbm.scans n x } }

/-- The unit serves a Calving gather (STAT.CALV_USE). -/
def State.calvUse (s : State) (n : Nat) : Bool := s.rdb cCVU n hSTAT 2

/-- A refusal or an ignored write of a CVU (R395, R397). -/
def State.cvuRefuse (s : State) (n : Nat) : State := (s.bump cCVU n CVU.DESC_ERR_CNT).irq cCVU n 4

/-- The range of a scan lies in HBM or in the slot of one enabled tile (R394, R397). -/
def State.scanRangeOk (s : State) (a len : Nat) : Bool :=
  len == 0 || decide (a + len ≤ hbmSize) || (match dwSlot a len with | some (t, _) => s.tileEnabled t | none => false)

/-- GO is refused by R397. -/
def State.cvuBad (s : State) (n : Nat) : Bool :=
  let w := s.cvuW n
  let wide (off : Nat) : Bool := decide (2 ^ w ≤ s.rd64 cCVU n off)
  decide (w < 8) || decide (64 < w) || wide CVU.POLY || wide CVU.INIT || wide CVU.XOROUT ||
    s.rdf cCVU n CVU.CFG 12 2 == 3 || decide (2 ^ 40 < s.rd64 cCVU n CVU.SCAN_LEN) ||
    !s.scanRangeOk (s.rd64 cCVU n CVU.SCAN_ADDR) (s.rd64 cCVU n CVU.SCAN_LEN) || (s.pdst (90 + n / 2)).phase == .offWait

/-- What a write of CTRL.GO does (R394, R395, R397). -/
def State.cvuGo (s : State) (n : Nat) : State :=
  if (s.scanOf n).isSome || s.calvUse n || s.cvuBad n then s.cvuRefuse n
  else
    let s1 := s.setScan n (some ⟨s.rd64 cCVU n CVU.SCAN_ADDR, s.rd64 cCVU n CVU.SCAN_LEN, s.clk.time⟩)
    (s1.wr cCVU n CVU.RESULT_STAT 0).wr64 cCVU n CVU.BYTES 0

/-- CTRL.GO of a CVU (R394). -/
def execCvuGo (m n : Nat) (s : State) : Res := .next <| s.actionWrite m cCVU n hCTRL false (·.cvuGo n)

/-- What a write of CTRL.ABORT does: the scan ends within 64 handshakes of 64 bytes, and how many is left open (R395). -/
def State.cvuAbort (s : State) (n : Nat) : State :=
  match s.scanOf n with
  | none => s
  | some x =>
    let (v, s1) := s.free
    let s2 := ((s1.setScan n none).wr cCVU n CVU.RESULT_STAT 0x20000000).wr64 cCVU n CVU.BYTES (min x.len (s.scanShown n x + v.toNat % 65 * 64))
    s2.irq cCVU n 1

/-- CTRL.ABORT of a CVU (R395). -/
def execCvuAbort (m n : Nat) (s : State) : Res := .next <| s.actionWrite m cCVU n hCTRL false (·.cvuAbort n)

/-- The scanned bytes, from HBM or from a tile's store. -/
def State.scanRead (s : State) (n : Nat) (x : ScanSt) : Rd × State :=
  if x.len = 0 then (⟨[], [], true⟩, s)
  else match dwSlot x.addr x.len with
  | some (t, off) =>
    match s.pathOff (rqScan n) (floeOf t) with
    | some b => (⟨List.replicate x.len 0, List.replicate x.len true, false⟩, s.bridgeUnavail b)
    | none => if s.tileOn t then s.tsRead t off x.len
      else (⟨List.replicate x.len 0, List.replicate x.len true, false⟩, s.recUC cCVU n 0x05 (some x.addr))
  | none => s.hbmRead (rqScan n) x.addr x.len

/-- The Deferred record of a scan: the first poisoned sector, and LAST_ERR_INFO of its stack; a sector of a tile store has
no such register (R394, R400). -/
def State.scanPoison (s : State) (n : Nat) (x : ScanSt) (d : Rd) : State :=
  let a := (x.addr + (d.pois.takeWhile (!·)).length) / 64 * 64
  s.recDef cCVU n 0x03 (some a) (some (if a < hbmSize then s.hbmInfo (stackOf a) else 0))

/-- A scan ends: RESULT, VALID, POISON, the counters and the fold value (R393, R394). -/
def State.scanEnd (s : State) (n : Nat) (x : ScanSt) : State :=
  let (d, s) := s.scanRead n x
  let fold := s.foldBytes n
  let (v, s) := if d.ok then (s.cvuCrc n d.data, s) else
    let (a, s) := s.free
    let (b, s) := s.free
    ((a.toNat + b.toNat * 2 ^ 32) % 2 ^ s.cvuW n, s)
  let p := d.anyPois
  let s := ((s.setScan n none).wr64 cCVU n CVU.RESULT v).wr64 cCVU n CVU.BYTES (x.len + fold.length)
  let s := s.wr cCVU n CVU.RESULT_STAT (u32 (2 ^ 31 + b2n p * 2 ^ 30))
  let s := if s.rdf cCVU n CVU.CFG 12 2 = 1 && s.rdb cCVU n CVU.CFG 14 then s.wr64 cCVU n CVU.FOLD_VAL (s.rd64 cCVU n CVU.FOLD_VAL + 1) else s
  let s := s.bump cCVU n CVU.SCAN_CNT
  let s := if p then ((s.bump cCVU n CVU.POISON_CNT).irq cCVU n 2).scanPoison n x d else s
  s.irq cCVU n 1

/-- The end of a scan, once its reads can be made (R394). -/
def execCvuScanDone (n : Nat) (s : State) : Res :=
  .next <|
    match s.scanOf n with
    | none => s
    | some x =>
      if !s.on (90 + n / 2) then s
      else if x.len ≠ 0 && (match dwSlot x.addr x.len with | some (t, _) => s.tsFrozen t | none => false) then s
      else s.gated [(x.addr, x.len, false)] (·.scanEnd n x)

end Sys2Proof.Machine
end

