-- ==== Sys2Proof/Machine/Sha3.lean ====
section
/-! DEFINITION. SHA3-256, SHAKE128 and SHAKE256 of FIPS 202: R349, R502, R508 and R509 name the first, and ML-DSA-44
(Mldsa.lean) uses the other two, without the spec printing them (log 19). -/
namespace Sys2Proof.Machine

/-- The 25 lanes of the Keccak state, lane x + 5y at index x + 5y. -/
abbrev Keccak : Type := List W64

/-- Lane (x, y). -/
def Keccak.lane (a : Keccak) (x y : Nat) : W64 := a.getD (x % 5 + 5 * (y % 5)) 0

/-- Rotation offsets of ρ by lane index. -/
def keccakRho : List Nat := [0, 1, 62, 28, 27, 36, 44, 6, 55, 20, 3, 10, 43, 25, 39, 41, 45, 15, 21, 8, 18, 2, 61, 56, 14]

/-- One step of the round-constant register: x · p(x) over x^8 + x^6 + x^5 + x^4 + 1. -/
def rcStep (r : Nat) : Nat := if r / 128 % 2 = 1 then r % 128 * 2 ^^^ 0x71 else r * 2

/-- The register after k steps. -/
def rcAt : Nat → Nat
  | 0 => 1
  | k + 1 => rcStep (rcAt k)

/-- Round constant i: bit 2^j − 1 is the low bit of the register after j + 7i steps. -/
def keccakRC (i : Nat) : W64 :=
  u64 ((List.range 7).foldl (fun a j => a + rcAt (j + 7 * i) % 2 * 2 ^ (2 ^ j - 1)) 0)

/-- θ. -/
def keccakTheta (a : Keccak) : Keccak :=
  let c (x : Nat) : W64 := a.lane x 0 ^^^ a.lane x 1 ^^^ a.lane x 2 ^^^ a.lane x 3 ^^^ a.lane x 4
  let d := (List.range 5).map fun x => c (x + 4) ^^^ (c (x + 1)).rotateLeft 1
  (List.range 25).map fun i => a.getD i 0 ^^^ d.getD (i % 5) 0

/-- ρ and π. -/
def keccakRhoPi (a : Keccak) : Keccak :=
  (List.range 25).map fun i =>
    let j := (i % 5 + 3 * (i / 5)) % 5 + 5 * (i % 5)
    (a.getD j 0).rotateLeft (keccakRho.getD j 0)

/-- χ. -/
def keccakChi (a : Keccak) : Keccak :=
  (List.range 25).map fun i => a.getD i 0 ^^^ (~~~ a.lane (i + 1) (i / 5) &&& a.lane (i + 2) (i / 5))

/-- One round. -/
def keccakRound (a : Keccak) (i : Nat) : Keccak :=
  match keccakChi (keccakRhoPi (keccakTheta a)) with
  | l :: r => (l ^^^ keccakRC i) :: r
  | [] => []

/-- Keccak-f[1600]. -/
def keccakF (a : Keccak) : Keccak := (List.range 24).foldl keccakRound a

/-- Absorbs one block of a rate of `r` bytes. -/
def keccakAbsorb (r : Nat) (a : Keccak) (b : Bytes) : Keccak :=
  keccakF ((List.range 25).map fun i => a.getD i 0 ^^^ (if 8 * i < r then u64 (bfield b (8 * i) 8) else 0))

/-- Absorbs a message at a rate of `r` bytes, padded with the suffix of the function and 10*1: `n` blocks are left. -/
def spongeAbsorb (r : Nat) (suffix : Byte) : Nat → Keccak → Bytes → Keccak
  | 0, a, _ => a
  | n + 1, a, m =>
    if m.length < r then
      let b := bpad (m ++ [suffix]) r
      keccakAbsorb r a (b.take (r - 1) ++ [b.getD (r - 1) 0 ||| 0x80])
    else spongeAbsorb r suffix n (keccakAbsorb r a (m.take r)) (m.drop r)

/-- Squeezes `n` blocks of `r` bytes. -/
def spongeSqueeze (r : Nat) : Nat → Keccak → Bytes
  | 0, _ => []
  | n + 1, a => (a.flatMap fun l => toLE 8 l.toNat).take r ++ spongeSqueeze r n (keccakF a)

/-- The sponge over a message, `n` blocks of output. -/
def sponge (r : Nat) (suffix : Byte) (m : Bytes) (n : Nat) : Bytes :=
  spongeSqueeze r n (spongeAbsorb r suffix (m.length / r + 1) (List.replicate 25 0) m)

/-- SHA3-256 of a message. -/
def sha3 (m : Bytes) : Bytes := (sponge 136 0x06 m 1).take 32

/-- `n` bytes of SHAKE128. -/
def shake128 (m : Bytes) (n : Nat) : Bytes := (sponge 168 0x1F m (n / 168 + 1)).take n

/-- `n` bytes of SHAKE256. -/
def shake256 (m : Bytes) (n : Nat) : Bytes := (sponge 136 0x1F m (n / 136 + 1)).take n

end Sys2Proof.Machine
end

