-- ==== Sys2Proof/Machine/Mldsa.lean ====
section
/-! DEFINITION. ML-DSA-44 of FIPS 204, which R351, R502, R507, R508, R510 and R512 name without printing it (log 21): the key
pair of a seed, the hedged signature and its verification, both with an empty context string. -/
namespace Sys2Proof.Machine

/-! ### The ring (FIPS 204, sections 2.4 and 7.5) -/

/-- The modulus. -/
abbrev dsaQ : Nat := 8380417

/-- A polynomial of degree below 256, or its transform: coefficients modulo q, the constant one first. -/
abbrev Poly : Type := List Nat

/-- An integer as a coefficient. -/
def modQ (i : Int) : Nat := (i % (dsaQ : Int)).toNat

/-- The representative of least absolute value. -/
def modPm (n : Nat) : Int := if n ≤ dsaQ / 2 then n else (n : Int) - dsaQ

def Poly.zipMod (f : Nat → Nat → Nat) (a b : Poly) : Poly := List.zipWith (fun x y => f x y % dsaQ) a b
def Poly.add (a b : Poly) : Poly := Poly.zipMod (· + ·) a b
def Poly.sub (a b : Poly) : Poly := Poly.zipMod (fun x y => x + (dsaQ - y)) a b
/-- The product of two transforms, place by place. -/
def Poly.had (a b : Poly) : Poly := Poly.zipMod (· * ·) a b

/-- The zero polynomial. -/
def poly0 : Poly := List.replicate 256 0

/-- ζ^k, ζ = 1753, by squaring: `n` bits of `k` remain. -/
def zetaPow : Nat → Nat → Nat → Nat
  | 0, _, _ => 1
  | n + 1, z, k => (if k % 2 = 1 then z else 1) * zetaPow n (z * z % dsaQ) (k / 2) % dsaQ

/-- The eight bits of a number reversed. -/
def brv8 (m : Nat) : Nat := (List.range 8).foldl (fun a i => 2 * a + m / 2 ^ i % 2) 0

/-- The factor of block `m`, counted from 1 through the layers, and its inverse; ζ has order 512. -/
def zetaOf (m : Nat) : Nat := zetaPow 9 1753 (brv8 m)
def zetaInv (m : Nat) : Nat := zetaPow 9 1753 (512 - brv8 m)

/-- The transform of block `m`, whose length is 2^n. -/
def nttBlock : Nat → Nat → Poly → Poly
  | 0, _, a => a
  | n + 1, m, a =>
    let lo := a.take (2 ^ n)
    let t := (a.drop (2 ^ n)).map fun x => x * zetaOf m % dsaQ
    nttBlock n (2 * m) (Poly.add lo t) ++ nttBlock n (2 * m + 1) (Poly.sub lo t)

/-- The inverse of a block's transform, but for the factor 2^n. -/
def nttBack : Nat → Nat → Poly → Poly
  | 0, _, a => a
  | n + 1, m, a =>
    let lo := nttBack n (2 * m) (a.take (2 ^ n))
    let hi := nttBack n (2 * m + 1) (a.drop (2 ^ n))
    Poly.add lo hi ++ (Poly.sub lo hi).map fun x => x * zetaInv m % dsaQ

def ntt (a : Poly) : Poly := nttBlock 8 1 a
/-- 8347681 is the inverse of 256. -/
def nttInv (a : Poly) : Poly := (nttBack 8 1 a).map (· * 8347681 % dsaQ)

/-- A row of transforms times a column of transforms. -/
def dot (a b : List Poly) : Poly := (List.zipWith Poly.had a b).foldl Poly.add poly0

/-- The matrix of transforms times a vector, out of the transform domain. -/
def matVec (m : List (List Poly)) (v : List Poly) : List Poly := let v := v.map ntt; m.map fun r => nttInv (dot r v)

/-- A polynomial, given by its transform, times each of a vector's. -/
def scaleVec (c : Poly) (v : List Poly) : List Poly := v.map fun p => nttInv (Poly.had c (ntt p))

def vecAdd (a b : List Poly) : List Poly := List.zipWith Poly.add a b
def vecSub (a b : List Poly) : List Poly := List.zipWith Poly.sub a b

/-- The infinity norm of a vector is below a bound. -/
def normBelow (v : List Poly) (b : Int) : Bool := v.all fun p => p.all fun x => decide (modPm x < b) && decide (-b < modPm x)

/-! ### Packing (section 7.1) -/

/-- Numbers of `w` bits each, one after the other, as bytes. -/
def packBits (w : Nat) (l : List Nat) : Bytes := toLE (l.length * w / 8) (l.foldr (fun x a => x % 2 ^ w + 2 ^ w * a) 0)

/-- `n` numbers of `w` bits each from bytes. -/
def unpackBits (w n : Nat) (b : Bytes) : List Nat := let x := leNat b; (List.range n).map fun i => x / 2 ^ (w * i) % 2 ^ w

/-- Pieces of `n` bytes. -/
def pieces (n k : Nat) (b : Bytes) : List Bytes := (List.range k).map fun i => bslice b (n * i) n

/-! ### Sampling (section 7.3)

Each stream is as long as FIPS 204 (appendix C) lets an implementation bound its loop. -/

/-- A polynomial of the matrix, as a transform, from three bytes a candidate. -/
def rejNtt (seed : Bytes) : Poly :=
  let g := shake128 seed 1008
  (((List.range 336).map fun i => bfield g (3 * i) 3 % 2 ^ 23).filter (decide <| · < dsaQ)).take 256

/-- The matrix of ρ. -/
def expandA (rho : Bytes) : List (List Poly) :=
  (List.range 4).map fun r => (List.range 4).map fun s => rejNtt (rho ++ toLE 1 s ++ toLE 1 r)

/-- A polynomial with coefficients from −2 to 2. -/
def rejBounded (seed : Bytes) : Poly :=
  let g := shake256 seed 544
  (((g.flatMap fun z => [z.toNat % 16, z.toNat / 16]).filter (decide <| · < 15)).take 256).map fun b => modQ (2 - ((b % 5 : Nat) : Int))

/-- The masking vector: coefficients from −γ1 + 1 to γ1. -/
def expandMask (rho : Bytes) (k : Nat) : List Poly :=
  (List.range 4).map fun r => (unpackBits 18 256 (shake256 (rho ++ toLE 2 (k + r)) 576)).map fun (x : Nat) => modQ (2 ^ 17 - (x : Int))

/-- The first byte of the stream that is at most `i`, and the rest. -/
def drawLe (i : Nat) : Bytes → Nat × Bytes
  | [] => (0, [])
  | j :: r => if j.toNat ≤ i then (j.toNat, r) else drawLe i r

/-- The challenge: 39 coefficients of 1 or −1. -/
def sampleInBall (c : Bytes) : Poly :=
  let g := shake256 c 136
  let h := bfield g 0 8
  ((List.range 39).foldl (fun (acc : Poly × Bytes) n =>
    let i := 217 + n
    let d := drawLe i acc.2
    ((acc.1.set i (acc.1.getD d.1 0)).set d.1 (if h / 2 ^ n % 2 = 1 then dsaQ - 1 else 1), d.2)) (poly0, g.drop 8)).1

/-! ### High and low parts (section 7.4) -/

/-- 2·γ2. -/
abbrev dsaAlpha : Nat := 190464

/-- High part and low part of a coefficient. -/
def decompose (r : Nat) : Nat × Int :=
  let r0 : Int := if r % dsaAlpha ≤ dsaAlpha / 2 then (r % dsaAlpha : Nat) else ((r % dsaAlpha : Nat) : Int) - dsaAlpha
  if (r : Int) - r0 = (dsaQ : Int) - 1 then (0, r0 - 1) else ((((r : Int) - r0) / dsaAlpha).toNat, r0)

def highBits (r : Nat) : Nat := (decompose r).1
def lowBits (r : Nat) : Int := (decompose r).2

/-- The high part that a hint corrects; there are 44. -/
def applyHint (h : Bool) (r : Nat) : Nat :=
  let d := decompose r
  if !h then d.1 else if 0 < d.2 then (d.1 + 1) % 44 else (d.1 + 43) % 44

/-- The high part of a coefficient at 2^13, and what is left. -/
def power2Round (r : Nat) : Nat × Int :=
  let r0 : Int := if r % 8192 ≤ 4096 then (r % 8192 : Nat) else ((r % 8192 : Nat) : Int) - 8192
  ((((r : Int) - r0) / 8192).toNat, r0)

/-- The high parts of a vector as bytes. -/
def w1Encode (v : List Poly) : Bytes := v.flatMap (packBits 6)

/-! ### Hints (algorithms 20 and 21) -/

/-- Indices of the bits set. -/
def onesOf (h : List Bool) : List Nat := (List.range h.length).filter fun i => h.getD i false

/-- The hint vector in 84 bytes. -/
def packHint (h : List (List Bool)) : Bytes :=
  let ones := h.map onesOf
  bpad (ones.flatten.map (BitVec.ofNat 8 ·)) 80 ++ (List.range 4).map fun i => BitVec.ofNat 8 ((ones.take (i + 1)).flatten.length)

/-- A list rises strictly. -/
def risesB : List Nat → Bool
  | a :: b :: r => decide (a < b) && risesB (b :: r)
  | _ => true

/-- The hint vector from its 84 bytes, if they are well formed. -/
def unpackHint (b : Bytes) : Option (List (List Bool)) :=
  let ends := 0 :: (List.range 4).map fun i => bfield b (80 + i) 1
  let parts := (List.range 4).map fun i => ((b.drop (ends.getD i 0)).take (ends.getD (i + 1) 0 - ends.getD i 0)).map (·.toNat)
  if (List.range 4).all (fun i => decide (ends.getD i 0 ≤ ends.getD (i + 1) 0)) && decide (ends.getD 4 0 ≤ 80) && parts.all risesB &&
      ((b.take 80).drop (ends.getD 4 0)).all (· == 0) then
    some (parts.map fun p => (List.range 256).map p.contains)
  else none

/-! ### Keys (algorithm 6) -/

/-- What a seed gives: ρ, K, tr, s1, s2, t0, and the public key. -/
structure DsaKey where
  rho : Bytes
  key : Bytes
  tr  : Bytes
  s1  : List Poly
  s2  : List Poly
  t0  : List Poly
  pub : Bytes

/-- The key pair of a seed of 32 bytes. -/
def dsaKeyGen (seed : Bytes) : DsaKey :=
  let h := shake256 (bpad seed 32 ++ [4, 4]) 128
  let rho := bslice h 0 32
  let s (r : Nat) : Poly := rejBounded (bslice h 32 64 ++ toLE 2 r)
  let s1 := (List.range 4).map s
  let s2 := (List.range 4).map fun r => s (r + 4)
  let t := vecAdd (matVec (expandA rho) s1) s2
  let pub := rho ++ t.flatMap fun p => packBits 10 (p.map fun x => (power2Round x).1)
  { rho := rho, key := bslice h 96 32, tr := shake256 pub 64, s1 := s1, s2 := s2
    t0 := t.map fun p => p.map fun x => modQ (power2Round x).2, pub := pub }

/-- The public key of a seed, 1,312 bytes (R507). -/
@[irreducible] def mldsaPub (seed : Bytes) : Bytes := (dsaKeyGen seed).pub

/-- The message as it is signed and verified with an empty context (algorithms 2 and 3). -/
def dsaMsg (m : Bytes) : Bytes := 0 :: 0 :: m

/-! ### Signing (algorithm 7) -/

/-- The rejection loop from counter `k`; FIPS 204 lets an implementation give up after 814 rounds. -/
def dsaTry (a : List (List Poly)) (x : DsaKey) (mu rho : Bytes) : Nat → Nat → Bytes
  | 0, _ => []
  | n + 1, k =>
    let y := expandMask rho k
    let w := matVec a y
    let c := shake256 (mu ++ w1Encode (w.map fun p => p.map highBits)) 32
    let cn := ntt (sampleInBall c)
    let z := vecAdd y (scaleVec cn x.s1)
    let r := vecSub w (scaleVec cn x.s2)
    let ct0 := scaleVec cn x.t0
    let h := List.zipWith (fun p q => List.zipWith (fun u v => highBits u != highBits v) p q) (vecAdd r ct0) r
    if normBelow z (2 ^ 17 - 78) && r.all (fun p => p.all fun u => decide (lowBits u < 95232 - 78) && decide (78 - 95232 < lowBits u)) &&
        normBelow ct0 95232 && decide ((h.map onesOf).flatten.length ≤ 80) then
      c ++ (z.flatMap fun p => packBits 18 (p.map fun u => (2 ^ 17 - modPm u).toNat)) ++ packHint h
    else dsaTry a x mu rho n (k + 4)

/-- The hedged signature of a message under the private key of a seed, 2,420 bytes; `rnd` holds 32 fresh bytes (R351, R510). -/
@[irreducible] def mldsaSign (seed m rnd : Bytes) : Bytes :=
  let x := dsaKeyGen seed
  let mu := shake256 (x.tr ++ dsaMsg m) 64
  dsaTry (expandA x.rho) x mu (shake256 (x.key ++ bpad rnd 32 ++ mu) 64) 814 0

/-! ### Verification (algorithm 8) -/

/-- Whether a signature over a message verifies under a public key. -/
@[irreducible] def mldsaVerify (pk m sig : Bytes) : Bool :=
  decide (pk.length = 1312) && decide (sig.length = 2420) &&
  match unpackHint (bslice sig 2336 84) with
  | none => false
  | some h =>
    let t1 := (pieces 320 4 (pk.drop 32)).map fun b => unpackBits 10 256 b
    let z := (pieces 576 4 (sig.drop 32)).map fun b => (unpackBits 18 256 b).map fun (x : Nat) => modQ (2 ^ 17 - (x : Int))
    let mu := shake256 (shake256 pk 64 ++ dsaMsg m) 64
    let cn := ntt (sampleInBall (sig.take 32))
    let az := matVec (expandA (pk.take 32)) z
    let w := vecSub az (scaleVec cn (t1.map fun p => p.map (· * 8192 % dsaQ)))
    let w1 := List.zipWith (fun hs p => List.zipWith applyHint hs p) h w
    normBelow z (2 ^ 17 - 78) && sig.take 32 == shake256 (mu ++ w1Encode w1) 32

end Sys2Proof.Machine
end

