-- ==== Sys2Proof/Decode.lean ====
section
/-! DEFINITION. The table of operations gives no row a word, so no word spells a command; and the 64-bit word of a context
instruction (R80, R83, R447), which the device fetches and software writes. -/
namespace Sys2Proof

/-- No row of the table has bits. -/
def decodeTableWord (_nbits _w : Nat) : Option Instr := none

/-- The fields of an instruction word, most significant first (R80). -/
def encodeFields (op : BitVec 8) (f : VecFields) : W64 :=
  op ++ f.type ++ f.vd ++ f.vs1 ++ f.vs2 ++ f.vs3 ++ f.msk ++ f.mu ++ f.rm ++ f.rs ++ f.dinc ++ f.binc ++ f.scal ++ f.imm

/-- The fields read from a word (R80). -/
def decodeFields (w : W64) : BitVec 8 × VecFields :=
  (w.extractLsb' 56 8,
   { type := w.extractLsb' 52 4, vd := w.extractLsb' 47 5, vs1 := w.extractLsb' 42 5, vs2 := w.extractLsb' 37 5
     vs3 := w.extractLsb' 32 5, msk := w.extractLsb' 29 3, mu := w.extractLsb' 28 1, rm := w.extractLsb' 26 2
     rs := w.extractLsb' 24 2, dinc := w.extractLsb' 23 1, binc := w.extractLsb' 22 1, scal := w.extractLsb' 21 1
     imm := w.extractLsb' 0 21 })

/-- The instruction of an OP for tile t (R83, R447); a reserved OP is none. -/
def instrOfOp (op t : Nat) (f : VecFields) : Option Instr :=
  match op with
  | 0x01 => some (.vSetvl t f)
  | 0x02 => some (.vSetrs t f)
  | 0x03 => some (.vGetrs t f)
  | 0x04 => some (.vGetf t f)
  | 0x05 => some (.vClrf t f)
  | 0x06 => some (.vFence t f)
  | 0x10 => some (.vLd t f)
  | 0x11 => some (.vLds t f)
  | 0x12 => some (.vLdx t f)
  | 0x14 => some (.vSt t f)
  | 0x15 => some (.vSts t f)
  | 0x16 => some (.vStx t f)
  | 0x20 => some (.vAdd t f)
  | 0x21 => some (.vSub t f)
  | 0x22 => some (.vMul t f)
  | 0x23 => some (.vMulh t f)
  | 0x24 => some (.vMin t f)
  | 0x25 => some (.vMax t f)
  | 0x26 => some (.vAbs t f)
  | 0x27 => some (.vNeg t f)
  | 0x28 => some (.vSll t f)
  | 0x29 => some (.vSrl t f)
  | 0x2A => some (.vSra t f)
  | 0x2B => some (.vSrar t f)
  | 0x2C => some (.vSlls t f)
  | 0x2D => some (.vRotl t f)
  | 0x30 => some (.vAnd t f)
  | 0x31 => some (.vOr t f)
  | 0x32 => some (.vXor t f)
  | 0x33 => some (.vAndn t f)
  | 0x34 => some (.vNot t f)
  | 0x35 => some (.vMov t f)
  | 0x36 => some (.vIdx t f)
  | 0x40 => some (.vFadd t f)
  | 0x41 => some (.vFsub t f)
  | 0x42 => some (.vFmul t f)
  | 0x43 => some (.vFma t f)
  | 0x44 => some (.vFmin t f)
  | 0x45 => some (.vFmax t f)
  | 0x46 => some (.vFabs t f)
  | 0x47 => some (.vFneg t f)
  | 0x60 => some (.vExp2 t f)
  | 0x61 => some (.vLog2 t f)
  | 0x62 => some (.vRcp t f)
  | 0x63 => some (.vRsqrt t f)
  | 0x68 => some (.vCvt t f)
  | 0x70 => some (.vRsum t f)
  | 0x71 => some (.vRprod t f)
  | 0x72 => some (.vRmax t f)
  | 0x73 => some (.vRmin t f)
  | 0x74 => some (.vRmean t f)
  | 0x75 => some (.vRargmax t f)
  | 0x76 => some (.vRargmin t f)
  | 0x80 => some (.vCmpeq t f)
  | 0x81 => some (.vCmplt t f)
  | 0x82 => some (.vCmple t f)
  | 0x83 => some (.vCmpun t f)
  | 0x88 => some (.vMand t f)
  | 0x89 => some (.vMor t f)
  | 0x8A => some (.vMxor t f)
  | 0x8B => some (.vMnot t f)
  | 0x8C => some (.vMpop t f)
  | 0x8D => some (.vMsel t f)
  | 0x90 => some (.vRandu t f)
  | 0x91 => some (.vRandf t f)
  | 0x92 => some (.vRandb t f)
  | 0x93 => some (.vRandg t f)
  | 0x94 => some (.vRandn t f)
  | 0xA0 => some (.wload t f)
  | 0xA1 => some (.mma t f)
  | 0xA2 => some (.drain t f)
  | 0xA3 => some (.release t f)
  | 0xB0 => some (.dmain t f)
  | 0xB1 => some (.dmaout t f)
  | 0xB2 => some (.dmawait t f)
  | 0xC0 => some (.sli t f)
  | 0xC1 => some (.sadd t f)
  | 0xC2 => some (.ssub t f)
  | 0xC3 => some (.smul t f)
  | 0xC4 => some (.sand t f)
  | 0xC5 => some (.sor t f)
  | 0xC6 => some (.sxor t f)
  | 0xC7 => some (.sshl t f)
  | 0xC8 => some (.sshr t f)
  | 0xC9 => some (.sld t f)
  | 0xCA => some (.sst t f)
  | 0xE0 => some (.brz t f)
  | 0xE1 => some (.brnz t f)
  | 0xE2 => some (.waitw t f)
  | 0xE3 => some (.setlayer t f)
  | 0xE4 => some (.yield t f)
  | 0xE5 => some (.ctxEnd t f)
  | 0xE6 => some (.spawn t f)
  | _ => none

/-- OP, tile and fields of a context instruction; none for the other commands. -/
def opOfInstr (i : Instr) : Option (Nat × Nat × VecFields) :=
  match i with
  | .vSetvl t f => some (0x01, t, f)
  | .vSetrs t f => some (0x02, t, f)
  | .vGetrs t f => some (0x03, t, f)
  | .vGetf t f => some (0x04, t, f)
  | .vClrf t f => some (0x05, t, f)
  | .vFence t f => some (0x06, t, f)
  | .vLd t f => some (0x10, t, f)
  | .vLds t f => some (0x11, t, f)
  | .vLdx t f => some (0x12, t, f)
  | .vSt t f => some (0x14, t, f)
  | .vSts t f => some (0x15, t, f)
  | .vStx t f => some (0x16, t, f)
  | .vAdd t f => some (0x20, t, f)
  | .vSub t f => some (0x21, t, f)
  | .vMul t f => some (0x22, t, f)
  | .vMulh t f => some (0x23, t, f)
  | .vMin t f => some (0x24, t, f)
  | .vMax t f => some (0x25, t, f)
  | .vAbs t f => some (0x26, t, f)
  | .vNeg t f => some (0x27, t, f)
  | .vSll t f => some (0x28, t, f)
  | .vSrl t f => some (0x29, t, f)
  | .vSra t f => some (0x2A, t, f)
  | .vSrar t f => some (0x2B, t, f)
  | .vSlls t f => some (0x2C, t, f)
  | .vRotl t f => some (0x2D, t, f)
  | .vAnd t f => some (0x30, t, f)
  | .vOr t f => some (0x31, t, f)
  | .vXor t f => some (0x32, t, f)
  | .vAndn t f => some (0x33, t, f)
  | .vNot t f => some (0x34, t, f)
  | .vMov t f => some (0x35, t, f)
  | .vIdx t f => some (0x36, t, f)
  | .vFadd t f => some (0x40, t, f)
  | .vFsub t f => some (0x41, t, f)
  | .vFmul t f => some (0x42, t, f)
  | .vFma t f => some (0x43, t, f)
  | .vFmin t f => some (0x44, t, f)
  | .vFmax t f => some (0x45, t, f)
  | .vFabs t f => some (0x46, t, f)
  | .vFneg t f => some (0x47, t, f)
  | .vExp2 t f => some (0x60, t, f)
  | .vLog2 t f => some (0x61, t, f)
  | .vRcp t f => some (0x62, t, f)
  | .vRsqrt t f => some (0x63, t, f)
  | .vCvt t f => some (0x68, t, f)
  | .vRsum t f => some (0x70, t, f)
  | .vRprod t f => some (0x71, t, f)
  | .vRmax t f => some (0x72, t, f)
  | .vRmin t f => some (0x73, t, f)
  | .vRmean t f => some (0x74, t, f)
  | .vRargmax t f => some (0x75, t, f)
  | .vRargmin t f => some (0x76, t, f)
  | .vCmpeq t f => some (0x80, t, f)
  | .vCmplt t f => some (0x81, t, f)
  | .vCmple t f => some (0x82, t, f)
  | .vCmpun t f => some (0x83, t, f)
  | .vMand t f => some (0x88, t, f)
  | .vMor t f => some (0x89, t, f)
  | .vMxor t f => some (0x8A, t, f)
  | .vMnot t f => some (0x8B, t, f)
  | .vMpop t f => some (0x8C, t, f)
  | .vMsel t f => some (0x8D, t, f)
  | .vRandu t f => some (0x90, t, f)
  | .vRandf t f => some (0x91, t, f)
  | .vRandb t f => some (0x92, t, f)
  | .vRandg t f => some (0x93, t, f)
  | .vRandn t f => some (0x94, t, f)
  | .wload t f => some (0xA0, t, f)
  | .mma t f => some (0xA1, t, f)
  | .drain t f => some (0xA2, t, f)
  | .release t f => some (0xA3, t, f)
  | .dmain t f => some (0xB0, t, f)
  | .dmaout t f => some (0xB1, t, f)
  | .dmawait t f => some (0xB2, t, f)
  | .sli t f => some (0xC0, t, f)
  | .sadd t f => some (0xC1, t, f)
  | .ssub t f => some (0xC2, t, f)
  | .smul t f => some (0xC3, t, f)
  | .sand t f => some (0xC4, t, f)
  | .sor t f => some (0xC5, t, f)
  | .sxor t f => some (0xC6, t, f)
  | .sshl t f => some (0xC7, t, f)
  | .sshr t f => some (0xC8, t, f)
  | .sld t f => some (0xC9, t, f)
  | .sst t f => some (0xCA, t, f)
  | .brz t f => some (0xE0, t, f)
  | .brnz t f => some (0xE1, t, f)
  | .waitw t f => some (0xE2, t, f)
  | .setlayer t f => some (0xE3, t, f)
  | .yield t f => some (0xE4, t, f)
  | .ctxEnd t f => some (0xE5, t, f)
  | .spawn t f => some (0xE6, t, f)
  | _ => none

/-- The command that a word is when tile t fetches it. -/
def decodeWord (t : Nat) (w : W64) : Option Instr :=
  instrOfOp (decodeFields w).1.toNat t (decodeFields w).2

/-- The word of a context instruction. -/
def encodeWord (i : Instr) : Option W64 :=
  (opOfInstr i).map fun r => encodeFields (BitVec.ofNat 8 r.1) r.2.2

end Sys2Proof
end

