-- ==== Sys2Proof/Machine/Ctx.lean ====
section
/-! DEFINITION. Task contexts as the dispatchers keep them (chapter 15): records, ends and faults, save boundaries, and
how a tile runs one instruction of its context. -/
namespace Sys2Proof.Machine

/-! ### Contexts and their records (R445) -/

/-- A context; one that is not listed is FREE. -/
def State.ctx (s : State) (c : Nat) : Ctx := mget {} s.ctxs c

/-- Replaces a context. -/
def State.setCtx (s : State) (c : Nat) (x : Ctx) : State := { s with ctxs := mset {} s.ctxs c x }

/-- The Floe of a context and its index there. -/
abbrev ctxFloe (c : Nat) : Nat := c / 32768
abbrev ctxLocal (c : Nat) : Nat := c % 32768

/-- The address of a context's record. -/
def State.recAddr (s : State) (c : Nat) : Nat :=
  s.rdf cCTX (ctxFloe c) CTX.CTX_BASE_HI 0 16 * 2 ^ 32 + s.rdf cCTX (ctxFloe c) CTX.CTX_BASE_LO 16 16 * 65536 + 256 * ctxLocal c

/-- STATE codes. -/
def CtxState.code : CtxState → Nat
  | .free => 0 | .ready => 1 | .running => 2 | .saving => 3 | .parked => 4 | .done => 5 | .faulted => 6

/-- State of a STATE byte; reserved values read as FREE. -/
def ctxStateOf (n : Nat) : CtxState :=
  match n with | 1 => .ready | 2 => .running | 3 => .saving | 4 => .parked | 5 => .done | 6 => .faulted | _ => .free

/-- A scalar register. -/
def Ctx.sreg (x : Ctx) (n : Nat) : W64 := mget 0 x.s n
/-- Writes a scalar register. -/
def Ctx.setS (x : Ctx) (n : Nat) (v : W64) : Ctx := { x with s := mset 0 x.s n v }

/-- A stream register by number. -/
def Ctx.rs (x : Ctx) (n : Nat) : StreamReg := match n with | 0 => x.rs0 | 1 => x.rs1 | 2 => x.rs2 | _ => x.rs3
/-- Writes a stream register. -/
def Ctx.setRs (x : Ctx) (n : Nat) (r : StreamReg) : Ctx :=
  match n with | 0 => { x with rs0 := r } | 1 => { x with rs1 := r } | 2 => { x with rs2 := r } | _ => { x with rs3 := r }

/-- A DMA cursor by number. -/
def Ctx.dma (x : Ctx) (n : Nat) : DmaCur := if n = 0 then x.dma0 else x.dma1
/-- Writes a DMA cursor. -/
def Ctx.setDma (x : Ctx) (n : Nat) (d : DmaCur) : Ctx := if n = 0 then { x with dma0 := d } else { x with dma1 := d }

/-- A stream register in the form of R77: draw, base, stream from the low end. -/
def StreamReg.bytes (r : StreamReg) : Bytes := toLE 4 r.draw.toNat ++ toLE 8 r.base.toNat ++ toLE 4 r.stream.toNat
/-- A stream register from its 16 bytes. -/
def streamOf (b : Bytes) (o : Nat) : StreamReg :=
  { draw := u32 (bfield b o 4), base := u64 (bfield b (o + 4) 8), stream := u32 (bfield b (o + 12) 4) }

/-- A DMA cursor's 16 bytes. -/
def DmaCur.bytes (d : DmaCur) : Bytes :=
  toLE 8 (b2n d.active * 2 ^ 63 + b2n d.out * 2 ^ 62 + d.haddr % 2 ^ 48) ++ toLE 4 (d.toff % 2 ^ 22) ++ toLE 4 (d.left % 2 ^ 23)
/-- A DMA cursor from its 16 bytes. -/
def dmaOf (b : Bytes) (o : Nat) : DmaCur :=
  let w := bfield b o 8
  { active := w / 2 ^ 63 % 2 == 1, out := w / 2 ^ 62 % 2 == 1, haddr := w % 2 ^ 48
    toff := bfield b (o + 8) 4 % 2 ^ 22, left := bfield b (o + 12) 4 % 2 ^ 23 }

/-- The 256 bytes of a record. -/
def Ctx.bytes (x : Ctx) : Bytes :=
  toLE 1 x.state.code ++ toLE 1 x.kind ++ toLE 1 x.flags ++ toLE 1 x.prio ++ toLE 1 x.affinity ++ toLE 1 x.layer ++
  toLE 2 x.exit ++ toLE 8 x.pc ++ toLE 8 x.save ++ toLE 2 (x.vlen % 4096) ++ toLE 1 x.vflags.toNat ++ [0] ++
  toLE 2 x.tsOff ++ toLE 2 x.tsLen ++ x.rs0.bytes ++ x.rs1.bytes ++ x.rs2.bytes ++ x.rs3.bytes ++
  ((List.range 16).flatMap fun n => toLE 8 (x.sreg n).toNat) ++
  (if x.kind = 1 then toLE 8 x.wdesc ++ toLE 8 0 else x.dma0.bytes) ++ x.dma1.bytes

/-- A context from its record; a VLEN field above 2,048 counts as 2,048. -/
def ctxOfBytes (b : Bytes) : Ctx :=
  let x : Ctx :=
    { state := ctxStateOf (bfield b 0 1), kind := bfield b 1 1, flags := bfield b 2 1, prio := bfield b 3 1 % 4
      affinity := bfield b 4 1, layer := bfield b 5 1, exit := bfield b 6 2, pc := bfield b 8 8, save := bfield b 16 8
      vlen := min 2048 (bfield b 24 2 % 4096), vflags := BitVec.ofNat 6 (bfield b 26 1), tsOff := bfield b 28 2
      tsLen := bfield b 30 2, rs0 := streamOf b 32, rs1 := streamOf b 48, rs2 := streamOf b 64, rs3 := streamOf b 80
      dma0 := if bfield b 1 1 = 1 then {} else dmaOf b 0xE0, dma1 := dmaOf b 0xF0, wdesc := bfield b 0xE0 8 }
  (List.range 16).foldl (fun x n => x.setS n (u64 (bfield b (0x60 + 8 * n) 8))) x

/-- The dispatcher of a Floe as HBM requester. -/
abbrev rqTile (fl : Nat) : Rq := ⟨fl, 0⟩

/-- The record is written back to the table (R445). -/
def State.writeRec (s : State) (c : Nat) : State := (s.hbmWrite (rqTile (ctxFloe c)) (s.recAddr c) (s.ctx c).bytes).2

/-! ### HOLD and QUIET (R451) -/

/-- Some context of the Floe is RUNNING or SAVING. -/
def State.anyRunning (s : State) (fl : Nat) : Bool :=
  s.ctxs.any fun e => e.1 / 32768 == fl && (e.2.state == .running || e.2.state == .saving)

/-- STAT.QUIET. -/
def State.quiet (s : State) (fl : Nat) : Bool := s.rdb cDSP fl hCTRL 2 && !s.anyRunning fl

/-- Sets IRQ_STAT.QUIET when QUIET has become 1. -/
def State.quietIrq (before s : State) (fl : Nat) : State := if !before.quiet fl && s.quiet fl then s.irq cDSP fl 1 else s

/-! ### Ends and faults (R73, R74, R449, R450, R461, R463) -/

/-- The context holds the array of its tile. -/
def State.holds (s : State) (c : Nat) : Bool :=
  match (s.ctx c).tile with | some t => decide (t < 128) && (s.tile t).holder == some c | none => false

/-- A vector instruction that was issued waits on the tile, or none does any more: STAT.IDLE of the VEC page (R111). -/
def State.vecBusy (s : State) (t : Nat) (b : Bool) : State :=
  if (s.tile t).vbusy = b then s else s.setTile t { s.tile t with vbusy := b }

/-- What a sampler holds for a walk. -/
def State.walkOf (s : State) (c : Nat) : Option WalkSt := mget none s.walks c
/-- Replaces it. -/
def State.setWalk (s : State) (c : Nat) (w : Option WalkSt) : State := { s with walks := mset none s.walks c w }

/-- A context leaves its tile: the array is released if it holds it, the vector state is gone. -/
def State.leaveTile (s : State) (c : Nat) : State :=
  match (s.ctx c).tile with
  | none => s
  | some t =>
    let s := if s.holds c then s.arrayRelease t else s
    { s.vecBusy t false with vec := mset {} s.vec t {} }

/-- A context ends in DONE or FAULTED: cursors stop, the record is written back. -/
def State.endCtx (s : State) (c : Nat) (st : CtxState) (exit : Nat) : State :=
  let s1 := (s.leaveTile c).setWalk c none
  let x := s1.ctx c
  let s2 := s1.setCtx c { x with state := st, exit := exit, tile := none, want := .none, waitw := none
                                 dma0 := { x.dma0 with active := false }, dma1 := { x.dma1 with active := false } }
  s.quietIrq (s2.writeRec c) (ctxFloe c)

/-- A context that ends tells of it when FLAGS.IRQ is set (R461). -/
def State.ctxDone (s : State) (c : Nat) (exit : Nat) : State :=
  let irq := (s.ctx c).flags / 2 % 2 == 1
  let s := s.endCtx c .done exit
  if irq then s.irq cCTX (ctxFloe c) 1 else s

/-- Cause of a context fault: poison that could not be carried, or a context fault (R483, R490). -/
def faultCause (code : Nat) : Nat := if code = 0x11 ∨ code = 0x08 then 0x0E else 0x0A

/-- A context fault as the dispatcher carries it out, its error record apart (R449, R461, R463). -/
def State.ctxFaulted (s : State) (c code op : Nat) : State :=
  let fl := ctxFloe c
  let irq := (s.ctx c).flags / 2 % 2 == 1
  let s := (s.endCtx c .faulted code).wr cCTX fl CTX.LAST_FAULT (u32 (code * 2 ^ 24 + op * 2 ^ 16 + ctxLocal c))
  let s := (s.bump cDSP fl DSP.FAULT_CNT).irq cDSP fl 4
  if irq then s.irq cCTX fl 2 else s

/-- A context faults with a code of the dispatcher, recorded against the context (R449, R463). -/
def State.ctxFault (s : State) (c code op : Nat) : State :=
  (s.recUC cCTX (ctxFloe c) (faultCause code) none none (some c)).ctxFaulted c code op

/-- A context faults with a code of the vector engine (R82, R111, R112). -/
def State.vecFault (s : State) (t c code op : Nat) : State :=
  let s := s.wr cVEC t VEC.FAULT (u32 (code * 2 ^ 24 + op * 2 ^ 16 + c))
  let s := (s.bump cVEC t VEC.FAULT_CNT).irq cVEC t 4
  (s.recUC cVEC t (faultCause code) none none (some c)).ctxFaulted c code op

/-! ### Save boundaries (R450–R452) -/

/-- The context is at a boundary: what it awaits takes effect, unless it holds the array. In a WAITW only the quantum saves it
(R448). A walk is at one while its sampler holds no expansions of it (R199; log 100). -/
def State.boundary (s : State) (c : Nat) : State :=
  let x := s.ctx c
  if x.state != .running || (s.walkOf c).isSome then s
  else
    match x.want with
    | .none => s
    | .kill => s.ctxDone c 0xFFFF
    | w => if s.holds c || (x.waitw.isSome && w != .quantum) then s else s.setCtx c { x with state := .saving }

/-- Which of two wants stands: a KILL over a PARK over the dispatcher's own saves. -/
def CtxWant.join (a b : CtxWant) : CtxWant :=
  match a, b with
  | .kill, _ => .kill | _, .kill => .kill
  | .park, _ => .park | _, .park => .park
  | .none, b => b
  | a, _ => a

/-- A running context is asked to save or end at its next boundary. -/
def State.wantCtx (s : State) (c : Nat) (w : CtxWant) : State :=
  (s.setCtx c { s.ctx c with want := (s.ctx c).want.join w }).boundary c

/-! ### Running one instruction -/

/-- What an instruction does. -/
inductive Ex where
  /-- it retires and PC goes on -/
  | ok (s : State)
  /-- it retires and PC is set -/
  | jump (s : State) (pc : Nat)
  /-- it faults with a code of the dispatcher -/
  | fault (code : Nat)
  /-- it faults with a code of the vector engine -/
  | vfault (code : Nat)
  /-- it waits: nothing has happened -/
  | wait
  /-- it has ended its context -/
  | ended (s : State)

/-- The context that runs on a tile and may issue: RUNNING, not in a WAITW. -/
def State.runner (s : State) (t : Nat) : Option Nat :=
  (s.ctxs.find? fun e => e.2.tile == some t && e.2.state == .running).map (·.1)

/-- What a fetch at PC finds: a fault code, or the word (R447, R449). -/
def State.fetch (s : State) (t pc : Nat) : Except Nat W64 × State :=
  if pc % 8 ≠ 0 ∨ hbmSize < pc + 8 then (.error 0x10, s)
  else
    let (d, s) := s.hbmRead (rqTile (floeOf t)) pc 8
    if !d.ok then (.error 0x10, s) else if d.anyPois then (.error 0x11, s) else (.ok (u64 (leNat d.data)), s)

/-- The OP of a word is reserved (R83, R447). -/
def opReserved (w : W64) : Bool := (decodeWord 0 w).isNone

/-- An end of context c, made from `s0`, waits until its record can be written. -/
def State.whenRec (s0 : State) (c : Nat) (s : State) : State :=
  let g := s0.gate [(s0.recAddr c, 256, true)]
  if g.1 then s else g.2

/-- An instruction of the context on tile t: fetched at PC, performed, retired or faulted at its boundary. `op` and `f` are
the fields of the command; a command that is not the instruction whose word stands at PC does not apply (log 71), and a word
with a reserved OP faults: in the range of the vector instructions with the vector engine's code 0x01 (R82), elsewhere with the
dispatcher's 0x12 (R447, R449). -/
def State.instr (s0 : State) (t op : Nat) (f : VecFields) (body : State → Nat → Ctx → Ex) : State :=
  if !s0.arrOn t then s0
  else
    match s0.runner t with
    | none => s0
    | some c =>
      let x := s0.ctx c
      if x.waitw.isSome then s0
      else
        s0.gated [(x.pc, 8, false)] fun s =>
          match s.fetch t x.pc with
          | (.error code, s) => s0.whenRec c (s.ctxFault c code 0)
          | (.ok w, s) =>
            let k := (decodeFields w).1.toNat
            if opReserved w then
              s0.whenRec c (if decide (1 ≤ k) && decide (k ≤ 0x94) then s.vecFault t c 0x01 k else s.ctxFault c 0x12 k)
            else if w ≠ encodeFields (BitVec.ofNat 8 op) f then s0
            else
              match body s c (s.ctx c) with
              | .ok s => ((s.setCtx c { s.ctx c with pc := x.pc + 8 }).vecBusy t false).boundary c
              | .jump s pc => ((s.setCtx c { s.ctx c with pc := pc }).vecBusy t false).boundary c
              | .fault code => s0.whenRec c (s.ctxFault c code op)
              | .vfault code => s0.whenRec c (s.vecFault t c code op)
              | .wait => s0.vecBusy t (decide (op ≤ 0x94))
              | .ended s => s0.whenRec c s

end Sys2Proof.Machine
end

