-- ==== Sys2Proof/Machine/Flags.lean ====
section
/-! DEFINITION. The sticky flags of the vector engine (R98) and the element results that carry them: IEEE 754 rounding, NaN
selection and overflow (R95, R96), saturation (R93). -/
namespace Sys2Proof.Machine

/-- The bits of VFLAGS (R98). -/
abbrev VF : Type := BitVec 6
abbrev vfSat : VF := 1
abbrev vfInvalid : VF := 2
abbrev vfDivz : VF := 4
abbrev vfOvf : VF := 8
abbrev vfEmpty : VF := 16
abbrev vfPoison : VF := 32

/-- The flag when the condition holds. -/
def flagIf (c : Bool) (f : VF) : VF := if c then f else 0

/-- An element's slot value and the flags it raises. -/
abbrev El : Type := W32 × VF

/-- The element types (R81). -/
def tyWidth (ty : Nat) : Nat := match ty with | 1 => 16 | 2 => 8 | 9 => 16 | _ => 32

/-- A float TYPE. -/
def tyFloat (ty : Nat) : Bool := ty == 8 || ty == 9

/-- The format of a float TYPE. -/
def tyFmt (ty : Nat) : Fmt := if ty = 9 then fmtBF16 else fmtFP32

/-- The bits of its type that an instruction reads from a slot (R78). -/
def tyBits (ty : Nat) (w : W32) : Nat := w.toNat % 2 ^ tyWidth ty

/-- The integer value of a slot: UINT32 has no sign. -/
def tyInt (ty : Nat) (w : W32) : Int := if ty = 3 then (w.toNat : Int) else sext (tyWidth ty) (tyBits ty w)

/-- The range of an integer TYPE (R93). -/
def tyLo (ty : Nat) : Int := match ty with | 1 => -32768 | 2 => -128 | 3 => 0 | _ => -2147483648
def tyHi (ty : Nat) : Int := match ty with | 1 => 32767 | 2 => 127 | 3 => 4294967295 | _ => 2147483647

/-- The slot of an integer value: sign-extended to 32 bits (R78). -/
def slotInt (i : Int) : W32 := u32 (ofInt 32 i)

/-- The slot of the low `w` bits of an integer TYPE (R78). -/
def slotBits (ty n : Nat) : W32 := if ty = 3 then u32 n else slotInt (sext (tyWidth ty) n)

/-- Clamps an exact integer to the range of TYPE, with SAT when it clamps (R93). -/
def satEl (ty : Nat) (i : Int) : El :=
  let c := clampI (tyLo ty) (tyHi ty) i
  (slotInt c, flagIf (c != i) vfSat)

/-- The value of a float slot. -/
def tyVal (ty : Nat) (w : W32) : FV := (tyFmt ty).dec (tyBits ty w)

/-- The first NaN among the operands, made quiet, with INVALID when some operand signals (R96). -/
def nanEl (ty : Nat) (ops : List W32) : Option El :=
  match ops.find? fun w => (tyFmt ty).isNaN (tyBits ty w) with
  | none => none
  | some w => some (u32 ((tyFmt ty).quiet (tyBits ty w)),
      flagIf (ops.any fun x => (tyFmt ty).isSNaN (tyBits ty x)) vfInvalid)

/-- The quiet NaN of an invalid operation (R96). -/
def invEl (ty : Nat) : El := (u32 (tyFmt ty).nanBits, vfInvalid)

/-- A result rounded once to TYPE, with OVF when it exceeds the largest finite value (R96). -/
def roundEl (ty : Nat) (r : Rnd) (v : FV) : El :=
  let e := (tyFmt ty).enc r v
  (u32 e.1, flagIf e.2 vfOvf)

/-- A float operation: NaN operands first, then the invalid operation, then the rounded result (R95, R96). -/
def floatEl (ty : Nat) (r : Rnd) (ops : List W32) (v : Option FV) : El :=
  match nanEl ty ops with
  | some e => e
  | none => match v with | some v => roundEl ty r v | none => invEl ty

end Sys2Proof.Machine
end

