-- ==== Sys2Proof/Machine/Operands.lean ====
section
/-! DEFINITION. The operand forms of vector instructions (R80, R548): which fields an operation reads and what each names,
the checks of R82 before any result, and the elements, masks and scalars that the fields reach (R77, R84, R85). -/
namespace Sys2Proof.Machine

/-- What a register field names for an operation (R548). -/
inductive FieldUse where
  /-- not read: reserved, must be zero -/
  | none
  /-- a vector register -/
  | v
  /-- a scalar register s[x[3:0]]; bit 4 is reserved -/
  | s
  /-- a mask register m[x[2:0]]; bits [4:3] are reserved -/
  | m
  /-- a vector register, or a scalar register when SCAL = 1 -/
  | vOrS
  /-- MFMT -/
  | mfmt
  /-- a type in [3:0]; bit 4 is reserved -/
  | ty
deriving DecidableEq, Repr

/-- How an operation uses the fields of its word (R548). -/
structure OpSpec where
  op  : Nat
  vd  : FieldUse := .none
  vs1 : FieldUse := .none
  vs2 : FieldUse := .none
  vs3 : FieldUse := .none
  /-- reads RM -/
  rm  : Bool := false
  /-- bits of IMM it reads -/
  imm : Nat := 0
  /-- reads MSK and MU (every operation from VLD onwards) -/
  msk : Bool := true
  /-- reads RS, DINC and BINC (every operation but VFENCE) -/
  rs  : Bool := true
  /-- accepted values of TYPE -/
  types : List Nat
deriving DecidableEq, Repr

/-- The types of R81, and the sets the operations accept (R83). -/
def tyAll : List Nat := [0, 1, 2, 3, 8, 9]
def tyInts : List Nat := [0, 1, 2, 3]
def tyFloats : List Nat := [8, 9]
def tyRed : List Nat := [8, 9, 0, 1, 2]
/-- An operation listed with the type "—" takes TYPE = 0. -/
def tyNone : List Nat := [0]

/-- A register field holds a bit that is reserved under its use. -/
def FieldUse.bad (u : FieldUse) (scal : BitVec 1) (x : BitVec 5) : Bool :=
  match u with
  | .none => x != 0
  | .v | .mfmt => false
  | .s | .ty => decide (16 ≤ x.toNat)
  | .m => decide (8 ≤ x.toNat)
  | .vOrS => scal == 1 && decide (16 ≤ x.toNat)

/-- A reserved bit of the word is set (R548). -/
def OpSpec.reservedSet (o : OpSpec) (f : VecFields) : Bool :=
  o.vd.bad f.scal f.vd || o.vs1.bad f.scal f.vs1 || o.vs2.bad f.scal f.vs2 || o.vs3.bad f.scal f.vs3 ||
    (o.vs2 != .vOrS && f.scal != 0) || decide (2 ^ o.imm ≤ f.imm.toNat) ||
    (!o.msk && (f.msk != 0 || f.mu != 0)) || (!o.rs && (f.rs != 0 || f.dinc != 0 || f.binc != 0))

/-- The checks of TYPE and of reserved bits, with the fault code (R82). Of a word that fails several checks, R82 does not say
which code is told: TYPE comes first, then reserved bits, then MFMT, then RM (DESIGN CHOICE, log 89). -/
def OpSpec.check (o : OpSpec) (f : VecFields) : Option Nat :=
  if !o.types.contains f.type.toNat then some 1
  else if o.reservedSet f then some 2
  else none

/-- The check of RM, given the width of the rounded result (R82). -/
def OpSpec.checkRm (o : OpSpec) (f : VecFields) (width : Nat) : Option Nat :=
  if !o.rm then (if f.rm = 0 then none else some 5)
  else if f.rm = 3 ∨ f.rm = 1 ∧ 16 < width then some 5 else none

/-! ### What the fields reach -/

/-- The vector state of a tile. -/
def State.vecOf (s : State) (t : Nat) : VecSt := mget {} s.vec t
/-- Replaces the vector state of a tile. -/
def State.setVec (s : State) (t : Nat) (x : VecSt) : State := { s with vec := mset {} s.vec t x }

/-- Element i of v_r, its poison bit, bit i of m_k (R77). -/
def VecSt.elem (x : VecSt) (r i : Nat) : W32 := mget 0 x.v (2048 * r + i)
def VecSt.pois (x : VecSt) (r i : Nat) : Bool := mget false x.p (2048 * r + i)
def VecSt.bit (x : VecSt) (k i : Nat) : Bool := mget false x.m (2048 * k + i)

/-- Writes an element with its poison bit. -/
def VecSt.put (x : VecSt) (r i : Nat) (w : W32) (p : Bool) : VecSt :=
  { x with v := mset 0 x.v (2048 * r + i) w, p := mset false x.p (2048 * r + i) p }
/-- Writes a mask bit. -/
def VecSt.putBit (x : VecSt) (k i : Nat) (b : Bool) : VecSt := { x with m := mset false x.m (2048 * k + i) b }

end Sys2Proof.Machine

namespace Sys2Proof
open Sys2Proof.Machine

/-- Element i is active (R85). -/
def VecFields.active (f : VecFields) (x : VecSt) (vlen i : Nat) : Bool :=
  decide (i < vlen) && (f.mu == 1 || x.bit f.msk.toNat i)

/-- The active elements, in logical order. -/
def VecFields.actives (f : VecFields) (x : VecSt) (vlen : Nat) : List Nat :=
  (List.range vlen).filter fun i => f.active x vlen i

end Sys2Proof

namespace Sys2Proof.Machine

/-- The number of a scalar register in a field; of a mask register. -/
abbrev sNum (x : BitVec 5) : Nat := x.toNat % 16
abbrev mNum (x : BitVec 5) : Nat := x.toNat % 8

end Sys2Proof.Machine

namespace Sys2Proof
open Sys2Proof.Machine

/-- Element i of the second operand B: from VS2, or the scalar taken to every element (R80). -/
def VecFields.opB (f : VecFields) (x : VecSt) (c : Ctx) (i : Nat) : W32 :=
  if f.scal = 1 then u32 (c.sreg (sNum f.vs2)).toNat else x.elem f.vs2.toNat i

/-- The element of B is poisoned; a scalar never is. -/
def VecFields.poisB (f : VecFields) (x : VecSt) (i : Nat) : Bool :=
  if f.scal = 1 then false else x.pois f.vs2.toNat i

/-- The rounding of element i: stochastic rounding draws at the element's counter (R82, R87, R105, R109). -/
def VecFields.rnd (f : VecFields) (s : State) (t : Nat) (c : Ctx) (i : Nat) : Rnd :=
  let r := c.rs f.rs.toNat
  if f.rm = 2 then .rtz
  else if f.rm = 1 ∧ s.rdb cVEC t hCTRL 0 then srOf (draw (s.keyOf cVEC t) r.stream (r.base + u64 i) r.draw).1
  else .rne

/-- The draw of element i (R105). -/
def VecFields.drawAt (f : VecFields) (s : State) (t : Nat) (c : Ctx) (i : Nat) : W32 :=
  let r := c.rs f.rs.toNat
  (draw (s.keyOf cVEC t) r.stream (r.base + u64 i) r.draw).1

end Sys2Proof

namespace Sys2Proof.Machine

/-! ### Retirement (R84, R87, R92, R111) -/

/-- Lanes of a tile. -/
def State.lanes (s : State) : Nat := if s.fuses.grade9632 then 48 else 64

/-- What an instruction did, beside the state it changed: flags, clamps, poison met, passes of a strip through the
special-function path. -/
structure VDone where
  s     : State
  flags : VF := 0
  sats  : Nat := 0
  pois  : Bool := false
  passes : Nat := 0

/-- Clamps are counted in SAT_CNT with their interrupt (R111). -/
def State.countSat (s : State) (t n : Nat) : State :=
  if n = 0 then s else (s.bump cVEC t VEC.SAT_CNT n).irq cVEC t 2

/-- The one Deferred error of an instruction that met poison (R92). -/
def State.countPois (s : State) (t : Nat) (p : Bool) : State :=
  if p then ((s.bump cVEC t VEC.POISON_CNT).irq cVEC t 8).recDef cVEC t 0x03 else s

/-- Strips issued, as data handshakes and as passes of the special-function path (R36, R84, R108, R111). -/
def State.countStrips (s : State) (t vlen passes : Nat) : State :=
  let n := (vlen + s.lanes - 1) / s.lanes
  let s := (s.bump64 cVEC t VEC.VEC_HS n).bump64 cTIM 0 (if t / 64 = 0 then TIM.VEC_HS_A else TIM.VEC_HS_B) n
  if passes = 0 then s else s.bump64 cVEC t VEC.SFU_HS (passes * n)

end Sys2Proof.Machine

namespace Sys2Proof
open Sys2Proof.Machine

/-- DINC and BINC, with the VLEN in force after the instruction (R80, R87). -/
def VecFields.inc (f : VecFields) (c : Ctx) : Ctx :=
  let r := c.rs f.rs.toNat
  c.setRs f.rs.toNat { r with draw := r.draw + (if f.dinc = 1 then 1 else 0)
                              base := r.base + (if f.binc = 1 then u64 c.vlen else 0) }

end Sys2Proof

namespace Sys2Proof.Machine

/-- The instruction retires: its flags join VFLAGS, its counts are made, DINC and BINC apply (R87 event 5). `vlen` is
the number of elements it processed, 0 for an operation on no elements. -/
def VDone.retire (d : VDone) (t c vlen : Nat) (f : VecFields) : Ex :=
  let s := ((d.s.countStrips t vlen d.passes).countSat t d.sats).countPois t d.pois
  let x := s.ctx c
  .ok (s.setCtx c (f.inc { x with vflags := x.vflags ||| d.flags ||| flagIf d.pois vfPoison }))

/-- An operation after its checks: the fault of the check, or the operation (R82). -/
def checked (r : Option Nat) (go : Ex) : Ex := match r with | some code => .vfault code | none => go

/-- Writes a list of element results to VD (R85). -/
def VecSt.putAll (x : VecSt) (r : Nat) (l : List (Nat × W32 × Bool)) : VecSt :=
  l.foldl (fun x e => x.put r e.1 e.2.1 e.2.2) x

/-- An element-wise operation: every active element by `g`, poisoned when `p` says an operand element is (R85, R92). -/
def elementwise (t c : Nat) (x : Ctx) (f : VecFields) (s : State) (passes : Nat) (p : VecSt → Nat → Bool)
    (g : VecSt → Nat → El) : Ex :=
  let v := s.vecOf t
  let l := (f.actives v x.vlen).map fun i => (i, g v i, p v i)
  let d : VDone := { s := s.setVec t (v.putAll f.vd.toNat (l.map fun e => (e.1, e.2.1.1, e.2.2)))
                     flags := l.foldl (fun a e => a ||| e.2.1.2) 0
                     sats := (l.filter fun e => e.2.1.2.getLsbD 0).length
                     pois := l.any (·.2.2), passes := passes }
  d.retire t c x.vlen f

end Sys2Proof.Machine
end

