-- ==== Sys2Proof/Machine/Scalar.lean ====
section
/-! DEFINITION. Scalar, branch, control and DMA instructions of a tile context (R447–R449). -/
namespace Sys2Proof
open Sys2Proof.Machine

/-- The second operand of a scalar operation: s[VS2] when SCAL = 1, IMM sign-extended otherwise. -/
def VecFields.scalarB (f : VecFields) (x : Ctx) : W64 := if f.scal = 1 then x.sreg (sNum f.vs2) else f.imm.signExtend 64

/-- s[VS1] + IMM, IMM unsigned, computed exactly. -/
def VecFields.storeOff (f : VecFields) (x : Ctx) : Nat := (x.sreg (sNum f.vs1)).toNat + f.imm.toNat

end Sys2Proof

namespace Sys2Proof.Machine

/-! ### Scalar arithmetic -/

/-- s[VD] ← s[VS1] op second operand. -/
def scalarForm (g : W64 → W64 → W64) (f : VecFields) (s : State) (c : Nat) (x : Ctx) : Ex :=
  .ok (s.setCtx c (x.setS (sNum f.vd) (g (x.sreg (sNum f.vs1)) (f.scalarB x))))

/-- SLI (R447). -/
def execSli (t : Nat) (f : VecFields) (s : State) : Res := .next <| s.instr t 0xC0 f (scalarForm (fun _ b => b) f)
/-- SADD (R447). -/
def execSadd (t : Nat) (f : VecFields) (s : State) : Res := .next <| s.instr t 0xC1 f (scalarForm (· + ·) f)
/-- SSUB (R447). -/
def execSsub (t : Nat) (f : VecFields) (s : State) : Res := .next <| s.instr t 0xC2 f (scalarForm (· - ·) f)
/-- SMUL (R447). -/
def execSmul (t : Nat) (f : VecFields) (s : State) : Res := .next <| s.instr t 0xC3 f (scalarForm (· * ·) f)
/-- SAND (R447). -/
def execSand (t : Nat) (f : VecFields) (s : State) : Res := .next <| s.instr t 0xC4 f (scalarForm (· &&& ·) f)
/-- SOR (R447). -/
def execSor (t : Nat) (f : VecFields) (s : State) : Res := .next <| s.instr t 0xC5 f (scalarForm (· ||| ·) f)
/-- SXOR (R447). -/
def execSxor (t : Nat) (f : VecFields) (s : State) : Res := .next <| s.instr t 0xC6 f (scalarForm (· ^^^ ·) f)
/-- SSHL (R447): the count is taken modulo 64. -/
def execSshl (t : Nat) (f : VecFields) (s : State) : Res :=
  .next <| s.instr t 0xC7 f (scalarForm (fun a b => a <<< (b.toNat % 64)) f)
/-- SSHR (R447): zeros enter. -/
def execSshr (t : Nat) (f : VecFields) (s : State) : Res :=
  .next <| s.instr t 0xC8 f (scalarForm (fun a b => a >>> (b.toNat % 64)) f)

/-! ### Tile store -/

/-- SLD and SST: an 8-byte aligned offset inside the store, once the arbiters grant (R447, R449, R490). -/
def storeForm (t : Nat) (f : VecFields) (s : State) (x : Ctx) (go : Nat → Ex) : Ex :=
  let o := f.storeOff x
  if o % 8 ≠ 0 ∨ tsSize < o + 8 then .fault 0x13 else if s.tsFrozen t then .wait else go o

/-- A load of a poisoned word faults (R490). -/
def sldForm (t : Nat) (f : VecFields) (s : State) (c : Nat) (x : Ctx) : Ex :=
  storeForm t f s x fun o =>
    let (d, s) := s.tsRead t o 8
    if d.anyPois then .fault 0x11 else .ok (s.setCtx c (x.setS (sNum f.vd) (u64 (leNat d.data))))

/-- SST stores s[VD]. -/
def sstForm (t : Nat) (f : VecFields) (s : State) (_c : Nat) (x : Ctx) : Ex :=
  storeForm t f s x fun o => .ok (s.tsWrite t o (toLE 8 (x.sreg (sNum f.vd)).toNat))

/-- SLD (R447). -/
def execSld (t : Nat) (f : VecFields) (s : State) : Res := .next <| s.instr t 0xC9 f (sldForm t f)
/-- SST (R447). -/
def execSst (t : Nat) (f : VecFields) (s : State) : Res := .next <| s.instr t 0xCA f (sstForm t f)

/-! ### Branches and control -/

/-- The target of a branch: PC + 8 · IMM, signed. -/
def branchTo (f : VecFields) (pc : Nat) : Nat := (u64 pc + 8 * f.imm.signExtend 64).toNat

/-- A branch taken or not. -/
def branchForm (g : Bool → Bool) (f : VecFields) (s : State) (_c : Nat) (x : Ctx) : Ex :=
  if g (x.sreg (sNum f.vs1) == 0) then .jump s (branchTo f x.pc) else .ok s

/-- BRZ (R447). -/
def execBrz (t : Nat) (f : VecFields) (s : State) : Res := .next <| s.instr t 0xE0 f (branchForm id f)
/-- BRNZ (R447). -/
def execBrnz (t : Nat) (f : VecFields) (s : State) : Res := .next <| s.instr t 0xE1 f (branchForm not f)

/-- SETLAYER (R447): LAYER ← IMM[7:0]. -/
def execSetlayer (t : Nat) (f : VecFields) (s : State) : Res :=
  .next <| s.instr t 0xE3 f fun s c x => .ok (s.setCtx c { x with layer := f.imm.toNat % 256 })

/-- YIELD (R447, R452): the context is saved at its next save boundary, which is this one unless it holds the array. -/
def execYield (t : Nat) (f : VecFields) (s : State) : Res :=
  .next <| s.instr t 0xE4 f fun s c x => .ok (s.setCtx c { x with want := x.want.join .save })

/-- END (R447, R450): PC goes past the END, EXIT = IMM[15:0]. -/
def endForm (f : VecFields) (s : State) (c : Nat) (x : Ctx) : Ex :=
  .ended ((s.setCtx c { x with pc := x.pc + 8 }).ctxDone c (f.imm.toNat % 65536))

/-- END (R447). -/
def execCtxEnd (t : Nat) (f : VecFields) (s : State) : Res := .next <| s.instr t 0xE5 f (endForm f)

/-! ### DMA (R445, R447–R449) -/

/-- DMAIN and DMAOUT: a cursor that is still active holds the instruction; operands are multiples of 64; a transfer that
would leave the tile store faults. -/
def dmaForm (out : Bool) (f : VecFields) (s : State) (c : Nat) (x : Ctx) : Ex :=
  let n := f.imm.toNat % 2
  let h := (x.sreg (sNum f.vs1)).toNat
  let o := (x.sreg (sNum f.vs2)).toNat
  let l := (x.sreg (sNum f.vs3)).toNat
  if (x.dma n).active then .wait
  else if h % 64 ≠ 0 ∨ o % 64 ≠ 0 ∨ l % 64 ≠ 0 then .fault 0x13
  else if tsSize < o + l ∨ 2 ^ 48 ≤ h then .fault 0x14
  else .ok (s.setCtx c (x.setDma n { active := decide (l ≠ 0), out := out, haddr := h, toff := o, left := l }))

/-- DMAIN (R447). -/
def execDmain (t : Nat) (f : VecFields) (s : State) : Res := .next <| s.instr t 0xB0 f (dmaForm false f)
/-- DMAOUT (R447). -/
def execDmaout (t : Nat) (f : VecFields) (s : State) : Res := .next <| s.instr t 0xB1 f (dmaForm true f)

/-- DMAWAIT: waits while a named cursor is active. -/
def dmawaitForm (f : VecFields) (s : State) (_c : Nat) (x : Ctx) : Ex :=
  let both := f.imm.getLsbD 1
  let first := f.imm.getLsbD 0
  if (x.dma0.active && (both || !first)) || (x.dma1.active && (both || first)) then .wait else .ok s

/-- DMAWAIT (R447). -/
def execDmawait (t : Nat) (f : VecFields) (s : State) : Res := .next <| s.instr t 0xB2 f (dmawaitForm f)

/-- The unit number of a Floe's tile DMA ports at the Oplis egress (R432). -/
abbrev dmaUnit (fl : Nat) : Nat := 6 + fl

/-- The cursor moves its bytes: data and poison of each byte (R448); `false` is an address error or an unavailable
return. -/
def State.dmaMove (s : State) (t : Nat) (d : DmaCur) : Bool × State :=
  let fl := floeOf t
  if d.out then
    let (r, s) := s.tsRead t d.toff d.left
    s.unitWrite (rqTile fl) (dmaUnit fl) d.haddr r.data r.pois true
  else
    let (r, s) := s.unitRead (rqTile fl) (dmaUnit fl) d.haddr d.left
    if r.ok then (true, s.tsWriteP t d.toff r.data r.pois) else (false, s)

/-- A cursor's last bytes (R448, R449): it becomes inactive; a failed transfer faults its context. -/
def State.dmaDone (s0 : State) (t n c : Nat) : State :=
  let d := (s0.ctx c).dma n
  s0.unitGated (dmaUnit (floeOf t)) true [(d.haddr, d.left, d.out), (s0.recAddr c, 256, true)] fun s =>
    let (ok, s) := s.dmaMove t d
    let x := s.ctx c
    let e := d.left
    let s := s.setCtx c (x.setDma n { d with active := false, haddr := d.haddr + e, toff := d.toff + e, left := 0 })
    if ok then s else s.ctxFault c 0x14 0

/-- DMA_DONE (R448). -/
def execDmaDone (t cur : Nat) (s : State) : Res :=
  .next <|
    match s.runner t with
    | some c =>
      if s.arrOn t && decide (cur < 2) && ((s.ctx c).dma cur).active && !s.tsFrozen t then s.dmaDone t cur c else s
    | none => s

end Sys2Proof.Machine
end

