-- ==== Sys2Proof/Machine/Contexts.lean ====
section
/-! DEFINITION. The dispatchers and the CTX and DSP pages: context commands (R450), SPAWN, scheduling (R451), saving (R452),
resuming (R453), the table scan (R455) and the quantum. -/
namespace Sys2Proof.Machine

/-! ### Context commands (R450, R461, R463) -/

/-- A refused command: REFUSE_CNT, its interrupt, a record against the CTX page. -/
def State.ctxRefuse (s : State) (c : Nat) : State :=
  ((s.bump cCTX (ctxFloe c) CTX.REFUSE_CNT).irq cCTX (ctxFloe c) 4).recUC cCTX (ctxFloe c) 0x01 none none (some c)

/-- CMD_STAT after a command of the register. -/
def State.cmdStat (s : State) (c : Nat) (refused : Bool) : State :=
  s.wr cCTX (ctxFloe c) CTX.CMD_STAT (u32 (b2n refused * 65536 + ctxLocal c))

/-- A record that START or a resume can take: a known KIND, a saved range inside the tile store. -/
def Ctx.usable (x : Ctx) : Bool := decide (x.kind ≤ 1) && decide (64 * (x.tsOff + x.tsLen) ≤ tsSize)

/-- START: the record is read from the table and the context is READY; `false` is a refusal. -/
def State.startCtx (s : State) (c : Nat) : Bool × State :=
  match (s.ctx c).state with
  | .ready | .running | .saving => (false, s)
  | _ =>
    let (r, s) := s.hbmRead (rqTile (ctxFloe c)) (s.recAddr c) 256
    if !r.ok then (false, s)
    else if r.anyPois then (false, s.recUC cCTX (ctxFloe c) 0x0E (some (s.recAddr c)))
    else
      let x := ctxOfBytes r.data
      if x.usable then (true, s.setCtx c { x with state := .ready }) else (false, s)

/-- PARK; `false` is a refusal. -/
def State.parkCtx (s : State) (c : Nat) : Bool × State :=
  match (s.ctx c).state with
  | .ready => (true, s.setCtx c { s.ctx c with state := .parked })
  | .running => (true, s.wantCtx c .park)
  | .saving => (true, s.setCtx c { s.ctx c with want := (s.ctx c).want.join .park })
  | _ => (false, s)

/-- KILL; `false` is a refusal. -/
def State.killCtx (s : State) (c : Nat) : Bool × State :=
  match (s.ctx c).state with
  | .ready | .parked => (true, s.ctxDone c 0xFFFF)
  | .running => (true, s.wantCtx c .kill)
  | .saving => (true, s.setCtx c { s.ctx c with want := .kill })
  | _ => (false, s)

/-- A context command by its code in CMD (R461): START, PARK, KILL; the others are reserved. `false` is a refusal. -/
def State.ctxAct (s : State) (op c : Nat) : Bool × State :=
  match op with
  | 1 => s.startCtx c
  | 2 => s.parkCtx c
  | 3 => s.killCtx c
  | _ => (false, s)

/-- The HBM that a context command reaches: START reads the record, KILL writes it back. -/
def State.ctxReach (s : State) (op c : Nat) : List (Nat × Nat × Bool) :=
  match op with
  | 1 => [(s.recAddr c, 256, false)]
  | 3 => [(s.recAddr c, 256, true)]
  | _ => []

/-- A command runs to its end. -/
def State.ctxCmd (s : State) (op c : Nat) : State :=
  let r := s.ctxAct op c
  if r.1 then r.2.cmdStat c false else (r.2.ctxRefuse c).cmdStat c true

/-- The command that a Floe's dispatcher has in progress (R461). -/
def State.ctxBusyOf (s : State) (fl : Nat) : Option (Nat × Nat) := mget none s.ctxBusy fl
/-- Replaces it. -/
def State.setCtxBusy (s : State) (fl : Nat) (x : Option (Nat × Nat)) : State := { s with ctxBusy := mset none s.ctxBusy fl x }

/-- The command in progress goes on once the table can be reached and no scan of it is due (R376, R411, R416). -/
def State.ctxCmdGo (s : State) (fl : Nat) : State :=
  match s.ctxBusyOf fl with
  | none => s
  | some (op, c) =>
    if mget false s.scanDue fl || !s.pageOn cCTX fl then s
    else s.gated (s.ctxReach op c) fun s => (s.setCtxBusy fl none).ctxCmd op c

/-- A command written to CMD (R450, R461): while BUSY is 1 it is ignored and counted, while CTRL.EN is 0 refused; else it is
in progress, BUSY, until it has ended. -/
def State.ctxTake (s : State) (op c : Nat) : State :=
  let fl := ctxFloe c
  if (s.ctxBusyOf fl).isSome then (s.bump cCTX fl CTX.REFUSE_CNT).irq cCTX fl 4
  else if !s.rdb cCTX fl hCTRL 0 then (s.ctxRefuse c).cmdStat c true
  else ((s.wr cCTX fl CTX.CMD_STAT (u32 (2147483648 + ctxLocal c))).setCtxBusy fl (some (op, c))).ctxCmdGo fl

/-- A master's command on its way (R14, R465). -/
def State.ctxCmdWrite (s : State) (m fl c op : Nat) : State :=
  if 2 ≤ fl ∨ 32768 ≤ c then s
  else s.actionWrite m cCTX fl CTX.CMD false (·.ctxTake op (fl * 32768 + c))

/-- START (R450). -/
def execStart (m fl c : Nat) (s : State) : Res := .next <| s.ctxCmdWrite m fl c 1

/-- PARK (R450). -/
def execPark (m fl c : Nat) (s : State) : Res := .next <| s.ctxCmdWrite m fl c 2

/-- KILL (R450). -/
def execKill (m fl c : Nat) (s : State) : Res := .next <| s.ctxCmdWrite m fl c 3

/-- SPAWN (R447): START of context s[VS1][14:0] of the same Floe; a refusal is counted and recorded, and the program goes
on. -/
def spawnForm (f : VecFields) (s0 : State) (c : Nat) (x : Ctx) : Ex :=
  let d := ctxFloe c * 32768 + (x.sreg (sNum f.vs1)).toNat % 32768
  let g := s0.gate [(s0.recAddr d, 256, false)]
  if !g.1 then .wait
  else
    let r := g.2.startCtx d
    .ok (if r.1 then r.2 else r.2.ctxRefuse d)

/-- SPAWN (R447). -/
def execSpawn (t : Nat) (f : VecFields) (s : State) : Res := .next <| s.instr t 0xE6 f (spawnForm f)

/-! ### CTX CTRL.EN (R455) -/

/-- One record of the table as the scan finds it: RUNNING and SAVING become FAULTED with EXIT 0xFFFE, READY is scheduled,
the others are known by their STATE. A poisoned record is left out and recorded. -/
def State.scanRec (s : State) (c : Nat) (b : Bytes) (pois : Bool) : State :=
  if pois then s.recUC cCTX (ctxFloe c) 0x0E (some (s.recAddr c))
  else
    let x := ctxOfBytes b
    match x.state with
    | .running | .saving => (s.setCtx c { x with state := .faulted, exit := 0xFFFE }).writeRec c
    | .free => s
    | _ => if x.usable then s.setCtx c x else s

/-- The table is read once. -/
def State.scanTable (s : State) (fl : Nat) : State :=
  let s := { s with ctxs := s.ctxs.filter fun e => e.1 / 32768 != fl }
  (List.range 32768).foldl (fun s i =>
    let c := fl * 32768 + i
    let (r, s) := s.hbmRead (rqTile fl) (s.recAddr c) 256
    if r.ok then s.scanRec c r.data r.anyPois else s) s

/-- A scan that is due is made once the dispatcher is on and the table can be reached and written (R376, R411, R416, R465). -/
def State.scanGo (s : State) (fl : Nat) : State :=
  if mget false s.scanDue fl && s.pageOn cCTX fl then
    s.gated [(s.recAddr (fl * 32768), 256 * 32768, true)] fun s =>
      ({ s with scanDue := mset false s.scanDue fl false }).scanTable fl
  else s

/-- What a dispatcher has in progress goes on: the scan of its table, then its command. -/
def State.ctxGo (s : State) (fl : Nat) : State := (s.scanGo fl).ctxCmdGo fl

/-- Setting CTRL.EN: the bit turns from 0 to 1 and the table is read. -/
def State.ctxEnSet (s : State) (fl : Nat) : State :=
  if s.rdb cCTX fl hCTRL 0 then s
  else ({ s.wrb cCTX fl hCTRL 0 true with scanDue := mset false s.scanDue fl true }).scanGo fl

/-- CTX_CTRL_EN (R455, R523). -/
def execCtxCtrlEn (m fl : Nat) (s : State) : Res :=
  .next <| s.ownerWrite m cCTX fl hCTRL (!s.bringupOver) (·.ctxEnSet fl)

/-! ### HOLD (R451) -/

/-- Running contexts of a Floe, ascending. -/
def State.runningOf (s : State) (fl : Nat) : List Nat :=
  (s.ctxs.filter fun e => e.1 / 32768 == fl && e.2.state == .running).map (·.1)

/-- A write of HOLD: set, it asks every running context for a save; QUIET may follow at once. -/
def State.dspHold (s : State) (fl : Nat) (h : Bool) : State :=
  let s1 := s.wrb cDSP fl hCTRL 2 h
  let s2 := if h then (s1.runningOf fl).foldl (fun s c => s.wantCtx c .save) s1 else s1
  s.quietIrq s2 fl

/-- DSP_HOLD_WRITE (R451). -/
def execDspHoldWrite (m fl : Nat) (hold : Bool) (s : State) : Res :=
  .next <| s.ownerWrite m cDSP fl hCTRL false (·.dspHold fl hold)

/-! ### Scheduling and resuming (R451, R453) -/

/-- The domain is on and no switch-off of it has been asked for (R469). -/
def State.pdStays (s : State) (d : Nat) : Bool := s.pdStat d && (s.pdst d).phase != .offWait && !(s.pdst d).queue.contains false

/-- Place of walks of sampler n in the field `tile` of a context. -/
abbrev walkPlace (n : Nat) : Nat := 128 + n

/-- Some context is on the tile. -/
def State.occupied (s : State) (t : Nat) : Bool := s.ctxs.any fun e => e.2.tile == some t

/-- A tile that may take a context: enabled, in TILE_MASK, on, free, its array released (R73). -/
def State.tileFree (s : State) (t : Nat) : Bool :=
  s.tileEnabled t && s.rdb cDSP (t / 64) (DSP.TILE_MASK + 4 * (t % 64 / 32)) (t % 32) && s.live && s.pdStays (t / 2) &&
    !s.occupied t && (s.tile t).holder.isNone

/-- Walks active on a sampler. -/
def State.walksOn (s : State) (n : Nat) : Nat := (s.ctxs.filter fun e => e.2.tile == some (walkPlace n)).length

/-- Where a READY context of a Floe can run now: its AFFINITY if that tile is free, else the lowest free tile; a walk, its
sampler while fewer than 16 are active (R180). -/
def State.placeFor (s : State) (fl : Nat) (x : Ctx) : Option Nat :=
  if x.kind = 1 then
    if s.rdb cSMP fl hCTRL 0 && s.live && s.pdStays (82 + fl) && decide (s.walksOn fl < 16) then some (walkPlace fl) else none
  else if x.affinity < 64 ∧ s.tileFree (fl * 64 + x.affinity) then some (fl * 64 + x.affinity)
  else ((List.range 64).find? fun b => s.tileFree (fl * 64 + b)).map (fl * 64 + ·)

/-- READY contexts of a Floe by PRIO, then index. -/
def State.readyOrder (s : State) (fl : Nat) : List (Nat × Ctx) :=
  let l := s.ctxs.filter fun e => e.1 / 32768 == fl && e.2.state == .ready
  (List.range 4).flatMap fun p => l.filter fun e => e.2.prio == p

/-- Bytes of the save area before the tile-store range. -/
abbrev saveBytes : Nat := 0x42800

/-- Vector registers, poison and masks of a save area; a poisoned word poisons the elements it fills (R452, R489). -/
def vecOfSave (b : Bytes) (pois : List Bool) : VecSt :=
  let pw (k : Nat) : Bool := ((pois.drop (4 * k)).take 4).any id
  { v := (List.range 65536).filterMap fun k => let w := u32 (bfield b (4 * k) 4); if w = 0 then none else some (k, w)
    p := (List.range 65536).filterMap fun k => if mapBit (bslice b 0x40000 0x2000) k || pw k then some (k, true) else none
    m := (List.range 16384).filterMap fun k => if mapBit (bslice b 0x42000 0x800) k then some (k, true) else none }

/-- The save area of a context's vector state. -/
def VecSt.saveArea (v : VecSt) : Bytes :=
  ((List.range 65536).flatMap fun k => toLE 4 (mget 0 v.v k).toNat) ++
  bitsToBytes ((List.range 65536).map fun k => mget false v.p k) ++
  bitsToBytes ((List.range 16384).map fun k => mget false v.m k)

/-- The context runs on its place from now. -/
def State.runOn (s : State) (c t : Nat) (x : Ctx) : State :=
  let s := (s.setWalk c none).setCtx c { x with state := .running, tile := some t, since := s.clk.time, want := .none, waitw := none }
  (s.bump64 cCTX (ctxFloe c) CTX.RESUMES).bump64 cDSP (ctxFloe c) DSP.SWITCH

/-- A resume that fails: the context faults where it would have run. -/
def State.resumeFail (s : State) (c t code : Nat) (x : Ctx) : State := (s.runOn c t x).ctxFault c code 0

/-- Loads the save area into the tile (R453). -/
def State.loadArea (s : State) (c t : Nat) (x : Ctx) : State :=
  let (r, s) := s.hbmRead (rqTile (ctxFloe c)) x.save (saveBytes + 64 * x.tsLen)
  if !r.ok then s.resumeFail c t 0x14 x
  else if ((r.pois.drop 0x40000).take 0x2800).any id then s.resumeFail c t 0x11 x
  else
    let s := s.setVec t (vecOfSave r.data r.pois)
    (s.tsWriteP t (64 * x.tsOff) (r.data.drop saveBytes) (r.pois.drop saveBytes)).runOn c t x

/-- A resume (R453): the record is read, then the save area unless FRESH; a walk has no save area. -/
def State.resume (s : State) (c t : Nat) : State :=
  let (r, s) := s.hbmRead (rqTile (ctxFloe c)) (s.recAddr c) 256
  let x := ctxOfBytes r.data
  if !r.ok then s.resumeFail c t 0x14 (s.ctx c)
  else if r.anyPois then s.resumeFail c t 0x11 (s.ctx c)
  else if !x.usable then s.resumeFail c t 0x14 (s.ctx c)
  else if x.kind = 1 then s.runOn c t x
  else if x.flags % 2 = 1 then (s.setVec t {}).runOn c t x
  else s.loadArea c t x

/-- The HBM a resume reads. -/
def State.resumeReads (s : State) (c : Nat) : List (Nat × Nat × Bool) :=
  let x := s.ctx c
  (s.recAddr c, 256, false) ::
    (if x.kind = 1 ∨ x.flags % 2 = 1 then [] else [(x.save, saveBytes + 64 * x.tsLen, false)])

/-- The READY context that starts next and its place. -/
def State.nextPlaced (s : State) (fl : Nat) : Option (Nat × Nat) :=
  (s.readyOrder fl).findSome? fun e => (s.placeFor fl e.2).map fun t => (e.1, t)

/-- One context is given a place, unless HOLD, EN or the dispatcher's domain says otherwise (R451). -/
def State.dispatch (s : State) (fl : Nat) : State :=
  if decide (fl < 2) && s.on (92 + fl) && s.rdb cDSP fl hCTRL 0 && !s.rdb cDSP fl hCTRL 2 then
    match s.nextPlaced fl with
    | some (c, t) => if t < 128 ∧ s.tsFrozen t then s else s.gated (s.resumeReads c) (·.resume c t)
    | none => s
  else s

/-- CONTEXT_DISPATCH (R451): what the dispatcher has in progress goes on, and one context is given a place. -/
def execContextDispatch (fl : Nat) (s : State) : Res := .next <| ((s.ctxGo fl).dispatch fl)

/-- The quantum of a context is over: it saves at its next boundary; one that waits in a WAITW saves now (R448). -/
def State.quantumOver (s : State) (c : Nat) : State :=
  let x := s.ctx c
  if x.want = .none then s.wantCtx c .quantum else if s.holds c then s else s.setCtx c { x with state := .saving }

/-- QUANTUM_EXPIRE (R451): a running context has run for QUANTUM while a READY one of equal or higher priority waits for
what it holds. -/
def execQuantumExpire (c : Nat) (s : State) : Res :=
  .next <|
    let x := s.ctx c
    let fl := ctxFloe c
    if x.state == .running && (x.want == .none || x.waitw.isSome) && s.on (92 + fl) && s.rdb cDSP fl hCTRL 0 &&
        decide (x.since + s.rdf cDSP fl DSP.QUANTUM 0 24 ≤ s.clk.time) &&
        (s.readyOrder fl).any (fun e => decide (e.2.prio ≤ x.prio) && e.2.kind == x.kind) then
      s.quantumOver c
    else s

/-! ### Saving (R452) -/

/-- What follows a completed save: FRESH cleared, the place given up, the new STATE, the record written back. -/
def State.saved (s : State) (c : Nat) : State :=
  let fl := ctxFloe c
  let x := s.ctx c
  let x' := { x with flags := x.flags / 2 * 2 }
  let s1 := ((s.setCtx c x').bump64 cCTX fl CTX.SAVES).bump64 cDSP fl DSP.SWITCH
  let s1 := if x.want = .quantum then s1.bump cDSP fl DSP.PREEMPT_CNT else s1
  if x.want = .kill then s1.ctxDone c 0xFFFF
  else
    let st : CtxState := if x.want = .park then .parked else .ready
    let s2 := (s1.leaveTile c).setCtx c { x' with state := st, tile := none, want := .none, waitw := none }
    s.quietIrq (s2.writeRec c) fl

/-- Writes the save area (R452 event 4): poison of the tile-store range travels with its words. -/
def State.writeArea (s : State) (c t : Nat) : Bool × State :=
  let x := s.ctx c
  let b := (s.vecOf t).saveArea
  let (r, s) := s.tsRead t (64 * x.tsOff) (64 * x.tsLen)
  s.hbmWriteP (rqTile (ctxFloe c)) x.save (b ++ r.data) (List.replicate b.length false ++ r.pois)

/-- The save of a context in SAVING. -/
def State.saveCtx (s : State) (c : Nat) : State :=
  let x := s.ctx c
  match x.tile with
  | some t =>
    if x.kind = 1 then s.saved c
    else
      let (ok, s) := s.writeArea c t
      if ok then s.saved c else s.ctxFault c 0x14 0
  | none => s.saved c

/-- CONTEXT_SAVE (R452): writes, once they can be made, of the save area and the record. -/
def execContextSave (c : Nat) (s : State) : Res :=
  .next <|
    let x := s.ctx c
    if x.state == .saving && s.on (92 + ctxFloe c) && !(x.tile.any fun t => decide (t < 128) && s.tsFrozen t) then
      s.gated ((s.recAddr c, 256, true) :: (if x.kind = 1 then [] else [(x.save, saveBytes + 64 * x.tsLen, true)])) (·.saveCtx c)
    else s

end Sys2Proof.Machine
end

