-- ==== Sys2Proof/Machine/Drain.lean ====
section
/-! DEFINITION. What has drained: FREEZE.DRAINED of every page that has it, and the idleness that a switch-off of a domain
waits for (R25, R274, R432, R458, R467). -/
namespace Sys2Proof.Machine

/-- A link: 0–7 the torus ports, 8 and 9 the mirror's sub-links, 10 Oplis. -/
def State.link (s : State) (p : Nat) : LinkSt := mget {} s.links p

/-- Replaces a link. -/
def State.setLink (s : State) (p : Nat) (l : LinkSt) : State := { s with links := mset {} s.links p l }

/-- Class, instance and offset of a link's LINK_CTRL; LINK_STAT follows it. -/
def linkReg (p : Nat) : Nat × Nat × Nat :=
  if p < 8 then (cPORT, p, PORT.LINK_CTRL)
  else if p = 8 then (cMIR, 0, MIR.SUB0_CTRL)
  else if p = 9 then (cMIR, 0, MIR.SUB1_CTRL)
  else (cOPL, 0, OPL.LINK_CTRL)

/-- No granted flit of a link waits and every flit sent is acknowledged (R274). -/
def LinkSt.drained (l : LinkSt) : Bool := l.retry.isEmpty && l.egress.all fun e => e.sent == 0

/-- The unit of a page has no work in progress (R137, R176, R200, R228, R308, R341, R432); at a stack no access is
in flight that its arbiters have granted: a write that R354 holds has been, one that waits for a grant has not (R458). -/
def State.unitIdle (s : State) (cls inst : Nat) : Bool :=
  match cls with
  | 0x45 => (mget {} s.opt inst).cur.isNone
  | 0x43 => (mget {} s.prn inst).cur.isNone
  | 0x41 => s.walks.all fun e => e.1 / 32768 != inst || e.2.all fun w => w.fin.isSome
  | 0x40 => (mget {} s.xch inst).cmds.isEmpty
  | 0x30 => (s.link inst).drained
  | 0x31 => (s.link 8).drained && (s.link 9).drained
  | 0x32 => s.opl.txns.all fun e => e.2.all (·.dead)
  | 0x33 => (mget {} s.red inst).ops.isEmpty
  | 0x20 => !s.rdb cHBM inst hSTAT 4 && !(s.opl.waits.any fun w => w.isWrite && stackOf w.addr == inst && s.firnHeld (w.addr / 65536))
  | 0x46 => s.firn.sent.all fun e => e.2.isNone || e.1 % 2 != inst
  | _ => true

/-- FREEZE.DRAINED of a page: frozen, and nothing in progress. -/
def State.drained (s : State) (cls inst : Nat) : Bool := s.rdb cls inst hFREEZE 0 && s.unitIdle cls inst

/-- A tile pair has drained: its arbiters are frozen, its pipelines empty, no context on its tiles, no test running. -/
def State.pairDrained (s : State) (p : Nat) : Bool :=
  [2 * p, 2 * p + 1].all fun t =>
    let x := s.tile t
    s.drained cTILE t && x.pipe.isEmpty && x.loading.isNone && !x.kat && !s.occupied t

/-- Event 3 of R467 is past for a domain: its arbiter groups are frozen and drained, its pipelines empty. -/
def State.pdDrained (s : State) (d : Nat) : Bool :=
  if d < 64 then s.pairDrained d
  else if d < 72 then s.drained cHBM (d - 64) && !s.rdb cHBM (d - 64) hSTAT 4
  else if d < 80 then s.drained cPORT (d - 72) && (s.link (d - 72)).inq.all fun k => !k.done
  else if d = 80 then s.drained cMIR 0
  else if d = 81 then s.drained cOPL 0
  else if d < 84 then s.unitIdle cXCH (d - 82) && s.unitIdle cSMP (d - 82) && decide (s.walksOn (d - 82) = 0)
  else if d < 86 then s.unitIdle cOPT (d - 84)
  else if d < 88 then s.unitIdle cFIRN (d - 86) && s.firn.slotA.isNone && s.firn.slotK.isNone
  else if d < 90 then (List.range 4).all fun b => bridgeDomain b != d || !s.bridgeWaits b
  else if d < 92 then [2 * (d - 90), 2 * (d - 90) + 1].all fun n => (mget none s.hbm.scans n).isNone && !s.rdb cCVU n hSTAT 2
  else if d < 94 then !s.anyRunning (d - 92) && (s.ctxBusyOf (d - 92)).isNone && !mget false s.scanDue (d - 92)
  else s.unitIdle cPRN (d - 94)

end Sys2Proof.Machine
end

