-- ==== Sys2Proof/Machine/VecArith.lean ====
section
/-! DEFINITION. What the vector engine computes for one element: integer operations (R93, R94), logic, float operations and
special functions (R95–R97), conversions (R115), compares (R83), random shapes (R108), and the memory formats of loads and
stores (R90). Every operation takes TYPE, the rounding and the operands A, B, C; it ignores what it does not read. -/
namespace Sys2Proof.Machine

/-- An element operation. -/
abbrev ElOp : Type := Nat → Rnd → W32 → W32 → W32 → El

/-! ### Integers (R93, R94) -/

def elAdd : ElOp := fun ty _ a b _ => satEl ty (tyInt ty a + tyInt ty b)
def elSub : ElOp := fun ty _ a b _ => satEl ty (tyInt ty a - tyInt ty b)
def elMul : ElOp := fun ty _ a b _ => satEl ty (tyInt ty a * tyInt ty b)
/-- The upper half of the double-width product. -/
def elMulh : ElOp := fun ty _ a b _ => (slotBits ty (ofInt (tyWidth ty) (tyInt ty a * tyInt ty b / 2 ^ tyWidth ty)), 0)
def elMin : ElOp := fun ty _ a b _ => (slotInt (min (tyInt ty a) (tyInt ty b)), 0)
def elMax : ElOp := fun ty _ a b _ => (slotInt (max (tyInt ty a) (tyInt ty b)), 0)
def elAbs : ElOp := fun ty _ a _ _ => satEl ty (tyInt ty a).natAbs
def elNeg : ElOp := fun ty _ a _ _ => satEl ty (-tyInt ty a)

def elSll : ElOp := fun ty _ a b _ =>
  (if b.toNat < tyWidth ty then slotBits ty (tyBits ty a * 2 ^ b.toNat) else 0, 0)
def elSrl : ElOp := fun ty _ a b _ =>
  (if b.toNat < tyWidth ty then slotBits ty (tyBits ty a / 2 ^ b.toNat) else 0, 0)
def elSra : ElOp := fun ty _ a b _ =>
  (if b.toNat < tyWidth ty then slotInt (tyInt ty a / 2 ^ b.toNat) else if tyInt ty a < 0 then slotInt (-1) else 0, 0)
def elSrar : ElOp := fun ty _ a b _ =>
  (if b.toNat = 0 then slotInt (tyInt ty a)
   else if b.toNat < tyWidth ty then slotInt ((tyInt ty a + 2 ^ (b.toNat - 1)) / 2 ^ b.toNat) else 0, 0)
def elSlls : ElOp := fun ty _ a b _ => satEl ty (tyInt ty a * 2 ^ min b.toNat (tyWidth ty))
def elRotl : ElOp := fun ty _ a b _ =>
  let w := tyWidth ty
  let c := b.toNat % w
  (slotBits ty (tyBits ty a * 2 ^ c + tyBits ty a / 2 ^ (w - c)), 0)

/-! ### Logic (R83) -/

/-- The slot of a type from its bits. -/
def slotOf (ty n : Nat) : W32 := if tyFloat ty then u32 (n % 2 ^ tyWidth ty) else slotBits ty n

def elAnd : ElOp := fun ty _ a b _ => (slotOf ty (a &&& b).toNat, 0)
def elOr : ElOp := fun ty _ a b _ => (slotOf ty (a ||| b).toNat, 0)
def elXor : ElOp := fun ty _ a b _ => (slotOf ty (a ^^^ b).toNat, 0)
def elAndn : ElOp := fun ty _ a b _ => (slotOf ty (a &&& ~~~b).toNat, 0)
def elNot : ElOp := fun ty _ a _ _ => (slotOf ty (~~~a).toNat, 0)
def elMov : ElOp := fun ty _ a _ _ => (slotOf ty a.toNat, 0)

/-! ### Floats (R95, R96) -/

def elFadd : ElOp := fun ty r a b _ => floatEl ty r [a, b] ((tyVal ty a).add (tyVal ty b))
def elFsub : ElOp := fun ty r a b _ => floatEl ty r [a, b] ((tyVal ty a).add (tyVal ty b).negate)
def elFmul : ElOp := fun ty r a b _ => floatEl ty r [a, b] ((tyVal ty a).mul (tyVal ty b))
def elFma : ElOp := fun ty r a b c =>
  floatEl ty r [a, b, c] (((tyVal ty a).mul (tyVal ty b)).bind fun p => p.add (tyVal ty c))
/-- a is less than b, with −0 less than +0; neither is a NaN. -/
def fltLess (ty : Nat) (a b : W32) : Bool :=
  (tyVal ty a).lt (tyVal ty b) ||
    ((tyVal ty a).eqv (tyVal ty b) && (tyFmt ty).neg (tyBits ty a) && !(tyFmt ty).neg (tyBits ty b))
def elFmin : ElOp := fun ty _ a b _ =>
  match nanEl ty [a, b] with | some e => e | none => (slotOf ty (if fltLess ty b a then b else a).toNat, 0)
def elFmax : ElOp := fun ty _ a b _ =>
  match nanEl ty [a, b] with | some e => e | none => (slotOf ty (if fltLess ty a b then b else a).toNat, 0)
def elFabs : ElOp := fun ty _ a _ _ => (u32 (tyBits ty a % 2 ^ (tyWidth ty - 1)), 0)
def elFneg : ElOp := fun ty _ a _ _ => (u32 (tyBits ty a ^^^ 2 ^ (tyWidth ty - 1)), 0)

/-- A special function of A (R97): 0 EXP2, 1 LOG2, 2 RCP, 3 RSQRT. -/
def elSfu (k : Nat) : ElOp := fun _ _ a _ _ => sfu k a

/-! ### Conversions (R90, R115) -/

/-- A NaN of one format in another: the quiet NaN with the sign kept; FP32 keeps the payload too. -/
def nanTo (src dst : Fmt) (b : Nat) : Nat :=
  dst.signBit (src.neg b) +
    (if dst = fmtFP32 then fmtFP32.quiet (fmtFP32.infBits + src.mant b * 2 ^ (23 - src.mb)) else dst.nanBits)

/-- A float in another format, with OVF where a finite value overflows, and where an infinity meets a format that has
none. -/
def floatTo (src dst : Fmt) (r : Rnd) (b : Nat) : Nat × VF :=
  match src.dec b with
  | .nan => (nanTo src dst b, 0)
  | v => let e := dst.enc r v; (e.1, flagIf e.2 vfOvf)

/-- An integer clamped to a range, with SAT when it clamps. -/
def clampFl (lo hi i : Int) : Int × VF := (clampI lo hi i, flagIf (clampI lo hi i != i) vfSat)

/-- CVT of A from TYPE `st` (R83, R96, R115). -/
def elCvt (st : Nat) : ElOp := fun ty r a _ _ =>
  if tyFloat st then
    if tyFloat ty then let e := floatTo (tyFmt st) (tyFmt ty) r (tyBits st a); (u32 e.1, e.2)
    else
      match tyVal st a with
      | .nan => (0, vfInvalid)
      | .inf n => (slotInt (if n then tyLo ty else tyHi ty), vfSat)
      | .fin n m e => satEl ty (roundInt r (if n then -(m : Int) else m) e)
  else
    let i := tyInt st a
    if tyFloat ty then
      let e := (tyFmt ty).enc r (.fin (decide (i < 0)) i.natAbs 0)
      (u32 e.1, flagIf e.2 vfOvf)
    else satEl ty i

/-- The float format of an MFMT; its bits in memory; its integer range; the types it pairs with (R90). -/
def mfFmt (mf : Nat) : Option Fmt :=
  match mf with
  | 0 => some fmtFP32 | 1 => some fmtBF16 | 2 => some fmtFP16 | 3 => some fmtE4M3 | 4 => some fmtE5M2 | _ => none
def mfBits (mf : Nat) : Nat := match mf with | 0 | 5 => 32 | 1 | 2 | 7 => 16 | 8 => 4 | _ => 8
def mfLo (mf : Nat) : Int := match mf with | 5 => -2147483648 | 6 => -128 | 7 => -32768 | 8 => -8 | _ => 0
def mfHi (mf : Nat) : Int := match mf with | 5 => 2147483647 | 6 => 127 | 7 => 32767 | 8 => 7 | _ => 255
def mfTypes (mf : Nat) : List Nat :=
  match mf with
  | 0 | 2 => [8] | 1 | 3 | 4 => [9, 8] | 5 => [0] | 6 | 8 => [2, 1, 0] | 7 => [1, 0] | 9 => [1, 0, 3] | _ => []

/-- A loaded element: the MFMT value widened into TYPE. Every pair of the table is exact. -/
def loadEl (ty mf b : Nat) : W32 :=
  match mfFmt mf with
  | some f => u32 (if f = tyFmt ty then b else (floatTo f (tyFmt ty) .rne b).1)
  | none => slotInt (if mf = 9 then (b : Int) else sext (mfBits mf) b)

/-- A stored element: TYPE narrowed to MFMT, as bits, with its flags. -/
def storeEl (ty mf : Nat) (r : Rnd) (w : W32) : Nat × VF :=
  match mfFmt mf with
  | some f => if f = tyFmt ty then (tyBits ty w, 0) else floatTo (tyFmt ty) f r (tyBits ty w)
  | none => let c := clampFl (mfLo mf) (mfHi mf) (tyInt ty w); (ofInt (mfBits mf) c.1, c.2)

/-! ### Compares (R83) -/

/-- A compare gives a bit and flags. -/
abbrev CmpOp : Type := Nat → W32 → W32 → Bool × VF

/-- Some operand of a float compare is a NaN; is a signalling one. -/
def cmpNaN (ty : Nat) (a b : W32) : Bool := tyFloat ty && ((tyFmt ty).isNaN (tyBits ty a) || (tyFmt ty).isNaN (tyBits ty b))
def cmpSNaN (ty : Nat) (a b : W32) : Bool := tyFloat ty && ((tyFmt ty).isSNaN (tyBits ty a) || (tyFmt ty).isSNaN (tyBits ty b))

def cmpEq : CmpOp := fun ty a b =>
  (if tyFloat ty then (tyVal ty a).eqv (tyVal ty b) else tyInt ty a == tyInt ty b, flagIf (cmpSNaN ty a b) vfInvalid)
def cmpLt : CmpOp := fun ty a b =>
  (if tyFloat ty then (tyVal ty a).lt (tyVal ty b) else decide (tyInt ty a < tyInt ty b), flagIf (cmpNaN ty a b) vfInvalid)
def cmpLe : CmpOp := fun ty a b =>
  (if tyFloat ty then (tyVal ty a).lt (tyVal ty b) || (tyVal ty a).eqv (tyVal ty b) else decide (tyInt ty a ≤ tyInt ty b),
   flagIf (cmpNaN ty a b) vfInvalid)
def cmpUn : CmpOp := fun ty a b => (cmpNaN ty a b, flagIf (cmpSNaN ty a b) vfInvalid)

/-! ### Random shapes (R108) -/

/-- The FP32 values nearest to ln 2 and ln(ln 2), and −2 ln 2. -/
abbrev rndL1 : W32 := 0x3F317218
abbrev rndL2 : W32 := 0xBEBBA795
abbrev rndM2L1 : W32 := 0xBFB17218

/-- u = (2 (w0 >> 9) + 1) · 2^−24. -/
def rndU (w0 : W32) : W32 := toF32 (.fin false (2 * (w0.toNat / 512) + 1) (-24))

/-- RANDF: (w0 >> 8) · 2^−24. -/
def rndF (w0 : W32) : W32 := toF32 (.fin false (w0.toNat / 256) (-24))

/-- Runs an FP32 step whose flags are collected. -/
def El.then (e : El) (g : W32 → El) : El := ((g e.1).1, e.2 ||| (g e.1).2)

/-- FMA, multiplication and subtraction on the FP32 path, to nearest. -/
def fmaE (a b c : W32) : El := elFma 8 .rne a b c
def mulE (a b : W32) : El := elFmul 8 .rne a b 0
def subE (a b : W32) : El := elFsub 8 .rne a b 0

/-- RANDG: the Gumbel shape. -/
def rndG (w0 : W32) : El :=
  El.then (sfu 1 (rndU w0)) fun a => El.then (sfu 1 (fneg32 a)) fun b => fmaE b (fneg32 rndL1) (fneg32 rndL2)

/-- A polynomial in Horner order by FMA, highest coefficient first. -/
def horner (t : W32) : List W32 → El → El
  | [], e => e
  | k :: r, e => horner t r (e.then fun x => fmaE x t k)

/-- x of the Gaussian shape, before its sign, σ and μ. -/
def rndNx (u : W32) : El :=
  El.then (subE 0x3F800000 u) fun q =>
  El.then (elFmin 8 .rne u q 0) fun p =>
  El.then (sfu 1 p) fun l =>
  El.then (mulE rndM2L1 l) fun y =>
  El.then (sfu 3 y) fun r =>
  El.then (mulE y r) fun t =>
    let num := horner t [0x3F4D87C6, 0x4020FE3B] (0x3C2936C6, 0)
    let den := horner t [0x3E41CFBC, 0x3FB76599, 0x3F800000] (0x3AAB7132, 0)
    let frac := den.then fun d => El.then (sfu 2 d) fun rc => num.then fun n => mulE n rc
    frac.then fun z => subE t z

/-- RANDN: the Gaussian shape with σ and μ. -/
def rndN (w0 sigma mu : W32) : El :=
  let u := rndU w0
  (rndNx u).then fun x => fmaE (if w0.toNat / 512 < 4194304 then fneg32 x else x) sigma mu

end Sys2Proof.Machine
end

