-- ==== Sys2Proof/Machine/Reduce.lean ====
section
/-! DEFINITION. Horizontal reductions: the fixed pairwise tree over the logical index and its operations (R99–R102). -/
namespace Sys2Proof.Machine

/-- One level of the tree: neighbours meet; an absent partner passes the present one through (R99). -/
def pairUp {α : Type} (op : α → α → α) : List (Option α) → List (Option α)
  | a :: b :: r =>
    (match a, b with
     | some x, some y => some (op x y)
     | none, b => b
     | a, none => a) :: pairUp op r
  | l => l

/-- `n` levels of the tree. -/
def treeLevels {α : Type} (op : α → α → α) : Nat → List (Option α) → List (Option α)
  | 0, l => l
  | n + 1, l => treeLevels op n (pairUp op l)

/-- The tree over `vlen` elements, absent where they are inactive. -/
def treeRed {α : Type} (op : α → α → α) (vlen : Nat) (g : Nat → Option α) : Option α :=
  ((treeLevels op (clog2 vlen) ((List.range vlen).map g)).head?).join

/-- A reduction's result: the values of elements 0 and, for RARGMAX and RARGMIN, 1; flags; clamps. -/
structure RedRes where
  e0    : W32
  e1    : Option W32 := none
  flags : VF := 0
  sats  : Nat := 0

/-- The empty result (R102). -/
def redEmpty (e0 : W32) (e1 : Option W32 := none) : RedRes := { e0 := e0, e1 := e1, flags := vfEmpty }

/-- A reduction as a function of TYPE, VLEN, the active elements and their number. -/
abbrev RedOp : Type := Nat → Nat → (Nat → Option W32) → Nat → RedRes

/-- A float tree whose nodes carry their flags. -/
def floatTree (op : W32 → W32 → El) (vlen : Nat) (g : Nat → Option W32) : Option El :=
  treeRed (fun (x y : El) => (fun (e : El) => (e.1, x.2 ||| y.2 ||| e.2)) (op x.1 y.1)) vlen fun i => (g i).map fun w => (w, 0)

/-- An element widened to FP32 (R100). -/
def widen32 (ty : Nat) (w : W32) : W32 := if ty = 9 then u32 (tyBits ty w * 65536) else w

/-- The FP32 tree sum (R100). -/
def sumTree (ty vlen : Nat) (g : Nat → Option W32) : Option El :=
  floatTree (fun a b => elFadd 8 .rne a b 0) vlen fun i => (g i).map (widen32 ty)

def redSum : RedOp := fun ty vlen g _ =>
  if tyFloat ty then
    match sumTree ty vlen g with | some (w, f) => { e0 := w, flags := f } | none => redEmpty 0
  else
    match treeRed (· + ·) vlen fun i => (g i).map (tyInt ty) with
    | some i => let e := satEl ty i; { e0 := e.1, flags := e.2, sats := b2n (e.2.getLsbD 0) }
    | none => redEmpty 0

/-- A node of an integer RPROD: the exact product, clamped, and the nodes that clamped. -/
def prodNode (ty : Nat) (a b : Int × Nat) : Int × Nat :=
  let p := a.1 * b.1
  let c := clampI (tyLo ty) (tyHi ty) p
  (c, a.2 + b.2 + b2n (c != p))

def redProd : RedOp := fun ty vlen g _ =>
  if tyFloat ty then
    match floatTree (fun a b => elFmul 8 .rne a b 0) vlen fun i => (g i).map (widen32 ty) with
    | some (w, f) => { e0 := w, flags := f }
    | none => redEmpty 0x3F800000
  else
    match treeRed (prodNode ty) vlen fun i => (g i).map fun w => (tyInt ty w, 0) with
    | some (i, n) => { e0 := slotInt i, flags := flagIf (n != 0) vfSat, sats := n }
    | none => redEmpty 1

/-- The extreme that an empty RMAX (`mx`) or RMIN gives. -/
def redExt (mx : Bool) (ty : Nat) : W32 :=
  if tyFloat ty then u32 ((tyFmt ty).signBit mx + (tyFmt ty).infBits) else slotInt (if mx then tyLo ty else tyHi ty)

/-- RMAX and RMIN (R100). -/
def redMinMax (mx : Bool) : RedOp := fun ty vlen g _ =>
  let node (a b : W32) : El :=
    if tyFloat ty then (if mx then elFmax ty .rne a b 0 else elFmin ty .rne a b 0)
    else (if mx then elMax ty .rne a b 0 else elMin ty .rne a b 0)
  match floatTree node vlen fun i => (g i).map fun w => slotOf ty w.toNat with
  | some (w, f) => { e0 := w, flags := f }
  | none => redEmpty (redExt mx ty)

/-- RMEAN: the tree sum over the active count, rounded once (R100, R102). -/
def redMean : RedOp := fun ty vlen g n =>
  match sumTree ty vlen g with
  | some (w, f) => let e := floatEl 8 .rne [w] (((f32 w).div (.fin false n 0)).map (·.1)); { e0 := e.1, flags := f ||| e.2 }
  | none => redEmpty 0x7FC00E00

/-- The right element takes the place of the left one in RARGMAX (`mx`) or RARGMIN: a NaN beats every number, ties keep
the lower index, +0 is greater than −0 (R100, R101). -/
def argBeats (mx : Bool) (ty : Nat) (a b : W32) : Bool :=
  if tyFloat ty then
    if (tyFmt ty).isNaN (tyBits ty a) then false
    else if (tyFmt ty).isNaN (tyBits ty b) then true
    else if mx then fltLess ty a b else fltLess ty b a
  else if mx then decide (tyInt ty a < tyInt ty b) else decide (tyInt ty b < tyInt ty a)

/-- A node of RARGMAX or RARGMIN: index, value and flags. A NaN is made quiet, and a signalling one raises INVALID, as RMAX
and RMIN do (R95, R96, R100). -/
def argNode (mx : Bool) (ty : Nat) (a b : Nat × W32 × VF) : Nat × W32 × VF :=
  let w := if argBeats mx ty a.2.1 b.2.1 then b else a
  let e := if tyFloat ty then (nanEl ty [a.2.1, b.2.1]).getD (w.2.1, 0) else (w.2.1, 0)
  (w.1, e.1, a.2.2 ||| b.2.2 ||| e.2)

/-- RARGMAX and RARGMIN (R99–R102). -/
def redArg (mx : Bool) : RedOp := fun ty vlen g _ =>
  match treeRed (argNode mx ty) vlen fun i => (g i).map fun w => (i, slotOf ty w.toNat, 0) with
  | some (i, w, f) => { e0 := u32 i, e1 := some w, flags := f }
  | none => redEmpty 0xFFFFFFFF (some (redExt mx ty))

/-- A reduction of the active elements of VS1 into VD (R99). -/
def vreduce (o : OpSpec) (op : RedOp) (t : Nat) (f : VecFields) (s : State) (c : Nat) (x : Ctx) : Ex :=
  checked ((o.check f).orElse fun _ => o.checkRm f 32) <|
    let v := s.vecOf t
    let act := f.actives v x.vlen
    let g (i : Nat) : Option W32 := if f.active v x.vlen i then some (v.elem f.vs1.toNat i) else none
    let r := op f.type.toNat x.vlen g act.length
    let p := act.any fun i => v.pois f.vs1.toNat i
    let l := (0, r.e0, p) :: (match r.e1 with | some w => [(1, w, p)] | none => [])
    let d : VDone := { s := s.setVec t (v.putAll f.vd.toNat l), flags := r.flags, sats := r.sats, pois := p }
    d.retire t c x.vlen f

end Sys2Proof.Machine
end

