-- ==== Sys2Proof/Machine/VecMem.lean ====
section
/-! DEFINITION. Vector loads and stores (R89–R92): addresses, their checks, words of the tile store. -/
namespace Sys2Proof.Machine

/-- How the elements of a memory operation are addressed. -/
inductive MemKind where
  | unit | stride | index
deriving DecidableEq, Repr

/-- Nibbles of an element of MFMT: addresses are counted in nibbles, since INT4 elements are one nibble (R89). -/
def mfNibs (mf : Nat) : Nat := mfBits mf / 4

/-- The nibble address of element i, computed exactly (R89). -/
def memAddr (k : MemKind) (f : VecFields) (x : Ctx) (v : VecSt) (mf i : Nat) : Int :=
  let base : Int := 2 * ((x.sreg (sNum f.vs1)).toNat + f.imm.toNat : Nat)
  let u : Int := if mf = 8 then 1 else 2
  match k with
  | .unit => base + i * mfNibs mf
  | .stride => base + i * u * (x.sreg (sNum f.vs2)).toInt
  | .index => base + u * (v.elem f.vs2.toNat i).toInt

/-- The fault of one active element, if any: a poisoned offset, an address outside the store, a misaligned one (R89). An address
that is both outside and misaligned gives 0x04; R89 puts no order between them (DESIGN CHOICE, log 89). -/
def memElemFault (k : MemKind) (f : VecFields) (x : Ctx) (v : VecSt) (mf i : Nat) : Option Nat :=
  let a := memAddr k f x v mf i
  if k = .index ∧ v.pois f.vs2.toNat i then some 0x08
  else if a < 0 ∨ (2 * tsSize : Int) ≤ a then some 0x04
  else if a % mfNibs mf ≠ 0 then some 0x03
  else none

/-- The fault of the whole operation before any element is written: the base, then the lowest active element at fault
(R89). -/
def memFault (k : MemKind) (f : VecFields) (x : Ctx) (v : VecSt) (mf : Nat) (act : List Nat) : Option Nat :=
  if act.isEmpty then none
  else if 2 * ((x.sreg (sNum f.vs1)).toNat + f.imm.toNat) % mfNibs mf ≠ 0 then some 0x03
  else act.findSome? (memElemFault k f x v mf)

/-- The checks of a memory operation on its word (R82, R90). -/
def OpSpec.checkMem (o : OpSpec) (f : VecFields) : Option Nat :=
  (o.check f).orElse fun _ =>
    if !(mfTypes f.vs3.toNat).contains f.type.toNat then some 0x07 else o.checkRm f (mfBits f.vs3.toNat)

/-- Reads each word of the list once, in order: word number, value, poison. -/
def State.readWords (s : State) : List Nat → List (Nat × Nat × Bool) × State
  | [] => ([], s)
  | w :: r =>
    let (d, p, s) := s.tsLoadWord w
    let (l, s) := s.readWords r
    ((w, leNat d, p) :: l, s)

/-- A load (R89, R90, R92). -/
def vload (o : OpSpec) (k : MemKind) (t : Nat) (f : VecFields) (s : State) (c : Nat) (x : Ctx) : Ex :=
  let v := s.vecOf t
  let mf := f.vs3.toNat
  let act := f.actives v x.vlen
  checked ((o.checkMem f).orElse fun _ => memFault k f x v mf act) <|
    if s.tsFrozen t then .wait
    else
      let at' (i : Nat) : Nat := 2 * tsAddr t 0 + (memAddr k f x v mf i).toNat
      let (ws, s) := s.readWords ((act.map fun i => at' i / 16).eraseDups)
      let one (i : Nat) : Nat × W32 × Bool :=
        match ws.find? fun e => e.1 == at' i / 16 with
        | some (_, d, p) => (i, loadEl f.type.toNat mf (d / 16 ^ (at' i % 16) % 2 ^ mfBits mf), p)
        | none => (i, 0, false)
      let l := act.map one
      let d : VDone := { s := s.setVec t (v.putAll f.vd.toNat l), pois := l.any (·.2.2) }
      d.retire t c x.vlen f

/-- A word of a store's data: elements in logical order over the word's 16 nibbles, with the nibbles they cover (R91). -/
def storeWord (n : Nat) (l : List (Nat × Nat)) : W64 × W64 :=
  l.foldl (fun a e => (setFld a.1 (4 * e.1) (4 * n) e.2, setFld a.2 (4 * e.1) (4 * n) (2 ^ (4 * n) - 1))) (0, 0)

/-- Writes one word of a store: whole when its elements cover it, else merged with what it held (R71, R92). -/
def State.putStoreWord (s : State) (w n : Nat) (l : List (Nat × Nat)) (p : Bool) : State :=
  let (d, m) := storeWord n l
  if m = BitVec.allOnes 64 then s.tsPutWord w 0 (toLE 8 d.toNat) p
  else
    let (old, q, s) := s.tsWord w
    s.tsPutWord w 0 (toLE 8 ((u64 (leNat old) &&& ~~~m) ||| (d &&& m)).toNat) (p || q)

/-- A store (R89–R92). -/
def vstore (o : OpSpec) (k : MemKind) (t : Nat) (f : VecFields) (s : State) (c : Nat) (x : Ctx) : Ex :=
  let v := s.vecOf t
  let mf := f.vs3.toNat
  let act := f.actives v x.vlen
  checked ((o.checkMem f).orElse fun _ => memFault k f x v mf act) <|
    if s.tsFrozen t then .wait
    else
      let at' (i : Nat) : Nat := 2 * tsAddr t 0 + (memAddr k f x v mf i).toNat
      let l := act.map fun i =>
        (at' i, storeEl f.type.toNat mf (f.rnd s t x i) (v.elem f.vd.toNat i), v.pois f.vd.toNat i)
      let put (s : State) (w : Nat) : State :=
        let mine := l.filter fun e => e.1 / 16 == w
        s.putStoreWord w (mfNibs mf) (mine.map fun e => (e.1 % 16, e.2.1.1)) (mine.any (·.2.2))
      let d : VDone := { s := ((l.map fun e => e.1 / 16).eraseDups).foldl put s
                         flags := l.foldl (fun a e => a ||| e.2.1.2) 0
                         sats := (l.filter fun e => e.2.1.2.getLsbD 0).length
                         pois := l.any (·.2.2) }
      d.retire t c x.vlen f

end Sys2Proof.Machine
end

