-- ==== Sys2Proof/Machine/Vector.lean ====
section
/-! DEFINITION. The vector instructions (R83, R548), one definition an instruction over the shared forms: control, memory,
element-wise, reductions, compares, masks, random shapes; and the key and self-test of a vector page (R106, R111, R112). -/
namespace Sys2Proof.Machine

/-- An element-wise form: checks, then every active element (R82, R85, R92). -/
def elForm (o : OpSpec) (passes : Nat) (g : ElOp) (t : Nat) (f : VecFields) (s : State) (c : Nat) (x : Ctx) : Ex :=
  checked ((o.check f).orElse fun _ => o.checkRm f (tyWidth f.type.toNat)) <|
    elementwise t c x f s passes
      (fun v i => (o.vs1 == .v && v.pois f.vs1.toNat i) || (o.vs2 == .vOrS && f.poisB v i) || (o.vs3 == .v && v.pois f.vs3.toNat i))
      (fun v i => g f.type.toNat (f.rnd s t x i) (v.elem f.vs1.toNat i) (f.opB v x i) (v.elem f.vs3.toNat i))

/-- Two operands A and B, element or scalar. -/
def specAB (op : Nat) (types : List Nat) (rm : Bool := false) : OpSpec :=
  { op := op, vd := .v, vs1 := .v, vs2 := .vOrS, rm := rm, types := types }

/-- One operand A. -/
def specA (op : Nat) (types : List Nat) : OpSpec := { op := op, vd := .v, vs1 := .v, types := types }

/-- No vector operand: the control operations before VLD, which read neither MSK nor MU. -/
def specCtl (op : Nat) (vd vs1 vs2 vs3 : FieldUse) : OpSpec :=
  { op := op, vd := vd, vs1 := vs1, vs2 := vs2, vs3 := vs3, msk := false, types := tyNone }

/-- A control operation: its checks, then a new context (R83, R87). -/
def ctlForm (o : OpSpec) (g : VecFields → Ctx → Ctx) (t : Nat) (f : VecFields) (s : State) (c : Nat) (x : Ctx) : Ex :=
  checked ((o.check f).orElse fun _ => o.checkRm f 32) <| (VDone.mk (s.setCtx c (g f x)) 0 0 false 0).retire t c 0 f

/-- SETVL: VLEN ← min(s[VS1], 2,048); s[VD] ← VLEN. -/
def ctlSetvl (f : VecFields) (x : Ctx) : Ctx :=
  let n := min (x.sreg (sNum f.vs1)).toNat 2048
  { x with vlen := n }.setS (sNum f.vd) (u64 n)

/-- SETRS: the stream register from three scalars. -/
def ctlSetrs (f : VecFields) (x : Ctx) : Ctx :=
  x.setRs f.rs.toNat { stream := u32 (x.sreg (sNum f.vs1)).toNat, base := x.sreg (sNum f.vs2), draw := u32 (x.sreg (sNum f.vs3)).toNat }

/-- GETRS: s[VD] ← index base. -/
def ctlGetrs (f : VecFields) (x : Ctx) : Ctx := x.setS (sNum f.vd) (x.rs f.rs.toNat).base

/-- VGETF: s[VD] ← VFLAGS. -/
def ctlGetf (f : VecFields) (x : Ctx) : Ctx := x.setS (sNum f.vd) (x.vflags.setWidth 64)

/-- VCLRF: VFLAGS ← VFLAGS AND NOT IMM[5:0]. -/
def ctlClrf (f : VecFields) (x : Ctx) : Ctx := { x with vflags := x.vflags &&& ~~~(f.imm.setWidth 6) }

/-- SETVL (R83). -/
def execVSetvl (t : Nat) (f : VecFields) (s : State) : Res := .next <| s.instr t 0x01 f (ctlForm (specCtl 0x01 .s .s .none .none) ctlSetvl t f)
/-- SETRS (R83). -/
def execVSetrs (t : Nat) (f : VecFields) (s : State) : Res := .next <| s.instr t 0x02 f (ctlForm (specCtl 0x02 .none .s .s .s) ctlSetrs t f)
/-- GETRS (R83). -/
def execVGetrs (t : Nat) (f : VecFields) (s : State) : Res := .next <| s.instr t 0x03 f (ctlForm (specCtl 0x03 .s .none .none .none) ctlGetrs t f)
/-- VGETF (R83). -/
def execVGetf (t : Nat) (f : VecFields) (s : State) : Res := .next <| s.instr t 0x04 f (ctlForm (specCtl 0x04 .s .none .none .none) ctlGetf t f)
/-- VCLRF (R98). -/
def execVClrf (t : Nat) (f : VecFields) (s : State) : Res :=
  .next <| s.instr t 0x05 f (ctlForm { specCtl 0x05 .none .none .none .none with imm := 6 } ctlClrf t f)

/-- A drain of the context is in the array (R63, R88). -/
def State.drainsOf (s : State) (t c : Nat) : Bool :=
  (s.tile t).pipe.any fun i => match i with | .drain ds _ _ => ds.any (·.dest == .store (some c)) | .vec _ => false

/-- VFENCE (R88): holds until every earlier drain of the context has completed; its stores are already written. -/
def fenceForm (t : Nat) (f : VecFields) (s : State) (c : Nat) (x : Ctx) : Ex :=
  let o : OpSpec := { specCtl 0x06 .none .none .none .none with rs := false }
  checked ((o.check f).orElse fun _ => o.checkRm f 32) <|
    if s.drainsOf t c then .wait else ctlForm o (fun _ x => x) t f s c x

/-- VFENCE (R88). -/
def execVFence (t : Nat) (f : VecFields) (s : State) : Res := .next <| s.instr t 0x06 f (fenceForm t f)

/-- A memory operation's fields. -/
def specMem (op : Nat) (vs2 : FieldUse) (store : Bool) : OpSpec :=
  { op := op, vd := .v, vs1 := .s, vs2 := vs2, vs3 := .mfmt, rm := store, imm := 21, types := tyAll }


/-- VLD (R89). -/
def execVLd (t : Nat) (f : VecFields) (s : State) : Res := .next <| s.instr t 0x10 f (vload (specMem 0x10 .none false) .unit t f)

/-- VLDS (R89). -/
def execVLds (t : Nat) (f : VecFields) (s : State) : Res := .next <| s.instr t 0x11 f (vload (specMem 0x11 .s false) .stride t f)

/-- VLDX (R89). -/
def execVLdx (t : Nat) (f : VecFields) (s : State) : Res := .next <| s.instr t 0x12 f (vload (specMem 0x12 .v false) .index t f)

/-- VST (R90). -/
def execVSt (t : Nat) (f : VecFields) (s : State) : Res := .next <| s.instr t 0x14 f (vstore (specMem 0x14 .none true) .unit t f)

/-- VSTS (R90). -/
def execVSts (t : Nat) (f : VecFields) (s : State) : Res := .next <| s.instr t 0x15 f (vstore (specMem 0x15 .s true) .stride t f)

/-- VSTX (R91). -/
def execVStx (t : Nat) (f : VecFields) (s : State) : Res := .next <| s.instr t 0x16 f (vstore (specMem 0x16 .v true) .index t f)

/-- ADD (R83, R93). -/
def execVAdd (t : Nat) (f : VecFields) (s : State) : Res := .next <| s.instr t 0x20 f (elForm (specAB 0x20 tyInts) 0 elAdd t f)

/-- SUB (R83, R93). -/
def execVSub (t : Nat) (f : VecFields) (s : State) : Res := .next <| s.instr t 0x21 f (elForm (specAB 0x21 tyInts) 0 elSub t f)

/-- MUL (R83, R93). -/
def execVMul (t : Nat) (f : VecFields) (s : State) : Res := .next <| s.instr t 0x22 f (elForm (specAB 0x22 tyInts) 0 elMul t f)

/-- MULH (R83, R93). -/
def execVMulh (t : Nat) (f : VecFields) (s : State) : Res := .next <| s.instr t 0x23 f (elForm (specAB 0x23 tyInts) 0 elMulh t f)

/-- MIN (R83, R93). -/
def execVMin (t : Nat) (f : VecFields) (s : State) : Res := .next <| s.instr t 0x24 f (elForm (specAB 0x24 tyInts) 0 elMin t f)

/-- MAX (R83, R93). -/
def execVMax (t : Nat) (f : VecFields) (s : State) : Res := .next <| s.instr t 0x25 f (elForm (specAB 0x25 tyInts) 0 elMax t f)

/-- ABS (R93). -/
def execVAbs (t : Nat) (f : VecFields) (s : State) : Res := .next <| s.instr t 0x26 f (elForm (specA 0x26 tyInts) 0 elAbs t f)

/-- NEG (R93). -/
def execVNeg (t : Nat) (f : VecFields) (s : State) : Res := .next <| s.instr t 0x27 f (elForm (specA 0x27 tyInts) 0 elNeg t f)

/-- SLL (R94). -/
def execVSll (t : Nat) (f : VecFields) (s : State) : Res := .next <| s.instr t 0x28 f (elForm (specAB 0x28 tyInts) 0 elSll t f)

/-- SRL (R94). -/
def execVSrl (t : Nat) (f : VecFields) (s : State) : Res := .next <| s.instr t 0x29 f (elForm (specAB 0x29 tyInts) 0 elSrl t f)

/-- SRA (R94). -/
def execVSra (t : Nat) (f : VecFields) (s : State) : Res := .next <| s.instr t 0x2A f (elForm (specAB 0x2A tyInts) 0 elSra t f)

/-- SRAR (R94). -/
def execVSrar (t : Nat) (f : VecFields) (s : State) : Res := .next <| s.instr t 0x2B f (elForm (specAB 0x2B tyInts) 0 elSrar t f)

/-- SLLS (R94). -/
def execVSlls (t : Nat) (f : VecFields) (s : State) : Res := .next <| s.instr t 0x2C f (elForm (specAB 0x2C tyInts) 0 elSlls t f)

/-- ROTL (R94). -/
def execVRotl (t : Nat) (f : VecFields) (s : State) : Res := .next <| s.instr t 0x2D f (elForm (specAB 0x2D tyInts) 0 elRotl t f)

/-- AND (R83). -/
def execVAnd (t : Nat) (f : VecFields) (s : State) : Res := .next <| s.instr t 0x30 f (elForm (specAB 0x30 tyAll) 0 elAnd t f)

/-- OR (R83). -/
def execVOr (t : Nat) (f : VecFields) (s : State) : Res := .next <| s.instr t 0x31 f (elForm (specAB 0x31 tyAll) 0 elOr t f)

/-- XOR (R83). -/
def execVXor (t : Nat) (f : VecFields) (s : State) : Res := .next <| s.instr t 0x32 f (elForm (specAB 0x32 tyAll) 0 elXor t f)

/-- ANDN (R83). -/
def execVAndn (t : Nat) (f : VecFields) (s : State) : Res := .next <| s.instr t 0x33 f (elForm (specAB 0x33 tyAll) 0 elAndn t f)

/-- NOT (R83). -/
def execVNot (t : Nat) (f : VecFields) (s : State) : Res := .next <| s.instr t 0x34 f (elForm (specA 0x34 tyAll) 0 elNot t f)

/-- MOV (R83). -/
def execVMov (t : Nat) (f : VecFields) (s : State) : Res := .next <| s.instr t 0x35 f (elForm (specA 0x35 tyAll) 0 elMov t f)

/-- IDX: the logical index (R83). -/
def idxForm (t : Nat) (f : VecFields) (s : State) (c : Nat) (x : Ctx) : Ex :=
  let o : OpSpec := { op := 0x36, vd := .v, types := tyNone }
  checked ((o.check f).orElse fun _ => o.checkRm f 32) <| elementwise t c x f s 0 (fun _ _ => false) (fun _ i => (u32 i, 0))

/-- IDX (R83). -/
def execVIdx (t : Nat) (f : VecFields) (s : State) : Res := .next <| s.instr t 0x36 f (idxForm t f)

/-- FADD (R95). -/
def execVFadd (t : Nat) (f : VecFields) (s : State) : Res := .next <| s.instr t 0x40 f (elForm (specAB 0x40 tyFloats true) 0 elFadd t f)

/-- FSUB (R95). -/
def execVFsub (t : Nat) (f : VecFields) (s : State) : Res := .next <| s.instr t 0x41 f (elForm (specAB 0x41 tyFloats true) 0 elFsub t f)

/-- FMUL (R95). -/
def execVFmul (t : Nat) (f : VecFields) (s : State) : Res := .next <| s.instr t 0x42 f (elForm (specAB 0x42 tyFloats true) 0 elFmul t f)

/-- FMA (R95). -/
def execVFma (t : Nat) (f : VecFields) (s : State) : Res := .next <| s.instr t 0x43 f (elForm { specAB 0x43 tyFloats true with vs3 := .v } 0 elFma t f)

/-- FMIN (R95). -/
def execVFmin (t : Nat) (f : VecFields) (s : State) : Res := .next <| s.instr t 0x44 f (elForm (specAB 0x44 tyFloats) 0 elFmin t f)

/-- FMAX (R95). -/
def execVFmax (t : Nat) (f : VecFields) (s : State) : Res := .next <| s.instr t 0x45 f (elForm (specAB 0x45 tyFloats) 0 elFmax t f)

/-- FABS (R95). -/
def execVFabs (t : Nat) (f : VecFields) (s : State) : Res := .next <| s.instr t 0x46 f (elForm (specA 0x46 tyFloats) 0 elFabs t f)

/-- FNEG (R95). -/
def execVFneg (t : Nat) (f : VecFields) (s : State) : Res := .next <| s.instr t 0x47 f (elForm (specA 0x47 tyFloats) 0 elFneg t f)

/-- EXP2 (R97). -/
def execVExp2 (t : Nat) (f : VecFields) (s : State) : Res := .next <| s.instr t 0x60 f (elForm (specA 0x60 [8]) 1 (elSfu 0) t f)

/-- LOG2 (R97). -/
def execVLog2 (t : Nat) (f : VecFields) (s : State) : Res := .next <| s.instr t 0x61 f (elForm (specA 0x61 [8]) 1 (elSfu 1) t f)

/-- RCP (R97). -/
def execVRcp (t : Nat) (f : VecFields) (s : State) : Res := .next <| s.instr t 0x62 f (elForm (specA 0x62 [8]) 1 (elSfu 2) t f)

/-- RSQRT (R97). -/
def execVRsqrt (t : Nat) (f : VecFields) (s : State) : Res := .next <| s.instr t 0x63 f (elForm (specA 0x63 [8]) 1 (elSfu 3) t f)

/-- CVT (R83, R115): the source type is checked after RM; a reserved one faults with 0x07, the code that R82 leaves for VS3
(DESIGN CHOICE, log 89). -/
def cvtForm (t : Nat) (f : VecFields) (s : State) (c : Nat) (x : Ctx) : Ex :=
  let o : OpSpec := { op := 0x68, vd := .v, vs1 := .v, vs3 := .ty, rm := true, types := tyAll }
  let r := (o.check f).orElse fun _ => (o.checkRm f (tyWidth f.type.toNat)).orElse fun _ =>
    if tyAll.contains f.vs3.toNat then none else some 0x07
  match r with
  | some code => .vfault code
  | none => elForm o 0 (elCvt f.vs3.toNat) t f s c x

/-- CVT (R115). -/
def execVCvt (t : Nat) (f : VecFields) (s : State) : Res := .next <| s.instr t 0x68 f (cvtForm t f)

/-- RSUM (R100). -/
def execVRsum (t : Nat) (f : VecFields) (s : State) : Res := .next <| s.instr t 0x70 f (vreduce (specA 0x70 tyRed) redSum t f)

/-- RPROD (R100). -/
def execVRprod (t : Nat) (f : VecFields) (s : State) : Res := .next <| s.instr t 0x71 f (vreduce (specA 0x71 tyRed) redProd t f)

/-- RMAX (R100). -/
def execVRmax (t : Nat) (f : VecFields) (s : State) : Res := .next <| s.instr t 0x72 f (vreduce (specA 0x72 tyRed) (redMinMax true) t f)

/-- RMIN (R100). -/
def execVRmin (t : Nat) (f : VecFields) (s : State) : Res := .next <| s.instr t 0x73 f (vreduce (specA 0x73 tyRed) (redMinMax false) t f)

/-- RMEAN (R100). -/
def execVRmean (t : Nat) (f : VecFields) (s : State) : Res := .next <| s.instr t 0x74 f (vreduce (specA 0x74 tyFloats) redMean t f)

/-- RARGMAX (R101). -/
def execVRargmax (t : Nat) (f : VecFields) (s : State) : Res := .next <| s.instr t 0x75 f (vreduce (specA 0x75 tyRed) (redArg true) t f)

/-- RARGMIN (R101). -/
def execVRargmin (t : Nat) (f : VecFields) (s : State) : Res := .next <| s.instr t 0x76 f (vreduce (specA 0x76 tyRed) (redArg false) t f)

/-- Writes mask bits of the active elements (R85). -/
def maskForm (r : Option Nat) (t : Nat) (f : VecFields) (s : State) (c : Nat) (x : Ctx) (p : VecSt → Nat → Bool)
    (g : VecSt → Nat → Bool × VF) : Ex :=
  checked r <|
    let v := s.vecOf t
    let l := (f.actives v x.vlen).map fun i => (i, g v i, p v i)
    let v' := l.foldl (fun v e => v.putBit (mNum f.vd) e.1 (e.2.1.1 && !e.2.2)) v
    let d : VDone := { s := s.setVec t v', flags := l.foldl (fun a e => a ||| e.2.1.2) 0, pois := l.any (·.2.2) }
    d.retire t c x.vlen f

/-- A compare (R83): a bit computed from a poisoned element is 0 (R92). -/
def cmpForm (op : Nat) (g : CmpOp) (t : Nat) (f : VecFields) (s : State) (c : Nat) (x : Ctx) : Ex :=
  let o : OpSpec := { op := op, vd := .m, vs1 := .v, vs2 := .vOrS, types := tyAll }
  maskForm ((o.check f).orElse fun _ => o.checkRm f 32) t f s c x
    (fun v i => v.pois f.vs1.toNat i || f.poisB v i)
    (fun v i => g f.type.toNat (v.elem f.vs1.toNat i) (f.opB v x i))

/-- Mask logic (R83). -/
def mlogForm (op : Nat) (vs2 : FieldUse) (g : Bool → Bool → Bool) (t : Nat) (f : VecFields) (s : State) (c : Nat) (x : Ctx) : Ex :=
  let o : OpSpec := { op := op, vd := .m, vs1 := .m, vs2 := vs2, types := tyNone }
  maskForm ((o.check f).orElse fun _ => o.checkRm f 32) t f s c x (fun _ _ => false)
    (fun v i => (g (v.bit (mNum f.vs1) i) (v.bit (mNum f.vs2) i), 0))

/-- MPOP: the number of active elements whose bit is 1 (R83). -/
def mpopForm (t : Nat) (f : VecFields) (s : State) (c : Nat) (x : Ctx) : Ex :=
  let o : OpSpec := { op := 0x8C, vd := .s, vs1 := .m, types := tyNone }
  checked ((o.check f).orElse fun _ => o.checkRm f 32) <|
    let v := s.vecOf t
    let n := ((f.actives v x.vlen).filter fun i => v.bit (mNum f.vs1) i).length
    (VDone.mk (s.setCtx c (x.setS (sNum f.vd) (u64 n))) 0 0 false 0).retire t c x.vlen f

/-- MSEL (R83). -/
def mselForm (t : Nat) (f : VecFields) (s : State) (c : Nat) (x : Ctx) : Ex :=
  let o : OpSpec := { op := 0x8D, vd := .v, vs1 := .v, vs2 := .m, vs3 := .v, types := tyAll }
  checked ((o.check f).orElse fun _ => o.checkRm f 32) <|
    elementwise t c x f s 0 (fun v i => v.pois f.vs1.toNat i || v.pois f.vs3.toNat i)
      (fun v i => (slotOf f.type.toNat (if v.bit (mNum f.vs2) i then v.elem f.vs1.toNat i else v.elem f.vs3.toNat i).toNat, 0))

/-- CMPEQ (R83). -/
def execVCmpeq (t : Nat) (f : VecFields) (s : State) : Res := .next <| s.instr t 0x80 f (cmpForm 0x80 cmpEq t f)

/-- CMPLT (R83). -/
def execVCmplt (t : Nat) (f : VecFields) (s : State) : Res := .next <| s.instr t 0x81 f (cmpForm 0x81 cmpLt t f)

/-- CMPLE (R83). -/
def execVCmple (t : Nat) (f : VecFields) (s : State) : Res := .next <| s.instr t 0x82 f (cmpForm 0x82 cmpLe t f)

/-- CMPUN (R83). -/
def execVCmpun (t : Nat) (f : VecFields) (s : State) : Res := .next <| s.instr t 0x83 f (cmpForm 0x83 cmpUn t f)

/-- MAND (R83). -/
def execVMand (t : Nat) (f : VecFields) (s : State) : Res := .next <| s.instr t 0x88 f (mlogForm 0x88 .m (· && ·) t f)

/-- MOR (R83). -/
def execVMor (t : Nat) (f : VecFields) (s : State) : Res := .next <| s.instr t 0x89 f (mlogForm 0x89 .m (· || ·) t f)

/-- MXOR (R83). -/
def execVMxor (t : Nat) (f : VecFields) (s : State) : Res := .next <| s.instr t 0x8A f (mlogForm 0x8A .m (· != ·) t f)

/-- MNOT (R83). -/
def execVMnot (t : Nat) (f : VecFields) (s : State) : Res := .next <| s.instr t 0x8B f (mlogForm 0x8B .none (fun a _ => !a) t f)

/-- MPOP (R83). -/
def execVMpop (t : Nat) (f : VecFields) (s : State) : Res := .next <| s.instr t 0x8C f (mpopForm t f)

/-- MSEL (R83). -/
def execVMsel (t : Nat) (f : VecFields) (s : State) : Res := .next <| s.instr t 0x8D f (mselForm t f)

/-- A random shape: its scalar operands, its TYPE, its passes of the special-function path (R108). -/
def randForm (op : Nat) (vs2 vs3 : FieldUse) (ty passes : Nat) (g : W32 → El) (t : Nat) (f : VecFields) (s : State) (c : Nat)
    (x : Ctx) : Ex :=
  let o : OpSpec := { op := op, vd := .v, vs2 := vs2, vs3 := vs3, types := [ty] }
  checked ((o.check f).orElse fun _ => o.checkRm f 32) <|
    elementwise t c x f s passes (fun _ _ => false) (fun _ i => g (f.drawAt s t x i))

/-- RANDB: Bernoulli bits against T = min(s[VS2], 2^32) (R108). -/
def randbForm (t : Nat) (f : VecFields) (s : State) (c : Nat) (x : Ctx) : Ex :=
  let o : OpSpec := { op := 0x92, vd := .m, vs2 := .s, types := tyNone }
  maskForm ((o.check f).orElse fun _ => o.checkRm f 32) t f s c x (fun _ _ => false)
    (fun _ i => (decide ((f.drawAt s t x i).toNat < (x.sreg (sNum f.vs2)).toNat), 0))

/-- RANDN takes σ and μ from its scalars (R108). -/
def randnForm (t : Nat) (f : VecFields) (s : State) (c : Nat) (x : Ctx) : Ex :=
  randForm 0x94 .s .s 8 3 (fun w => rndN w (u32 (x.sreg (sNum f.vs2)).toNat) (u32 (x.sreg (sNum f.vs3)).toNat)) t f s c x

/-- RANDU (R108). -/
def execVRandu (t : Nat) (f : VecFields) (s : State) : Res := .next <| s.instr t 0x90 f (randForm 0x90 .none .none 3 0 (fun w => (w, 0)) t f)

/-- RANDF (R108). -/
def execVRandf (t : Nat) (f : VecFields) (s : State) : Res := .next <| s.instr t 0x91 f (randForm 0x91 .none .none 8 0 (fun w => (rndF w, 0)) t f)

/-- RANDB (R108). -/
def execVRandb (t : Nat) (f : VecFields) (s : State) : Res := .next <| s.instr t 0x92 f (randbForm t f)

/-- RANDG (R108). -/
def execVRandg (t : Nat) (f : VecFields) (s : State) : Res := .next <| s.instr t 0x93 f (randForm 0x93 .none .none 8 2 rndG t f)

/-- RANDN (R108). -/
def execVRandn (t : Nat) (f : VecFields) (s : State) : Res := .next <| s.instr t 0x94 f (randnForm t f)

/-! ### Seeds, keys and the self-test (R106, R111, R112) -/

/-- Offset of SEED0 and the bit of STAT.KEY_VALID on the pages that hold a seed. -/
def seedOff (cls : Nat) : Option (Nat × Nat) :=
  if cls = cVEC then some (VEC.SEED0, 1) else if cls = cOPT then some (OPT.SEED0, 3)
  else if cls = cSMP then some (SMP.SEED0, 3) else if cls = cRED then some (RED.SEED0, 2) else none

/-- The derivation of a page's key begins from its seed registers; KEY_VALID clears (R106). -/
def State.keyBegin (s : State) (cls inst : Nat) : State :=
  match seedOff cls with
  | none => s
  | some (o, b) =>
    let q := (s.rd cls inst o, s.rd cls inst (o + 4), s.rd cls inst (o + 8), s.rd cls inst (o + 12))
    { s with keyNext := mset none s.keyNext (rk cls inst 0) (some q) }.wrb cls inst hSTAT b false

/-- What a write of SEED3 does. -/
def State.seed3 (s : State) (cls inst : Nat) (v : W32) : State :=
  match seedOff cls with | none => s | some (o, _) => (s.wr cls inst (o + 12) v).keyBegin cls inst

/-- SEED3_WRITE (R106): the seed registers lie in AON. -/
def execSeed3Write (m cls inst : Nat) (v : BitVec 32) (s : State) : Res :=
  .next <| match seedOff cls with
    | none => s
    | some (o, _) => s.ownerWrite m cls inst (o + 12) false (·.seed3 cls inst v)

/-- KEY_DERIVED (R106): the new key is in force, once the domain is on. -/
def execKeyDerived (cls inst : Nat) (s : State) : Res :=
  .next <| match seedOff cls, mget none s.keyNext (rk cls inst 0) with
    | some (_, b), some q =>
      if s.pageOn cls inst then
        { s with keyNext := mset none s.keyNext (rk cls inst 0) none
                 keySeed := mset (0, 0, 0, 0) s.keySeed (rk cls inst 0) q }.wrb cls inst hSTAT b true
      else s
    | _, _ => s

/-- CTRL.KAT_GO: the test starts, unless a vector instruction is in flight (R111). -/
def State.katGo (s : State) (t : Nat) : State :=
  if (s.tile t).vbusy then s.recUC cVEC t 0x01 else s.setTile t { s.tile t with kat := true }

/-- KAT_GO (R111); R523 ignores it until the bring-up ends. -/
def execKatGo (m t : Nat) (s : State) : Res := .next <| s.actionWrite m cVEC t hCTRL (!s.bringupOver) (·.katGo t)

/-- The known answer of R107: key 0, counter (1, 0, 0, 0). -/
def katAnswer : Quad := mix10 (0, 0, 0, 0) (1, 0, 0, 0)

/-- KAT_COMPLETE (R111, R112): a failing lane is recorded against the tile. -/
def execKatComplete (t : Nat) (badLanes : List Nat) (s : State) : Res :=
  .next <|
    if s.arrOn t && (s.tile t).kat then
      let fail := badLanes.any (· < s.lanes)
      let s := s.setTile t { s.tile t with kat := false }
      let s := ((s.wrb cVEC t hSTAT 2 true).wrb cVEC t hSTAT 3 (!fail)).irq cVEC t 1
      if fail then (s.irq cVEC t 16).recUC cVEC t 0x09 else s
    else s

end Sys2Proof.Machine
end

