-- ==== Sys2Proof/Machine/Power.lean ====
section
/-! DEFINITION. The ramp governor (R464–R480): requests for power domains, wakes, stored energy, load shed, sag, heat. The
switch-off itself is in `SwitchOff.lean`. -/
namespace Sys2Proof.Machine

/-! ### Stored energy (R464, R474) -/

/-- Capacitance that a domain adds to VCORE_A and VCORE_B, in mF. -/
def pdCap (d : Nat) : Nat × Nat :=
  if d < 64 then (if d < 32 then (36, 0) else (0, 36))
  else if d < 72 then (if d < 68 then (8, 0) else (0, 8))
  else if d < 80 then (if d < 76 then (8, 0) else (0, 8))
  else if d = 80 ∨ d = 88 ∨ d = 89 then (8, 8)
  else if d = 81 ∨ d % 2 = 0 then (8, 0)
  else (0, 8)

/-- Some transition of the domain is under way or has passed event 2 of a wake, or it is on. -/
def State.pdCounts (s : State) (d : Nat) : Bool := (s.pdst d).phase != .off

/-- E_STORED with `extra` domains counted as on: ½ Σ C V² in mJ, rounded up. -/
def State.eStored (s : State) (extra : List Nat := []) : Nat :=
  let ds := (List.range 96).filter fun d => s.pdCounts d || extra.contains d
  let va := s.rdf cPWR 0 PWR.VDECL 0 10
  let vb := s.rdf cPWR 0 PWR.VDECL 16 10
  let ca := 750 + (ds.map fun d => (pdCap d).1).foldl (· + ·) 0
  let cb := 750 + (ds.map fun d => (pdCap d).2).foldl (· + ·) 0
  (ca * va * va + cb * vb * vb + 1999999) / 2000000

/-- E_LIMIT: above 1,500 acts as 1,500, below 1 as 1. -/
def State.eLimit (s : State) : Nat := max 1 (min 1500 (s.rdf cPWR 0 PWR.E_LIMIT 0 11))

/-! ### Requests (R466–R468, R473, R480) -/

/-- The governor refuses the request (R473). -/
def State.pdRefused (s : State) (d : Nat) (on : Bool) : Bool :=
  if on then (decide (d < 64) && !bit s.fuses.tilePairs d) || decide (s.eLimit < s.eStored [d])
  else if d = 86 ∨ d = 87 then s.firnEn
  else if d = 81 then !(s.drained cOPL 0 && s.opl.quiesced)
  else if d = 92 ∨ d = 93 then s.rdb cDSP (d - 92) hCTRL 0
  else false

/-- The PD_ON bit of a domain. -/
def State.pdOn (s : State) (d : Nat) : Bool := s.rdb cPWR 0 (PWR.PD_ON0 + 4 * (d / 32)) (d % 32)

/-- Writes the PD_ON bit of a domain. -/
def State.setPdOn (s : State) (d : Nat) (b : Bool) : State := s.wrb cPWR 0 (PWR.PD_ON0 + 4 * (d / 32)) (d % 32) b

/-- A refused request (R473). -/
def State.pdRefuse (s : State) : State :=
  ((s.bump cPWR 0 PWR.REFUSE_CNT).irq cPWR 0 32).recUC cPWR 0 0x01

/-- A switch-off of a tile pair asks its running contexts for a save (R469). -/
def State.pairLeave (s : State) (p : Nat) : State :=
  let cs := (s.ctxs.filter fun e => e.2.state == .running &&
    (e.2.tile == some (2 * p) || e.2.tile == some (2 * p + 1))).map (·.1)
  cs.foldl (fun s c => s.wantCtx c .save) s

/-- Contexts on a Floe's tiles, or walks on its sampler, that a switch-off of the sampler asks to leave. -/
def State.pdLeave (s : State) (d : Nat) : State :=
  if d < 64 then s.pairLeave d
  else if d = 82 ∨ d = 83 then
    ((s.ctxs.filter fun e => e.2.state == .running && e.2.tile == some (walkPlace (d - 82))).map (·.1)).foldl
      (fun s c => s.wantCtx c .save) s
  else s

/-- The next queued request of a domain that has no transition under way: it starts, is refused and leaves PD_ON as the
domain is, or falls away where the domain is already so. -/
def pdNext : List Bool → Nat → State → State
  | [], d, s => s.setPd d { s.pdst d with queue := [] }
  | b :: r, d, s =>
    let now := (s.pdst d).phase == .on
    if b = now then pdNext r d s
    else if s.pdRefused d b then
      pdNext r d ((s.pdRefuse).setPdOn d (r.getLastD now))
    else
      let s := s.setPd d { phase := if b then .wakeWait else .offWait, queue := r }
      if b then s else s.pdLeave d

/-- No transition is pending. -/
def State.pdIdle (s : State) : Bool :=
  s.pwr.pd.all fun e => (e.2.phase == .off || e.2.phase == .on) && e.2.queue.isEmpty

/-- A transition has ended: the domain's next request, PD_DONE when nothing pends (R466, R467). -/
def State.pdEnded (s : State) (d : Nat) : State :=
  let s := pdNext (s.pdst d).queue d s
  if s.pdIdle then s.irq cPWR 0 1 else s

/-- A request for a domain, as its PD_ON bit is written (R466, R467, R468). -/
def State.pdRequest (s : State) (d : Nat) (b : Bool) : State :=
  let x := s.pdst d
  if s.pdOn d = b then s
  else
    let s := s.setPdOn d b
    match x.phase with
    | .on | .off => pdNext [b] d s
    | _ => s.setPd d { x with queue := x.queue ++ [b] }

/-- A write of PD_ONw, bit by bit (R480). -/
def State.pdOnWrite (s : State) (w : Nat) (v : W32) : State :=
  (List.range 32).foldl (fun s b => s.pdRequest (32 * w + b) (bit v b)) s

/-- PD_ON_WRITE (R480, R523). -/
def execPdOnWrite (m w : Nat) (v : BitVec 32) (s : State) : Res :=
  .next <| if w < 3 then s.ownerWrite m cPWR 0 (PWR.PD_ON0 + 4 * w) (!s.bringupOver) (·.pdOnWrite w v) else s

/-! ### Wakes (R466, R469) -/

/-- A load shed is in force (R475). -/
def State.shed (s : State) : Bool := s.pwr.alert || s.rdb cPWR 0 hCTRL 2

/-- WAKE_GAP; below 200 acts as 200. -/
def State.wakeGap (s : State) : Nat := max 200 (s.rdf cPWR 0 PWR.WAKE_GAP 0 24)

/-- The lowest domain that waits for its wake. -/
def State.firstWake (s : State) : Option Nat :=
  (List.range 96).find? fun d => (s.pdst d).phase == .wakeWait

/-- A wake may start now. -/
def State.wakeReady (s : State) : Bool :=
  s.live && !s.shed && (match s.pwr.lastWake with | some t => decide (t + s.wakeGap ≤ s.clk.time) | none => true)

/-- Both tile stores of a pair hold zeros, weight buffers and accumulators are empty (R469). -/
def State.pairClear (s : State) (p : Nat) : State :=
  let mine (a : Nat) : Bool := a / tsSize / 2 == p
  let s := { s with ts := { mem := s.ts.mem.filter fun c => !mine c.1, pois := s.ts.pois.filter fun c => !mine (c.1 * 8)
                            err := s.ts.err.filter fun c => !mine (c.1 * 8) } }
  ((((s.setTile (2 * p) {}).setTile (2 * p + 1) {}).setVec (2 * p) {}).setVec (2 * p + 1) {})

/-- A block's keys are derived again when its domain wakes (R106). -/
def State.wakeKeys (s : State) (d : Nat) : State :=
  if d < 64 then (s.keyBegin cVEC (2 * d)).keyBegin cVEC (2 * d + 1)
  else if d = 82 ∨ d = 83 then s.keyBegin cSMP (d - 82)
  else if d = 84 ∨ d = 85 then s.keyBegin cOPT (d - 84)
  else s

/-- The switch of a domain begins to close (R466 event 4); its logic starts cleared. -/
def State.pdWake (s : State) (d : Nat) : State :=
  let s := s.setPd d { s.pdst d with phase := .settling s.clk.time }
  let s := { s with pwr := { s.pwr with lastWake := some s.clk.time } }
  (if d < 64 then s.pairClear d else s).wakeKeys d

/-- PD_WAKE (R466 events 3 to 5). -/
def execPdWake (pd : Nat) (s : State) : Res :=
  .next <| if s.wakeReady && s.firstWake == some pd then s.pdWake pd else s

/-- A woken domain is ready (R464): a stack that has trained before is out of self-refresh and trained again. -/
def State.pdReady (s : State) (d : Nat) : State :=
  let s := s.setPd d { s.pdst d with phase := .on }
  let s := if 64 ≤ d ∧ d < 72 then s.wrb cHBM (d - 64) hSTAT 2 true else s
  (s.bump cPWR 0 PWR.WAKE_CNT).pdEnded d

/-- The domain is ready as far as its own switch goes: a stack's first wake after reset ends with the training of stage 3. -/
def State.pdSettled (s : State) (d : Nat) : Bool :=
  s.live && (match (s.pdst d).phase with | .settling t => decide (t + switchTime d ≤ s.clk.time) | _ => false) &&
    (s.life.trained || !(decide (64 ≤ d) && decide (d < 72)))

/-! ### Current, voltage and load shed (R470, R471, R474–R476) -/

/-- A 64-bit counter takes a value. -/
def State.putCharge (s : State) (off q : Nat) : State := s.wr64 cPWR 0 off (q / 40)

/-- The current in A that a limit register gives a rail, whose field is at bit `lo`; above 900 acts as 900. -/
def State.capOfRail (s : State) (off lo : Nat) : Nat := min 900 (s.rdf cPWR 0 off lo 10)

/-- A rail's ceiling (R471): I_CAP, under a load shed no more than SHED_CAP, under the thermal cap no more than THERM_CAP. -/
def State.ceiling (s : State) (lo : Nat) : Nat :=
  let c := s.capOfRail PWR.I_CAP lo
  let c := if s.shed then min c (s.capOfRail PWR.SHED_CAP lo) else c
  if s.pwr.therm then min c (s.capOfRail PWR.THERM_CAP lo) else c

/-- A window of 100 ns: currents in 0.25 A draw 0.025 µC a unit; sag and over-declaration end when the rails are back. The
governor says whether it held tokens for the slew limit; of a rail above its ceiling it held some (R471; log 108). -/
def State.govWindow (s : State) (iA iB vA vB : Nat) (held : Bool) : State :=
  let held := held || decide (4 * s.ceiling 0 < iA) || decide (4 * s.ceiling 16 < iB)
  let s := (s.wr cPWR 0 PWR.I_MEAS_A (u32 (min 4095 iA))).wr cPWR 0 PWR.I_MEAS_B (u32 (min 4095 iB))
  let s := s.wr cPWR 0 PWR.V_MEAS (u32 (min 1023 vB * 65536 + min 1023 vA))
  let isOver := decide (s.rdf cPWR 0 PWR.VDECL 0 10 + 10 < vA) || decide (s.rdf cPWR 0 PWR.VDECL 16 10 + 10 < vB)
  let p := { s.pwr with chargeA := s.pwr.chargeA + iA, chargeB := s.pwr.chargeB + iB, capped := held
                        sag := s.pwr.sag && (decide (vA < 650) || decide (vB < 650)), overDecl := s.pwr.overDecl && isOver }
  let s := (({ s with pwr := p }).putCharge PWR.CHARGE_A p.chargeA).putCharge PWR.CHARGE_B p.chargeB
  if held then s.bump64 cPWR 0 PWR.THROTTLE else s

/-- GOV_WINDOW (R470, R471, R479): every 100 ns of the timebase. -/
def execGovWindow (iA iB vA vB : Nat) (held : Bool) (s : State) : Res :=
  .next <| if s.life.vaon && !s.life.inReset && s.clk.running && s.clk.time % 10 == 0 then s.govWindow iA iB vA vB held else s

/-- A load shed has begun or ended when the two causes say so (R475). -/
def State.shedEdge (before s : State) : State :=
  if !before.shed && s.shed then s.irq cPWR 0 2 else if before.shed && !s.shed then s.irq cPWR 0 4 else s

/-- SHED_FORCE_WRITE (R475). -/
def execShedForceWrite (m : Nat) (on : Bool) (s : State) : Res :=
  .next <| s.ownerWrite m cPWR 0 hCTRL false fun s => s.shedEdge (s.wrb cPWR 0 hCTRL 2 on)

/-- GOV_ALERT_N is taken as a level. -/
def State.govAlert (s : State) (low : Bool) : State :=
  s.shedEdge { s with pwr := { s.pwr with alert := low }, pins := { s.pins with govAlertN := !low } }

/-- GOV_ALERT_ASSERT (R475): SHED_CNT counts every assertion. -/
def execGovAlertAssert (s : State) : Res :=
  .next <| if s.life.vaon && !s.life.inReset && !s.pwr.alert then (s.govAlert true).bump cPWR 0 PWR.SHED_CNT else s

/-- GOV_ALERT_DEASSERT (R475). -/
def execGovAlertDeassert (s : State) : Res :=
  .next <| if s.life.vaon && !s.life.inReset && s.pwr.alert then s.govAlert false else s

/-- SAG (R476): a rail below 0.65 V, unless one already was. -/
def execSag (vA vB : Nat) (s : State) : Res :=
  .next <|
    if s.life.vaon && !s.life.inReset && !s.pwr.sag && (decide (vA < 650) || decide (vB < 650)) then
      let s := ({ s with pwr := { s.pwr with sag := true } }).wr cPWR 0 PWR.V_MEAS (u32 (min 1023 vB * 65536 + min 1023 vA))
      (s.bump cPWR 0 PWR.SAG_CNT).irq cPWR 0 16
    else s

/-- OVER_DECL (R474): a rail above its VDECL by more than 10 mV. -/
def execOverDecl (vA vB : Nat) (s : State) : Res :=
  .next <|
    if s.life.vaon && !s.life.inReset && !s.pwr.overDecl &&
        (decide (s.rdf cPWR 0 PWR.VDECL 0 10 + 10 < vA) || decide (s.rdf cPWR 0 PWR.VDECL 16 10 + 10 < vB)) then
      ({ s with pwr := { s.pwr with overDecl := true } }).recCE cPWR 0 0x0D
    else s

/-! ### Heat (R477) -/

/-- Every sensor reading. -/
def tempsAll (j : Temps) : List Nat := j.pairs ++ j.seracA ++ j.seracB

/-- The hottest sensor of the device. -/
def hottest (j : Temps) : Nat := (tempsAll j).foldl max 0

/-- T_THROTTLE (above 105 °C acts as 105) and T_RELEASE (at or above it acts as one less). -/
def State.tThrottle (s : State) : Nat := min 105 (s.rdf cPWR 0 PWR.THERM_CFG 8 8)
def State.tRelease (s : State) : Nat :=
  let r := s.rdf cPWR 0 PWR.THERM_CFG 0 8
  if s.tThrottle ≤ r then s.tThrottle - 1 else r

/-- TJ and TJ_PEAK take the hottest sensor of each die: Floe A, Floe B, Serac A, Serac B. -/
def State.putTemps (s : State) (j : Temps) : State :=
  let v := [(j.pairs.take 32).foldl max 0, (j.pairs.drop 32).foldl max 0, j.seracA.foldl max 0, j.seracB.foldl max 0]
  let put (s : State) (k : Nat) : State :=
    let x := min 255 (v.getD k 0)
    (s.wrf cPWR 0 PWR.TJ (8 * k) 8 x).wrf cPWR 0 PWR.TJ_PEAK (8 * k) 8 (max x (s.rdf cPWR 0 PWR.TJ_PEAK (8 * k) 8))
  (List.range 4).foldl put s

/-- THERM_THROTTLE (R477). -/
def execThermThrottle (tj : Temps) (s : State) : Res :=
  .next <|
    if s.life.vaon && !s.life.inReset then
      let s := s.putTemps tj
      if !s.pwr.therm && decide (s.tThrottle ≤ hottest tj) then ({ s with pwr := { s.pwr with therm := true } }).irq cPWR 0 8
      else s
    else s

/-- THERM_RELEASE (R477). -/
def execThermRelease (tj : Temps) (s : State) : Res :=
  .next <|
    if s.life.vaon && !s.life.inReset then
      let s := s.putTemps tj
      if s.pwr.therm && decide (hottest tj ≤ s.tRelease) then { s with pwr := { s.pwr with therm := false } } else s
    else s

/-- THERMTRIP (R477, R482): THERMTRIP_N falls and the device halts. -/
def execThermtrip (tj : Temps) (s : State) : Res :=
  .next <|
    if s.life.vaon && !s.life.inReset && s.pins.thermtripN && decide (115 ≤ hottest tj) then
      let s := s.putTemps tj
      ({ s with pins := { s.pins with thermtripN := false } }).fatal cPWR 0 0x12
    else s

end Sys2Proof.Machine
end

