-- ==== Sys2Proof/Machine/Sec.lean ====
section
/-! DEFINITION. Identity, secure boot and the security controller (R497–R515), and the TAP (R511). -/
namespace Sys2Proof.Machine

/-! ### Fuses, measurements, identity -/

/-- SHA3-256, 32 bytes. -/
abbrev hash32 (b : Bytes) : Bytes := bpad (sha3 b) 32

/-- Value of an anti-rollback counter: consecutive blown bits from bit 0 (R505). -/
def arbValue (w : W64) : Nat := ((List.range 64).find? fun i => !w.getLsbD i).getD 64

/-- The fuse bits of counter k. -/
def State.arbFuse (s : State) (k : Nat) : W64 := mget 0 s.fuses.arb k

/-- The certificate store, 4 KiB. -/
def State.certBytes (s : State) : Bytes := bpad s.fuses.cert 4096

/-- FUSE_STAT.CERT_VALID (R508). -/
def State.certValid (s : State) : Bool := bfield s.certBytes 0 4 == 0x5443524B

/-- Die identity record k (R497). -/
def State.dieRecord (s : State) (k : Nat) : Bytes := bpad (s.fuses.dies.getD k []) 16

/-- The record of a stack: 16 zero bytes until it has trained (R499). -/
def State.stackRecord (s : State) (n : Nat) : Bytes :=
  if s.rdb cHBM n hSTAT 2 then bpad (mget [] s.sec.stackIds n) 16 else bpad [] 16

/-- ID_KEY_HASH; zero before DONE (R507, R514). -/
def State.idKeyHash (s : State) : Bytes := if s.sec.done then hash32 s.sec.idPub else bpad [] 32

/-- Measurement slot k (R509): slot 0 is the boot ROM's. -/
def State.meas (s : State) (k : Nat) : Bytes :=
  if k = 0 then bpad s.fuses.romHash 32
  else (List.range 8).flatMap fun j => toLE 4 (s.rd cSEC 0 (SEC.MEAS + 32 * k + 4 * j)).toNat

/-- Sets a measurement slot. -/
def State.setMeas (s : State) (k : Nat) (b : Bytes) : State :=
  (List.range 8).foldl (fun s j => s.wr cSEC 0 (SEC.MEAS + 32 * k + 4 * j) (u32 (bfield b (4 * j) 4))) s

/-- DATA0–7 as 32 bytes. -/
def State.secData (s : State) : Bytes := (List.range 8).flatMap fun k => toLE 4 (s.rd cSEC 0 (SEC.DATA + 4 * k)).toNat

/-- The OWNER register (R459). -/
def State.ownerWord (s : State) : W32 :=
  u32 (b2n s.own.valid * 2 ^ 31 + s.own.owner % 4 * 65536 + s.own.claim.prio.toNat)

/-- ERR STAT.HALTED_PREV (R494). -/
def State.haltedPrev (s : State) : Bool := s.err.fatal.any fun f => f.2 != (s.rd cERR 0 ERR.BOOT_CNT).toNat

/-! ### Secure boot (R500–R504) -/

/-- STAGE of BOOT_STAT. -/
def State.bootStage (s : State) : Nat := s.rdf cSEC 0 SEC.BOOT_STAT 4 4

/-- Sets STAGE. -/
def State.setStage (s : State) (n : Nat) : State := s.wrf cSEC 0 SEC.BOOT_STAT 4 4 n

/-- BRINGUP of SYS STAT. -/
def State.bringup (s : State) : Nat := s.rdf cSYS 0 hSTAT 12 4

/-- Sets BRINGUP. -/
def State.setBringup (s : State) (n : Nat) : State := s.wrf cSYS 0 hSTAT 12 4 n

/-- The I3C boot endpoint is open (R500, R501). -/
def State.bootOpen (s : State) : Bool := s.live && !s.sec.done && (s.bootStage == 1 || s.bootStage == 4)

/-- FUSES_SENSED (R500 event 1). -/
def execFusesSensed (s : State) : Res :=
  .next <| if s.live && s.bootStage == 0 && !s.sec.done then (s.setStage 1).setBringup 1 else s

/-- Bytes of the boot buffer. -/
abbrev bootSize : Nat := 196608

/-- APPEND (R501): bytes beyond 192 KiB are discarded. -/
def execAppend (data : Bytes) (s : State) : Res :=
  .next <|
    if s.bootOpen then
      let b := s.sec.buffer ++ data
      { s with sec := { s.sec with buffer := b.take bootSize, overflow := s.sec.overflow || decide (bootSize < b.length) } }
    else s

/-- The boot buffer is emptied. -/
def State.bootClear (s : State) : State := { s with sec := { s.sec with buffer := [], overflow := false } }

/-- BOOT_RESTART (R501). -/
def execBootRestart (s : State) : Res := .next <| if s.bootOpen then s.bootClear else s

/-- A run of bytes holds zeros. -/
def zeroRun (b : Bytes) (o n : Nat) : Bool := bfield b o n == 0

/-- M of an image (R502). -/
def imageHash (b : Bytes) : Bytes := hash32 (b.take 0x560 ++ b.drop 0xF00)

/-- Check 1 of R503: the image is well formed and the buffer holds exactly it. -/
def imageOk (b : Bytes) (overflow : Bool) : Bool :=
  let len := bfield b 0x0C 4
  bfield b 0 4 == 0x5746524B && bfield b 4 2 == 1 && bfield b 6 1 == 1 && decide (bfield b 7 1 < 4) &&
    decide (bfield b 8 1 < 64) && decide (bfield b 9 1 ≤ 64) && zeroRun b 0x0A 2 && zeroRun b 0x14 4 && zeroRun b 0x20 32 &&
    zeroRun b 0xED4 44 && decide (1 ≤ len) && decide (len ≤ bootSize - 3840) && bfield b 0x10 4 % 4 == 0 &&
    decide (bfield b 0x10 4 < len) && b.length == 0xF00 + len && !overflow

/-- FAIL_CODE of the boot checks in order; 0 when every one passes (R503). -/
def State.bootCheck (s : State) : Nat :=
  let b := s.sec.buffer
  if !imageOk b s.sec.overflow then 0x02
  else if bfield b 7 1 / (if s.fuses.grade9632 then 2 else 1) % 2 = 0 then 0x03
  else if hash32 (bslice b 0x40 1312) ≠ bpad s.fuses.rotKeyHash 32 then 0x04
  else if !mldsaVerify (bslice b 0x40 1312) (imageHash b) (bslice b 0x560 2420) then 0x05
  else if bfield b 9 1 < arbValue (s.arbFuse (bfield b 8 1)) then 0x06
  else 0

/-- A check fails (R500 event 5). -/
def State.bootFail (s : State) (code : Nat) : State :=
  let s := s.bootClear.setStage 4
  ((s.wrf cSEC 0 SEC.BOOT_STAT 24 8 code).wrb cSEC 0 SEC.BOOT_STAT 1 true).bump cSEC 0 SEC.BOOT_FAIL_CNT

/-- Every check has passed (R500 event 4): the measurement, the identity key, DONE, TWIN_ALIVE_OUT; stage 2 of bring-up. -/
def State.bootDone (s : State) : State :=
  let b := s.sec.buffer
  let s := s.setMeas 1 (imageHash b)
  let s := s.wr64 cSEC 0 SEC.FW_VER (bfield b 0x18 8)
  let s := { s with sec := { s.sec with buffer := [], overflow := false, done := true, runIdx := bfield b 8 1
                                        runSvn := bfield b 9 1, idPub := bpad (mldsaPub s.fuses.idSeed) 1312 }
                    pins := { s.pins with twinAliveOut := true } }
  let s := ((s.setStage 3).wrb cSEC 0 SEC.BOOT_STAT 0 true).setBringup 2
  s.wr cSYS 0 SYS.T_BOOT (u32 s.clk.time)

/-- VERIFY (R500, R501, R503). -/
def execVerify (s : State) : Res :=
  .next <|
    if s.bootOpen then
      let s := s.setStage 2
      let c := s.bootCheck
      if c = 0 then s.bootDone else s.bootFail c
    else s

/-! ### Commands of the controller (R514, R515) -/

/-- CMD_STAT: BUSY, STATUS, OP. -/
def secStat (busy : Bool) (status op : Nat) : W32 := u32 (b2n busy * 2 ^ 31 + status % 256 * 65536 + op % 16)

/-- A command ends with a status: its interrupts, and a record when it is not 0x00 (R514, R515). -/
def State.secEnd (s : State) (op status : Nat) : State :=
  let s := (s.wr cSEC 0 SEC.CMD_STAT (secStat s.sec.cmd.isSome status op)).irq cSEC 0 (if status = 0 then 1 else 3)
  if status = 0 then s else s.recUC cSEC 0 0x01 none (u32 status)

/-- A command starts: refused when one is in progress, during a halt, before DONE, or for a reserved ARG. -/
def State.secStart (s : State) (op arg : Nat) (bad : Bool) (status : Nat) : State :=
  if s.sec.cmd.isSome || s.life.halted || !s.sec.done || bad then s.secEnd op 0x01
  else
    let c : SecCmd := { op := op, arg := arg, start := s.clk.time, nonce := s.secData, status := status }
    ({ s with sec := { s.sec with cmd := some c } }).wr cSEC 0 SEC.CMD_STAT (secStat true 0 op)

/-- A write of CMD by a master. -/
def State.secWrite (s : State) (m op arg : Nat) (bad : Bool) (status : Nat) : State :=
  s.ownerWrite m cSEC 0 SEC.CMD false (·.secStart op (arg % 64) bad status)

/-- ATTEST (R510). -/
def execAttest (m : Nat) (s : State) : Res := .next <| s.secWrite m 1 0 false 0

/-- ARB_COMMIT is applicable (R506). -/
def State.arbOk (s : State) (k : Nat) : Bool :=
  k == s.sec.runIdx && decide (arbValue (s.arbFuse k) < s.sec.runSvn)

/-- ARB_COMMIT (R506). -/
def execArbCommit (m k : Nat) (s : State) : Res :=
  .next <| s.secWrite m 2 k false (if s.arbOk (k % 64) then 0 else 0x0B)

/-- EXTEND (R509). -/
def execExtend (m slot : Nat) (s : State) : Res :=
  .next <| s.secWrite m 3 slot (decide (slot % 64 < 2) || decide (7 < slot % 64)) 0

/-- DBG_REQ (R512). -/
def execDbgReq (m arg : Nat) (s : State) : Res :=
  .next <| s.secWrite m 4 arg false (if s.fuses.dbgDisable then 0x09 else 0)

/-- DBG_TOKEN (R512). -/
def execDbgToken (m : Nat) (s : State) : Res := .next <| s.secWrite m 5 0 false 0

/-- The 704 bytes of a report that are signed (R510). -/
def State.reportBody (s : State) (c : SecCmd) : Bytes :=
  toLE 4 0x5441524B ++ toLE 2 1 ++ toLE 1 (b2n s.fuses.grade9632) ++
  toLE 1 (b2n s.sec.bscan + 2 * b2n s.sec.full + 4 * b2n s.haltedPrev) ++
  toLE 4 (s.rd cERR 0 ERR.BOOT_CNT).toNat ++ toLE 4 s.ownerWord.toNat ++ bpad c.nonce 32 ++ toLE 8 c.start ++ toLE 8 0 ++
  ((List.range 4).flatMap s.dieRecord) ++ ((List.range 8).flatMap s.stackRecord) ++ bpad s.fuses.rotKeyHash 32 ++
  s.idKeyHash ++ toLE 8 s.fuses.tilePairs.toNat ++ toLE 8 (b2n s.fuses.dbgDisable + 2 * b2n s.certValid) ++
  ((List.range 64).flatMap fun k => toLE 1 (arbValue (s.arbFuse k))) ++ ((List.range 8).flatMap s.meas) ++
  toLE 8 (s.rd64 cSEC 0 SEC.FW_VER) ++ bpad [] 40

/-- Fresh bytes from the controller's entropy source, four at a time: values the spec leaves open. -/
def State.entropy : Nat → State → Bytes × State
  | 0, s => ([], s)
  | n + 1, s =>
    let (v, s) := s.free
    let (b, s) := State.entropy n s
    (toLE 4 v.toNat ++ b, s)

/-- A message is signed with the identity key; the signature is hedged with 32 fresh bytes (R351, R507, R510). -/
def State.signed (s : State) (b : Bytes) : Bytes × State :=
  let (rnd, s) := State.entropy 8 s
  (bpad (mldsaSign s.fuses.idSeed b rnd) 2420, s)

/-- The end of ATTEST: the report becomes object 2. -/
def State.attestEnd (s : State) (c : SecCmd) : State :=
  let b := s.reportBody c
  let (g, s) := s.signed b
  { s with sec := { s.sec with report := b ++ g } }

/-- Bits blown one after the other from `i`; a bit that does not read back ends it (R506). -/
def burn (blown : Nat) : Nat → Nat → W64 → Bool × W64
  | 0, _, w => (true, w)
  | n + 1, i, w => if blown.testBit i then burn blown n (i + 1) (w ||| BitVec.ofNat 64 (2 ^ i)) else (false, w)

/-- Bits that an ARB_COMMIT blows. -/
def State.burnCount (s : State) (k : Nat) : Nat := s.sec.runSvn - arbValue (s.arbFuse k)

/-- Blows up to `n` bits of counter k. -/
def State.burnBits (s : State) (k n blown : Nat) : Bool × State :=
  let r := burn blown n (arbValue (s.arbFuse k)) (s.arbFuse k)
  (r.1, { s with fuses := { s.fuses with arb := mset 0 s.fuses.arb k r.2 } })

/-- The end of DBG_REQ: the challenge becomes object 4. -/
def State.dbgReqEnd (s : State) (arg : Nat) : State :=
  let (r, s) := State.entropy 8 s
  let ch := r ++ s.dieRecord 0 ++ toLE 4 (s.rd cERR 0 ERR.BOOT_CNT).toNat ++ toLE 1 (arg % 4) ++ bpad [] 11
  { s with sec := { s.sec with chal := ch, chalValid := true, scopesReq := BitVec.ofNat 2 arg } }

/-- Object 5 as written. -/
def State.tokenBytes (s : State) (n : Nat) : Bytes := (List.range n).map fun i => mget 0 s.sec.token i

/-- A token passes every check of R512 event 3. -/
def State.tokenOk (s : State) (b : Bytes) : Bool :=
  let scope := bfield b 6 1
  s.sec.chalValid && bfield b 0 4 == 0x4244524B && bfield b 4 2 == 1 && scope != 0 &&
    (List.range 8).all (fun i => !scope.testBit i || (decide (i < 2) && s.sec.scopesReq.getLsbD i)) &&
    bslice b 8 64 == bpad s.sec.chal 64 && bslice b 0x48 16 == s.dieRecord 0 && zeroRun b 7 1 && zeroRun b 0x58 8 &&
    hash32 (bslice b 0x60 1312) == bpad s.fuses.rotKeyHash 32 &&
    mldsaVerify (bslice b 0x60 1312) (b.take 0x580) (bslice b 0x580 2420)

/-- The end of DBG_TOKEN: scopes open, the challenge is spent (R512 event 4). -/
def State.dbgTokenEnd (s : State) : Nat × State :=
  let b := s.tokenBytes 3828
  let ok := s.tokenOk b
  let s1 := { s with sec := { s.sec with chalValid := false } }
  if ok then
    let scope := bfield b 6 1
    let s2 := { s1 with sec := { s1.sec with bscan := s1.sec.bscan || scope.testBit 0, full := s1.sec.full || scope.testBit 1 } }
    (0, s2.irq cSEC 0 4)
  else (0x09, s1)

/-- What a command does at its end, and its status. -/
def State.secEffect (s : State) (c : SecCmd) (blown : Nat) : Nat × State :=
  if c.status ≠ 0 then (c.status, s)
  else
    match c.op with
    | 1 => (0, s.attestEnd c)
    | 2 =>
      let r := s.burnBits c.arg (s.burnCount c.arg) blown
      (if r.1 then 0 else 0x0A, r.2)
    | 3 => (0, s.setMeas c.arg (hash32 (s.meas c.arg ++ c.nonce)))
    | 4 => (0, s.dbgReqEnd c.arg)
    | _ => s.dbgTokenEnd

/-- The least time a command takes: 200 µs for each bit blown (R506). -/
def State.secTime (s : State) (c : SecCmd) : Nat := if c.op = 2 ∧ c.status = 0 then 20000 * s.burnCount c.arg else 0

/-- SEC_CMD_END (R514). -/
def execSecCmdEnd (blown : Nat) (s : State) : Res :=
  .next <|
    match s.sec.cmd with
    | none => s
    | some c =>
      if s.life.vaon && !s.life.inReset && decide (c.start + s.secTime c ≤ s.clk.time) then
        let r := s.secEffect c blown
        ({ r.2 with sec := { r.2.sec with cmd := none } }).secEnd c.op r.1
      else s

/-! ### The TAP (R511, R542) -/

/-- IDCODE of the grade. -/
def State.idcode (s : State) : W32 := if s.fuses.grade9632 then 0x19632A6B else 0x19640A6B

/-- JTAG_INSTRUCTION (R511): an instruction whose scope is not open acts as BYPASS; all ones is BYPASS. -/
def execJtagInstruction (ir : BitVec 8) (s : State) : Res :=
  .next <|
    if !s.life.vaon then s
    else
      let k := if ir = 0xFF then 0 else Config.jtagOpcode ir
      let mode : JtagMode := if k = 1 then .idcode else if k = 2 ∧ (s.sec.bscan ∨ s.sec.full) then .bscan
        else if k = 3 ∧ s.sec.full then .debug else .bypass
      let s1 := { s with sec := { s.sec with tap := mode } }
      if mode = .idcode then s1.send (.jtagId s1.idcode) else s1

end Sys2Proof.Machine
end

