-- ==== Sys2Proof/Machine/Boot.lean ====
section
/-! DEFINITION. Reset and what is kept through it, VAON, power loss, and the stages of bring-up (R478, R487, R500, R516–R526,
R538, R539). -/
namespace Sys2Proof.Machine

/-! ### Reset (R517) -/

/-- Registers kept while VAON is in its range (R517, R526): those the board declared, the charge, and what the log, the last
bleed, the boot count and the reset cause need. -/
def keptRegs : List Nat :=
  [rk cERR 0 ERR.BOOT_CNT, rk cERR 0 ERR.LOG_WR, rk cERR 0 ERR.LOG_LOST, rk cSYS 0 SYS.RESET_CAUSE, rk cSEC 0 SEC.BOOT_FAIL_CNT,
   rk cPWR 0 PWR.SLEW, rk cPWR 0 PWR.WAKE_GAP, rk cPWR 0 PWR.E_LIMIT, rk cPWR 0 PWR.BACKFEED_LIMIT, rk cPWR 0 PWR.VDECL,
   rk cPWR 0 PWR.I_CAP, rk cPWR 0 PWR.SHED_CAP, rk cPWR 0 PWR.THERM_CFG, rk cPWR 0 PWR.THERM_CAP, rk cPWR 0 PWR.LAST_BLEED,
   rk cPWR 0 PWR.CHARGE_A, rk cPWR 0 PWR.CHARGE_A_HI, rk cPWR 0 PWR.CHARGE_B, rk cPWR 0 PWR.CHARGE_B_HI]

/-- The counters' fuse bits after a reset that cuts an ARB_COMMIT short: one bit for each 200 µs that have passed (R506, R518). -/
def State.burnCut (s : State) : SMap W64 :=
  match s.sec.cmd with
  | some c =>
    if c.op = 2 ∧ c.status = 0 then
      (s.burnBits c.arg (min (s.burnCount c.arg) ((s.clk.time - c.start) / 20000)) (2 ^ 64 - 1)).2.fuses.arb
    else s.fuses.arb
  | none => s.fuses.arb

/-- The device enters reset: everything but the kept items is as after reset; TWIN_ALIVE_OUT falls (R517). -/
def State.enterReset (s : State) : State :=
  { pending := s.pending, outbox := s.outbox, fresh := s.fresh
    regs := s.regs.filter fun e => keptRegs.contains e.1
    life := { vaon := true, inReset := true, halted := false, cold := s.life.cold, pin := s.life.pin, warm := s.life.warm
              loss := s.life.loss, hadHalt := s.life.hadHalt || s.life.halted }
    pins := { s.pins with twinAliveOut := false }
    fuses := { s.fuses with arb := s.burnCut }
    err := { s.err with queues := [] }
    pwr := { alert := s.pwr.alert, chargeA := s.pwr.chargeA, chargeB := s.pwr.chargeB, bleeding := s.pwr.bleeding }
    age := { hist := s.age.hist, pohBase := s.age.pohBase + s.clk.time } }

/-- Marks why the reset that is in progress came. -/
def State.resetWhy (s : State) (pin warm loss : Bool) : State :=
  { s with life := { s.life with pin := s.life.pin || pin, warm := s.life.warm || warm, loss := s.life.loss || loss } }

/-- RESET_CAUSE of the release (R526). -/
def State.resetCause (s : State) : W32 :=
  u32 (b2n s.life.cold + 2 * b2n s.life.pin + 4 * b2n s.life.warm + 8 * b2n s.life.hadHalt + 16 * b2n s.life.loss)

/-- The device leaves reset: the timebase counts from zero, BOOT_CNT rises, RESET_CAUSE is set (R32, R487, R517). -/
def State.leaveReset (s : State) : State :=
  let s1 := (s.wr cSYS 0 SYS.RESET_CAUSE s.resetCause).bumpW cERR 0 ERR.BOOT_CNT
  { s1 with clk := {}, life := { vaon := true } }

/-- The trip of R538: released at the edge that asserts RESET_N when every sensor reads 105 °C or below. -/
def State.tripTest (s : State) (tj : Temps) : State :=
  if decide (hottest tj ≤ 105) then { s with pins := { s.pins with thermtripN := true } } else s

/-- RESET_N_ASSERT (R517, R518, R538). -/
def execResetNAssert (tj : Temps) (s : State) : Res :=
  .next <|
    if s.life.vaon && s.pins.resetN then
      let s := ({ s with pins := { s.pins with resetN := false } }).tripTest tj
      (if s.life.inReset then s else s.enterReset).resetWhy true false false
    else s

/-- RESET_N_RELEASE (R500, R516, R538): PWRGOOD is up by then; a trip that stands, and a bleed in progress, keep the device in
reset. -/
def execResetNRelease (s : State) : Res :=
  .next <|
    if s.life.vaon && !s.pins.resetN then
      let s := { s with pins := { s.pins with resetN := true, pwrgood := true } }
      if s.life.inReset && s.pins.thermtripN && !s.pwr.bleeding then s.leaveReset else s
    else s

/-- A write of WARM_RESET takes effect. -/
def State.warmOk (s : State) (m : Nat) : Bool := s.pathOk m && s.writeServed cSYS && s.isOwner m

/-- WARM_RESET (R520): an assertion of 10 µs and its release. -/
def execWarmReset (m : Nat) (s : State) : Res :=
  .next <|
    let s1 := s.ownerWrite m cSYS 0 hCTRL false id
    if s.warmOk m then (s1.enterReset.resetWhy false true false).leaveReset else s1

/-! ### VAON and power loss (R478, R487) -/

/-- VAON leaves its range: everything but the fuses is lost (R487, R517, R538). -/
def execVaonLeavesRange (s : State) : Res :=
  .next <|
    if s.life.vaon then
      { pending := s.pending, outbox := s.outbox, fresh := s.fresh, fuses := { s.fuses with arb := s.burnCut }
        life := { vaon := false, inReset := true }
        pins := { s.pins with twinAliveOut := false, thermtripN := true } }
    else s

/-- VAON comes up with RESET_N held low (R487, R516): AON starts from its reset values, BOOT_CNT reads 0. -/
def execVaonComesUp (s : State) : Res :=
  .next <|
    if !s.life.vaon then
      { s with life := { vaon := true, inReset := true, cold := true, pin := true }, pins := { s.pins with resetN := false, pwrgood := false } }
    else s

/-- POWER_LOSS (R478, R518, R539): the device enters reset and the bleeder acts. -/
def execPowerLoss (pin : Bool) (s : State) : Res :=
  .next <|
    if s.life.vaon && !s.pwr.bleeding && (!pin || s.pins.pwrgood) then
      let s := if s.life.inReset then s else s.enterReset
      let s := { s with pwr := { s.pwr with bleeding := true }, pins := { s.pins with pwrgood := s.pins.pwrgood && !pin } }
      s.resetWhy false false true
    else s

/-- BLEED_END (R478): LAST_BLEED takes what was measured. -/
def execBleedEnd (diss ret : Nat) (s : State) : Res :=
  .next <|
    if s.life.vaon && s.pwr.bleeding then
      ({ s with pwr := { s.pwr with bleeding := false } }).wr cPWR 0 PWR.LAST_BLEED
        (u32 (2 ^ 31 + min 2047 diss * 65536 + min 1023 ret))
    else s

/-! ### Bring-up (R519–R523) -/

/-- The order of stage 2 (R519). -/
def stage2Order : List Nat :=
  [88, 89, 64, 65, 66, 67, 68, 69, 70, 71, 81, 80, 72, 73, 74, 75, 76, 77, 78, 79, 82, 83, 84, 85, 86, 87,
   90, 91, 92, 93, 94, 95]

/-- The firmware asks for one domain and the governor starts its wake WAKE_GAP after the one before it, or refuses. -/
def State.stageWake (s : State) (d : Nat) : State :=
  if s.pdRefused d true then s.pdRefuse
  else
    let t := match s.pwr.lastWake with | some t => max s.clk.time (t + s.wakeGap) | none => s.clk.time
    let s := (s.setPdOn d true).setPd d { phase := .settling t }
    ({ s with pwr := { s.pwr with lastWake := some t } }).wakeKeys d

/-- BRINGUP_POWER (R519): stage 2, while no load shed holds up wakes. -/
def execBringupPower (s : State) : Res :=
  .next <| if s.live && s.bringup == 2 && !s.shed then (stage2Order.foldl State.stageWake s).setBringup 3 else s

/-- Every wake that was asked for has closed its switch. -/
def State.wakesClosed (s : State) : Bool :=
  s.pwr.pd.all fun e => match e.2.phase with
    | .settling t => decide (t + switchTime e.1 ≤ s.clk.time)
    | .wakeWait => false
    | _ => true

/-- A lane that failed calibration is left out of LANE_EN (R521). -/
def State.dropLanes (s : State) (bad : Nat) : State :=
  (List.range 88).foldl (fun s k =>
    if bad.testBit k then
      let (c, i, o) := linkReg (k / 8)
      s.wrb c i o (k % 8) false
    else s) s

/-- A stack that failed to train (R521): FAILED, and a record against its page. -/
def State.stackFailed (s : State) (n : Nat) : State :=
  ((s.wrb cSYS 0 SYS.HBM_TRAIN (8 + n) true).wrb cHBM n hSTAT 2 false).recUC cHBM n 0x05

/-- Stacks that fail to train: those told, and those whose domain is off. -/
def State.failedStacks (s : State) (failed : Nat) : List Nat :=
  (List.range 8).filter fun n => failed.testBit n || !s.pdStat (64 + n)

/-- A stack has trained: its identification data is read (R499). -/
def State.stackTrained (s : State) (n : Nat) (id : Bytes) : State :=
  let s := (s.wrb cHBM n hSTAT 2 true).wrb cSYS 0 SYS.HBM_TRAIN n true
  { s with sec := { s.sec with stackIds := mset [] s.sec.stackIds n (bpad id 16) } }

/-- Domains whose wakes end with stage 3 are ready (R464, R466). -/
def State.stage3Ready (s : State) : State :=
  (stage2Order.filter fun d => (match (s.pdst d).phase with | .settling _ => true | _ => false)).foldl State.pdReady s

/-- The end of stage 3 with every stack trained and initialised: MEM_READY, stage 4 (R388, R519, R526). -/
def State.memUp (s : State) : State :=
  let s := (List.range 8).foldl State.initEnd s
  let s := (s.wrb cSYS 0 hSTAT 2 true).wr cSYS 0 SYS.T_MEM (u32 s.clk.time)
  (s.setBringup 4).irq cSYS 0 2

/-- Bring-up ends in stage 6 (R521). -/
def State.bringupFail (s : State) : State :=
  ((s.setBringup 6).wr cSYS 0 SYS.T_READY (u32 s.clk.time)).irq cSYS 0 8

/-- Stage 3 (R519, R521). -/
def State.train (s : State) (failed bad : Nat) (ids : List Bytes) : State :=
  let fs := s.failedStacks failed
  let s := s.stage3Ready
  let s := (List.range 8).foldl (fun s n => if fs.contains n then s.stackFailed n else s.stackTrained n (ids.getD n [])) s
  let s := (s.dropLanes bad).wrb cSYS 0 hSTAT 1 true
  let s := { s with life := { s.life with trained := true } }
  (if fs.isEmpty then s.memUp else s.bringupFail).oplSettle

/-- BRINGUP_TRAIN (R519, R521): once the switches of stage 2 have closed. -/
def execBringupTrain (failed badLanes : Nat) (ids : List Bytes) (s : State) : Res :=
  .next <| if s.live && s.bringup == 3 && s.wakesClosed then s.train failed badLanes ids else s

/-- A tile is not usable (R522): TEST_FAIL, TILE_MASK of its Floe, DEGRADED. -/
def State.tileFailed (s : State) (t : Nat) : State :=
  let s1 := s.wrb cSYS 0 (SYS.TEST_FAIL + 4 * (t / 32)) (t % 32) true
  let s2 := s1.wrb cDSP (t / 64) (DSP.TILE_MASK + 4 * (t % 64 / 32)) (t % 32) false
  if s2.rdb cSYS 0 hSTAT 3 then s2 else (s2.wrb cSYS 0 hSTAT 3 true).irq cSYS 0 4

/-- Stage 4 asks for a tile pair; a refused wake leaves both tiles in TEST_FAIL (R522). -/
def State.pairWanted (s : State) (p : Nat) : State :=
  if !bit s.fuses.tilePairs p then s
  else
    let s1 := s.pdRequest p true
    if s1.pdOn p then s1 else (s1.tileFailed (2 * p)).tileFailed (2 * p + 1)

/-- The self-tests of one tile have ended (R111, R519, R522). -/
def State.tileTested (s : State) (fails : List Nat) (t : Nat) : State :=
  if !s.tileOn t then s
  else
    let (v, s1) := s.free
    let bad := fails.contains t
    let s2 := ((s1.wrb cVEC t hSTAT 2 true).wrb cVEC t hSTAT 3 (if bad then bit v 0 else true)).irq cVEC t 1
    if bad then (s2.tileFailed t).recUC cTILE t 0x05 else s2

/-- The pairs of stage 4 are ready. -/
def State.pairsReady (s : State) : Bool :=
  (List.range 64).all fun p => (s.pdst p).phase == .on || (s.pdst p).phase == .off

/-- Bring-up is complete: READY (R522, R526). -/
def State.bringupReady (s : State) : State :=
  (((s.setBringup 5).wrb cSYS 0 hSTAT 0 true).wr cSYS 0 SYS.T_READY (u32 s.clk.time)).irq cSYS 0 1

/-- BRINGUP_TEST (R519, R522): taken first, stage 4 asks for the tile pairs in ascending order; taken again once they are
ready, it ends with what the self-tests found. -/
def execBringupTest (failTiles : List Nat) (s : State) : Res :=
  .next <|
    if s.live && s.bringup == 4 then
      if !s.life.woken then
        let s1 := (List.range 64).foldl State.pairWanted s
        { s1 with life := { s1.life with woken := true } }
      else if s.pairsReady then ((List.range 128).foldl (fun s t => s.tileTested failTiles t) s).bringupReady
      else s
    else s

end Sys2Proof.Machine
end

