-- ==== Sys2Proof/Machine/Errors.lean ====
section
/-! DEFINITION. The ERR page's commands: POP, CLR_FIRST, CLR_LOG (R485, R494). -/
namespace Sys2Proof.Machine

/-- SEL names a page of R438. -/
def selValid (sel : W32) : Bool := decide (fld sel 0 16 < instances (fld sel 16 8))

/-- The PAGE_ID that SEL names. -/
def selPage (sel : W32) : Nat := fld sel 0 24

/-- Removes the oldest record of the selected page's queue (R485, R494). -/
def State.popErr (s : State) : State :=
  let sel := s.rd cERR 0 ERR.SEL
  if selValid sel then
    { s with err := { s.err with queues := mset [] s.err.queues (selPage sel) (s.errQ (selPage sel)).tail } }
  else s

/-- Empties the selected page's first-error latch. -/
def State.clrFirst (s : State) : State :=
  let sel := s.rd cERR 0 ERR.SEL
  if selValid sel then { s with err := { s.err with first := mset none s.err.first (selPage sel) none } } else s

/-- Empties the log, LOG_LOST and FATAL_REC unless some page's queue holds a record; the refusal is recorded in the ERR
page's own queue (R494). -/
def State.clrLog (s : State) : State :=
  if s.err.queues.any (fun e => !e.2.isEmpty) then s.recUC cERR 0 0x01
  else
    let s := { s with err := { s.err with log := [], logCnt := 0, fatal := none } }
    (s.wr cERR 0 ERR.LOG_LOST 0).wr cERR 0 ERR.LOG_WR 0

/-- POP (R485). -/
def execPop (m : Nat) (s : State) : Res := .next <| s.ownerWrite m cERR 0 ERR.POP false (·.popErr)

/-- CLR_FIRST (R485). -/
def execClrFirst (m : Nat) (s : State) : Res := .next <| s.ownerWrite m cERR 0 ERR.CLR_FIRST false (·.clrFirst)

/-- CLR_LOG (R494). -/
def execClrLog (m : Nat) (s : State) : Res := .next <| s.ownerWrite m cERR 0 hCTRL false (·.clrLog)

end Sys2Proof.Machine
end

