-- ==== Sys2Proof/Machine/Units.lean ====
section
/-! DEFINITION. What the units that take commands from rings share (R129): the address space of HBM and the tile-store
direct window as they reach it, element arrays in it, descriptors, the ring registers and completion. -/
namespace Sys2Proof.Machine

/-! ### The space a unit addresses: HBM and the direct window (R128, R164, R179, R204) -/

/-- A run of bytes lies in HBM or in the direct window. -/
def inDevSpace (a len : Nat) : Bool := decide (a + len ≤ hbmSize) || (decide (dwBase ≤ a) && decide (a + len ≤ awBase))

/-- Cuts a run of the direct window at tile boundaries: tile, offset, bytes, place in the run. -/
def dwPieces (a len : Nat) : List (Nat × Nat × Nat × Nat) :=
  if len = 0 then []
  else
    let o := a - dwBase
    (List.range ((o + len - 1) / tsSize + 1 - o / tsSize)).map fun i =>
      let t := o / tsSize + i
      let lo := max o (t * tsSize)
      (t, lo % tsSize, min (o + len) ((t + 1) * tsSize) - lo, lo - o)

/-- Reads a run of bytes: unavailable parts read as poison with `ok` false. -/
def State.devRead (s : State) (q : Rq) (a len : Nat) : Rd × State :=
  if a + len ≤ hbmSize then s.hbmRead q a len
  else if !inDevSpace a len then (⟨List.replicate len 0, List.replicate len true, false⟩, s)
  else (dwPieces a len).foldl (fun acc p =>
    let (t, o, n, _) := p
    let r : Rd × State := match acc.2.pathOff q (floeOf t) with
      | some b => (⟨List.replicate n 0, List.replicate n true, false⟩, acc.2.bridgeUnavail b)
      | none => if acc.2.tileOn t then acc.2.tsRead t o n else (⟨List.replicate n 0, List.replicate n true, false⟩, acc.2)
    (⟨acc.1.data ++ r.1.data, acc.1.pois ++ r.1.pois, acc.1.ok && r.1.ok⟩, r.2)) (⟨[], [], true⟩, s)

/-- Writes a run of bytes with a poison flag for each; `false` when some part is unavailable. -/
def State.devWriteP (s : State) (q : Rq) (a : Nat) (d : Bytes) (pois : List Bool) : Bool × State :=
  if a + d.length ≤ hbmSize then s.hbmWriteP q a d pois
  else if !inDevSpace a d.length then (false, s)
  else (dwPieces a d.length).foldl (fun acc p =>
    let (t, o, n, k) := p
    match acc.2.pathOff q (floeOf t) with
    | some b => (false, acc.2.bridgeUnavail b)
    | none => if acc.2.tileOn t then (acc.1, acc.2.tsWriteP t o (bslice d k n) ((pois.drop k).take n)) else (false, acc.2))
    (true, s)

/-- Writes a run of bytes with one poison flag. -/
def State.devWrite (s : State) (q : Rq) (a : Nat) (d : Bytes) (pois : Bool := false) : State :=
  (s.devWriteP q a d (List.replicate d.length pois)).2

/-- A tile store that the runs need is frozen. -/
def State.winFrozen (s : State) (rs : List (Nat × Nat × Bool)) : Bool :=
  (rs.filter fun r => decide (dwBase ≤ r.1) && decide (r.1 + r.2.1 ≤ awBase)).any fun r =>
    (dwPieces r.1 r.2.1).any fun p => s.tsFrozen p.1

/-- A unit's work goes on when its HBM accesses can be made and no tile store it needs is frozen. -/
def State.devGated (s : State) (rs : List (Nat × Nat × Bool)) (act : State → State) : State :=
  if s.winFrozen rs then s else s.gated rs act

/-- The same for work that tells whether it was done; `false` while it waits. -/
def State.runsTry (s : State) (rs : List (Nat × Nat × Bool)) (act : State → Bool × State) : Bool × State :=
  if s.winFrozen rs then (false, s)
  else
    let g := s.gate (rs.filter fun r => decide (r.1 < hbmSize) && r.2.1 != 0)
    if g.1 then act g.2 else (false, g.2)

/-- Some byte of a slice of a read is poisoned. -/
def Rd.poisIn (r : Rd) (o n : Nat) : Bool := ((r.pois.drop o).take n).any id

/-- The elements that have a value as runs of consecutive bytes: address, bytes, poison. -/
def elemRuns (w a : Nat) : List (Option (Bytes × Bool)) → List (Nat × Bytes × List Bool)
  | [] => []
  | none :: r => elemRuns w (a + w) r
  | some (b, p) :: r =>
    match elemRuns w (a + w) r with
    | (a', d, ps) :: rest =>
      if a' = a + w then (a, b ++ d, List.replicate b.length p ++ ps) :: rest
      else (a, b, List.replicate b.length p) :: (a', d, ps) :: rest
    | [] => [(a, b, List.replicate b.length p)]

/-- Writes the elements of an array of `w`-byte elements that have a value, each run of them with one write. -/
def State.devWriteElems (s : State) (q : Rq) (a w : Nat) (l : List (Option (Bytes × Bool))) : State :=
  (elemRuns w a l).foldl (fun s r => (s.devWriteP q r.1 r.2.1 r.2.2).2) s

/-! ### Rings (R129) -/

/-- The ring registers have the same offsets on the OPT, PRN, XCH and RED pages. -/
abbrev rBase : Nat := 0x40
abbrev rSize : Nat := 0x48
abbrev rHead : Nat := 0x4C
abbrev rTail : Nat := 0x50
abbrev rDone : Nat := 0x54
abbrev rLast : Nat := 0x58

/-- Entries of a ring: 2^CQ_SIZE, 4 to 16 (smaller and larger values act as the nearest). -/
def State.ringLog (s : State) (cls inst : Nat) : Nat := max 4 (min 16 (s.rdf cls inst rSize 0 5))

/-- Address of ring entry k. -/
def State.ringAddr (s : State) (cls inst k : Nat) : Nat :=
  s.rd64 cls inst rBase % 2 ^ 48 / 128 * 128 + 128 * (k % 2 ^ s.ringLog cls inst)

/-- CQ_HEAD and CQ_TAIL. -/
def State.ringHead (s : State) (cls inst : Nat) : Nat := s.rdf cls inst rHead 0 16
def State.ringTail (s : State) (cls inst : Nat) : Nat := s.rdf cls inst rTail 0 16 % 2 ^ s.ringLog cls inst

/-- The ring is empty. -/
def State.ringEmpty (s : State) (cls inst : Nat) : Bool := s.ringHead cls inst == s.ringTail cls inst

/-- CQ_HEAD goes to the next entry. -/
def State.ringNext (s : State) (cls inst : Nat) : State :=
  s.wr cls inst rHead (u32 ((s.ringHead cls inst + 1) % 2 ^ s.ringLog cls inst))

/-- The unit takes commands: on, EN, not frozen. -/
def State.ringOn (s : State) (cls inst : Nat) : Bool :=
  decide (inst < instances cls) && s.pageOn cls inst && s.rdb cls inst hCTRL 0 && !s.rdb cls inst hFREEZE 0

/-- The unit can take a command: it takes commands and its ring is not empty. -/
def State.ringReady (s : State) (cls inst : Nat) : Bool := s.ringOn cls inst && !s.ringEmpty cls inst

/-- Completion in the descriptor and the ring registers: STATUS at `off`, DONE_CNT, LAST, the interrupt. -/
def State.ringComplete (s : State) (q : Rq) (cls inst idx off status : Nat) (irq : Bool) : State :=
  let s := s.devWrite q (s.ringAddr cls inst idx + off) [BitVec.ofNat 8 status]
  let s := (s.bumpW cls inst rDone).wr cls inst rLast (u32 (status * 2 ^ 24 + idx % 65536))
  if irq then s.irq cls inst 1 else s

/-- Equal parts of a byte string. -/
def chunksOf (w : Nat) : Nat → Bytes → List Bytes
  | 0, _ => []
  | n + 1, b => bpad (b.take w) w :: chunksOf w n (b.drop w)

/-- Poison of equal parts of a read. -/
def poisOf (w : Nat) : Nat → List Bool → List Bool
  | 0, _ => []
  | n + 1, p => (p.take w).any id :: poisOf w n (p.drop w)

/-- The `n` elements of `w` bytes that a read gave, each with its poison. -/
def Rd.elems (r : Rd) (w n : Nat) : List (Bytes × Bool) := (chunksOf w n r.data).zip (poisOf w n r.pois)

/-- A list with its indices. -/
def indexed {α : Type} (l : List α) : List (α × Nat) := l.zip (List.range l.length)

/-- What the state becomes when a unit's accesses can be made: `s`, worked out from `s0`; otherwise the unit waits. -/
def State.devWhen (s0 : State) (rs : List (Nat × Nat × Bool)) (s : State) : State := s0.devGated rs fun _ => s

/-- Takes the descriptor at the head of a ring, once it can be read: `go` gets the ring index and the 128 bytes, `none`
for bytes that are poisoned or not available. -/
def State.ringTake (s0 : State) (q : Rq) (cls inst : Nat) (go : State → Nat → Option Bytes → State) : State :=
  let h := s0.ringHead cls inst
  let a := s0.ringAddr cls inst h
  s0.devGated [(a, 128, false)] fun s =>
    let (r, s) := s.devRead q a 128
    go s h (if r.ok && !r.anyPois then some r.data else none)

/-- CQ_TAIL (R129). -/
def execCqTailWrite (m cls inst : Nat) (v : BitVec 32) (s : State) : Res :=
  .next <|
    if cls = cOPT ∨ cls = cPRN ∨ cls = cXCH ∨ cls = cRED then
      s.ownerWrite m cls inst rTail false (·.wr cls inst rTail (v &&& 0xFFFF))
    else s

end Sys2Proof.Machine
end

