-- ==== Sys2Proof/Machine/Optimizer.lean ====
section
/-! DEFINITION. The optimizer units (R121–R138): descriptors and what refuses them, the divisor, the update rules, row
records (R207–R210), gradient accumulation (R125, R127), working copies, completion. -/
namespace Sys2Proof.Machine

/-! ### FP32 steps of R132 -/

def fsub32 (a b : W32) : W32 := fadd32 a (fneg32 b)
/-- 1.0 -/
def fone : W32 := 0x3F800000

/-- β^t by square-and-multiply over the bits of t from the most significant; `k` bits remain (R131). -/
def fpowAux : Nat → W32 → Nat → W32 → W32
  | 0, _, _, acc => acc
  | k + 1, b, t, acc =>
    let a := fmul32 acc acc
    fpowAux k b t (if t / 2 ^ k % 2 = 1 then fmul32 a b else a)

/-- β^t (R131). -/
def fpow32 (b : W32) (t : Nat) : W32 := if t = 0 then fone else fpowAux (Nat.log2 t) b t b

/-- The bias correction 1 / (1 − β^t). -/
def biasCorr (b : W32) (t : Nat) : W32 := fdiv32 fone (fsub32 fone (fpow32 b t))

/-- η × 2^u (R124). -/
def scaleLr (lr : W32) (u : Int) : W32 := match (f32 lr).scale u with | .nan => qnan | v => toF32 v

/-- A value from its stored form: BF16 in class S, FP32 in class W (R121). -/
def classVal (cls : Nat) (b : Bytes) : W32 := if cls = 0 then u32 (leNat b * 65536) else u32 (leNat b)
/-- Bytes of a stored value. -/
abbrev classW (cls : Nat) : Nat := if cls = 0 then 2 else 4
/-- A value in its stored form. -/
def classEnc (cls : Nat) (r : Rnd) (w : W32) : Bytes :=
  if cls = 0 then toLE 2 (fmtBF16.enc r (f32 w)).1 else toLE 4 w.toNat
/-- The stored form is finite. -/
def classFin (cls : Nat) (b : Bytes) : Bool := isFin32 (classVal cls b)

/-! ### Descriptors (R129, R138) -/

/-- An update descriptor. -/
structure OptDesc where
  op : Nat
  rule : Nat
  cls : Nat
  flags : Nat
  wfmt : Nat
  u : Int
  n : Nat
  w : Nat
  m : Nat
  v : Nat
  g : Nat
  hdr : Nat
  wc : Nat
  lr : W32
  b1 : W32
  b2 : W32
  eps : W32
  wd : W32
  divisor : W32
  step : Nat
  stream : W32
  idx : Nat
  waitSeq : Nat
  waitCh : Nat
  resv : Nat
  row : Nat
  passes : Nat
  draw : Nat
  wcs : Nat
  /-- CODE of the row records that W_ADDR names under rule 4: no field of the 128 bytes (log 11) -/
  code : Nat := 0

/-- The descriptor in 128 bytes. -/
def optDescOf (b : Bytes) : OptDesc :=
  { op := bfield b 0 1, rule := bfield b 1 1, cls := bfield b 2 1, flags := bfield b 3 1, wfmt := bfield b 4 1
    u := sext 8 (bfield b 5 1), n := bfield b 8 8, w := bfield b 0x10 8, m := bfield b 0x18 8, v := bfield b 0x20 8
    g := bfield b 0x28 8, hdr := bfield b 0x30 8, wc := bfield b 0x38 8, lr := u32 (bfield b 0x40 4)
    b1 := u32 (bfield b 0x44 4), b2 := u32 (bfield b 0x48 4), eps := u32 (bfield b 0x4C 4), wd := u32 (bfield b 0x50 4)
    divisor := u32 (bfield b 0x54 4), step := bfield b 0x58 4, stream := u32 (bfield b 0x5C 4), idx := bfield b 0x60 8
    waitSeq := bfield b 0x68 4, waitCh := bfield b 0x6C 1, resv := bfield b 0x6D 1, row := bfield b 0x6E 2
    passes := bfield b 0x70 4, draw := bfield b 0x74 4, wcs := bfield b 0x78 8 }

def OptDesc.first (d : OptDesc) : Bool := d.flags / 128 % 2 == 1
def OptDesc.gfp32 (d : OptDesc) : Bool := d.flags / 64 % 2 == 1
def OptDesc.divMode (d : OptDesc) : Nat := d.flags / 16 % 4
def OptDesc.wcopy (d : OptDesc) : Bool := d.flags / 8 % 2 == 1
def OptDesc.wait (d : OptDesc) : Bool := d.flags / 4 % 2 == 1
def OptDesc.nesterov (d : OptDesc) : Bool := d.flags / 2 % 2 == 1
def OptDesc.irq (d : OptDesc) : Bool := d.flags % 2 == 1

/-- The working copy is in an MX format. -/
def OptDesc.mx (d : OptDesc) : Bool := codeFamily d.wfmt == some 1
/-- The command writes a working copy. -/
def OptDesc.writesWc (d : OptDesc) : Bool := d.op == 4 || (d.op == 1 && d.wcopy)
/-- Weights of the command: elements, or the elements of its rows. -/
def OptDesc.elems (d : OptDesc) : Nat := if d.rule = 4 then d.n * d.row else d.n
/-- Gradient elements of a row or of the whole command, in bytes. -/
def OptDesc.gBytes (d : OptDesc) (k : Nat) : Nat := if d.gfp32 then 4 * k else 68 * ((k + 31) / 32)
/-- Gradient bytes of an UPDATE. -/
def OptDesc.gAll (d : OptDesc) : Nat := if d.rule = 4 then d.n * d.gBytes d.row else d.gBytes d.n

/-- Bytes of a row record (R207). -/
def rowBytes (code dim : Nat) : Nat :=
  match code with
  | 0 => alignUp (4 + dim) 32
  | 1 => alignUp (4 + (dim + 1) / 2) 32
  | 2 => alignUp (2 * dim) 32
  | _ => alignUp (4 * dim) 32

/-! ### Table descriptors (R205) -/

/-- A table descriptor's fields, from its 128 bytes. -/
def tCode (b : Bytes) : Nat := bfield b 0 1
def tMode (b : Bytes) : Nat := bfield b 1 1
def tDim (b : Bytes) : Nat := bfield b 2 2
def tShards (b : Bytes) : Nat := bfield b 4 4
def tRows (b : Bytes) : Nat := bfield b 8 8
def tRanks (b : Bytes) : Nat := bfield b 0x10 8
def tShift (b : Bytes) : Nat := bfield b 0x18 1
def tHotLog (b : Bytes) : Nat := bfield b 0x19 1
def tRule (b : Bytes) : Nat := bfield b 0x1A 1
def tUexp (b : Bytes) : Int := sext 8 (bfield b 0x1B 1)
def tBase (b : Bytes) (s : Nat) : Nat := bfield b (0x20 + 0x20 * s) 8
def tAcc (b : Bytes) (s : Nat) : Nat := bfield b (0x28 + 0x20 * s) 8
def tHotDir (b : Bytes) (s : Nat) : Nat := bfield b (0x30 + 0x20 * s) 8
def tHotRep (b : Bytes) (s : Nat) : Nat := bfield b (0x38 + 0x20 * s) 8
def tLr (b : Bytes) : W32 := u32 (bfield b 0x60 4)
def tEps (b : Bytes) : W32 := u32 (bfield b 0x64 4)
def tStream (b : Bytes) : W32 := u32 (bfield b 0x68 4)
def tDivisor (b : Bytes) : W32 := u32 (bfield b 0x6C 4)
def tHot (b : Bytes) : Nat := bfield b 0x70 4

/-- Size of a row record of the table. -/
def tRec (b : Bytes) : Nat := rowBytes (tCode b) (tDim b)

/-- Address of the descriptor of table t on engine n. -/
def State.tblAddr (s : State) (n t : Nat) : Nat := s.rd64 cXCH n XCH.TBL_BASE_LO % 2 ^ 48 / 128 * 128 + 128 * t

/-- The table's records or hot replicas of some slot hold the address. -/
def tHolds (td : Bytes) (a : Nat) : Bool :=
  [0, 1].any fun k => tDim td != 0 && decide (tCode td ≤ 3) &&
    ((decide (tHotRep td k ≤ a) && decide (a < tHotRep td k + tRec td * tHot td)) || (tBase td k == a && a != 0))

/-- CODE of the row records at an address, as a ring command of rule 4 finds it: the update descriptor has no field for it
(R129), so it is the CODE of the first table of the Floe's engine whose replicas or records the address names (R205,
R216), and left open where no table names it (DESIGN CHOICE, log 11). -/
def State.rowCode (s : State) (n a : Nat) : Nat :=
  let tds := (s.devRead ⟨n, 3⟩ (s.tblAddr n 0) (256 * 128)).1.data
  match ((List.range 256).map fun t => bslice tds (128 * t) 128).find? fun td => tHolds td a with
  | some td => tCode td
  | none => Config.rowCode a % 4

/-- The descriptor in 128 bytes, with the CODE of its rows. -/
def State.optDesc (s : State) (n : Nat) (b : Bytes) : OptDesc :=
  let d := optDescOf b
  if d.rule = 4 then { d with code := s.rowCode n d.w } else d

/-- Bytes of working-copy elements. -/
def OptDesc.wcBytes (d : OptDesc) : Nat := (d.elems * codeBits d.wfmt + 7) / 8

/-- The runs a command uses: (address, bytes, alignment, is a write). -/
def OptDesc.runs (d : OptDesc) : List (Nat × Nat × Nat × Bool) :=
  let c := classW d.cls
  let wc := if d.writesWc then (d.wc, d.wcBytes, max 1 (codeBits d.wfmt / 8), true) ::
      (if d.mx then [(d.wcs, (d.elems + 31) / 32, 1, true)] else []) else []
  let wts (wr : Bool) := if d.rule = 4 then (d.w, d.n * rowBytes d.code d.row, 4, wr) else (d.w, c * d.n, c, wr)
  let st := if d.rule = 4 then [(d.m, 4 * d.n, 4, true)]
    else (if 1 ≤ d.rule then [(d.m, c * d.n, c, true)] else []) ++ (if 2 ≤ d.rule then [(d.v, c * d.n, c, true)] else [])
  match d.op with
  | 1 => wts true :: (st ++ wc ++ [(d.g, d.gAll, 4, false)] ++
      (if d.divMode = 0 then [(d.hdr, 64, 4, false)] else if d.divMode = 2 then [(d.hdr, 4, 4, false)] else []))
  | 2 => [(d.m, 68 * (d.n / 32), 4, true), (d.g, 68 * (d.n / 32), 4, false)]
  | 3 => [(d.m, 4 * d.n, 4, true), (d.g, 68 * (d.n / 32), 4, false), (d.w, 4, 4, true), (d.hdr, 64, 4, false)]
  | 4 => wts false :: wc
  | _ => st

/-- The runs as accesses. -/
def OptDesc.accesses (d : OptDesc) : List (Nat × Nat × Bool) := d.runs.map fun r => (r.1, r.2.1, r.2.2.2)

/-- R138 refuses the descriptor, by each case for every OP; an address counts where the command uses it (log 12). A
working copy in INT8, INT4 or BS16 is refused, BF16, FP16 and FP32 are taken in class S beside the formats of R121, and a
CLASS above 1 is refused (DESIGN CHOICE, log 90). -/
def OptDesc.bad (d : OptDesc) : Bool :=
  d.op == 0 || decide (5 < d.op) || decide (4 < d.rule) || d.divMode == 3 || decide (0xC < d.wfmt) || decide (1 < d.cls) ||
    d.resv != 0 ||
    (d.cls == 1 && !(d.wcopy && d.wfmt == 2)) ||
    (d.step == 0 && (d.rule == 2 || d.rule == 3)) ||
    (d.n % 32 != 0 && (d.op == 2 || d.op == 3 || (d.writesWc && d.mx))) ||
    (d.writesWc && (codeFmt d.wfmt).isNone) ||
    ((d.divMode == 0 || d.divMode == 2) && d.hdr == 0) ||
    (d.rule == 4 && (d.row == 0 || decide (1024 < d.row))) ||
    d.runs.any fun r => r.1 % r.2.2.1 != 0 || !inDevSpace r.1 r.2.1

/-! ### Unit state -/

/-- An optimizer unit. -/
def State.optOf (s : State) (n : Nat) : OptSt := mget {} s.opt n
/-- Replaces an optimizer unit. -/
def State.setOpt (s : State) (n : Nat) (o : OptSt) : State := { s with opt := mset {} s.opt n o }

/-- Unit n as HBM requester (R378). -/
abbrev rqOpt (n : Nat) : Rq := ⟨n, 3⟩

/-- The reduction of a sequence number has completed on a channel: its DONE_CNT is past it (R135). -/
def State.redPast (s : State) (ch seq : Nat) : Bool := decide (1 ≤ sext 32 ((s.rd cRED ch RED.DONE_CNT).toNat + 2 ^ 32 - seq % 2 ^ 32))

/-- The command leaves the ring with its STATUS decided. -/
def State.optEnd (s : State) (n idx op status : Nat) (irq : Bool) : State :=
  (s.setOpt n { cur := some ⟨idx, op, some status, irq⟩, held := none }).ringNext cOPT n

/-- A refused descriptor (R138, R145). -/
def State.optRefuse (s : State) (n idx op cause : Nat) (irq : Bool) : State :=
  (((s.bump cOPT n OPT.DESC_ERR_CNT).irq cOPT n 16).recUC cOPT n cause (some idx)).optEnd n idx op 0x10 irq

/-- Counts of an UPDATE. -/
structure OptCount where
  elem : Nat := 0
  nf   : Nat := 0
  pois : Nat := 0
  sat  : Nat := 0

/-- Counts and the one Deferred record of a command, at address `a` (R134). -/
def State.optTally (s : State) (n : Nat) (c : OptCount) (a : Nat) : State :=
  let s := (s.bump64 cOPT n OPT.ELEM c.elem).bump cOPT n OPT.SATBLK_CNT c.sat
  let s := if c.nf = 0 then s else (s.bump cOPT n OPT.NF_CNT c.nf).irq cOPT n 4
  if c.pois = 0 then s else ((s.bump cOPT n OPT.POISON_CNT c.pois).irq cOPT n 8).recDef cOPT n 0x03 (some a)

/-- Counts, records and the STATUS that follow from them (R134). -/
def State.optCounted (s : State) (n : Nat) (d : OptDesc) (c : OptCount) : Nat × State :=
  (if c.pois ≠ 0 then 3 else if c.nf ≠ 0 then 2 else 0, s.optTally n c d.g)

/-- Rounding of element i's value k (R132). -/
def State.optRnd (s : State) (n : Nat) (cls : Nat) (stream : W32) (step i k : Nat) : Rnd :=
  if cls = 0 ∧ s.rdb cOPT n hCTRL 3 then srOf (draw (s.keyOf cOPT n) stream (u64 i) (u32 (4 * (step % 2 ^ 30) + k))).1 else .rne

/-! ### Gradients and the divisor -/

/-- Elements of a BS16 unit, each with its poison. -/
def bs16Elems (b : Bytes) (p : List Bool) : List (W32 × Bool) :=
  let u := bs16Of b
  (indexed u.mant).map fun e => (toF32 (bs16Val e.1 u.exp), p.getD 64 false || p.getD (2 * e.2) false || p.getD (2 * e.2 + 1) false)

/-- BS16 units of a read that are clean and have SAT set. -/
def satUnits (r : Rd) (k : Nat) : Nat :=
  ((r.elems 68 k).filter fun e => !e.2 && (bs16Of e.1).sat).length

/-- The units of a read, each with its bytes' poison. -/
def unitElems : Nat → Bytes → List Bool → List (W32 × Bool)
  | 0, _, _ => []
  | k + 1, b, p => bs16Elems (bpad (b.take 68) 68) p ++ unitElems k (b.drop 68) (p.drop 68)

/-- `k` gradient elements from their bytes (R130). -/
def gradElems (fp32 : Bool) (k : Nat) (r : Rd) : List (W32 × Bool) :=
  if fp32 then (r.elems 4 k).map fun e => (u32 (leNat e.1), e.2) else (unitElems ((k + 31) / 32) r.data r.pois).take k

/-- 1/D rounded to FP32, `none` for D = 0. -/
def invOfNat (n : Nat) : Option W32 :=
  if n = 0 then none else match FV.div (.fin false 1 0) (.fin false n 0) with | some (v, _) => some (toF32 v) | none => none

/-- What the divisor says: skip, a poisoned header, or 1/D (R130, R134). -/
inductive DivRes where
  | skip
  | poisoned
  | inv (w : W32)

/-- The divisor of an UPDATE (R130). -/
def State.optDivisor (s : State) (n : Nat) (d : OptDesc) : DivRes × State :=
  let word (a k : Nat) : DivRes × State :=
    let (r, s) := s.devRead (rqOpt n) a 4
    if r.anyPois then (.poisoned, s)
    else match invOfNat (leNat r.data * k) with | some w => (.inv w, s) | none => (.skip, s)
  match d.divMode with
  | 0 => word (d.hdr + 8) d.passes
  | 1 => (if (f32 d.divisor).isZero then .skip else .inv (fdiv32 fone d.divisor), s)
  | _ => word d.hdr 1

/-! ### The rules (R131, R132) -/

/-- Parameters of a rule, formed once per command. -/
structure RulePar where
  rule : Nat
  eta  : W32
  b1   : W32
  b2   : W32
  c1   : W32
  c2   : W32
  eps  : W32
  wd   : W32
  nest : Bool

/-- The parameters of a descriptor. -/
def OptDesc.par (d : OptDesc) : RulePar :=
  { rule := d.rule, eta := scaleLr d.lr d.u, b1 := d.b1, b2 := d.b2, c1 := biasCorr d.b1 d.step, c2 := biasCorr d.b2 d.step
    eps := d.eps, wd := d.wd, nest := d.nesterov }

/-- New weight, first and second moment of one element. -/
def RulePar.stepElem (p : RulePar) (g w m v : W32) : W32 × W32 × W32 :=
  match p.rule with
  | 0 => (fsub32 w (fmul32 p.eta (fadd32 g (fmul32 p.wd w))), m, v)
  | 1 =>
    let h := fadd32 g (fmul32 p.wd w)
    let m := fadd32 (fmul32 p.b1 m) h
    (fsub32 w (fmul32 p.eta (if p.nest then fadd32 h (fmul32 p.b1 m) else m)), m, v)
  | _ =>
    let h := if p.rule = 2 then fadd32 g (fmul32 p.wd w) else g
    let m := fadd32 (fmul32 p.b1 m) (fmul32 (fsub32 fone p.b1) h)
    let v := fadd32 (fmul32 p.b2 v) (fmul32 (fsub32 fone p.b2) (fmul32 h h))
    let mc := fmul32 m p.c1
    let den := fadd32 (fsqrt32 (fmul32 v p.c2)) p.eps
    let w := if p.rule = 2 then fsub32 w (fdiv32 (fmul32 p.eta mc) den)
      else fsub32 w (fmul32 p.eta (fadd32 (fdiv32 mc den) (fmul32 p.wd w)))
    (w, m, v)

/-- The outcome of one element: new stored weight and moments, or why it is left unchanged (R134). -/
inductive ElemOut where
  | upd (w m v : Bytes)
  | nf
  | pois

/-- One element of rules 0 to 3; `rw k` is the rounding of value k. -/
def optElem (p : RulePar) (cls : Nat) (inv : W32) (rw : Nat → Rnd) (g w m v : W32 × Bool) : ElemOut :=
  if g.2 || w.2 || m.2 || v.2 then .pois
  else if !isFin32 g.1 then .nf
  else
    let (w', m', v') := p.stepElem (fmul32 g.1 inv) w.1 m.1 v.1
    let wb := classEnc cls (rw 0) w'
    let mb := classEnc cls (rw 1) m'
    let vb := classEnc cls (rw 2) v'
    if classFin cls wb && classFin cls mb && classFin cls vb then .upd wb mb vb else .nf

/-! ### Working copies (R133) -/

/-- The working copy of weights in element order: `upd` says which of them this command updated. -/
def State.writeWc (s : State) (n : Nat) (d : OptDesc) (ws : List (W32 × Bool × Bool)) : State :=
  if !d.writesWc then s
  else if d.mx then
    let blocks := (List.range (d.elems / 32)).map fun b => ((ws.drop (32 * b)).take 32)
    let enc := blocks.map fun l => (mxEncode d.wfmt (fun _ => .rne) (l.map fun e => f32 e.1), l.any (·.2.2))
    let s := (indexed enc).foldl (fun s e =>
      let b := packAll (codeBits d.wfmt) e.1.1.2
      s.devWrite (rqOpt n) (d.wc + e.2 * b.length) b e.1.2) s
    (indexed enc).foldl (fun s e => s.devWrite (rqOpt n) (d.wcs + e.2) [BitVec.ofNat 8 e.1.1.1] e.1.2) s
  else
    match codeFmt d.wfmt with
    | none => s
    | some f =>
      let b := codeBits d.wfmt / 8
      s.devWriteElems (rqOpt n) d.wc b (ws.map fun e =>
        if e.2.1 then some (toLE b (f.cvt .rne (f32 e.1) (fmtFP32.neg e.1.toNat)).1, e.2.2) else none)

/-- Weights of class `cls` as read. -/
def classElems (cls : Nat) (r : Rd) (n : Nat) : List (W32 × Bool) :=
  (r.elems (classW cls) n).map fun e => (classVal cls e.1, e.2)

/-! ### Rows (R207–R210) -/

/-- Decodes a row record (R208): the values, and whether its scale or offset is non-finite. -/
def rowDecode (code dim : Nat) (b : Bytes) : List W32 × Bool :=
  if code = 2 then ((chunksOf 2 dim b).map fun x => u32 (leNat x * 65536), false)
  else if code = 3 then ((chunksOf 4 dim b).map fun x => u32 (leNat x), false)
  else
    let sc := fmtBF16.dec (bfield b 0 2)
    let off := u32 (bfield b 2 2 * 65536)
    let cs := (List.range dim).map fun j => packGet (b.drop 4) (if code = 1 then 4 else 8) j
    if !sc.isFin || !isFin32 off then (cs.map fun _ => qnan, true)
    else (cs.map fun c => match (FV.mul (.fin false c 0) sc) with
      | some p => (match p.add (f32 off) with | some v => toF32 v | none => qnan) | none => qnan, false)

/-- The BF16 value nearest below (or, with `up`, above) a finite FP32 word, saturated, and whether it saturated. -/
def bf16Dir (up : Bool) (w : W32) : Nat × Bool :=
  let t := w.toNat / 65536
  let neg := decide (32768 ≤ t)
  let away := decide (w.toNat % 65536 ≠ 0) && (neg != up)
  let b := if away then t + 1 else t
  if b % 32768 = 0x7F80 then (b - 1, true) else (b, false)

/-- Smallest and largest of FP32 values. -/
def fminList (l : List W32) : W32 := match l with | [] => 0 | a :: r => r.foldl (fun x y => if (f32 y).lt (f32 x) then y else x) a
def fmaxList (l : List W32) : W32 := match l with | [] => 0 | a :: r => r.foldl (fun x y => if (f32 x).lt (f32 y) then y else x) a

/-- Encodes a coded row (R209): scale, offset and codes, and saturations of the two. -/
def rowEncode (code : Nat) (r : Nat → Rnd) (xs : List W32) : Bytes × Nat :=
  let q : Nat := if code = 1 then 15 else 255
  let lo := fminList xs
  let (off, s1) := bf16Dir false lo
  let offw := u32 (off * 65536)
  let dd := fdiv32 (fsub32 (fmaxList xs) offw) (ofInt32 q)
  let (sc, s2) := if isFin32 dd then bf16Dir true dd else (0x7F7F, true)
  let scw := u32 (sc * 65536)
  let codes := (indexed xs).map fun e =>
    if sc % 32768 = 0 then 0
    else match f32 (fdiv32 (fsub32 e.1 offw) scw) with
      | .fin n m x => (clampI 0 q (roundInt (r e.2) (if n then -(m : Int) else m) x)).toNat
      | .inf n => if n then 0 else q
      | .nan => 0
  (toLE 2 sc ++ toLE 2 off ++ packAll (if code = 1 then 4 else 8) codes, b2n s1 + b2n s2)

/-- What an update makes of a row. -/
structure RowOut where
  /-- the record's new bytes; `none` leaves the record as it is -/
  bytes : Option Bytes := none
  /-- the accumulator's new value; `none` leaves it as it is -/
  acc  : Option W32 := none
  cnt  : OptCount := {}
  /-- elements of the row whose weight stands (their working copy is written) -/
  mask : List Bool := []
  /-- the scale or offset read is non-finite -/
  badScale : Bool := false

/-- Roundings of a row's stored values (R132): those of the elements and that of the accumulator. -/
structure RowRnd where
  w : Nat → Rnd
  a : Rnd

/-- The accumulator as it is stored: a 32-bit place (R205, R216) that holds, in class S, the BF16 value nearest under the
rounding of R132 (log 36). -/
def storedAcc (cls : Nat) (r : Rnd) (a : W32) : W32 := if cls = 0 then classVal 0 (classEnc 0 r a) else a

/-- The record of a row's values (R207, R209), and the saturations of its scale and offset. -/
def rowRecord (code : Nat) (r : Nat → Rnd) (ys : List W32) : Bytes × Nat :=
  if code = 2 then (ys.flatMap fun y => toLE 2 (y.toNat / 65536), 0)
  else if code = 3 then (ys.flatMap fun y => toLE 4 y.toNat, 0)
  else rowEncode code r ys

/-- A row under rule 0 or rule 4 (R131, R209, R210, R134): `rec` the record, `acc` the accumulator, gradients not yet
divided. A poisoned record or accumulator leaves the whole row as it is; a row whose gradients are all zero keeps its
bytes under rule 4; elsewhere elements left as they are enter the record with their old values. -/
def rowUpdate (rule code cls : Nat) (inv eta eps : W32) (rw : RowRnd) (rec : Bytes) (recPois : Bool) (acc : W32)
    (accPois : Bool) (gs : List (W32 × Bool)) : RowOut :=
  let dim := gs.length
  if recPois || (rule == 4 && accPois) then { cnt := { pois := dim }, mask := gs.map fun _ => false }
  else
    let (xs, nfs) := rowDecode code dim rec
    if rule = 4 ∧ gs.all (fun g => !g.2 && (f32 g.1).isZero) then { mask := gs.map fun _ => !nfs, badScale := nfs }
    else
      let ok (g : W32 × Bool) : Bool := !g.2 && isFin32 g.1
      let gd := gs.map fun g => (fmul32 g.1 inv, ok g)
      let sum := (treeRed fadd32 dim fun j => match gd[j]? with | some (g, true) => some (fmul32 g g) | _ => none).getD 0
      let a' := if rule = 4 then fadd32 acc (fdiv32 sum (ofInt32 dim)) else acc
      let den := fadd32 (fsqrt32 a') eps
      let as := storedAcc cls rw.a a'
      let new (x : W32) (g : W32) : W32 :=
        if rule = 4 then fsub32 x (fdiv32 (fmul32 eta g) den) else fsub32 x (fmul32 eta g)
      let out := (indexed (xs.zip gd)).map fun e =>
        let y := new e.1.1 e.1.2.1
        let y := if code = 2 then classVal 0 (classEnc 0 (rw.w e.2) y) else y
        if e.1.2.2 && isFin32 y && (rule != 4 || isFin32 as) then (y, true) else (e.1.1, false)
      let mask := out.map (·.2)
      let upd := (mask.filter id).length
      let pois := (gs.filter (·.2)).length
      let cnt : OptCount := { elem := upd, pois := pois, nf := dim - upd - pois }
      let ys := out.map (·.1)
      if !ys.all isFin32 then { cnt := cnt, mask := mask, badScale := nfs }
      else
        let (b, sat) := rowRecord code rw.w ys
        { bytes := some (bpad b rec.length), acc := if rule = 4 ∧ isFin32 as then some as else none
          cnt := { cnt with sat := sat }, mask := mask, badScale := nfs }

/-! ### The commands -/

/-- Elements of rules 0 to 3. -/
def State.updElems (s : State) (n : Nat) (d : OptDesc) (inv : W32) (gs : List (W32 × Bool)) (sats : Nat) : OptCount × State :=
  let q := rqOpt n
  let c := classW d.cls
  let (rw, s) := s.devRead q d.w (c * d.n)
  let (rm, s) := if 1 ≤ d.rule then s.devRead q d.m (c * d.n) else (⟨[], [], true⟩, s)
  let (rv, s) := if 2 ≤ d.rule then s.devRead q d.v (c * d.n) else (⟨[], [], true⟩, s)
  let ws := classElems d.cls rw d.n
  let p := d.par
  let outs := (indexed (gs.zip (ws.zip ((classElems d.cls rm d.n).zip (classElems d.cls rv d.n))))).map fun e =>
    optElem p d.cls inv (s.optRnd n d.cls d.stream d.step (d.idx + e.2)) e.1.1 e.1.2.1 e.1.2.2.1 e.1.2.2.2
  let pick (f : Bytes → Bytes → Bytes → Bytes) := outs.map fun o => match o with | .upd w m v => some (f w m v, false) | _ => none
  let s := s.devWriteElems q d.w c (pick fun w _ _ => w)
  let s := if 1 ≤ d.rule then s.devWriteElems q d.m c (pick fun _ m _ => m) else s
  let s := if 2 ≤ d.rule then s.devWriteElems q d.v c (pick fun _ _ v => v) else s
  let new := (outs.zip ws).map fun e => match e.1 with
    | .upd w _ _ => (classVal d.cls w, true, false) | _ => (e.2.1, false, e.2.2)
  let s := s.writeWc n d new
  let cnt (f : ElemOut → Bool) : Nat := (outs.filter f).length
  ({ elem := cnt fun o => (match o with | .upd _ _ _ => true | _ => false)
     nf := cnt fun o => (match o with | .nf => true | _ => false)
     pois := cnt fun o => (match o with | .pois => true | _ => false), sat := sats }, s)

/-- Writes a row and its accumulator back: the new values, or what was read, its poison with it (R210, R223 event 4). -/
def State.rowBack (s : State) (q : Rq) (at' aa : Nat) (rec : Rd) (acc : Option Rd) (o : RowOut) : State :=
  let s := match o.bytes with
    | some b => s.devWrite q at' b
    | none => if rec.ok then (s.devWriteP q at' rec.data rec.pois).2 else s
  match acc, o.acc with
  | some _, some x => s.devWrite q aa (toLE 4 x.toNat)
  | some a, none => if a.ok then (s.devWriteP q aa a.data a.pois).2 else s
  | none, _ => s

/-- Row r of a ring command of rule 4: a row that is left as it is, but for one read with poison, is written back as it
was (R134, R210). -/
def State.updRow (s : State) (n : Nat) (d : OptDesc) (inv : W32) (gs : List (W32 × Bool)) (r : Nat) :
    RowOut × List (W32 × Bool × Bool) × State :=
  let q := rqOpt n
  let code := d.code
  let sz := rowBytes code d.row
  let (rec, s) := s.devRead q (d.w + r * sz) sz
  let (a, s) := s.devRead q (d.m + 4 * r) 4
  let o := rowUpdate 4 code d.cls inv (scaleLr d.lr d.u) d.eps
    ⟨fun j => s.optRnd n d.cls d.stream d.step (d.idx + r * d.row + j) 0, s.optRnd n d.cls d.stream d.step (d.idx + r) 1⟩
    rec.data rec.anyPois (u32 (leNat a.data)) a.anyPois ((gs.drop (r * d.row)).take d.row)
  let s := if rec.anyPois || a.anyPois then s else s.rowBack q (d.w + r * sz) (d.m + 4 * r) rec (some a) o
  let s := if o.badScale then s.bump cXCH n XCH.NF_ROW_CNT else s
  let ws := (rowDecode code d.row (o.bytes.getD rec.data)).1
  (o, (ws.zip o.mask).map fun e => (e.1, e.2, rec.anyPois), s)

/-- Adds counts. -/
def OptCount.add (a b : OptCount) : OptCount := ⟨a.elem + b.elem, a.nf + b.nf, a.pois + b.pois, a.sat + b.sat⟩

/-- The rows of rule 4, in order. -/
def State.updRows (s : State) (n : Nat) (d : OptDesc) (inv : W32) (gs : List (W32 × Bool)) (sats : Nat) : OptCount × State :=
  let r := (List.range d.n).foldl (fun (a : OptCount × List (W32 × Bool × Bool) × State) r =>
    let o := a.2.2.updRow n d inv gs r
    (a.1.add o.1.cnt, a.2.1 ++ o.2.1, o.2.2)) ({ sat := sats }, [], s)
  (r.1, r.2.2.writeWc n d r.2.1)

/-- The gradient of an UPDATE. -/
def State.optGrad (s : State) (n : Nat) (d : OptDesc) : List (W32 × Bool) × Nat × State :=
  let (r, s) := s.devRead (rqOpt n) d.g d.gAll
  let sats := if d.gfp32 then 0 else satUnits r (d.gAll / 68)
  if d.rule = 4 then
    let k := d.gBytes d.row
    ((List.range d.n).flatMap fun i => gradElems d.gfp32 d.row ⟨bslice r.data (i * k) k, (r.pois.drop (i * k)).take k, r.ok⟩, sats, s)
  else (gradElems d.gfp32 d.n r, sats, s)

/-- UPDATE (R130, R131, R134): the STATUS and what it leaves. A header or count word read with poison ends it with
STATUS 3 and an error record of cause 0x0E, nothing written and nothing counted (DESIGN CHOICE, log 91). -/
def State.optUpdate (s : State) (n : Nat) (d : OptDesc) : Nat × State :=
  match s.optDivisor n d with
  | (.skip, s) => (1, (s.bump cOPT n OPT.SKIP_CNT).irq cOPT n 2)
  | (.poisoned, s) => (3, s.recUC cOPT n 0x0E (some d.hdr))
  | (.inv w, s) =>
    let (gs, sats, s) := s.optGrad n d
    let bad := (gs.filter fun g => !g.2 && !isFin32 g.1).length
    if bad ≠ 0 ∧ s.rdb cOPT n hCTRL 1 then
      (4, ((s.optCounted n d { nf := bad, pois := (gs.filter (·.2)).length }).2.bump cOPT n OPT.SKIP_CNT).irq cOPT n 2)
    else
      let (c, s) := if d.rule = 4 then s.updRows n d w gs sats else s.updElems n d w gs sats
      s.optCounted n d c

/-- ACCUM (R125, R126). A block read with poison leaves its accumulator block as it is and its 32 elements count in
POISON_CNT (DESIGN CHOICE, log 92: R134 speaks of UPDATE). SATBLK_CNT counts each source block and each accumulator block
that is saturated when it is consumed or written (R143). -/
def State.optAccum (s : State) (n : Nat) (d : OptDesc) : Nat × State :=
  let q := rqOpt n
  let k := d.n / 32
  let (ra, s) := s.devRead q d.m (68 * k)
  let (rg, s) := s.devRead q d.g (68 * k)
  let key := s.keyOf cOPT n
  let outs := (indexed ((ra.elems 68 k).zip (rg.elems 68 k))).map fun e =>
    let a := e.1.1
    let g := e.1.2
    if g.2 || (a.2 && !d.first) then none
    else if d.first then some (bs16Of g.1, false, 2 * b2n (bs16Of g.1).sat)
    else
      let x := bs16Of a.1
      let y := bs16Of g.1
      let r (k j : Nat) : Rnd := srOf (draw key d.stream (u64 (d.idx + 32 * e.2 + j)) (u32 (2 * d.draw + k))).1
      let z := bs16Add r 0 0 1 x y
      some (z, z.exp != max x.exp y.exp, b2n y.sat + b2n z.sat)
  let s := s.devWriteElems q d.m 68 (outs.map fun o => o.map fun z => (z.1.bytes, false))
  let s := (s.bump cOPT n OPT.ESC_CNT (outs.countP fun o => o.any (·.2.1))).bump cOPT n OPT.SATBLK_CNT
    (outs.foldl (fun a o => a + (o.elim 0 (·.2.2))) 0)
  s.optCounted n d { pois := 32 * (outs.filter Option.isNone).length }

/-- ACCUM32 (R127). An element read with poison is left as it is and counts; a poisoned header or count word leaves the
count word, with STATUS 3 and an error record of cause 0x0E (DESIGN CHOICE, logs 91 and 92). -/
def State.optAccum32 (s : State) (n : Nat) (d : OptDesc) : Nat × State :=
  let q := rqOpt n
  let (rg, s) := s.devRead q d.g (68 * (d.n / 32))
  let (rm, s) := if d.first then (⟨List.replicate (4 * d.n) 0, List.replicate (4 * d.n) false, true⟩, s) else s.devRead q d.m (4 * d.n)
  let (rh, s) := s.devRead q (d.hdr + 8) 4
  let (rc, s) := if d.first then (⟨[0, 0, 0, 0], [false], true⟩, s) else s.devRead q d.w 4
  let gs := gradElems false d.n rg
  let outs := (gs.zip (rm.elems 4 d.n)).map fun e =>
    if e.1.2 || e.2.2 then none
    else some (toLE 4 (if d.first then e.1.1 else fadd32 (u32 (leNat e.2.1)) e.1.1).toNat, false)
  let s := s.devWriteElems q d.m 4 outs
  let badCnt := rh.anyPois || rc.anyPois
  let s := if badCnt then s.recUC cOPT n 0x0E (some d.hdr) else s.devWrite q d.w (toLE 4 (leNat rc.data + leNat rh.data))
  let (st, s) := s.optCounted n d { pois := (outs.filter Option.isNone).length, sat := satUnits rg (d.n / 32) }
  (if badCnt then 3 else st, s)

/-- COPY (R133). -/
def State.optCopy (s : State) (n : Nat) (d : OptDesc) : Nat × State :=
  let q := rqOpt n
  let (ws, s) : List (W32 × Bool × Bool) × State :=
    if d.rule = 4 then
      let sz := rowBytes d.code d.row
      (List.range d.n).foldl (fun (a : List (W32 × Bool × Bool) × State) r =>
        let (rec, s) := a.2.devRead q (d.w + r * sz) sz
        let x := rowDecode d.code d.row rec.data
        (a.1 ++ x.1.map fun w => (w, true, rec.anyPois), if x.2 then s.bump cXCH n XCH.NF_ROW_CNT else s)) ([], s)
    else
      let (r, s) := s.devRead q d.w (classW d.cls * d.n)
      ((classElems d.cls r d.n).map fun e => (e.1, true, e.2), s)
  let s := s.writeWc n d ws
  s.optCounted n d { pois := (ws.filter (·.2.2)).length }

/-- ZERO (R129). -/
def State.optZero (s : State) (n : Nat) (d : OptDesc) : Nat × State :=
  (0, d.runs.foldl (fun s r => s.devWrite (rqOpt n) r.1 (List.replicate r.2.1 0)) s)

/-- The effect of an accepted command. -/
def State.optWork (s : State) (n : Nat) (d : OptDesc) : Nat × State :=
  match d.op with
  | 1 => s.optUpdate n d
  | 2 => s.optAccum n d
  | 3 => s.optAccum32 n d
  | 4 => s.optCopy n d
  | _ => s.optZero n d

/-- An accepted command runs, once its accesses can be made from `s0`. -/
def State.optRun (s0 : State) (n idx : Nat) (d : OptDesc) (s : State) : State :=
  s0.devWhen d.accesses (let (st, s) := s.optWork n d; s.optEnd n idx d.op st d.irq)

/-- The unit takes the command at the head of its ring when it is one of `op`: refused, held under WAIT, or run. -/
def State.optTake (s0 : State) (n op : Nat) : State :=
  let o := s0.optOf n
  if !s0.ringReady cOPT n || o.cur.isSome || o.held.isSome then s0
  else
    s0.ringTake (rqOpt n) cOPT n fun s h b =>
      match b with
      | none => s0
      | some b =>
        let d := s.optDesc n b
        if d.op ≠ op then s0
        else if d.bad then s.optRefuse n h d.op 0x01 d.irq
        else if d.wait && !s.redPast d.waitCh d.waitSeq then s.setOpt n { o with held := some (h, b) }
        else s0.optRun n h d s

/-- UPDATE (R131). -/
def execUpdate (n : Nat) (s : State) : Res := .next (s.optTake n 1)
/-- ACCUM (R125). -/
def execAccum (n : Nat) (s : State) : Res := .next (s.optTake n 2)
/-- ACCUM32 (R127). -/
def execAccum32 (n : Nat) (s : State) : Res := .next (s.optTake n 3)
/-- COPY (R133). -/
def execCopy (n : Nat) (s : State) : Res := .next (s.optTake n 4)
/-- ZERO (R129). -/
def execZero (n : Nat) (s : State) : Res := .next (s.optTake n 5)

/-- OPT_WAIT_RELEASE (R135, R137): the held command, its descriptor read when it was taken, starts once its reduction is
complete and the unit is not frozen. -/
def execOptWaitRelease (n : Nat) (s : State) : Res :=
  .next <|
    match (s.optOf n).held with
    | none => s
    | some (h, b) =>
      let d := s.optDesc n b
      if s.ringOn cOPT n && (s.optOf n).cur.isNone && (!d.wait || s.redPast d.waitCh d.waitSeq) then s.optRun n h d s else s

/-- OPT_CMD_COMPLETE (R129): the command in progress completes. With none in progress, a descriptor at the head that no
operation takes (a reserved OP, or one that could not be read) is refused (R138). -/
def execOptCmdComplete (n : Nat) (s0 : State) : Res :=
  .next <|
    match (s0.optOf n).cur with
    | some c =>
      if !s0.pageOn cOPT n then s0
      else
        s0.devGated [(s0.ringAddr cOPT n c.idx + 7, 1, true)] fun s =>
          (s.ringComplete (rqOpt n) cOPT n c.idx 7 (c.status.getD 0) c.irq).setOpt n { s.optOf n with cur := none }
    | none =>
      if !s0.ringReady cOPT n || (s0.optOf n).held.isSome then s0
      else
        s0.ringTake (rqOpt n) cOPT n fun s h b =>
          match b with
          | none => s.optRefuse n h 0 0x0E false
          | some b =>
            let d := optDescOf b
            if d.op = 0 ∨ 5 < d.op then s.optRefuse n h d.op 0x01 d.irq else s0

end Sys2Proof.Machine
end

