-- ==== Sys2Proof/Machine/Router.lean ====
section
/-! DEFINITION. The torus and the router of the Serac dies (R255, R256, R266–R272): coordinates and ranks, what a link is, the way
of a packet, and how a message of a local block becomes packets at an egress, on the torus or on the mirror port (R276, R277). -/
namespace Sys2Proof.Machine

/-! ### Coordinates and ranks (R255) -/

/-- Axis lengths and coordinates of this device, in the order D, T, Q, P (R255). -/
def State.axisLen (s : State) (a : Nat) : Nat := s.rdf cPORT (2 * a) PORT.GEOM 0 6 + 1
def State.axisPos (s : State) (a : Nat) : Nat := s.rdf cPORT (2 * a) PORT.GEOM 8 6

/-- The rank of coordinates (R255). -/
def State.rankOf (s : State) (c : Nat → Nat) : Nat :=
  c 0 + s.axisLen 0 * (c 1 + s.axisLen 1 * (c 2 + s.axisLen 2 * c 3))

/-- MY_RANK (R255). -/
def State.myRank (s : State) : Nat := s.rankOf s.axisPos

/-- The coordinates of a rank (R255); the last one is at or above its axis length where the job has no such rank. -/
def State.coordOf (s : State) (r : Nat) : List Nat :=
  let t := r / s.axisLen 0
  let q := t / s.axisLen 1
  [r % s.axisLen 0, t % s.axisLen 1, q % s.axisLen 2, q / s.axisLen 2]

/-! ### What a link is -/

/-- The power domain of a link (R256, R276, R401). -/
def linkDomain (p : Nat) : Nat := if p < 8 then 72 + p else if p < 10 then 80 else 81

/-- Class and instance of the page of a link. -/
def linkPage (p : Nat) : Nat × Nat := ((linkReg p).1, (linkReg p).2.1)

/-- CTRL.EN of a link's page. -/
def State.linkEn (s : State) (p : Nat) : Bool := s.rdb (linkPage p).1 (linkPage p).2 hCTRL 0

/-- The link exists, its domain is on and its port is enabled. -/
def State.linkReady (s : State) (p : Nat) : Bool := decide (p < 11) && s.on (linkDomain p) && s.linkEn p

/-- Width of a link. -/
def State.linkWidth (s : State) (p : Nat) : Nat :=
  let (c, i, o) := linkReg p
  s.rdf c i (o + 4) 24 4

/-- The link is up (or degrading). -/
def State.linkUpP (s : State) (p : Nat) : Bool :=
  let (c, i, o) := linkReg p
  linkWordUp (s.rd c i (o + 4))

/-- The next port can take packets. -/
def State.portTakes (s : State) (p : Nat) : Bool := s.linkReady p && s.linkUpP p

/-- A packet is discarded: counted and recorded against the port (R272, R281). -/
def State.discard (s : State) (p cause : Nat) : State :=
  if p < 8 then ((s.bump cPORT p PORT.DISCARD_CNT).irq cPORT p 16).recUC cPORT p cause (some p) else s

/-! ### The way of a packet (R268–R272) -/

/-- Header and body of a packet (R266). -/
def pktBytes (k : Packet) : Bytes :=
  toLE 2 k.dst ++ toLE 2 k.src ++
  toLE 3 ((k.coord.getD 3 0 % 64) * 2 ^ 18 + (k.coord.getD 2 0 % 64) * 2 ^ 12 + (k.coord.getD 1 0 % 64) * 64 + k.coord.getD 0 0 % 64) ++
  toLE 1 (k.cls % 4 * 64 + k.ep % 64) ++ toLE 4 k.body.length ++ toLE 4 k.tag.toNat ++ k.body

/-- Where a packet goes next: delivery here, or the port and whether the hop crosses the dateline. -/
inductive Hop where
  | here
  | port (p : Nat) (wrap : Bool)
deriving DecidableEq, Repr

/-- One axis of R268: the shorter way round, + when both are equally long. -/
def axisHop (len me dst a : Nat) : Hop :=
  let fwd := (dst + len - me) % len
  if 2 * fwd ≤ len then .port (2 * a) (me + 1 == len) else .port (2 * a + 1) (me == 0)

/-- Dimension order (R268). -/
def State.nextHop (s : State) (k : Packet) : Hop :=
  match (List.range 4).find? fun a => k.coord.getD a 0 != s.axisPos a with
  | none => .here
  | some a => axisHop (s.axisLen a) (s.axisPos a) (k.coord.getD a 0) a

/-- The VC of the next hop (R269): even when it enters the axis, odd from the dateline on. -/
def hopVc (src vc cls p : Nat) (wrap : Bool) : Nat :=
  2 * cls + b2n (wrap || (decide (src < 8) && src / 2 == p / 2 && vc % 2 == 1))

/-- The Serac of a port: 0 A, 1 B. -/
def seracOf (p : Nat) : Nat := p / 4

/-- Bridges between exchange engine f and Serac d, by the port's XDIE (R18, R271). -/
def State.engineBridges (s : State) (f d p : Nat) : List Nat :=
  if f = d then [1 + f] else if s.rdb cPORT p PORT.XDIE 0 then [0, 1 + d] else [1 + f, 3]

/-- Bridges that a packet crosses from where it is to a port. -/
def State.bridgesTo (s : State) (src p : Nat) : List Nat :=
  if src < 8 then (if seracOf src = seracOf p then [] else [3])
  else if src = 8 then [] else s.engineBridges (src - 9) (seracOf p) p

/-- Bridges to a local endpoint. -/
def State.bridgesHere (s : State) (src ep : Nat) : List Nat :=
  if ep < 2 then []
  else if src < 8 then s.engineBridges (ep - 2) (seracOf src) src
  else if src = 8 ∨ src - 9 = ep - 2 then [] else [0]

/-- The first bridge of a path whose domain is off. -/
def State.bridgeOff (s : State) (l : List Nat) : Option Nat := l.find? fun b => !s.pdStat (bridgeDomain b)

/-- The header is one that R272 discards. -/
def State.badHeader (s : State) (k : Packet) : Bool :=
  ((List.range 4).any fun a => decide (s.axisLen a ≤ k.coord.getD a 0)) ||
    k.dst != s.rankOf (fun a => k.coord.getD a 0) || !(k.ep == 1 || k.ep == 2 || k.ep == 3) || decide (3 ≤ k.cls)

/-- The port that a discard counts against: the one it arrived on or was injected towards. -/
def discardPort (src : Nat) (h : Hop) : Nat :=
  if src < 8 then src else match h with | .port p _ => p | .here => 11

/-- What the router does with a packet: it delivers it here, queues it on a VC of a port, or discards it against a port, with
the bridge that is off where that is why (R29, R272). -/
inductive Way where
  | here
  | out (p vc : Nat)
  | drop (p cause : Nat) (bridge : Option Nat)
deriving DecidableEq, Repr

/-- The way of a packet that came from `src` (an input port, 8 the in-link adders, 9 and 10 the exchange engines) on a VC. -/
def State.wayOf (s : State) (src vc : Nat) (k : Packet) : Way :=
  let h := s.nextHop k
  let at' := discardPort src h
  if s.badHeader k then .drop at' 0x09 none
  else
    match h with
    | .here =>
      match s.bridgeOff (s.bridgesHere src k.ep) with
      | some b => .drop at' 0x05 (some b)
      | none => .here
    | .port p wrap =>
      if !s.portTakes p then .drop at' 0x05 none
      else
        match s.bridgeOff (s.bridgesTo src p) with
        | some b => .drop at' 0x05 (some b)
        | none => .out p (hopVc src vc k.cls p wrap)

/-- The discard of a packet, with the path-unavailable record of the bridge that is off. -/
def State.dropAt (s : State) (p cause : Nat) (bridge : Option Nat) : State :=
  (match bridge with | some b => s.bridgeUnavail b | none => s).discard p cause

/-- Packets join the egress of a link. -/
def State.enqueue (s : State) (p : Nat) (es : List EgPkt) : State :=
  s.setLink p { s.link p with egress := (s.link p).egress ++ es }

/-! ### Messages of local blocks as packets (R266, R291, R318) -/

/-- The class of the packets of a message: partials, results and chunks are RED, the batches, gathers and shifts of the
exchange engines XCH, everything else CTL (R267, R291, R318). -/
def OutMsg.cls : OutMsg → Nat
  | .redAgree .. | .redAgreeRes .. | .redData .. | .redResult .. | .calvChunk .. => 1
  | .xchRead .. | .xchUpdate .. | .xchExpert .. | .xchExpand .. | .xchRows .. | .xchExpanded .. | .kvData .. => 2
  | _ => 0

/-- Channel, number and SEQ of a message of a reduction channel; the numbers stand for message kinds, whose codes the spec
does not give (R291; log 102). -/
def OutMsg.chan : OutMsg → Option (Nat × Nat × Nat)
  | .redJoin c _ q _ => some (c, 0, q)
  | .redReady c _ q _ => some (c, 1, q)
  | .redDrop c _ q _ _ => some (c, 2, q)
  | .redAgree c _ q _ _ _ => some (c, 3, q)
  | .redAgreeRes c _ q _ _ => some (c, 4, q)
  | .redData c _ q _ _ _ _ _ _ => some (c, 5, q)
  | .redResult c _ q _ _ _ _ => some (c, 6, q)
  | .redAck c _ q _ => some (c, 7, q)
  | .calvChunk c _ q _ _ _ _ _ _ => some (c, 8, q)
  | .calvReceipt c _ q _ _ _ => some (c, 9, q)
  | .calvCopyDone c _ q _ _ _ => some (c, 10, q)
  | .calvDecision c _ q _ _ _ => some (c, 11, q)
  | .calvAck c _ q _ => some (c, 12, q)
  | _ => none

/-- The endpoint that a message goes to: 0x01 for a channel, 0x02 or 0x03 for an exchange engine and the sampler of its Floe. -/
def OutMsg.ep : OutMsg → Nat
  | .xchRead n .. | .xchUpdate n .. | .xchExpert n .. | .xchExpand n .. | .xchRows n .. | .xchAck n .. | .xchExpanded n ..
  | .kvReady n .. | .kvData n .. | .kvAck n .. => 2 + n % 2
  | _ => 1

/-- The rank that a message names as its destination. -/
def OutMsg.dst : OutMsg → Nat
  | .xchRead _ d .. | .xchUpdate _ d .. | .xchExpert _ d .. | .xchExpand _ d .. | .xchRows _ d .. | .xchAck _ d ..
  | .xchExpanded _ d .. | .redJoin _ d .. | .redReady _ d .. | .redDrop _ d .. | .redAgree _ d .. | .redAgreeRes _ d ..
  | .redData _ d .. | .redResult _ d .. | .redAck _ d .. | .calvChunk _ d .. | .calvReceipt _ d .. | .calvCopyDone _ d ..
  | .calvDecision _ d .. | .calvAck _ d .. | .kvReady _ d .. | .kvData _ d .. | .kvAck _ d .. => d
  | _ => 0

/-- Some of the data that a message carries is poisoned. -/
def OutMsg.pois : OutMsg → Bool
  | .redData _ _ _ _ _ _ _ us _ | .redResult _ _ _ _ _ us _ => us.any (·.2)
  | .calvChunk _ _ _ _ _ _ _ ps _ => ps.any id
  | .xchUpdate _ _ _ _ _ _ _ rs => rs.any (·.2.2)
  | .xchExpert _ _ _ _ _ rs => rs.any (·.2)
  | .xchRows _ _ _ _ _ rs => rs.any (·.2)
  | .kvData _ _ _ _ _ ps => ps.any id
  | _ => false

/-- TAG: channel, kind and SEQ [21:0] for a channel (R291), open for the exchange engines (log 102). -/
def OutMsg.tag (m : OutMsg) (k : Nat) : W32 :=
  match m.chan with
  | some (c, kind, q) => u32 (c % 64 * 2 ^ 26 + (Config.msgKind kind % 16) * 2 ^ 22 + q % 2 ^ 22)
  | none => Config.packetTag k

/-- A message that may take several packets; every other one is one packet (R266, R291). -/
def OutMsg.long (m : OutMsg) : Bool :=
  match m with
  | .redAgree .. | .redAgreeRes .. | .calvChunk .. => true
  | _ => m.cls == 2

/-- A body as R266 allows it, of 1 to 65,536 bytes. -/
def fixBody (b : Bytes) : Bytes := if b.isEmpty then [0] else b.take 65536

/-- Packet k of a message to a rank; the layout of the body is open (log 102). -/
def State.packetOf (s : State) (m : OutMsg) (k : Nat) : Packet :=
  { dst := m.dst, src := s.myRank, coord := s.coordOf m.dst, ep := m.ep, cls := m.cls, tag := m.tag k
    body := fixBody (Config.packetBody k), pois := m.pois }

/-- The packets after the first of a message that is long, as numbers of packets. -/
def State.morePackets (s : State) (m : OutMsg) : List Nat :=
  if m.long then (List.range (Config.packetMore s.fresh)).map (s.fresh + 1 + ·) else []

/-- A message of a local block: `src` is 8 for the in-link adders, 9 and 10 for the exchange engines. To another rank it
leaves as packets that the router queues at the egress of their port (R268), or discards (R272): then nothing is sent. -/
def State.inject (s : State) (src : Nat) (m : OutMsg) : State :=
  match s.wayOf src 6 (s.packetOf m s.fresh) with
  | .here => s.send m
  | .drop p cause b =>
    let s1 := (s.morePackets m).foldl (fun s _ => s.dropAt p cause b) (s.dropAt p cause b)
    { s1 with fresh := s1.fresh + 1 + (s.morePackets m).length }
  | .out p vc =>
    let e (k : Nat) : EgPkt := { src := src, inVc := 6, outVc := vc, bytes := pktBytes (s.packetOf m k), pois := m.pois, sent := 0, owed := 0 }
    let s1 := s.enqueue p (e s.fresh :: (s.morePackets m).map e)
    { s1 with fresh := s1.fresh + 1 + (s.morePackets m).length }.send m

/-- Messages in their order. -/
def State.injectAll (s : State) (src : Nat) (l : List OutMsg) : State := l.foldl (fun s m => s.inject src m) s

/-! ### Packets of the mirror port (R276, R277, R360) -/

/-- The sub-link that packets preferring sub-link n use: the other one while it is down (R277, R335). -/
def State.subLink (s : State) (n : Nat) : Nat := if s.linkUpP (8 + n % 2) then 8 + n % 2 else 9 - n % 2

/-- A packet of R266 as the mirror link carries it for Firn: no rank and no coordinates, endpoint 0x10 or 0x11 (R360); class,
TAG and body are open (log 103). -/
def mirBytes (n k : Nat) : Bytes :=
  let b := fixBody (Config.packetBody k)
  toLE 7 0 ++ toLE 1 ((Config.packetTag (k + 1)).toNat % 4 * 64 + 0x10 + n % 2) ++ toLE 4 b.length ++ toLE 4 (Config.packetTag k).toNat ++ b

/-- A Firn message of instance n leaves as packets on VC 1 of a sub-link (R277, R335, R360). -/
def State.firnSend (s : State) (n : Nat) (m : OutMsg) : State :=
  if s.mirUp then
    let e (k : Nat) : EgPkt := { src := 11 + n % 2, inVc := 6, outVc := 1, bytes := mirBytes n k, pois := false, sent := 0, owed := 0 }
    let s1 := s.enqueue (s.subLink n) (e s.fresh :: (List.range (Config.packetMore s.fresh)).map fun k => e (s.fresh + 1 + k))
    { s1 with fresh := s1.fresh + 2 + Config.packetMore s.fresh }.send m
  else s

end Sys2Proof.Machine
end

