-- ==== Sys2Proof/Machine/Sampler.lean ====
section
/-! DEFINITION. The neighbourhood samplers (R179–R203): walks as task contexts, drawing, hops, replay, remote expansion. -/
namespace Sys2Proof.Machine

/-! ### Shared with the exchange engine -/

/-- The exchange engine and the sampler of a Floe as HBM requester (R378). -/
abbrev rqXch (n : Nat) : Rq := ⟨n, 4⟩

/-- Bytes whose contents the spec leaves open: workspaces and staging areas after use (log 3, log 15). -/
def State.scribble (s : State) (q : Rq) (a len : Nat) : State :=
  let (b, s) := s.freeBytes len
  s.devWrite q a b

/-- Puts a number in its place in an ascending list without repeats. -/
def insAsc (x : Nat) : List Nat → List Nat
  | [] => [x]
  | y :: r => if x < y then x :: y :: r else if x = y then y :: r else y :: insAsc x r

/-- A list in ascending order without repeats. -/
def ascSet (l : List Nat) : List Nat := l.foldl (fun a x => insAsc x a) []

/-- An engine's state. -/
def State.xchOf (s : State) (n : Nat) : XchSt := mget {} s.xch n
/-- Replaces it. -/
def State.setXch (s : State) (n : Nat) (x : XchSt) : State := { s with xch := mset {} s.xch n x }

/-- When the deadline of a part sent now falls (R225). -/
def State.partDue (s : State) (n : Nat) : Nat := s.clk.time + s.rdf cXCH n XCH.DEADLINE 0 24

/-- A failed part is counted and recorded (R225, R230, R231). -/
def State.partFailed (s : State) (n status : Nat) (where' : Nat) : State :=
  let s := (s.bump cXCH n XCH.PART_FAIL_CNT).recUC cXCH n (if status = 1 then 0x06 else 0x09) (some where') (u32 status)
  if status = 2 then (s.bump cXCH n XCH.STALE_CNT).irq cXCH n 4 else s

/-- A part status that fails the whole part (R226). -/
def statusFails (st : Nat) : Bool := st == 1 || st == 2 || st == 4 || st == 6 || st == 7

/-! ### Walk descriptors (R180, R181, R201) -/

/-- A walk descriptor. -/
structure WalkDesc where
  op : Nat
  hops : Nat
  flags : Nat
  stream : W32
  rowptr : Nat
  colidx : Nat
  rowBase : Nat
  numRows : Nat
  seeds : Nat
  numSeeds : Nat
  thresh : Nat
  partShift : Nat
  fanout : Nat
  nodeOut : Nat
  edgeOut : Nat
  jrnl : Nat
  ws : Nat
  nodeCap : Nat
  edgeCap : Nat
  partTbl : Nat
  wsLen : Nat
  resv : Bool

/-- The descriptor in 128 bytes. -/
def walkDescOf (b : Bytes) : WalkDesc :=
  { op := bfield b 0 1, hops := bfield b 1 1, flags := bfield b 2 1, stream := u32 (bfield b 4 4), rowptr := bfield b 8 8
    colidx := bfield b 0x10 8, rowBase := bfield b 0x18 8, numRows := bfield b 0x20 8, seeds := bfield b 0x28 8
    numSeeds := bfield b 0x30 4, thresh := bfield b 0x34 2, partShift := bfield b 0x36 1, fanout := bfield b 0x38 8
    nodeOut := bfield b 0x40 8, edgeOut := bfield b 0x48 8, jrnl := bfield b 0x50 8, ws := bfield b 0x58 8
    nodeCap := bfield b 0x60 4, edgeCap := bfield b 0x64 4, partTbl := bfield b 0x68 8, wsLen := bfield b 0x70 8
    resv := bfield b 0x37 1 != 0 || bfield b 0x78 8 != 0 }

def WalkDesc.irq (d : WalkDesc) : Bool := d.flags / 128 % 2 == 1
def WalkDesc.idx64 (d : WalkDesc) : Bool := d.flags / 64 % 2 == 1
def WalkDesc.remote (d : WalkDesc) : Nat := d.flags / 16 % 4
def WalkDesc.agg (d : WalkDesc) : Nat := d.flags / 4 % 4
def WalkDesc.acc (d : WalkDesc) : Bool := d.flags / 2 % 2 == 1
/-- Fan-out of hop h, 1 to 4. -/
def WalkDesc.fan (d : WalkDesc) (h : Nat) : Nat := d.fanout / 65536 ^ (h - 1) % 65536
/-- DIM of a REPLAY and its row stride (R197). -/
abbrev WalkDesc.dim (d : WalkDesc) : Nat := d.numSeeds
def WalkDesc.rowStride (d : WalkDesc) : Nat := alignUp (4 * d.dim) 64
/-- A node is a local row (R184). -/
def WalkDesc.isLocal (d : WalkDesc) (v : Nat) : Bool := decide (d.rowBase ≤ v) && decide (v < d.rowBase + d.numRows)

/-- Two runs of bytes share a byte. -/
def runsMeet (a b : Nat × Nat) : Bool := a.2 != 0 && b.2 != 0 && decide (a.1 < b.1 + b.2) && decide (b.1 < a.1 + a.2)

/-- Some two of the runs share a byte. -/
def anyMeet : List (Nat × Nat) → Bool
  | [] => false
  | a :: r => r.any (runsMeet a) || anyMeet r

/-- Bytes of the journal that a SAMPLE can write: a header and the centre records of its seeds and, at each later hop, of
at most NODE_CAP nodes (R189, R191; no field gives the journal's length: DESIGN CHOICE, log 99). -/
def WalkDesc.jrnlLen (d : WalkDesc) : Nat := 64 + 16 * (d.numSeeds + (d.hops - 1) * d.nodeCap)

/-- R201 refuses a SAMPLE by its descriptor at `wd`. -/
def WalkDesc.badSample (d : WalkDesc) (wd : Nat) : Bool :=
  let e := if d.idx64 then 8 else 4
  let runs := [(d.nodeOut, 8 * d.nodeCap), (d.edgeOut, 16 * d.edgeCap), (d.jrnl, d.jrnlLen), (d.ws, d.wsLen), (wd, 128)]
  d.resv || d.flags % 16 != 0 || decide (1 < d.remote) || decide (d.hops < 1) || decide (4 < d.hops) ||
    [1, 2, 3, 4].any (fun h => if h ≤ d.hops then d.fan h == 0 || decide (1024 < d.fan h) else d.fan h != 0) ||
    d.thresh == 0 || decide (4096 < d.thresh) || decide (d.nodeCap < d.numSeeds) || decide (d.wsLen < 48 * d.nodeCap) ||
    (d.remote == 0 && (d.partTbl != 0 || d.partShift != 0)) ||
    d.rowptr % 8 != 0 || d.colidx % e != 0 || d.seeds % 8 != 0 || d.partTbl % 2 != 0 || d.nodeOut % 64 != 0 ||
    d.edgeOut % 64 != 0 || d.jrnl % 64 != 0 || d.ws % 64 != 0 ||
    anyMeet runs || !(runs.all fun r => inDevSpace r.1 r.2) || !inDevSpace d.rowptr (8 * (d.numRows + 1)) ||
    !inDevSpace d.seeds (8 * d.numSeeds) || !inDevSpace d.colidx e || !inDevSpace d.partTbl 2

/-- R201 refuses a REPLAY by its descriptor; fields that REPLAY does not use are zero. -/
def WalkDesc.badReplay (d : WalkDesc) : Bool :=
  d.resv || d.flags % 2 != 0 || d.flags / 16 % 8 != 0 || d.agg == 3 || decide (d.hops < 1) || decide (4 < d.hops) ||
    d.dim == 0 || decide (4096 < d.dim) ||
    [d.stream.toNat, d.numRows, d.seeds, d.thresh, d.partShift, d.fanout, d.nodeOut, d.ws, d.nodeCap, d.edgeCap, d.partTbl,
      d.wsLen].any (· != 0) || (d.agg != 2 && d.rowBase != 0) ||
    d.rowptr % 4 != 0 || d.colidx % 4 != 0 || d.rowBase % 4 != 0 || d.jrnl % 64 != 0 || d.edgeOut % 64 != 0 ||
    !inDevSpace d.jrnl 64

/-! ### Drawing (R185, R186) -/

/-- A draw below m. -/
def drawBelow (key : Quad) (stream : W32) (hop v m dn : Nat) : Nat :=
  let w := mix10 key (stream, u32 v, u32 (hop % 8 * 256 + v / 2 ^ 32 % 256), u32 dn)
  (w.2.1.toNat * 2 ^ 32 + w.1.toNat) * m / 2 ^ 64

/-- The first F positions of a partial Fisher–Yates shuffle of d positions; `k` swaps remain. -/
def fisherYates (dr : Nat → Nat → Nat) (d : Nat) : Nat → Nat → SMap Nat → List Nat
  | 0, _, _ => []
  | k + 1, i, m =>
    let j := i + dr (d - i) i
    let a := mget i m i
    let b := mget j m j
    b :: fisherYates dr d k (i + 1) (mset j m j a)

/-- The reservoir over positions p to d − 1; `k` remain. -/
def reservoir (dr : Nat → Nat → Nat) (f : Nat) : Nat → Nat → SMap Nat → SMap Nat
  | 0, _, m => m
  | k + 1, p, m =>
    let j := dr (p + 1) p
    reservoir dr f k (p + 1) (if j < f then mset j m j p else m)

/-- The chosen positions in ascending order, the draws used, and whether the reservoir chose (R186). -/
def choosePos (dr : Nat → Nat → Nat) (d f thresh : Nat) : List Nat × Nat × Bool :=
  if d ≤ f then (List.range d, 0, false)
  else if d ≤ thresh then (ascSet (fisherYates dr d f 0 []), f, false)
  else
    let m := reservoir dr f (d - f) f []
    (ascSet ((List.range f).map fun i => mget i m i), d - f, true)

/-- A CSR in memory as an expansion reads it. -/
structure Csr where
  rowptr : Nat
  colidx : Nat
  base   : Nat
  rows   : Nat
  idx64  : Bool

/-- The CSR of a descriptor. -/
def WalkDesc.csr (d : WalkDesc) : Csr := ⟨d.rowptr, d.colidx, d.rowBase, d.numRows, d.idx64⟩

/-- What an expansion gave: the node, the draws it used, whether its structure failed, the runs it read. -/
structure ExpRes where
  e      : Expn
  draws  : Nat := 0
  struct : Bool := false
  reads  : List (Nat × Nat × Bool) := []

/-- Expands a local node at a hop (R182, R183, R186, R196). -/
def State.expandNode (s : State) (n : Nat) (g : Csr) (hop f thresh : Nat) (stream : W32) (v : Nat) : ExpRes × State :=
  let q := rqXch n
  let a := g.rowptr + 8 * (v - g.base)
  let (r, s) := s.devRead q a 16
  let lo := bfield r.data 0 8
  let hi := bfield r.data 8 8
  let bad (pois : Bool) (d : Nat) : Expn := { node := v, degree := d, edges := [], failed := true, pois := pois }
  if r.anyPois then ({ e := bad true 0, reads := [(a, 16, false)] }, s)
  else if hi < lo then ({ e := bad false 0, struct := true, reads := [(a, 16, false)] }, s)
  else
    let d := hi - lo
    let w := if g.idx64 then 8 else 4
    let run := (g.colidx + w * lo, w * d)
    if !inDevSpace run.1 run.2 then ({ e := bad false d, struct := true, reads := [(a, 16, false)] }, s)
    else
      let (c, s) := s.devRead q run.1 run.2
      let reads := [(a, 16, false), (run.1, run.2, false)]
      if c.anyPois then ({ e := bad true d, reads := reads }, s)
      else
        let (ps, k, resv) := choosePos (drawBelow (s.keyOf cSMP n) stream hop v) d f thresh
        let es := ps.map fun p => (lo + p, bfield c.data (w * p) w)
        if es.any fun e => decide (2 ^ 40 ≤ e.2) then ({ e := bad false d, draws := k, struct := true, reads := reads }, s)
        else ({ e := { node := v, degree := d, edges := es, resv := resv }, draws := k, reads := reads }, s)

/-! ### Walks -/

/-- The walk runs on its sampler, which is on: what it has begun runs to completion (R200). -/
def State.walkRuns (s : State) (c : Nat) : Bool :=
  let n := ctxFloe c
  let x := s.ctx c
  x.state == .running && x.kind == 1 && x.tile == some (128 + n) && decide (n < 2) && s.pageOn cSMP n

/-- The walk can begin expansions or replayed records: its sampler is enabled and not frozen (R200). -/
def State.walkStarts (s : State) (c : Nat) : Bool :=
  s.walkRuns c && s.rdb cSMP (ctxFloe c) hCTRL 0 && !s.rdb cSMP (ctxFloe c) hFREEZE 0

/-- The cursor of R199: hop (0: not begun), position, node records, edge records, centre records. -/
def State.setCursor (s : State) (c hop nodes edges crecs : Nat) : State :=
  s.setCtx c (((((s.ctx c).setS 0 (u64 hop)).setS 1 0).setS 2 (u64 nodes)).setS 3 (u64 edges) |>.setS 4 (u64 crecs))

/-- A walk is refused (R201, R203): it ends with STATUS 0x10. -/
def State.walkRefuse (s : State) (c cause : Nat) : State :=
  let n := ctxFloe c
  let s := ((s.bump cSMP n SMP.DESC_ERR_CNT).irq cSMP n 32).recUC cSMP n cause (some (s.ctx c).wdesc) (some 0x10) (some c)
  s.setWalk c (some { hop := ((s.ctx c).sreg 0).toNat, exps := [], parts := [], fin := some 0x10 })

/-- A node record (R189). -/
def nodeRec (v hop : Nat) (remote leaf failed pois : Bool) : Nat :=
  v + hop * 2 ^ 40 + b2n remote * 2 ^ 56 + b2n leaf * 2 ^ 57 + b2n failed * 2 ^ 58 + b2n pois * 2 ^ 59

/-- Node records of a walk, as numbers. -/
def State.readNodes (s : State) (n : Nat) (d : WalkDesc) (k : Nat) : List Nat × State :=
  let (r, s) := s.devRead (rqXch n) d.nodeOut (8 * k)
  ((chunksOf 8 k r.data).map leNat, s)

/-- A journal header field. -/
def hdrField (b : Bytes) (o : Nat) : Nat := bfield b o 4

/-- The first step of a SAMPLE: the seed list, the node list of frontier 0, an empty header, the workspace (R189, R191). -/
def State.walkBegin (s : State) (c : Nat) (d : WalkDesc) : Option State :=
  let n := ctxFloe c
  let q := rqXch n
  let (r, s) := s.devRead q d.seeds (8 * d.numSeeds)
  let ids := (chunksOf 8 d.numSeeds r.data).map leNat
  if r.anyPois || ids.any (fun v => decide (2 ^ 40 ≤ v)) then none
  else
    let uniq := ids.foldl (fun a v => if a.contains v then a else a ++ [v]) []
    let s := s.bump cSMP n SMP.DUP_SEED_CNT (ids.length - uniq.length)
    let s := s.scribble q d.ws d.wsLen
    let s := s.devWrite q d.nodeOut (uniq.flatMap fun v => toLE 8 (nodeRec v 0 (!d.isLocal v) false false false))
    let s := s.devWrite q d.jrnl (toLE 4 0 ++ toLE 4 uniq.length ++ List.replicate 56 0)
    some (s.setCursor c 1 uniq.length 0 0)

/-- Frontier h − 1 in ascending node id (R187). -/
def State.frontier (s : State) (c : Nat) (d : WalkDesc) (h : Nat) : List Nat × State :=
  let n := ctxFloe c
  let x := s.ctx c
  let (recs, s) := s.readNodes n d (x.sreg 2).toNat
  let ids := recs.map (· % 2 ^ 40)
  if h ≤ 1 then (ascSet ids, s)
  else
    let (hd, s) := s.devRead (rqXch n) d.jrnl 64
    let first := hdrField hd.data (0x10 + 12 * (h - 2))
    if hdrField hd.data (0x14 + 12 * (h - 2)) = 0 then ([], s) else
    let (cr, s) := s.devRead (rqXch n) (d.jrnl + 64 + 16 * first) 16
    let e0 := bfield cr.data 4 4
    let k := (x.sreg 3).toNat - e0
    let (es, s) := s.devRead (rqXch n) (d.edgeOut + 16 * e0) (16 * k)
    (ascSet ((chunksOf 16 k es.data).map fun b => ids.getD (bfield b 4 4) 0), s)

/-- A node that is not a local row: a leaf, a node of an owner's part, or a failed one (R184). -/
def State.remoteOwner (s : State) (n : Nat) (d : WalkDesc) (v : Nat) : Option Nat × Bool × State :=
  let (r, s) := s.devRead (rqXch n) (d.partTbl + 2 * (v / 2 ^ d.partShift)) 2
  if r.anyPois then (none, true, s)
  else (some (leNat r.data), false, s)

/-- Events 1 to 3 of a hop for one node (R193): the expansion held, or the part it joins. -/
structure HopAcc where
  exps  : List Expn := []
  parts : List XPart := []
  draws : Nat := 0
  resv  : Nat := 0
  strs  : Nat := 0
  reads : List (Nat × Nat × Bool) := []

/-- Adds a node to the part of an owner, in ascending owner rank. -/
def addPart (owner row due : Nat) : List XPart → List XPart
  | [] => [⟨owner, [row], 1, due, none⟩]
  | p :: r =>
    if p.owner = owner then { p with rows := p.rows ++ [row] } :: r
    else if owner < p.owner then ⟨owner, [row], 1, due, none⟩ :: p :: r
    else p :: addPart owner row due r

/-- One node of the frontier. -/
def State.hopNode (c : Nat) (d : WalkDesc) (h : Nat) (a : HopAcc × State) (v : Nat) : HopAcc × State :=
  let n := ctxFloe c
  let (acc, s) := a
  let hold (e : Expn) (str : Nat) (reads : List (Nat × Nat × Bool)) (s : State) : HopAcc × State :=
    ({ acc with exps := acc.exps ++ [e], strs := acc.strs + str, reads := acc.reads ++ reads }, s)
  if d.isLocal v then
    let (r, s) := s.expandNode n d.csr h (d.fan h) d.thresh d.stream v
    ({ acc with exps := acc.exps ++ [r.e], draws := acc.draws + r.draws, resv := acc.resv + b2n r.e.resv
                strs := acc.strs + b2n r.struct, reads := acc.reads ++ r.reads }, s)
  else if d.remote = 0 then hold { node := v, degree := 0, edges := [], remote := true, leaf := true } 0 [] s
  else
    let at' := (d.partTbl + 2 * (v / 2 ^ d.partShift), 2, false)
    match s.remoteOwner n d v with
    | (none, p, s) => hold { node := v, degree := 0, edges := [], remote := true, failed := true, pois := p } 0 [at'] s
    | (some o, _, s) =>
      if o = s.myRank then hold { node := v, degree := 0, edges := [], remote := true, failed := true } 1 [at'] s
      else ({ acc with parts := addPart o v (s.partDue n) acc.parts, reads := acc.reads ++ [at'] }, s)

/-- Structure errors are counted and recorded against the walk's context (R183, R184, R203). -/
def State.structErrs (s : State) (c k : Nat) : State :=
  let n := ctxFloe c
  (List.range k).foldl (fun s _ => ((s.bump cSMP n SMP.STRUCT_ERR_CNT).irq cSMP n 8).recUC cSMP n 0x09 none none (some c)) s

/-- Sends the parts of a hop to their owners (R193 event 2). -/
def State.sendExpands (s : State) (c : Nat) (d : WalkDesc) (h : Nat) (ps : List XPart) : State :=
  let n := ctxFloe c
  ps.foldl (fun s p =>
    (s.bump cSMP n SMP.REMOTE_OUT_CNT p.rows.length).inject (9 + n)
      (.xchExpand n p.owner c h (d.fan h) d.thresh d.stream d.idx64 p.rows)) s

/-- STATUS of a walk from its centre records (R196, R201). -/
def State.walkStatus (s : State) (c : Nat) (d : WalkDesc) (stop : Bool) : Nat × State :=
  let k := ((s.ctx c).sreg 4).toNat
  let (r, s) := s.devRead (rqXch (ctxFloe c)) (d.jrnl + 64) (16 * k)
  let fl := (chunksOf 16 k r.data).map fun b => bfield b 0xA 2
  (if stop then 8 else if fl.any (fun f => f / 8 % 2 == 1) then 3 else if fl.any (fun f => f / 4 % 2 == 1) then 2 else 0, s)

/-- Events 1 to 3 of the next hop of a SAMPLE, or its end when every hop is done. -/
def State.sampleHop (s0 : State) (c : Nat) (d : WalkDesc) (s : State) : State :=
  let n := ctxFloe c
  let h := ((s.ctx c).sreg 0).toNat
  if d.hops < h then
    let (st, s) := s.walkStatus c d false
    s.setWalk c (some { hop := h, exps := [], parts := [], fin := some st })
  else
    let (fr, s) := s.frontier c d h
    let (a, s) := fr.foldl (State.hopNode c d h) ({}, s)
    let s := (s.bump64 cSMP n SMP.DRAWS a.draws).bump cSMP n SMP.RESERVOIR_CNT a.resv
    let s := (s.structErrs c a.strs).sendExpands c d h a.parts
    s0.devWhen ([(d.nodeOut, 8 * d.nodeCap, false), (d.edgeOut, 16 * d.edgeCap, false), (d.jrnl, 64, false)] ++ a.reads)
      (s.setWalk c (some { hop := h, exps := a.exps, parts := a.parts, fin := none }))

/-- What a SAMPLE reads and writes at its start. -/
def WalkDesc.startRuns (d : WalkDesc) : List (Nat × Nat × Bool) :=
  [(d.seeds, 8 * d.numSeeds, false), (d.ws, d.wsLen, true), (d.nodeOut, 8 * d.nodeCap, true), (d.jrnl, 64, true)]

/-- A step of a SAMPLE walk: it is begun or refused, or its next hop is expanded. -/
def State.sampleStep (s0 : State) (c : Nat) : State :=
  let wd := (s0.ctx c).wdesc
  if wd % 128 ≠ 0 ∨ !inDevSpace wd 128 then s0.walkRefuse c 0x01
  else
    s0.devGated [(wd, 128, false)] fun s =>
      let (r, s) := s.devRead (rqXch (ctxFloe c)) wd 128
      let d := walkDescOf r.data
      if r.anyPois then s.walkRefuse c 0x0E
      else if d.op = 2 then s0
      else if d.op ≠ 1 ∨ d.badSample wd then s.walkRefuse c 0x01
      else if ((s.ctx c).sreg 0).toNat = 0 then
        s0.devWhen d.startRuns (match s.walkBegin c d with
          | some s => State.sampleHop s0 c d s
          | none => s.walkRefuse c 0x01)
      else State.sampleHop s0 c d s

/-- SAMPLE (R193 events 1 to 3). -/
def execSample (c : Nat) (s : State) : Res :=
  .next <| if s.walkStarts c && (s.walkOf c).isNone then s.sampleStep c else s

/-! ### Events 4 to 6 of a hop -/

/-- The expansions of a hop in ascending node id. -/
def sortExps (l : List Expn) : List Expn := (ascSet (l.map (·.node))).filterMap fun v => l.find? (·.node == v)

/-- FLAGS of a centre record (R191). -/
def Expn.flags (e : Expn) : Nat := b2n e.resv + 2 * b2n e.remote + 4 * b2n e.failed + 8 * b2n e.pois + 16 * b2n e.leaf

/-- Writes the records of a hop (R189–R194). -/
def State.hopWrite (s : State) (c : Nat) (d : WalkDesc) (w : WalkSt) : State :=
  let n := ctxFloe c
  let q := rqXch n
  let h := w.hop
  let x := s.ctx c
  let nodes := (x.sreg 2).toNat
  let edges := (x.sreg 3).toNat
  let crecs := (x.sreg 4).toNat
  let es := sortExps w.exps
  let s := s.bump cSMP n SMP.FAILED_CNT (es.filter (·.failed)).length
  let (recs, s) := s.readNodes n d nodes
  let ids := recs.map (· % 2 ^ 40)
  let fresh := (ascSet (es.flatMap fun e => e.edges.map (·.2))).filter fun v => !ids.contains v
  let ids' := ids ++ fresh
  let slot (v : Nat) : Nat := (ids'.findIdx? (· == v)).getD 0
  let cuts := es.foldl (fun (a : List (Expn × Nat) × Nat) e => (a.1 ++ [(e, a.2)], a.2 + e.edges.length)) ([], edges)
  let erecs := es.flatMap fun e => e.edges.map fun p => toLE 4 (slot e.node) ++ toLE 4 (slot p.2) ++ toLE 8 (p.1 % 2 ^ 40)
  let crs := cuts.1.flatMap fun p =>
    toLE 4 (slot p.1.node) ++ toLE 4 p.2 ++ toLE 2 p.1.edges.length ++ toLE 2 p.1.flags ++ toLE 4 (min 0xFFFFFFFF p.1.degree)
  let nrecs := fresh.map fun v => nodeRec v h (!d.isLocal v) false false false
  let fitE := erecs.take (d.edgeCap - edges)
  let fitN := nrecs.take (d.nodeCap - nodes)
  -- the flags of a node describe its last expansion
  let s := (indexed recs).foldl (fun s e =>
    match es.find? (fun y => y.node == e.1 % 2 ^ 40) with
    | some y => s.devWrite q (d.nodeOut + 8 * e.2) (toLE 8 (nodeRec (e.1 % 2 ^ 40) (e.1 / 2 ^ 40 % 8) y.remote y.leaf y.failed y.pois))
    | none => s) s
  let s := s.devWrite q (d.jrnl + 64 + 16 * crecs) crs
  let s := s.devWrite q (d.edgeOut + 16 * edges) fitE.flatten
  let s := s.devWrite q (d.nodeOut + 8 * nodes) (fitN.flatMap fun v => toLE 8 v)
  let s := s.bump64 cSMP n SMP.EDGES fitE.length
  if d.edgeCap < edges + erecs.length ∨ d.nodeCap < nodes + nrecs.length then
    ((s.bump cSMP n SMP.CAP_STOP_CNT).irq cSMP n 4).setWalk c
      (some { hop := h, exps := [], parts := [], fin := some 8, pois := es.any (·.pois) })
  else
    let s := s.devWrite q (d.jrnl + 0x10 + 12 * (h - 1)) (toLE 4 crecs ++ toLE 4 es.length ++ toLE 4 nodes)
    let s := s.devWrite q (d.jrnl + 4) (toLE 4 (nodes + nrecs.length) ++ toLE 4 (edges + erecs.length))
    let s := s.devWrite q d.jrnl (toLE 1 h)
    (((s.setCursor c (h + 1) (nodes + nrecs.length) (edges + erecs.length) (crecs + es.length)).setWalk c none)).boundary c

/-- What the records of a hop touch. -/
def WalkDesc.hopRuns (d : WalkDesc) (wd : Nat) (crecs : Nat) (w : WalkSt) : List (Nat × Nat × Bool) :=
  [(wd, 128, false), (d.nodeOut, 8 * d.nodeCap, true), (d.edgeOut, 16 * d.edgeCap, true),
    (d.jrnl, 64 + 16 * (crecs + w.exps.length), true)]

/-- SAMPLE_HOP_WRITE (R193 events 4 to 6): every part of the hop is answered or has failed. -/
def execSampleHopWrite (c : Nat) (s0 : State) : Res :=
  .next <|
    match s0.walkOf c with
    | some w =>
      if !s0.walkRuns c || w.fin.isSome || w.parts.any (·.status.isNone) then s0
      else
        let wd := (s0.ctx c).wdesc
        let (r, s) := s0.devRead (rqXch (ctxFloe c)) wd 128
        let d := walkDescOf r.data
        if r.anyPois then s0.devWhen [(wd, 128, false)] (s.walkRefuse c 0x0E)
        else s0.devWhen (d.hopRuns wd ((s0.ctx c).sreg 4).toNat w) (s.hopWrite c d w)
    | none => s0

/-! ### Remote expansion (R195, R196) -/

/-- Serves the nodes of a batch of another rank, all as failed while REMOTE_SRV_EN is 0 (R195); `false` while the batch
has to wait. -/
def State.serveExpand (s0 : State) (n : Nat) (b : RemoteBatch) : Bool × State :=
  if s0.rdb cSMP n hFREEZE 0 then (false, s0)
  else if !s0.rdb cSMP n hCTRL 1 then
    (true, s0.inject (9 + n) (.xchExpanded n b.src b.tag (b.nodes.map fun v => ⟨v, 0, [], true, false⟩)))
  else
    let g : Csr := ⟨b.rowptr, b.colidx, b.rowBase, b.numRows, b.idx64⟩
    let r := b.nodes.foldl (fun (a : List ExpNode × HopAcc × State) v =>
      let (out, acc, s) := a
      if g.base ≤ v ∧ v < g.base + g.rows then
        let (r, s) := s.expandNode n g b.hop b.fanout b.thresh b.stream v
        (out ++ [⟨v, r.e.degree, r.e.edges, r.e.failed, r.e.pois⟩],
          { acc with draws := acc.draws + r.draws, resv := acc.resv + b2n r.e.resv, strs := acc.strs + b2n r.struct
                     reads := acc.reads ++ r.reads }, s)
      else (out ++ [⟨v, 0, [], true, false⟩], acc, s)) ([], {}, s0)
    let s := (r.2.2.bump64 cSMP n SMP.DRAWS r.2.1.draws).bump cSMP n SMP.RESERVOIR_CNT r.2.1.resv
    let s := (List.range r.2.1.strs).foldl (fun s _ => ((s.bump cSMP n SMP.STRUCT_ERR_CNT).irq cSMP n 8).recUC cSMP n 0x09) s
    s0.runsTry r.2.1.reads fun _ =>
      (true, (s.bump cSMP n SMP.REMOTE_SRV_CNT b.nodes.length).inject (9 + n) (.xchExpanded n b.src b.tag r.1))

/-! ### Replay (R197) -/

/-- Rows of FP32 elements with poison that a replay has in hand, by slot. -/
abbrev GRows : Type := SMap (Option (List (W32 × Bool)))

/-- A row of an array of FP32 rows. -/
def State.readRow (s : State) (n a dim : Nat) : List (W32 × Bool) × State :=
  let (r, s) := s.devRead (rqXch n) a (4 * dim)
  ((r.elems 4 dim).map fun e => (u32 (leNat e.1), e.2), s)

/-- Adds coef · src into dst. -/
def addScaled (coef : W32) (cp : Bool) (src dst : List (W32 × Bool)) : List (W32 × Bool) :=
  (src.zip dst).map fun e => (fadd32 e.2.1 (fmul32 coef e.1.1), e.1.2 || e.2.2 || cp)

/-- One edge of a replay. -/
def State.replayEdge (n : Nat) (d : WalkDesc) (src : List (W32 × Bool)) (count : Nat) (es : List Bytes) (a : GRows × State)
    (e : Nat) : GRows × State :=
  let (g, s) := a
  let nbr := bfield (es.getD e []) 4 4
  let (cw, s) : (W32 × Bool) × State :=
    if d.agg = 0 then ((fone, false), s)
    else if d.agg = 1 then (((invOfNat count).getD 0, false), s)
    else
      let (r, s) := s.devRead (rqXch n) (d.rowBase + 4 * e) 4
      ((u32 (leNat r.data), r.anyPois), s)
  let (row, s) := match mget none g nbr with
    | some r => (r, s)
    | none => if d.acc then s.readRow n (d.colidx + nbr * d.rowStride) d.dim else (List.replicate d.dim (0, false), s)
  (mset none g nbr (some (addScaled cw.1 cw.2 src row)), s)

/-- A REPLAY (R197): STATUS, or `none` when its hop is not in the journal, and poison in what steers it. -/
def State.replayRun (s : State) (n : Nat) (d : WalkDesc) : Option Nat × Bool × List (Nat × Nat × Bool) × State :=
  let q := rqXch n
  let (hd, s) := s.devRead q d.jrnl 64
  let h := d.hops
  let nodes := hdrField hd.data 4
  let edges := hdrField hd.data 8
  let first := hdrField hd.data (0x10 + 12 * (h - 1))
  let count := hdrField hd.data (0x14 + 12 * (h - 1))
  let st := d.rowStride
  let runs := [(d.jrnl, 64 + 16 * (first + count), false), (d.edgeOut, 16 * edges, false), (d.rowptr, nodes * st, false),
    (d.colidx, nodes * st, true)] ++ (if d.agg = 2 then [(d.rowBase, 4 * edges, false)] else [])
  if hd.anyPois then (none, true, [], s)
  else if bfield hd.data 0 1 < h ∨ runsMeet (d.rowptr, nodes * st) (d.colidx, nodes * st) ∨ !(runs.all fun r => inDevSpace r.1 r.2.1)
  then (none, false, [], s)
  else
    let (cr, s) := s.devRead q (d.jrnl + 64 + 16 * first) (16 * count)
    let (er, s) := s.devRead q d.edgeOut (16 * edges)
    if cr.anyPois || er.anyPois then (none, true, runs, s)
    else
      let es := chunksOf 16 edges er.data
      let g0 : GRows := if d.acc then [] else (List.range nodes).map fun i => (i, some (List.replicate d.dim (0, false)))
      let r := (chunksOf 16 count cr.data).reverse.foldl (fun (a : GRows × State) b =>
        let (src, s) := a.2.readRow n (d.rowptr + bfield b 0 4 * st) d.dim
        let e0 := bfield b 4 4
        let k := bfield b 8 2
        ((List.range k).reverse.map (e0 + ·)).foldl (State.replayEdge n d src k es) (a.1, s)) (g0, s)
      let s := r.1.foldl (fun s e => match e.2 with
        | some row => s.devWriteElems q (d.colidx + e.1 * st) 4 (row.map fun x => some (toLE 4 x.1.toNat, x.2))
        | none => s) r.2
      (some (if r.1.any (fun e => e.2.any fun row => row.any (·.2)) then 3 else 0), false, runs, s)

/-- A walk's STATUS is decided. -/
def State.walkFin (s : State) (c st : Nat) : State :=
  s.setWalk c (some { hop := 0, exps := [], parts := [], fin := some st })

/-- REPLAY (R197, R201). -/
def execReplay (c : Nat) (s0 : State) : Res :=
  .next <|
    if !s0.walkStarts c || (s0.walkOf c).isSome then s0
    else
      let n := ctxFloe c
      let wd := (s0.ctx c).wdesc
      if wd % 128 ≠ 0 ∨ !inDevSpace wd 128 then s0
      else
        s0.devGated [(wd, 128, false)] fun s =>
          let (r, s) := s.devRead (rqXch n) wd 128
          let d := walkDescOf r.data
          if r.anyPois || d.op != 2 then s0
          else if d.badReplay then s.walkRefuse c 0x01
          else
            match s.replayRun n d with
            | (some st, _, runs, s) => s0.devWhen runs (s.walkFin c st)
            | (none, p, _, s) => s.walkRefuse c (if p then 0x0E else 0x01)

/-! ### The end of a walk -/

/-- A walk ends (R201, R202): STATUS in the descriptor and in the journal, counts, interrupts, the context; one Deferred
record when a row was read with poison, at a hop that completed or at one that did not (R196). -/
def State.walkEnd (s : State) (c st : Nat) (pois : Bool) (d : WalkDesc) : State :=
  let n := ctxFloe c
  let q := rqXch n
  let s := s.devWrite q ((s.ctx c).wdesc + 3) [BitVec.ofNat 8 st]
  let s := if st ≠ 0x10 ∧ d.op = 1 then s.devWrite q (d.jrnl + 1) [BitVec.ofNat 8 st] else s
  let (ps, s) := if st ≠ 0x10 ∧ d.op = 1 then s.walkStatus c d false else (if st = 3 then 3 else 0, s)
  let s := if ps = 3 ∨ pois then ((s.bump cSMP n SMP.POISON_CNT).irq cSMP n 16).recDef cSMP n 0x03 (some (s.ctx c).wdesc) else s
  let s := if ps = 2 ∨ st = 2 ∨ (ps = 3 ∧ d.op = 1) then s.irq cSMP n 2 else s
  let s := ((s.bumpW cSMP n SMP.WALKS_DONE).wr cSMP n SMP.LAST (u32 (st * 2 ^ 24 + ctxLocal c))).setWalk c none
  let s := if d.irq then s.irq cSMP n 1 else s
  s.ctxDone c st

/-- WALK_END (R201): a walk whose STATUS is decided. -/
def execWalkEnd (c : Nat) (s0 : State) : Res :=
  .next <|
    match s0.walkOf c with
    | some w =>
      match w.fin with
      | some st =>
        if !s0.walkRuns c then s0
        else
          let wd := (s0.ctx c).wdesc
          let (r, s) := s0.devRead (rqXch (ctxFloe c)) wd 128
          let d := walkDescOf r.data
          s0.devWhen [(wd, 128, true), (d.jrnl, if st ≠ 0x10 ∧ d.op = 1 then 64 else 0, true),
            (s0.recAddr c, 256, true)] (s.walkEnd c st w.pois d)
      | none => s0
    | none => s0

end Sys2Proof.Machine
end

