-- ==== Sys2Proof/Machine/Exchange.lean ====
section
/-! DEFINITION. The exchange engines (R204–R231): tables, slots, look-ups, updates and their ledger, expert dispatch, parts
with their deadlines. -/
namespace Sys2Proof.Machine

/-! ### Table descriptors and rows (R205–R208, R216) -/

/-- A reserved value or field of a table descriptor (R229). -/
def tBad (b : Bytes) : Bool :=
  decide (3 < tCode b) || decide (1 < tMode b) || !(tRule b == 0 || tRule b == 4) || (bslice b 0x1D 3).any (· != 0) ||
    (bslice b 0x74 12).any (· != 0)

/-- The ranks of a table's shards. -/
def State.readRanks (s : State) (n : Nat) (td : Bytes) : List Nat × Bool × State :=
  let k := min 65536 (tShards td)
  let (r, s) := s.devRead (rqXch n) (tRanks td) (2 * k)
  ((chunksOf 2 k r.data).map leNat, r.anyPois, s)

/-- Where row g lives (R206). -/
def rowPlace (td : Bytes) (ranks : List Nat) (g : Nat) : XRow :=
  let ns := tShards td
  let sh := if tMode td = 0 then g % ns else g / 2 ^ tShift td
  let lo := if tMode td = 0 then g / ns else g - sh * 2 ^ tShift td
  if tRows td ≤ g then .bad else match ranks[sh]? with | some r => .at r lo | none => .bad

/-- Row id of a local row of a shard (R206). -/
def globalRow (td : Bytes) (shard lo : Nat) : Nat :=
  if tMode td = 0 then lo * tShards td + shard else shard * 2 ^ tShift td + lo

/-! ### Slots (R211–R213) -/

/-- SLOTt_s as stored: VALID, RETIRING and TAG. -/
def State.slotReg (s : State) (t k : Nat) : W32 := s.rd cXCH (t % 2) (XCH.SLOT + 8 * t + 4 * k)
/-- Stores it. -/
def State.setSlot (s : State) (t k : Nat) (v : W32) : State := s.wr cXCH (t % 2) (XCH.SLOT + 8 * t + 4 * k) v

/-- The slot of a version that can serve. -/
def State.slotOf (s : State) (t ver : Nat) : Option Nat :=
  [0, 1].find? fun k => let v := s.slotReg t k; bit v 31 && !bit v 30 && fld v 0 16 == ver % 65536

/-- Pins of a slot: accepted batches that have not been applied (R211). -/
def State.slotPins (s : State) (t k : Nat) : Nat :=
  ((s.xchOf (t % 2)).groups.filter fun g => g.table == t && g.slot == k).foldl (fun a g => a + g.from'.length) 0

/-- A retirement ends when no pin is held (R213). -/
def State.slotSettle (s : State) (t k : Nat) : State :=
  let v := s.slotReg t k
  if bit v 30 && s.slotPins t k == 0 then s.setSlot t k (u32 (fld v 0 16)) else s

/-- A write of SLOTt_s on engine n (R213, R231). -/
def State.slotWrite (s : State) (n t k : Nat) (v : W32) : State :=
  if t % 2 ≠ n then s
  else
    let cur := s.slotReg t k
    let oth := s.slotReg t (1 - k)
    let tag := fld v 0 16
    if bit v 31 then
      if bit cur 31 && !bit cur 30 && fld cur 0 16 == tag then s
      else if bit cur 30 || bit cur 31 || (bit oth 31 && fld oth 0 16 == tag) then s.recUC cXCH n 0x01 (some t)
      else s.setSlot t k (u32 (2 ^ 31 + tag))
    else if bit cur 31 then (s.setSlot t k (cur ||| 0x40000000)).slotSettle t k
    else s.setSlot t k (u32 tag)

/-- SLOT_WRITE (R213). -/
def execSlotWrite (m n tbl slot : Nat) (v : BitVec 32) (s : State) : Res :=
  .next <|
    if tbl < 256 ∧ slot < 2 then s.ownerWrite m cXCH n (XCH.SLOT + 8 * tbl + 4 * slot) false (·.slotWrite n tbl slot v) else s

/-! ### Hot rows (R216) -/

/-- First entry of the probe sequence. -/
def hotHash (log g : Nat) : Nat := g * 0x9E3779B97F4A7C15 % 2 ^ 64 / 2 ^ (64 - log)

/-- Probes the hot directory from entry `h`; `fuel` entries remain: the replica, or poison in the directory. -/
def State.hotProbe (n dir log g : Nat) : Nat → Nat → State → Option Nat × Bool × State
  | 0, _, s => (none, false, s)
  | f + 1, h, s =>
    let (r, s) := s.devRead (rqXch n) (dir + 8 * (h % 2 ^ log)) 8
    let e := leNat r.data
    if r.anyPois then (none, true, s)
    else if e / 2 ^ 63 % 2 = 0 then (none, false, s)
    else if e % 2 ^ 40 = g then (some (e / 2 ^ 40 % 2 ^ 20), false, s)
    else State.hotProbe n dir log g f (h + 1) s

/-- The place of row id g under version `ver`: a hot replica of the local slot, or its owner. -/
def State.locate (s : State) (n t : Nat) (td : Bytes) (ranks : List Nat) (ver g : Nat) : XRow × State :=
  match rowPlace td ranks g with
  | .bad => (.bad, s)
  | p =>
    match s.slotOf t ver with
    | none => (p, s)
    | some k =>
      if tHotLog td = 0 then (p, s)
      else
        match State.hotProbe n (tHotDir td k) (tHotLog td) g (2 ^ tHotLog td) (hotHash (tHotLog td) g) s with
        | (some r, _, s) => (.hot r, s)
        | (none, true, s) => (.pois, s)
        | (none, false, s) => (p, s)

/-! ### Command descriptors (R218, R219, R229) -/

/-- A command descriptor. -/
structure XDesc where
  op : Nat
  table : Nat
  flags : Nat
  count : Nat
  ids : Nat
  bags : Nat
  data : Nat
  poisonOut : Nat
  parts : Nat
  ws : Nat
  hotGrad : Nat
  nbags : Nat
  stride : Nat
  step : Nat
  batch : Nat
  dimx : Nat
  recv : Nat
  wsLen : Nat
  resv : Bool

/-- The descriptor in 128 bytes. -/
def xDescOf (b : Bytes) : XDesc :=
  { op := bfield b 0 1, table := bfield b 1 1, flags := bfield b 2 1, count := bfield b 4 4, ids := bfield b 8 8
    bags := bfield b 0x10 8, data := bfield b 0x18 8, poisonOut := bfield b 0x20 8, parts := bfield b 0x28 8
    ws := bfield b 0x30 8, hotGrad := bfield b 0x38 8, nbags := bfield b 0x40 4, stride := bfield b 0x44 4
    step := bfield b 0x48 4, batch := bfield b 0x4C 2, dimx := bfield b 0x4E 2, recv := bfield b 0x50 8
    wsLen := bfield b 0x58 8, resv := (bslice b 0x60 32).any (· != 0) }

def XDesc.irq (d : XDesc) : Bool := d.flags / 128 % 2 == 1
def XDesc.pool (d : XDesc) : Nat := d.flags / 32 % 4
def XDesc.bf16 (d : XDesc) : Bool := d.flags / 16 % 2 == 1

/-- The field set that an OP leaves unused is zero (R219). -/
def XDesc.unusedZero (d : XDesc) : Bool :=
  let z (l : List Nat) : Bool := l.all (· == 0)
  match d.op with
  | 1 => z [d.flags % 16, d.hotGrad, d.step, d.batch, d.dimx, d.recv] && (d.pool != 0 || (d.bags == 0 && d.nbags == 0))
  | 2 => z [d.flags % 32, d.poisonOut, d.dimx, d.recv] && (d.pool != 0 || (d.bags == 0 && d.nbags == 0))
  | 3 => z [d.flags % 16, d.pool, d.bags, d.hotGrad, d.nbags, d.step, d.batch, d.dimx, d.recv]
  | 4 => z [d.table, d.flags, d.poisonOut, d.hotGrad, d.batch]
  | _ => z [d.table, d.flags, d.bags, d.hotGrad, d.nbags, d.batch]

/-- Output rows of a look-up. -/
def XDesc.outs (d : XDesc) : Nat := if d.pool = 0 then d.count else d.nbags

/-- The runs of a command, without its ids: (address, bytes, alignment, is a write). -/
def XDesc.runs (d : XDesc) (td : Bytes) : List (Nat × Nat × Nat × Bool) :=
  let dim := tDim td
  let ob := if d.bf16 then 2 * dim else 4 * dim
  let span (k w : Nat) : Nat := if k = 0 then 0 else (k - 1) * d.stride + w
  let bags := if d.pool = 0 then [] else [(d.bags, 8 * (d.nbags + 1), 8, false)]
  let base := [(d.ws, d.wsLen, 1, true), (d.parts, 64, 64, true)]
  match d.op with
  | 1 => base ++ bags ++ [(d.ids, 8 * d.count, 8, false), (d.data, span d.outs ob, 64, true), (d.poisonOut, (d.outs + 7) / 8, 1, true)]
  | 2 => base ++ bags ++ [(d.ids, 8 * d.count, 8, false), (d.data, span d.outs (4 * dim), 64, false),
      (d.hotGrad, tHot td * ((dim + 31) / 32) * 68, 64, true)]
  | 3 => base ++ [(d.ids, 8 * d.count, 8, false), (d.data, span d.count ob, 64, true), (d.poisonOut, (d.count + 7) / 8, 1, true)]
  | 4 => base ++ [(d.ids, 16 * d.count, 64, true), (d.bags, 4, 4, false), (d.data, 4 * d.dimx, 64, false), (d.recv, 64, 64, true)]
  | _ => base ++ [(d.ids, 16 * d.count, 64, false), (d.data, span d.count (4 * d.dimx), 64, true),
      (d.poisonOut, (d.count + 7) / 8, 1, true), (d.recv, 64, 64, false)]

/-- The runs that a table descriptor names for a slot: records, accumulators, hot directory and replicas (R205–R207,
R216), as (address, bytes, alignment). -/
def tRuns (td : Bytes) (k : Nat) : List (Nat × Nat × Nat) :=
  (tBase td k, tRec td, 64) :: (if tRule td = 4 then [(tAcc td k, 4, 4)] else []) ++
    (if tHotLog td = 0 then [] else [(tHotDir td k, 8 * 2 ^ tHotLog td, 8), (tHotRep td k, tRec td * tHot td, 64)])

/-- R229 refuses the command, given its table descriptor (which DISPATCH and RETURN have none of) and the slots of the
table that this device holds. -/
def XDesc.bad (d : XDesc) (td : Bytes) (ks : List Nat) : Bool :=
  let expert := d.op == 4 || d.op == 5
  let row := if expert then 4 * d.dimx else if d.bf16 then 2 * tDim td else 4 * tDim td
  d.resv || !d.unusedZero || d.count == 0 || d.pool == 3 || (!expert && tBad td) || decide (d.stride < row) || d.stride % 64 != 0 ||
    decide (d.wsLen < 32 * d.count + 65536) || (d.op == 2 && decide (2 ≤ tCode td)) ||
    (d.op == 4 && (d.dimx == 0 || decide (4096 < d.dimx))) ||
    ((d.runs td).any fun r => r.1 % r.2.2.1 != 0 || !inDevSpace r.1 r.2.1) ||
    (!expert && ((tRanks td, 2 * min 65536 (tShards td), 2) :: ks.flatMap (tRuns td)).any fun r =>
      r.1 % r.2.2 != 0 || !inDevSpace r.1 r.2.1)

/-! ### Commands in progress -/

/-- Replaces the command of a ring index. -/
def State.setCmd (s : State) (n : Nat) (c : XchCmd) : State :=
  s.setXch n { s.xchOf n with cmds := (s.xchOf n).cmds.map fun x => if x.idx = c.idx then c else x }

/-- The command of a ring index. -/
def State.cmdAt (s : State) (n ring : Nat) : Option XchCmd := (s.xchOf n).cmds.find? fun c => c.idx == ring

/-- A command joins those in progress; CQ_HEAD goes on. -/
def State.addCmd (s : State) (n : Nat) (c : XchCmd) : State :=
  (s.setXch n { s.xchOf n with cmds := (s.xchOf n).cmds ++ [c] }).ringNext cXCH n

/-- A refused command waits for its turn to complete with STATUS 0x10 (R229, R231). -/
def State.xchRefuse (s : State) (n idx op cause : Nat) (irq : Bool) : State :=
  (((s.bump cXCH n XCH.DESC_ERR_CNT).irq cXCH n 32).recUC cXCH n cause (some idx)).addCmd n
    { idx := idx, op := op, irq := irq, desc := [], status := some 0x10 }

/-- The engine takes the command at the head of its ring when it is one of `op`; `go` gets the ring index and descriptor. -/
def State.xchTake (s0 : State) (n op : Nat) (go : State → Nat → Bytes → State) : State :=
  if !s0.ringReady cXCH n || decide (8 ≤ (s0.xchOf n).cmds.length) then s0
  else
    s0.ringTake (rqXch n) cXCH n fun s h b =>
      match b with
      | none => s0
      | some b => if bfield b 0 1 ≠ op then s0 else go s h b

/-- Reads the table descriptor of a command and checks R229; `go` gets it. -/
def State.withTable (s : State) (n idx : Nat) (d : XDesc) (go : State → Bytes → State) : State :=
  let (r, s) := s.devRead (rqXch n) (s.tblAddr n d.table) 128
  if r.anyPois then s.xchRefuse n idx d.op 0x0E d.irq
  else if d.bad r.data ([0, 1].filter fun k => bit (s.slotReg d.table k) 31) then s.xchRefuse n idx d.op 0x01 d.irq
  else go s r.data

/-- CUR_VER of table t as the commands of engine n latch it (R212). -/
def State.curVer (s : State) (n t : Nat) : Nat := s.rdf cXCH n (XCH.CUR_VER + 4 * t) 0 16

/-- Logical index i belongs to bag b. -/
def bagOf (bags : List Nat) (i : Nat) : Option Nat :=
  (List.range (bags.length - 1)).find? fun b => decide (bags.getD b 0 ≤ i) && decide (i < bags.getD (b + 1) 0)

/-- The parts of a command: (owner, row) pairs merged, ascending by owner and row; rows without an owner form a part of
their own that has failed (R206, R220; log 16). -/
def partsOf (due : Nat) (rows : List XRow) : List XPart :=
  let owners := ascSet (rows.filterMap fun r => match r with | .at o _ => some o | _ => none)
  let ps := owners.map fun o => (⟨o, ascSet (rows.filterMap fun r => match r with | .at p g => if p = o then some g else none | _ => none),
    1, due, none⟩ : XPart)
  let bad := rows.countP (· == .bad)
  if bad = 0 then ps else ps ++ [⟨65536, List.replicate bad 0, 0, due, some 4⟩]

/-- The part report of a command fits in the space (R226, R229). -/
def XDesc.reportFits (d : XDesc) (ps : List XPart) : Bool :=
  inDevSpace d.parts (64 + alignUp (8 * ps.length) 64 + (ps.length + 7) / 8)

/-- Records the parts that had failed when they were formed. -/
def State.failedAtOnce (s : State) (n idx : Nat) (ps : List XPart) : State :=
  ps.foldl (fun s p => if p.status.any statusFails then s.partFailed n (p.status.getD 0) idx else s) s

/-- What a part's batch carries. -/
def XchCmd.outFor (c : XchCmd) (owner : Nat) : List (Nat × List W32 × Bool) :=
  ((c.out.find? fun o => o.1 == owner).map (·.2)).getD []

/-- Sends a part's batch (R220, R222, R227). -/
def State.sendPart (s : State) (n : Nat) (c : XchCmd) (p : XPart) : State :=
  let d := xDescOf c.desc
  match c.op with
  | 1 => s.inject (9 + n) (.xchRead n p.owner c.idx d.table c.ver p.rows)
  | 3 => s.inject (9 + n) (.xchRead n p.owner c.idx d.table 65536 p.rows)
  | 2 => s.inject (9 + n) (.xchUpdate n p.owner c.idx d.table c.ver d.step d.batch (c.outFor p.owner))
  | _ => s.inject (9 + n) (.xchExpert n p.owner c.idx d.step (c.op == 5) ((c.outFor p.owner).map (·.2)))

/-- Sends every part that is not settled. -/
def State.sendParts (s : State) (n : Nat) (c : XchCmd) : State :=
  c.parts.foldl (fun s p => if p.status.isNone then s.sendPart n c p else s) s

/-! ### Look-ups (R220, R221) -/

/-- Bytes of an output row. -/
def outRow (bf16 : Bool) (l : List W32) : Bytes :=
  if bf16 then l.flatMap fun w => toLE 2 (fmtBF16.cvt .rne (f32 w) (fmtFP32.neg w.toNat)).1 else l.flatMap fun w => toLE 4 w.toNat

/-- The value of a logical index's row, if it has come clean. -/
def XchCmd.rowVal (c : XchCmd) (r : XRow) : Option (List W32) :=
  let key : Option (Nat × Nat) := match r with | .hot k => some (65537, k) | .at o g => some (o, g) | _ => none
  match key with
  | some k => ((c.vals.find? fun v => v.1 == k).map (·.2)).join
  | none => none

/-- Writes the rows of an unpooled command that `which` says have just come. -/
def State.writeRows (s : State) (n : Nat) (c : XchCmd) (which : XRow → Bool) : State :=
  let d := xDescOf c.desc
  (indexed c.rows).foldl (fun s e =>
    if which e.1 then
      match c.rowVal e.1 with
      | some l => s.devWrite (rqXch n) (d.data + d.stride * e.2) (outRow d.bf16 l)
      | none => s
    else s) s

/-- A row is hot. -/
def XRow.isHot : XRow → Bool
  | .hot _ => true
  | _ => false

/-- Reads the hot replicas that a command needs (R217, R220 event 2). -/
def State.hotVals (s : State) (n : Nat) (td : Bytes) (slot : Nat) (rows : List XRow) :
    List ((Nat × Nat) × Option (List W32)) × Bool × State :=
  let ks := ascSet (rows.filterMap fun r => match r with | .hot k => some k | _ => none)
  ks.foldl (fun (a : List ((Nat × Nat) × Option (List W32)) × Bool × State) k =>
    let (r, s) := a.2.2.devRead (rqXch n) (tHotRep td slot + tRec td * k) (tRec td)
    let x := rowDecode (tCode td) (tDim td) r.data
    let s := if x.2 then s.bump cXCH n XCH.NF_ROW_CNT else s
    (a.1 ++ [((65537, k), if r.anyPois then none else some x.1)], a.2.1 || r.anyPois, s)) ([], false, s)

/-- Row ids of a command with the poison of each. -/
def State.readIds (s : State) (n : Nat) (d : XDesc) : List (Nat × Bool) × State :=
  let (r, s) := s.devRead (rqXch n) d.ids (8 * d.count)
  ((r.elems 8 d.count).map fun e => (leNat e.1, e.2), s)

/-- Bag offsets of a pooled command. -/
def State.readBags (s : State) (n : Nat) (d : XDesc) : List Nat × Bool × State :=
  if d.pool = 0 then ([], false, s)
  else
    let (r, s) := s.devRead (rqXch n) d.bags (8 * (d.nbags + 1))
    ((chunksOf 8 (d.nbags + 1) r.data).map leNat, r.anyPois, s)

/-- The places of row ids. -/
def State.locateAll (s : State) (n : Nat) (td : Bytes) (t ver : Nat) (ranks : List Nat) (ids : List (Nat × Bool)) :
    List XRow × State :=
  ids.foldl (fun (a : List XRow × State) e =>
    if e.2 then (a.1 ++ [.pois], a.2)
    else let (p, s) := a.2.locate n t td ranks ver (e.1 % 2 ^ 40); (a.1 ++ [p], s)) ([], s)

/-- What a LOOKUP does when it is taken (R220 events 1 to 4). -/
def State.lookupStart (s : State) (n idx : Nat) (b td : Bytes) : State :=
  let d := xDescOf b
  let t := d.table
  let ver := s.curVer n t
  let (ids, s) := s.readIds n d
  let (bags, bp, s) := s.readBags n d
  let (ranks, rp, s) := s.readRanks n td
  if bp || rp then s.xchRefuse n idx d.op 0x0E d.irq
  else
    let (rows, s) := s.locateAll n td t ver ranks ids
    let parts := partsOf (s.partDue n) rows
    if !d.reportFits parts then s.xchRefuse n idx d.op 0x01 d.irq else
    let (hv, hp, s) := s.hotVals n td ((s.slotOf t ver).getD 0) rows
    let s := s.bump cXCH n XCH.HOT_HIT_CNT (rows.filter XRow.isHot).length
    let c : XchCmd := { idx := idx, op := 1, irq := d.irq, desc := b, tdesc := td, ver := ver, rows := rows, bags := bags
                        parts := parts, vals := hv, pois := hp || rows.contains .pois }
    let s := (s.scribble (rqXch n) d.ws d.wsLen).addCmd n c
    let s := if d.pool = 0 then s.writeRows n c XRow.isHot else s
    (s.failedAtOnce n idx parts).sendParts n c

/-- LOOKUP (R220). -/
def execLookup (n : Nat) (s0 : State) : Res :=
  .next <| s0.xchTake n 1 fun s h b =>
    let d := xDescOf b
    s.withTable n h d fun s td =>
      s0.devWhen ((d.runs td).map fun r => (r.1, r.2.1, r.2.2.2)) (s.lookupStart n h b td)

/-- What a GATHER does when it is taken (R221). -/
def State.gatherStart (s : State) (n idx : Nat) (b td : Bytes) : State :=
  let d := xDescOf b
  let (ids, s) := s.readIds n d
  let (ranks, rp, s) := s.readRanks n td
  if rp then s.xchRefuse n idx d.op 0x0E d.irq
  else
    let rows := ids.map fun e =>
      if e.2 then XRow.pois else if ranks.contains (e.1 / 2 ^ 48 % 65536) then .at (e.1 / 2 ^ 48 % 65536) (e.1 % 2 ^ 40) else .bad
    let parts := partsOf (s.partDue n) rows
    if !d.reportFits parts then s.xchRefuse n idx d.op 0x01 d.irq else
    let c : XchCmd := { idx := idx, op := 3, irq := d.irq, desc := b, tdesc := td, ver := 65536, rows := rows, parts := parts
                        pois := rows.contains .pois }
    let s := (s.scribble (rqXch n) d.ws d.wsLen).addCmd n c
    (s.failedAtOnce n idx parts).sendParts n c

/-- GATHER (R221). -/
def execGather (n : Nat) (s0 : State) : Res :=
  .next <| s0.xchTake n 3 fun s h b =>
    let d := xDescOf b
    s.withTable n h d fun s td =>
      s0.devWhen ((d.runs td).map fun r => (r.1, r.2.1, r.2.2.2)) (s.gatherStart n h b td)

/-- The shard of this rank, and whether the ranks could be read. -/
def State.myShard (s : State) (n : Nat) (td : Bytes) : Option Nat × State :=
  let (ranks, p, s) := s.readRanks n td
  (if p then none else ranks.findIdx? (· == s.myRank), s)

/-- The engine answers batches of a source: its own rank's always, others while SERVE_EN is 1 (R226). -/
def State.serves (s : State) (n src : Nat) : Bool := src == s.myRank || s.rdb cXCH n hCTRL 1

/-- The engine can start work now (R228). -/
def State.xchOn (s : State) (n : Nat) : Bool := decide (n < 2) && s.pageOn cXCH n && !s.rdb cXCH n hFREEZE 0

/-- A frozen engine leaves the batches of other ranks waiting; its own rank's are work in progress (R228). -/
def State.xchHolds (s : State) (n src : Nat) : Bool := s.rdb cXCH n hFREEZE 0 && src != s.myRank

/-- Serves a look-up part (R220 event 5); `false` while it has to wait. -/
def State.serveRows (s0 : State) (n src t ver tag : Nat) (rows : List Nat) : Bool × State :=
  let ta := s0.tblAddr n t
  s0.runsTry [(ta, 128, false)] fun s =>
    let (r, s) := s.devRead (rqXch n) ta 128
    let td := r.data
    let no (s : State) (st : Nat) : Bool × State := (true, s.inject (9 + n) (.xchRows n src t tag st []))
    if !s.serves n src then no s 4
    else if r.anyPois then no (s.recUC cXCH n 0x0E (some ta)) 4
    else
      let (sh, s) := s.myShard n td
      match s.slotOf t (if ver = 65536 then s.curVer n t else ver), sh with
      | none, _ => no s 2
      | some _, none => no s 4
      | some k, some shard =>
        if rows.any (fun g => decide (tRows td ≤ globalRow td shard g)) then no s 4
        else
          let sz := tRec td
          let a := rows.foldl (fun (a : List (Bytes × Bool) × State) g =>
            let (x, s) := a.2.devRead (rqXch n) (tBase td k + sz * g) sz
            (a.1 ++ [(x.data, x.anyPois)], s)) ([], s)
          s0.runsTry ((tRanks td, 2 * tShards td, false) :: rows.map fun g => (tBase td k + sz * g, sz, false)) fun _ =>
            (true, (a.2.bump64 cXCH n XCH.ROWS rows.length).inject (9 + n)
              (.xchRows n src t tag (if a.1.any (·.2) then 3 else 0) a.1))

/-- Replaces the part of an owner. -/
def XchCmd.setPart (c : XchCmd) (owner : Nat) (f : XPart → XPart) : XchCmd :=
  { c with parts := c.parts.map fun p => if p.owner = owner then f p else p }

/-- The part of an owner that waits for its answer. -/
def XchCmd.openPart (c : XchCmd) (owner : Nat) : Option XPart := c.parts.find? fun p => p.owner == owner && p.status.isNone

/-- A part is settled with a status (R225). -/
def State.settlePart (s : State) (n : Nat) (c : XchCmd) (owner st : Nat) : State :=
  let s := s.setCmd n (c.setPart owner fun p => { p with status := some st })
  if statusFails st then s.partFailed n st c.idx else s

/-- The records of a part that was served arrive (R220 event 6). -/
def State.rowsArrive (s : State) (n : Nat) (c : XchCmd) (p : XPart) (recs : List (Bytes × Bool)) : State :=
  let td := c.tdesc
  let dec := (p.rows.zip recs).map fun e => (e.1, rowDecode (tCode td) (tDim td) e.2.1, e.2.2)
  let vals := dec.map fun e => ((p.owner, e.1), if e.2.2 then none else some e.2.1.1)
  let pois := dec.any (·.2.2)
  let nf := (dec.filter fun e => !e.2.2 && e.2.1.2).length
  let c := { (c.setPart p.owner fun p => { p with status := some (if pois then 3 else 0) }) with
               vals := c.vals ++ vals, pois := c.pois || pois }
  let s := (s.setCmd n c).bump cXCH n XCH.NF_ROW_CNT nf
  if (xDescOf c.desc).pool = 0 then
    s.writeRows n c fun r => match r with | .at o _ => o == p.owner | _ => false
  else s

/-- LOOKUP_ANSWER (R220, R225): an answer to a part that is no longer open is discarded. -/
def execLookupAnswer (n ring owner status : Nat) (recs : List Bytes) (poison : List Bool) (s : State) : Res :=
  .next <|
    if !(decide (n < 2) && s.pageOn cXCH n) then s
    else
      match s.cmdAt n ring with
      | none => s
      | some c =>
        match c.openPart owner with
        | none => s
        | some p =>
          if c.op ≠ 1 ∧ c.op ≠ 3 then s
          else if statusFails status then s.settlePart n c owner status
          else
            let d := xDescOf c.desc
            s.devWhen [(d.data, if d.pool = 0 then d.stride * d.count else 0, true)]
              (s.rowsArrive n c p (recs.zip (poison ++ List.replicate recs.length false)))

/-! ### SCATTER (R222) -/

/-- Adds a term to the sum of a row, starting from the first term. -/
def addTerm (key : Nat × Nat) (g : List W32) (p : Bool) : List ((Nat × Nat) × List W32 × Bool) → List ((Nat × Nat) × List W32 × Bool)
  | [] => [(key, g, p)]
  | e :: r =>
    if e.1 = key then (key, (e.2.1.zip g).map (fun x => fadd32 x.1 x.2), e.2.2 || p) :: r else e :: addTerm key g p r

/-- The gradient rows of a SCATTER, with poison. -/
def State.readGrads (s : State) (n : Nat) (d : XDesc) (dim : Nat) : List (List W32 × Bool) × State :=
  (List.range d.outs).foldl (fun (a : List (List W32 × Bool) × State) i =>
    let (r, s) := a.2.devRead (rqXch n) (d.data + d.stride * i) (4 * dim)
    (a.1 ++ [((chunksOf 4 dim r.data).map fun b => u32 (leNat b), r.anyPois)], s)) ([], s)

/-- Sums per distinct row; hot rows under the owner number 65,537. -/
def scatterSums (d : XDesc) (bags : List Nat) (rows : List XRow) (gs : List (List W32 × Bool)) :
    List ((Nat × Nat) × List W32 × Bool) :=
  (indexed rows).foldl (fun a e =>
    let key : Option (Nat × Nat) := match e.1 with | .hot k => some (65537, k) | .at o g => some (o, g) | _ => none
    let src : Option (List W32 × Bool) :=
      if d.pool = 0 then gs[e.2]?
      else
        match bagOf bags e.2 with
        | some b => (gs[b]?).map fun g =>
            if d.pool = 1 then g
            else
              let k := (invOfNat (bags.getD (b + 1) 0 - bags.getD b 0)).getD 0
              (g.1.map fun x => fmul32 k x, g.2)
        | none => none
    match key, src with
    | some k, some g => addTerm k g.1 g.2 a
    | _, _ => a) []

/-- BS16 units of a hot gradient row (R217). -/
def hotUnits (dim : Nat) (g : List W32) : Bytes :=
  (List.range ((dim + 31) / 32)).flatMap fun u =>
    (bs16Encode (fun _ => .rne) ((List.range 32).map fun j => f32 (g.getD (32 * u + j) 0))).bytes

/-- What a SCATTER does when it is taken (R222). -/
def State.scatterStart (s : State) (n idx : Nat) (b td : Bytes) : State :=
  let d := xDescOf b
  let dim := tDim td
  let ver := s.curVer n d.table
  let (ids, s) := s.readIds n d
  let (bags, bp, s) := s.readBags n d
  let (ranks, rp, s) := s.readRanks n td
  if bp || rp then s.xchRefuse n idx d.op 0x0E d.irq
  else
    let (rows, s) := s.locateAll n td d.table ver ranks ids
    let (gs, s) := s.readGrads n d dim
    let sums := scatterSums d bags rows gs
    let due := s.partDue n
    let owners := ascSet ranks
    let out := owners.map fun o =>
      (o, (ascSet (sums.filterMap fun e => if e.1.1 = o then some e.1.2 else none)).filterMap fun g =>
        (sums.find? fun e => e.1 == (o, g)).map fun e => (g, e.2))
    let bad := (rows.filter (· == .bad)).length
    let parts := out.map (fun o => (⟨o.1, o.2.map (·.1), 1, due, none⟩ : XPart)) ++
      (if bad = 0 then [] else [⟨65536, List.replicate bad 0, 0, due, some 4⟩])
    if !d.reportFits parts then s.xchRefuse n idx d.op 0x01 d.irq else
    let c : XchCmd := { idx := idx, op := 2, irq := d.irq, desc := b, tdesc := td, ver := ver, parts := parts, out := out
                        pois := rows.contains .pois || sums.any (·.2.2) }
    let hot := (List.range (tHot td)).map fun k => (sums.find? fun e => e.1 == (65537, k)).map (·.2)
    let sz := (dim + 31) / 32 * 68
    let s := (indexed hot).foldl (fun s e =>
      s.devWrite (rqXch n) (d.hotGrad + sz * e.2) (hotUnits dim ((e.1.map (·.1)).getD [])) ((e.1.map (·.2)).getD false)) s
    let s := (s.scribble (rqXch n) d.ws d.wsLen).addCmd n c
    (s.failedAtOnce n idx parts).sendParts n c

/-- SCATTER (R222). -/
def execScatter (n : Nat) (s0 : State) : Res :=
  .next <| s0.xchTake n 2 fun s h b =>
    let d := xDescOf b
    s.withTable n h d fun s td =>
      s0.devWhen ((d.runs td).map fun r => (r.1, r.2.1, r.2.2.2)) (s.scatterStart n h b td)

/-! ### The ledger and the inbox (R223, R224) -/

/-- Entries of one step's half. -/
def State.ledgerLog (s : State) (n : Nat) : Nat := max 10 (min 20 (s.rdf cXCH n XCH.LEDGER_LOG 0 5))
/-- Address of the ledger. -/
def State.ledgerBase (s : State) (n : Nat) : Nat := s.rd64 cXCH n XCH.LEDGER_BASE_LO % 2 ^ 48 / 64 * 64
/-- The ledger's run of bytes. -/
def State.ledgerRun (s : State) (n : Nat) : Nat × Nat := (s.ledgerBase n, 32 * 2 ^ s.ledgerLog n)

/-- The 16 bytes of an entry: step, source rank, batch, table, and a last byte of 1. The spec says what an entry records
and leaves its layout open (DESIGN CHOICE, log 17). -/
def ledgerEntry (t step src batch : Nat) : Bytes :=
  toLE 4 step ++ toLE 2 src ++ toLE 2 batch ++ toLE 1 t ++ List.replicate 6 0 ++ [1]

/-- The entries of a half as they stand in memory, up to the first that is not taken; a poisoned one counts as taken. -/
def State.ledgerHalf (s : State) (n h : Nat) : List (Bytes × Bool) × State :=
  let k := 2 ^ s.ledgerLog n
  let (r, s) := s.devRead (rqXch n) (s.ledgerBase n + h * 16 * k) (16 * k)
  ((r.elems 16 k).takeWhile fun e => e.2 || e.1.getLastD 0 != 0, s)

/-- The step of a half: that of its first entry that can be read. -/
def ledgerStepOf (l : List (Bytes × Bool)) : Option Nat := (l.find? fun e => !e.2).map fun e => bfield e.1 0 4

/-- The key is in the ledger. -/
def State.inLedger (s : State) (n t step src batch : Nat) : Bool × State :=
  let (a, s) := s.ledgerHalf n 0
  let (b, s) := s.ledgerHalf n 1
  ((a ++ b).any fun e => !e.2 && e.1 == ledgerEntry t step src batch, s)

/-- Makes room for a step among the two most recent that the ledger in memory holds: its half and entries, `none` when it
is older than both (R224). -/
def State.ledgerStep (s : State) (n step : Nat) : Option (Nat × Nat) × State :=
  let (l0, s) := s.ledgerHalf n 0
  let (l1, s) := s.ledgerHalf n 1
  let take (s : State) (h : Nat) (old : Option Nat) : Option (Nat × Nat) × State :=
    let x := s.xchOf n
    let s := s.setXch n { x with applied := x.applied.filter fun k => !old.any (· == k.2.1) }
    let k := 16 * 2 ^ s.ledgerLog n
    (some (h, 0), s.devWrite (rqXch n) (s.ledgerBase n + h * k) (List.replicate k 0))
  match ledgerStepOf l0, ledgerStepOf l1 with
  | some a, b =>
    if a = step then (some (0, l0.length), s)
    else
      match b with
      | some b =>
        if b = step then (some (1, l1.length), s)
        else if step < min a b then (none, s)
        else if a ≤ b then take s 0 (some a) else take s 1 (some b)
      | none => take s 1 none
  | none, some b => if b = step then (some (1, l1.length), s) else take s 0 none
  | none, none => take s 0 none

/-- The inbox's run of bytes. -/
def State.inboxRun (s : State) (n : Nat) : Nat × Nat :=
  (s.rd64 cXCH n XCH.INBOX_BASE_LO % 2 ^ 48 / 65536 * 65536, s.rdf cXCH n XCH.INBOX_LEN 0 16 * 65536)

/-- Adds a source's rows to a group, by ascending source. -/
def addSource (src : Nat) (rows : List (Nat × List W32 × Bool)) :
    List (Nat × List (Nat × List W32 × Bool)) → List (Nat × List (Nat × List W32 × Bool))
  | [] => [(src, rows)]
  | e :: r => if src < e.1 then (src, rows) :: e :: r else e :: addSource src rows r

/-- An accepted batch joins its group, forms one, or waits to be applied alone (R223). -/
def State.joinGroup (s : State) (n t step batch slot src : Nat) (rows : List (Nat × List W32 × Bool)) : State :=
  let x := s.xchOf n
  let isIt (g : XGroup) : Bool := g.table == t && g.step == step && g.batch == batch && !g.late && g.slot == slot
  if x.groups.any isIt then
    s.setXch n { x with groups := x.groups.map fun g => if isIt g then { g with from' := addSource src rows g.from' } else g }
  else
    let late := x.applied.contains (t, step, batch)
    s.setXch n { x with groups := x.groups ++ [⟨t, step, batch, slot, [(src, rows)],
      s.clk.time + s.rdf cXCH n XCH.APPLY_WAIT 0 24, false, late⟩] }

/-- Accepts or turns away a SCATTER batch (R223, R224, R226); `false` while it has to wait. A batch that the ledger turns
away is recorded (R231). -/
def State.acceptBatch (s0 : State) (n src t ver step batch : Nat) (rows : List (Nat × List W32 × Bool)) : Bool × State :=
  let ack (s : State) (st : Nat) : Bool × State := (true, s.inject (9 + n) (.xchAck n src t step batch st))
  let ta := s0.tblAddr n t
  let lr := s0.ledgerRun n
  let ib := s0.inboxRun n
  s0.runsTry [(ta, 128, false), (lr.1, lr.2, true), (ib.1, ib.2, true)] fun s =>
    if !s.serves n src then ack s 4
    else
      let (hit, s) := s.inLedger n t step src batch
      if hit then ack (s.bump cXCH n XCH.DUP_IGNORED_CNT) 5
      else
        let (r, s) := s.devRead (rqXch n) ta 128
        if r.anyPois then ack (s.recUC cXCH n 0x0E (some ta)) 4
        else
          let (sh, s) := s.myShard n r.data
          match s.slotOf t ver, sh with
          | none, _ => ack s 2
          | some _, none => ack s 4
          | some k, some shard =>
            if rows.any (fun g => decide (tRows r.data ≤ globalRow r.data shard g.1)) then ack s 4
            else
              match s.ledgerStep n step with
              | (none, s) => ack (s.recUC cXCH n 0x01 (some t) (u32 6)) 6
              | (some (half, cnt), s) =>
                if 2 ^ s.ledgerLog n ≤ cnt then
                  ack (((s.bump cXCH n XCH.LEDGER_FULL_CNT).irq cXCH n 16).recUC cXCH n 0x01 (some t) (u32 7)) 7
                else
                  let a := s.ledgerBase n + (half * 2 ^ s.ledgerLog n + cnt) * 16
                  let s := s.devWrite (rqXch n) a (ledgerEntry t step src batch)
                  ack ((s.scribble (rqXch n) ib.1 ib.2).joinGroup n t step batch k src rows) 0

/-! ### Applies (R223) -/

/-- The gradients of a row over the present sources in ascending rank, with poison. -/
def groupGrad (g : XGroup) (row : Nat) : List W32 × Bool :=
  let l := g.from'.filterMap fun e => (e.2.find? fun r => r.1 == row).map (·.2)
  match l with
  | [] => ([], false)
  | a :: r => r.foldl (fun x y => ((x.1.zip y.1).map (fun z => fadd32 z.1 z.2), x.2 || y.2)) a

/-- A row of a chained UPDATE (R209, R223 events 3 and 4): class S; the logical index of its accumulator is its global
row id (log 36); `skip` leaves the row as it is. The engine writes the staged record, and under rule 4 its accumulator,
back, changed or not. -/
def State.chainRow (s : State) (n : Nat) (td : Bytes) (g : XGroup) (shard : Nat) (inv : Option W32) (row : Nat) : OptCount × State :=
  let q := rqXch n
  let sz := tRec td
  let dim := tDim td
  let at' := tBase td g.slot + sz * row
  let aa := tAcc td g.slot + 4 * row
  let (r, s) := s.devRead q at' sz
  let ada := tRule td == 4
  let (a, s) := if ada then s.devRead q aa 4 else (⟨[], [], true⟩, s)
  let (gr, gp) := groupGrad g row
  let gs := (List.range dim).map fun j => (gr.getD j 0, gp)
  let id := globalRow td shard row
  let o : RowOut := match inv with
    | none => {}
    | some w => rowUpdate (tRule td) (tCode td) 0 w (scaleLr (tLr td) (tUexp td)) (tEps td)
      ⟨fun j => s.optRnd n 0 (tStream td) g.step (id * dim + j) 0, s.optRnd n 0 (tStream td) g.step id 1⟩
      r.data r.anyPois (u32 (leNat a.data)) a.anyPois gs
  let s := s.rowBack q at' aa r (if ada then some a else none) o
  (o.cnt, if o.badScale then s.bump cXCH n XCH.NF_ROW_CNT else s)

/-- One chained UPDATE over the rows of a stage (R223 events 2 to 4, R134). -/
def State.chainUpdate (s : State) (n : Nat) (td : Bytes) (g : XGroup) (shard : Nat) (rows : List Nat) : State :=
  let dim := tDim td
  let s := s.scribble (rqXch n) (s.rd64 cXCH n XCH.STAGE_BASE_LO % 2 ^ 48 / 65536 * 65536) (rows.length * (tRec td + 4 + 4 * dim))
  let gr := rows.map (groupGrad g)
  let bad := (gr.map fun x => if x.2 then 0 else x.1.countP fun w => !isFin32 w).sum
  let none' := (f32 (tDivisor td)).isZero
  let skip := none' || (bad != 0 && s.rdb cOPT n hCTRL 1)
  let r := rows.foldl (fun (a : OptCount × State) row =>
    let o := a.2.chainRow n td g shard (if skip then none else some (fdiv32 fone (tDivisor td))) row
    (a.1.add o.1, o.2)) ({}, s)
  let s := if skip then (r.2.bump cOPT n OPT.SKIP_CNT).irq cOPT n 2 else r.2
  if none' then s
  else s.optTally n (if skip then { nf := bad, pois := dim * gr.countP (·.2) } else r.1) (tBase td g.slot)

/-- A list in runs of at most k. -/
def stages (k : Nat) : Nat → List Nat → List (List Nat)
  | 0, _ => []
  | _ + 1, [] => []
  | f + 1, l => l.take k :: stages k f (l.drop k)

/-- Applies a group (R223). -/
def State.applyGroup (s : State) (n : Nat) (td : Bytes) (g : XGroup) (shard : Nat) : State :=
  let rows := ascSet (g.from'.flatMap fun e => e.2.map (·.1))
  let k := max 1 (s.rdf cXCH n XCH.STAGE_LEN 0 16)
  let s := (stages k rows.length rows).foldl (fun s l => s.chainUpdate n td g shard l) s
  let x := s.xchOf n
  let s := s.setXch n { x with groups := x.groups.filter (· != g)
                               applied := if g.late then x.applied else x.applied ++ [(g.table, g.step, g.batch)] }
  (if g.late then s.bump cXCH n XCH.LATE_APPLY_CNT else s).slotSettle g.table g.slot

/-- The first group of a key that can be applied: late, out of patience, or complete. -/
def State.readyGroup (s : State) (n t step batch : Nat) (members : List Nat) : Option XGroup :=
  (s.xchOf n).groups.find? fun g => g.table == t && g.step == step && g.batch == batch &&
    (g.late || g.expired || members.all fun m => g.from'.any fun e => e.1 == m)

/-- What an apply reads and writes. -/
def applyRuns (td : Bytes) (g : XGroup) : List (Nat × Nat × Bool) :=
  (ascSet (g.from'.flatMap fun e => e.2.map (·.1))).flatMap fun r =>
    (tBase td g.slot + tRec td * r, tRec td, true) :: (if tRule td = 4 then [(tAcc td g.slot + 4 * r, 4, true)] else [])

/-- SCATTER_APPLY (R223, R228): the optimizer unit of the Floe does the update. -/
def execScatterApply (n table step batch : Nat) (s0 : State) : Res :=
  .next <|
    if !(s0.xchOn n && s0.pageOn cOPT n) || !(s0.xchOf n).groups.any (fun g => g.table == table && g.step == step && g.batch == batch)
    then s0
    else
      let ta := s0.tblAddr n table
      s0.devGated [(ta, 128, false)] fun s =>
        let (r, s) := s.devRead (rqXch n) ta 128
        let (ranks, _, s) := s.readRanks n r.data
        match s.readyGroup n table step batch (ascSet ranks), ranks.findIdx? (· == s.myRank) with
        | some g, some shard => s0.devWhen (applyRuns r.data g) (s.applyGroup n r.data g shard)
        | _, _ => s0

/-- APPLY_WAIT passes (R223). -/
def execApplyWaitExpire (n table step batch : Nat) (s : State) : Res :=
  .next <|
    let x := s.xchOf n
    let isIt (g : XGroup) : Bool := g.table == table && g.step == step && g.batch == batch && !g.late && decide (g.due ≤ s.clk.time)
    if decide (n < 2) && s.pageOn cXCH n then
      s.setXch n { x with groups := x.groups.map fun g => if isIt g then { g with expired := true } else g }
    else s

/-! ### Expert dispatch (R166, R167, R227) -/

/-- An assignment record. -/
structure Assign where
  token  : Nat
  expert : Nat
  choice : Nat
  flags  : Nat

/-- The record in 16 bytes. -/
def assignOf (b : Bytes) : Assign := ⟨bfield b 0 8, bfield b 8 2, bfield b 0xA 1, bfield b 0xB 1⟩

/-- Assignment records of a command, and whether any was read with poison. -/
def State.readAssigns (s : State) (n : Nat) (d : XDesc) : List Assign × Bool × State :=
  let (r, s) := s.devRead (rqXch n) d.ids (16 * d.count)
  ((chunksOf 16 d.count r.data).map assignOf, r.anyPois, s)

/-- (a, b, c) before (a', b', c') in lexical order. -/
def lexLt (x y : Nat × Nat × Nat) : Bool :=
  decide (x.1 < y.1) || (x.1 == y.1 && (decide (x.2.1 < y.2.1) || (x.2.1 == y.2.1 && decide (x.2.2 < y.2.2))))

/-- Record i is within the capacity of its expert: fewer than CAP of the expert's records come before it in (CHOICE,
TOKEN) order (R167). -/
def acceptedRec (l : List (Assign × Nat)) (cap : Nat) (e : Assign × Nat) : Bool :=
  decide ((l.filter fun x => x.1.expert == e.1.expert &&
    lexLt (x.1.choice, x.1.token, x.2) (e.1.choice, e.1.token, e.2)).length < cap)

/-- Inserts a record position by its key. -/
def insKey (key : Nat → Nat × Nat × Nat) (x : Nat) : List Nat → List Nat
  | [] => [x]
  | y :: r => if lexLt (key x) (key y) then x :: y :: r else y :: insKey key x r

/-- Record positions in (EXPERT, CHOICE, TOKEN) order. -/
def expertOrder (l : List Assign) (ps : List Nat) : List Nat :=
  let key (i : Nat) : Nat × Nat × Nat := match l[i]? with | some a => (a.expert, a.choice, a.token) | none => (0, 0, 0)
  ps.foldl (fun a i => insKey key i a) []

/-- Rows and poison of a token or output row. -/
def State.readFp (s : State) (n a dim : Nat) : List W32 × Bool × State :=
  let (r, s) := s.devRead (rqXch n) a (4 * dim)
  ((chunksOf 4 dim r.data).map fun b => u32 (leNat b), r.anyPois, s)

/-- What a DISPATCH does when it is taken (R167, R227). -/
def State.dispatchStart (s : State) (n idx : Nat) (b : Bytes) : State :=
  let d := xDescOf b
  let q := rqXch n
  let (as, p, s) := s.readAssigns n d
  let experts := max (as.foldl (fun a x => max a (x.expert + 1)) 0) (min 65536 (Config.experts d.bags))
  let (mp, s) := s.devRead q d.bags (4 * experts)
  if p || mp.anyPois then s.xchRefuse n idx d.op 0x0E d.irq
  else
    let owner (e : Nat) : Nat := bfield mp.data (4 * e + 2) 2
    let rows := (as.map (·.token)).eraseDups.length
    if !inDevSpace d.data ((rows - 1) * d.stride + 4 * d.dimx) then s.xchRefuse n idx d.op 0x01 d.irq else
    let il := indexed as
    let ok := il.filter fun e => acceptedRec il d.nbags e
    let tokens := as.foldl (fun a x => if a.contains x.token then a else a ++ [x.token]) []
    let owners := ascSet ((List.range experts).map owner)
    let order := owners.map fun o => (o, expertOrder as ((ok.filter fun e => owner e.1.expert == o).map (·.2)))
    let s := il.foldl (fun s e =>
      s.devWrite q (d.ids + 16 * e.2 + 0xB) [BitVec.ofNat 8 (e.1.flags / 2 * 2 + b2n (!acceptedRec il d.nbags e))]) s
    let r := order.foldl (fun (a : List (Nat × List (Nat × List W32 × Bool)) × State) o =>
      let x := o.2.foldl (fun (y : List (Nat × List W32 × Bool) × State) i =>
        let k := (tokens.findIdx? fun t => t == ((as[i]?).map (·.token)).getD 0).getD 0
        let (l, p, s) := y.2.readFp n (d.data + d.stride * k) d.dimx
        (y.1 ++ [(i, l, p)], s)) ([], a.2)
      (a.1 ++ [(o.1, x.1)], x.2)) ([], s)
    let due := r.2.partDue n
    let c : XchCmd := { idx := idx, op := 4, irq := d.irq, desc := b, out := r.1
                        parts := order.map (fun o => ⟨o.1, o.2, 1, due, none⟩), pois := r.1.any fun o => o.2.any (·.2.2) }
    let x := r.2.xchOf n
    let s := r.2.setXch n { x with disp := x.disp.filter (·.step != d.step) ++ [⟨d.step, order⟩] }
    ((s.scribble q d.ws d.wsLen).addCmd n c).sendParts n c

/-- DISPATCH (R227). -/
def execDispatch (n : Nat) (s0 : State) : Res :=
  .next <| s0.xchTake n 4 fun s h b =>
    let d := xDescOf b
    if d.bad [] [] then s.xchRefuse n h d.op 0x01 d.irq
    else s0.devWhen ((d.runs []).map fun r => (r.1, r.2.1, r.2.2.2)) (s.dispatchStart n h b)

/-- Row pitch of a receive area. -/
def recvPitch (dimx : Nat) : Nat := alignUp (4 * dimx) 64

/-- The regions of a receive area, in ascending source rank: each source's rows (R227). -/
def State.readRegions (s : State) (n : Nat) (d : XDesc) (srcs : List Nat) :
    List (Nat × List (Nat × List W32 × Bool)) × Bool × State :=
  let r := srcs.foldl (fun (a : List (Nat × List (Nat × List W32 × Bool)) × Bool × Nat × State) o =>
    let (out, bad, at', s) := a
    let (h, s) := s.devRead (rqXch n) at' 64
    let k := bfield h.data 0 4
    let rows := (List.range k).foldl (fun (y : List (Nat × List W32 × Bool) × State) j =>
      let (l, p, s) := y.2.readFp n (at' + 64 + recvPitch d.dimx * j) d.dimx
      (y.1 ++ [(j, l, p)], s)) ([], s)
    (out ++ [(o, rows.1)], bad || h.anyPois, at' + 64 + recvPitch d.dimx * k, rows.2)) ([], false, d.recv, s)
  (r.1, r.2.1, r.2.2.2)

/-- What a RETURN does when it is taken (R227): it sends back the outputs, and waits for its own. -/
def State.returnStart (s : State) (n idx : Nat) (b : Bytes) : State :=
  let d := xDescOf b
  let order := (((s.xchOf n).disp.find? (·.step == d.step)).map (·.owners)).getD []
  let (regs, p, s) := s.readRegions n d (order.map (·.1))
  let len := regs.foldl (fun a r => a + 64 + recvPitch d.dimx * r.2.length) 0
  if !inDevSpace d.recv len then s.xchRefuse n idx d.op 0x01 d.irq
  else if p then s.xchRefuse n idx d.op 0x0E d.irq
  else
    let due := s.partDue n
    let c : XchCmd := { idx := idx, op := 5, irq := d.irq, desc := b, out := regs
                        parts := order.map fun o => ⟨o.1, o.2, 1, due, none⟩ }
    ((s.scribble (rqXch n) d.ws d.wsLen).addCmd n c).sendParts n c

/-- RETURN (R227). -/
def execXchReturn (n : Nat) (s0 : State) : Res :=
  .next <| s0.xchTake n 5 fun s h b =>
    let d := xDescOf b
    if d.bad [] [] then s.xchRefuse n h d.op 0x01 d.irq
    else s0.devWhen ((d.runs []).map fun r => (r.1, r.2.1, r.2.2.2)) (s.returnStart n h b)

/-- Rows of a RETURN batch are placed at their records (R225, R227). -/
def State.placeOutputs (s : State) (n : Nat) (c : XchCmd) (src : Nat) (rows : List (List W32 × Bool)) : State :=
  let d := xDescOf c.desc
  match c.openPart src with
  | none => s
  | some p =>
    let pois := rows.any (·.2)
    let c := { (c.setPart src fun p => { p with status := some (if pois then 3 else 0) }) with
                 recvd := c.recvd ++ [(src, some rows)], pois := c.pois || pois }
    (p.rows.zip rows).foldl (fun s e =>
      if e.2.2 then s else s.devWrite (rqXch n) (d.data + d.stride * e.1) (e.2.1.flatMap fun w => toLE 4 w.toNat)) (s.setCmd n c)

/-- An expert batch comes for a command of its step (R227): a DISPATCH keeps it for its receive area, whichever rank it
comes from, a RETURN places it; `false` while it has to wait. -/
def State.expertBatch (s : State) (n src step : Nat) (isReturn : Bool) (rows : List (List W32 × Bool)) (failed : Bool) :
    Bool × State :=
  let want (c : XchCmd) : Bool := c.op == (if isReturn then 5 else 4) && (xDescOf c.desc).step == step &&
    c.status.isNone && (!isReturn || c.parts.any fun p => p.owner == src) && !c.recvd.any (fun r => r.1 == src)
  match (s.xchOf n).cmds.find? want with
  | none => (true, s)
  | some c =>
    let d := xDescOf c.desc
    if failed then
      let s := s.setCmd n { c with recvd := c.recvd ++ [(src, none)] }
      (true, match s.cmdAt n c.idx with | some c => s.settlePart n c src 1 | none => s)
    else if isReturn then s.runsTry [(d.data, d.stride * d.count, true)] fun s => (true, s.placeOutputs n c src rows)
    else (true, (s.setCmd n { c with recvd := c.recvd ++ [(src, some rows)] }).inject (9 + n) (.xchAck n src 0 step 0 0))

/-! ### Batches that have come (R195, R200, R220, R223, R227, R228) -/

/-- The batch does not wait for the thaw of its engine or sampler, and is served if the memory it needs is free. -/
def State.arrServe (s : State) (n : Nat) : XArr → Bool × State
  | .look src t ver tag rows => if s.xchHolds n src then (false, s) else s.serveRows n src t ver tag rows
  | .scatter src t ver step batch rows => if s.xchHolds n src then (false, s) else s.acceptBatch n src t ver step batch rows
  | .expert src step ret rows failed => if s.xchHolds n src then (false, s) else s.expertBatch n src step ret rows failed
  | .expand b => s.serveExpand n b

/-- Serves the listed batches in order of arrival; those that have to wait are kept. -/
def runArr (n : Nat) : List XArr → List XArr → State → List XArr × State
  | [], kept, s => (kept, s)
  | a :: r, kept, s =>
    let x := s.arrServe n a
    runArr n r (if x.1 then kept else kept ++ [a]) x.2

/-- Serves every batch that can be served. -/
def State.arrGo (s : State) (n : Nat) : State :=
  let r := runArr n (s.xchOf n).arrived [] (s.setXch n { s.xchOf n with arrived := [] })
  r.2.setXch n { r.2.xchOf n with arrived := r.1 }

/-- A batch comes. -/
def State.batchIn (s : State) (n : Nat) (a : XArr) : State :=
  (s.setXch n { s.xchOf n with arrived := (s.xchOf n).arrived ++ [a] }).arrGo n

/-- The engine is there and serves the table (R211). -/
def State.servesTable (s : State) (n t : Nat) : Bool := decide (n < 2) && s.pageOn cXCH n && t % 2 == n && decide (t < 256)

/-- LOOKUP_BATCH_SERVE (R220, R228). -/
def execLookupBatchServe (n src table ver tag : Nat) (rows : List Nat) (s : State) : Res :=
  .next <| if s.servesTable n table then s.batchIn n (.look src table ver tag rows) else s

/-- SCATTER_BATCH_ACCEPT (R223, R228). -/
def execScatterBatchAccept (n src table ver step batch : Nat) (rows : List (Nat × List (BitVec 32) × Bool)) (s : State) : Res :=
  .next <| if s.servesTable n table then s.batchIn n (.scatter src table ver step batch rows) else s

/-- EXPERT_BATCH_RECEIVE (R227, R228). -/
def execExpertBatchReceive (n src step : Nat) (isReturn : Bool) (rows : List (List (BitVec 32) × Bool)) (failed : Bool) (s : State) : Res :=
  .next <| if decide (n < 2) && s.pageOn cXCH n then s.batchIn n (.expert src step isReturn rows failed) else s

/-- REMOTE_EXPANSION_SERVE (R195, R200). -/
def execRemoteExpansionServe (n : Nat) (b : RemoteBatch) (s : State) : Res :=
  .next <| if decide (n < 2) && s.pageOn cSMP n then s.batchIn n (.expand b) else s

end Sys2Proof.Machine
end

