-- ==== Sys2Proof/Machine/Offload.lean ====
section
/-! DEFINITION. The rest of the exchange engines' ring: off-load and shifts (R240–R250), the deadlines and answers of parts
(R225), completion in ring order with its part report (R218, R226). -/
namespace Sys2Proof.Machine

/-! ### Off-load descriptors and directory (R244–R249) -/

/-- An attention or off-load descriptor. -/
structure ODesc where
  op    : Nat
  dir   : Nat
  flags : Nat
  layer : Nat
  buf   : Nat
  entry : Nat
  round : Nat
  src   : Nat
  dst   : Nat
  len   : Nat
  odir  : Nat
  olen  : Nat
  resv  : Bool

/-- The descriptor in 128 bytes. -/
def oDescOf (b : Bytes) : ODesc :=
  { op := bfield b 0 1, dir := bfield b 1 1, flags := bfield b 2 1, layer := bfield b 4 2, buf := bfield b 6 2
    entry := bfield b 8 4, round := bfield b 0xC 4, src := bfield b 0x10 8, dst := bfield b 0x18 8, len := bfield b 0x20 8
    odir := bfield b 0x28 8, olen := bfield b 0x30 4, resv := (bslice b 0x34 76).any (· != 0) }

def ODesc.irq (d : ODesc) : Bool := d.flags / 128 % 2 == 1
def ODesc.target (d : ODesc) : Nat := d.flags / 64 % 2
def ODesc.keep (d : ODesc) : Bool := d.flags / 32 % 2 == 1

/-- Fields that the OP leaves unused are zero (R249). -/
def ODesc.unusedZero (d : ODesc) : Bool :=
  let z (l : List Nat) : Bool := l.all (· == 0)
  match d.op with
  | 0x10 => z [d.dir, d.flags % 64, d.round]
  | 0x11 => z [d.dir, d.flags / 64 % 2, d.flags % 32, d.buf, d.entry, d.round, d.src, d.dst, d.len]
  | 0x12 => z [d.dir, d.flags % 128, d.buf, d.entry, d.round, d.src, d.dst, d.len]
  | _ => z [d.flags % 128, d.layer, d.buf, d.entry, d.odir, d.olen]

/-- LEN is out of range (R249). -/
def ODesc.badLen (d : ODesc) : Bool := d.len == 0 || d.len % 64 != 0 || decide (2 ^ 40 < d.len)

/-- The directory is misplaced or its length out of range (R249). -/
def ODesc.badDir (d : ODesc) : Bool :=
  d.olen == 0 || decide (2 ^ 20 < d.olen) || d.odir % 64 != 0 || decide (hbmSize < d.odir + 32 * d.olen)

/-- A run lies in the companion-window range or in HBM, as TARGET names (R248). -/
def inTarget (t a len : Nat) : Bool := if t = 1 then inCompRange a && inCompRange (a + len - 1) else decide (a + len ≤ hbmSize)

/-- R249 refuses the command, but for what the directory holds. -/
def ODesc.bad (d : ODesc) : Bool :=
  d.resv || !d.unusedZero ||
  match d.op with
  | 0x10 => d.badLen || d.badDir || decide (d.olen ≤ d.entry) || d.src % 64 != 0 || d.dst % 64 != 0 || !inDevSpace d.src d.len ||
      !inTarget d.target d.dst d.len || runsMeet (d.src, d.len) (d.dst, d.len)
  | 0x11 | 0x12 => d.badDir
  | _ => decide (1 < d.dir) || d.badLen || d.src % 64 != 0 || d.dst % 64 != 0 || !inDevSpace d.src d.len ||
      !inDevSpace d.dst d.len || runsMeet (d.src, d.len) (d.dst, d.len)

/-- A directory entry. -/
structure OEnt where
  state  : Nat
  target : Nat
  layer  : Nat
  buf    : Nat
  home   : Nat
  away   : Nat
  len    : Nat
  resv   : Bool

/-- The entry in 32 bytes (R245). -/
def oEntOf (b : Bytes) : OEnt :=
  { state := bfield b 0 1, target := bfield b 1 1, layer := bfield b 2 2, buf := bfield b 4 2, home := bfield b 8 8
    away := bfield b 0x10 8, len := bfield b 0x18 8, resv := decide (4 < bfield b 0 1) || bfield b 6 2 != 0 }

/-- The bytes of an entry. -/
def OEnt.bytes (e : OEnt) : Bytes :=
  toLE 1 e.state ++ toLE 1 e.target ++ toLE 2 e.layer ++ toLE 2 e.buf ++ toLE 2 0 ++ toLE 8 e.home ++ toLE 8 e.away ++ toLE 8 e.len

/-- Entry k of a directory. -/
def State.readEnt (s : State) (n odir k : Nat) : OEnt × Bool × State :=
  let (r, s) := s.devRead (rqXch n) (odir + 32 * k) 32
  (oEntOf r.data, r.anyPois, s)

/-- Sets STATE of entry k. -/
def State.setEnt (s : State) (n odir k st : Nat) : State := s.devWrite (rqXch n) (odir + 32 * k) [BitVec.ofNat 8 st]

/-- The engine's unit at the Oplis egress (R432). -/
abbrev cpUnit (n : Nat) : Nat := 2 + n

/-- An engine's accesses of a copy can be made now; if not, what they wait for has been asked for. -/
def State.cpGate (s : State) (n : Nat) (rs : List (Nat × Nat × Bool)) : Bool × State :=
  let win := rs.filter fun r => decide (dwBase ≤ r.1) && decide (r.1 + r.2.1 ≤ awBase)
  if win.any fun r => (dwPieces r.1 r.2.1).any fun p => s.tsFrozen p.1 then (false, s) else s.unitGate (cpUnit n) true rs

/-- Reads for a copy: HBM, the direct window, or companion memory. -/
def State.cpRead (s : State) (n a len : Nat) : Rd × State :=
  if inCompRange a then s.unitRead (rqXch n) (cpUnit n) a len else s.devRead (rqXch n) a len

/-- Writes for a copy. -/
def State.cpWrite (s : State) (n a : Nat) (d : Bytes) (p : List Bool) : Bool × State :=
  if inCompRange a then s.unitWrite (rqXch n) (cpUnit n) a d p true else s.devWriteP (rqXch n) a d p

/-- How far a copy has come. -/
structure CopySt where
  pos  : Nat
  bad  : Bool
  pois : Bool
  wait : Bool := false

/-- Copies `len` bytes in pieces that end at 128-byte lines of the away address, from where `c` stands, until it is done,
fails or has to wait. -/
def State.copyRun (n src dst away len : Nat) : Nat → CopySt → State → CopySt × State
  | 0, c, s => (c, s)
  | f + 1, c, s =>
    if c.bad || decide (len ≤ c.pos) then (c, s)
    else
      let k := min (len - c.pos) (128 - (away + c.pos) % 128)
      let g := s.cpGate n [(src + c.pos, k, false), (dst + c.pos, k, true)]
      if !g.1 then ({ c with wait := true }, g.2)
      else
        let (r, s) := g.2.cpRead n (src + c.pos) k
        if !r.ok then ({ c with bad := true }, s)
        else
          let (ok, s) := s.cpWrite n (dst + c.pos) r.data r.pois
          State.copyRun n src dst away len f { c with pos := c.pos + k, bad := !ok, pois := c.pois || r.anyPois } s

/-- The engine has a copy that is not finished. -/
def State.copying (s : State) (n : Nat) : Option XchCmd :=
  (s.xchOf n).cmds.find? fun c => (c.op == 0x10 || c.op == 0x11) && c.status.isNone

/-- A copy has failed (R248): its entry is FAILED, the command partial. -/
def State.copyFailed (s : State) (n idx odir k : Nat) : State :=
  let s := { s with opl := { s.opl with fails := s.opl.fails.filter (· != cpUnit n) } }
  ((s.setEnt n odir k 4).bump cXCH n XCH.PART_FAIL_CNT).recUC cXCH n 0x05 (some idx)

/-- Goes on with the command `c` of off-load: the first of its entries, then the next ones (R246, R248). -/
def State.copyGo (n : Nat) : Nat → XchCmd → State → State
  | 0, c, s => s.setCmd n c
  | f + 1, c, s =>
    let d := oDescOf c.desc
    match c.ents with
    | [] => s.setCmd n { c with status := some (if c.pois then 3 else if c.bad then 2 else 0) }
    | k :: rest =>
      let g := s.cpGate n [(d.odir + 32 * k, 32, true)]
      if !g.1 then g.2.setCmd n c
      else
        let (e, p, s) := g.2.readEnt n d.odir k
        let out := c.op == 0x10
        let src := if out then e.home else e.away
        let dst := if out then e.away else e.home
        let skip := p || e.resv || !inDevSpace e.home e.len || !inTarget e.target e.away e.len
        let r := State.copyRun n src dst e.away e.len (e.len / 64 + 1) ⟨c.pos, skip, false, false⟩ s
        let s := r.2
        let c := { c with pos := r.1.pos, pois := c.pois || r.1.pois, partial' := c.partial' || r.1.pois }
        let failed := r.1.bad || s.opl.fails.contains (cpUnit n)
        if !failed && (r.1.wait || (out && s.unitBusy (cpUnit n))) then s.setCmd n c
        else
          let s := if failed then s.copyFailed n c.idx d.odir k
            else s.setEnt n d.odir k (if out then 2 else if c.partial' then 0 else if d.keep then 2 else 0)
          let s := if failed && !out && inDevSpace e.home e.len then s.scribble (rqXch n) e.home e.len else s
          let c := { c with ents := rest, pos := 0, partial' := false, bad := c.bad || failed }
          let s := match rest with | k :: _ => if out then s else s.setEnt n d.odir k 3 | [] => s
          State.copyGo n f c s

/-- The off-load commands whose copy is not finished go on. -/
def State.copyStep (s : State) (n : Nat) : State :=
  match s.copying n with
  | some c => State.copyGo n (c.ents.length + 1) c s
  | none => s

/-- Takes a command of the off-load queue once no copy of the engine is under way (R247). -/
def State.oTake (s0 : State) (n op : Nat) (go : State → Nat → Bytes → ODesc → State) : State :=
  if (s0.copying n).isSome then s0.copyStep n
  else
    s0.xchTake n op fun s h b =>
      let d := oDescOf b
      if d.bad then s.xchRefuse n h op 0x01 d.irq else go s h b d

/-- OFFLOAD (R246): takes the command, or goes on with its copy. -/
def execOffload (n : Nat) (s0 : State) : Res :=
  .next <| if !decide (n < 2) || !s0.pageOn cXCH n then s0 else
    s0.oTake n 0x10 fun s h b d =>
      let (e, p, s) := s.readEnt n d.odir d.entry
      let ent : OEnt := ⟨1, d.target, d.layer, d.buf, d.src, d.dst, d.len, false⟩
      s0.devWhen [(d.odir + 32 * d.entry, 32, true)] <|
        if p then s.xchRefuse n h 0x10 0x0E d.irq
        else if e.state != 0 then s.xchRefuse n h 0x10 0x01 d.irq
        else
          let s := s.devWrite (rqXch n) (d.odir + 32 * d.entry) ent.bytes
          ((s.addCmd n { idx := h, op := 0x10, irq := d.irq, desc := b, ents := [d.entry] })).copyStep n

/-- The directory of a command: its entries in order, whether one that is not FREE is reserved, whether one was read with
poison (R246 has FREE entries ignored). -/
def State.readDir (s : State) (n : Nat) (d : ODesc) : List OEnt × Bool × Bool × State :=
  let (r, s) := s.devRead (rqXch n) d.odir (32 * d.olen)
  let es := (chunksOf 32 d.olen r.data).map oEntOf
  (es, es.any fun e => e.resv && e.state != 0, r.anyPois, s)

/-- Entries of a layer in one of the states, ascending. -/
def dirMatch (es : List OEnt) (layer : Nat) (sts : List Nat) : List Nat :=
  (indexed es).filterMap fun e => if e.1.layer == layer && sts.contains e.1.state then some e.2 else none

/-- PREFETCH (R246, R247): takes the command, or goes on with its copies. -/
def execPrefetch (n : Nat) (s0 : State) : Res :=
  .next <| if !decide (n < 2) || !s0.pageOn cXCH n then s0 else
    s0.oTake n 0x11 fun s h b d =>
      let (es, bad, p, s) := s.readDir n d
      s0.devWhen [(d.odir, 32 * d.olen, true)] <|
        if p then s.xchRefuse n h 0x11 0x0E d.irq
        else if bad then s.xchRefuse n h 0x11 0x01 d.irq
        else
          let ks := dirMatch es d.layer [2]
          let s := match ks with | k :: _ => s.setEnt n d.odir k 3 | [] => s
          (s.addCmd n { idx := h, op := 0x11, irq := d.irq, desc := b, ents := ks }).copyStep n

/-- DROP (R246, R247). -/
def execDrop (n : Nat) (s0 : State) : Res :=
  .next <| if !decide (n < 2) || !s0.pageOn cXCH n then s0 else
    s0.oTake n 0x12 fun s h b d =>
      let (es, bad, p, s) := s.readDir n d
      s0.devWhen [(d.odir, 32 * d.olen, true)] <|
        if p then s.xchRefuse n h 0x12 0x0E d.irq
        else if bad then s.xchRefuse n h 0x12 0x01 d.irq
        else
          let s := (dirMatch es d.layer [2, 4]).foldl (fun s k => s.setEnt n d.odir k 0) s
          s.addCmd n { idx := h, op := 0x12, irq := d.irq, desc := b, status := some 0 }

/-! ### Shifts (R240–R243) -/

/-- A shift ends in failure (R242): STATUS 0x02, DST unspecified. -/
def State.kvFail (s : State) (n : Nat) (c : XchCmd) (cause : Nat) : State :=
  let d := oDescOf c.desc
  let s := (s.bump cXCH n XCH.PART_FAIL_CNT).recUC cXCH n cause (some c.idx)
  (s.scribble (rqXch n) d.dst d.len).setCmd n { c with kv := { c.kv with fail := true } }

/-- The neighbour of a shift on its ring: downstream is the rank on Q+ for DIR 0, on Q− for DIR 1; upstream the other (R240). -/
def State.kvRank (s : State) (dir : Nat) (down : Bool) : Nat :=
  let l := s.axisLen 2
  let q := if (dir == 0) == down then (s.axisPos 2 + 1) % l else (s.axisPos 2 + l - 1) % l
  s.rankOf fun a => if a = 2 then q else s.axisPos a

/-- Sends the share of a shift, with the deadline of this sending (R240 event 2, R242); a share that cannot be read fails
the shift. -/
def State.kvSend (s : State) (n : Nat) (c : XchCmd) : State :=
  let d := oDescOf c.desc
  let (r, s) := s.devRead (rqXch n) d.src d.len
  if !r.ok then s.kvFail n c 0x05
  else
    let k := { c.kv with sent := true, due := s.partDue n, sends := c.kv.sends + 1 }
    (s.setCmd n { c with kv := k }).inject (9 + n) (.kvData n (s.kvRank d.dir true) d.dir d.round r.data (poisOf 64 (d.len / 64) r.pois))

/-- Poison of 64-byte parts as poison of bytes. -/
def pois64 (l : List Bool) : List Bool := l.flatMap fun p => List.replicate 64 p

/-- The share of upstream fills DST and is acknowledged (R240 events 3 and 4); one that cannot be written fails the shift. -/
def State.kvFill (s : State) (n : Nat) (c : XchCmd) (data : Bytes) (pois : List Bool) : State :=
  let d := oDescOf c.desc
  let (ok, s) := s.devWriteP (rqXch n) d.dst data (pois64 pois)
  if !ok then s.kvFail n c 0x05
  else
    let x := s.xchOf n
    let s := s.setXch n { x with last := x.last.filter (·.1 != d.dir) ++ [(d.dir, d.round)] }
    (s.setCmd n { c with kv := { c.kv with got := true }, pois := c.pois || pois.any id }).inject (9 + n) (.kvAck n (s.kvRank d.dir false) d.dir d.round)

/-- A READY or a share belongs to the shift: its neighbour and its round are those of the command (R240). -/
def ODesc.isFor (d : ODesc) (dir round : Nat) : Bool := dir == d.dir && round == d.round

/-- What an engine's shift in progress can do now: send when READY is here, take the share that waits. -/
def State.kvPump1 (s : State) (n idx : Nat) : State :=
  if s.rdb cXCH n hFREEZE 0 then s
  else
    match s.cmdAt n idx with
    | none => s
    | some c =>
      let d := oDescOf c.desc
      if c.op ≠ 0x18 ∨ c.status.isSome ∨ c.kv.fail then s
      else
        let s := match (s.xchOf n).ready.find? fun e => d.isFor e.1 e.2.1 with
          | some e =>
            if c.kv.sent then s
            else
              let ok (s : State) : State := s.setXch n { s.xchOf n with ready := (s.xchOf n).ready.filter (· != e) }
              let c := { c with kv := { c.kv with ready := some e.2.2 } }
              if e.2.2 ≠ d.len then (ok s).kvFail n c 0x09
              else s.devGated [(d.src, d.len, false)] fun s => (ok s).kvSend n c
          | none => s
        match (s.xchOf n).held.find? fun e => d.isFor e.1 e.2.1, s.cmdAt n idx with
        | some e, some c =>
          if c.kv.got ∨ c.kv.fail then s
          else
            let ok (s : State) : State := s.setXch n { s.xchOf n with held := (s.xchOf n).held.filter (· != e) }
            if e.2.2.1.length ≠ d.len then (ok s).kvFail n c 0x09
            else s.devGated [(d.dst, d.len, true)] fun s => (ok s).kvFill n c e.2.2.1 e.2.2.2
        | _, _ => s

/-- Every shift in progress of an engine. -/
def State.kvPump (s : State) (n : Nat) : State := (s.xchOf n).cmds.foldl (fun s c => s.kvPump1 n c.idx) s

/-- What an engine can go on with when a freeze, a gate or a wait has ended: batches that have come, shifts, copies. -/
def State.xchGo (s : State) (n : Nat) : State := ((s.arrGo n).kvPump n).copyStep n

/-- A shift on a Q axis of one rank: SRC is copied into DST (R242). -/
def State.kvLocal (s : State) (n h : Nat) (b : Bytes) (d : ODesc) : State :=
  let (r, s) := s.devRead (rqXch n) d.src d.len
  let (ok, s) := s.devWriteP (rqXch n) d.dst r.data r.pois
  let s := s.addCmd n { idx := h, op := 0x18, irq := d.irq, desc := b, pois := r.ok && r.anyPois
                        status := some (if !r.ok || !ok then 2 else if r.anyPois then 3 else 0) }
  if r.ok && ok then s else (s.bump cXCH n XCH.PART_FAIL_CNT).recUC cXCH n 0x05 (some h)

/-- KV_SHIFT (R240). -/
def execKvShift (n : Nat) (s0 : State) : Res :=
  .next <| s0.xchTake n 0x18 fun s h b =>
    let d := oDescOf b
    if d.bad then s.xchRefuse n h 0x18 0x01 d.irq
    else if s.axisLen 2 = 1 then s0.devWhen [(d.src, d.len, false), (d.dst, d.len, true)] (s.kvLocal n h b d)
    else
      let x := s.xchOf n
      let s := s.setXch n { x with last := x.last.filter (· != (d.dir, d.round)) }
      ((s.addCmd n { idx := h, op := 0x18, irq := d.irq, desc := b }).inject (9 + n) (.kvReady n (s.kvRank d.dir false) d.dir d.round d.len)).kvPump n

/-- KV_READY (R240, R241): a READY of the downstream neighbour of `dir` waits for the engine's command of its round. -/
def execKvReady (n dir round len : Nat) (s : State) : Res :=
  .next <|
    if decide (n < 2) && s.pageOn cXCH n then
      let x := s.xchOf n
      (s.setXch n { x with ready := x.ready.filter (fun e => (e.1, e.2.1) != (dir, round)) ++ [(dir, round, len)] }).kvPump n
    else s

/-- KV_SHIFT_DATA (R240, R241): a share of the upstream neighbour of `dir` waits for the engine's command of its round; one
of a round that is received already is acknowledged again and discarded. -/
def execKvShiftData (n dir round : Nat) (data : Bytes) (pois : List Bool) (s : State) : Res :=
  .next <|
    if decide (n < 2) && s.pageOn cXCH n then
      let x := s.xchOf n
      if x.last.contains (dir, round) then (if s.rdb cXCH n hFREEZE 0 then s else s.inject (9 + n) (.kvAck n (s.kvRank dir false) dir round))
      else (s.setXch n { x with held := x.held.filter (fun e => (e.1, e.2.1) != (dir, round)) ++ [(dir, round, data, pois)] }).kvPump n
    else s

/-- KV_SHIFT_ACK (R240): the downstream neighbour of `dir` has the whole share. -/
def execKvShiftAck (n dir round : Nat) (s : State) : Res :=
  .next <|
    if decide (n < 2) && s.pageOn cXCH n then
      match (s.xchOf n).cmds.find? (fun c => c.op == 0x18 && (oDescOf c.desc).isFor dir round && c.kv.sent && !c.kv.acked) with
      | some c => s.setCmd n { c with kv := { c.kv with acked := true } }
      | none => s
    else s

/-! ### Deadlines and answers of parts (R225, R226) -/

/-- RETRIES. -/
def State.retries (s : State) (n : Nat) : Nat := s.rdf cXCH n XCH.DEADLINE 24 3

/-- A part sent once more. -/
def XPart.again (p : XPart) (due : Nat) : XPart := { p with sends := p.sends + 1, due := due }

/-- The deadline of a part of a command has passed. -/
def State.ringExpire (s : State) (n : Nat) (c : XchCmd) (owner : Nat) : State :=
  if c.op = 0x18 then
    if c.kv.sent && !c.kv.acked && !c.kv.fail && decide (c.kv.due ≤ s.clk.time) then
      if c.kv.sends ≤ s.retries n then
        s.devGated [((oDescOf c.desc).src, (oDescOf c.desc).len, false)] fun s => (s.bump cXCH n XCH.RETRY_CNT).kvSend n c
      else s.kvFail n c 0x06
    else s
  else
    match c.openPart owner with
    | none => s
    | some p =>
      if s.clk.time < p.due then s
      else if p.sends ≤ s.retries n then
        let c := c.setPart owner fun p => p.again (s.partDue n)
        ((s.bump cXCH n XCH.RETRY_CNT).setCmd n c).sendPart n c p
      else s.settlePart n c owner 1

/-- Replaces the part of an owner in a walk's hold, with the expansions that settle it. -/
def WalkSt.settle (w : WalkSt) (owner st : Nat) (es : List Expn) : WalkSt :=
  { w with parts := w.parts.map (fun p => if p.owner = owner then { p with status := some st } else p), exps := w.exps ++ es }

/-- The nodes of a part as failed expansions (R196). -/
def failedNodes (p : XPart) : List Expn :=
  p.rows.map fun v => { node := v, degree := 0, edges := [], remote := true, failed := true }

/-- The deadline of a part of a walk has passed. -/
def State.walkExpire (s : State) (n walk : Nat) (w : WalkSt) (p : XPart) : State :=
  if s.clk.time < p.due then s
  else if p.sends ≤ s.retries n then
    let wd := (s.ctx walk).wdesc
    s.devGated [(wd, 128, false)] fun s =>
      let (r, s) := s.devRead (rqXch n) wd 128
      let d := walkDescOf r.data
      let w := { w with parts := w.parts.map fun q => if q.owner = p.owner then q.again (s.partDue n) else q }
      ((s.bump cXCH n XCH.RETRY_CNT).setWalk walk (some w)).inject (9 + n)
        (.xchExpand n p.owner walk w.hop (d.fan w.hop) d.thresh d.stream d.idx64 p.rows)
  else (s.setWalk walk (some (w.settle p.owner 1 (failedNodes p)))).partFailed n 1 walk

/-- PART_DEADLINE_EXPIRE (R225, R242). -/
def execPartDeadlineExpire (n : Nat) (p : PartOf) (owner : Nat) (s : State) : Res :=
  .next <|
    if !(decide (n < 2) && s.pageOn cXCH n) then s
    else
      match p with
      | .ring k => match s.cmdAt n k with | some c => s.ringExpire n c owner | none => s
      | .walk c =>
        match s.walkOf c with
        | some w =>
          match w.parts.find? (fun p => p.owner == owner && p.status.isNone) with
          | some p => if ctxFloe c = n then s.walkExpire n c w p else s
          | none => s
        | none => s

/-- The expansions that an owner's answer gives for a part (R195, R196). -/
def answered (f thresh : Nat) (p : XPart) (nodes : List ExpNode) : List Expn :=
  p.rows.map fun v =>
    match nodes.find? (·.node == v) with
    | some x =>
      let bad := x.failed || x.pois
      { node := v, degree := x.degree, edges := if bad then [] else x.edges, remote := true, failed := bad
        pois := x.pois, resv := !bad && decide (f < x.degree) && decide (thresh < x.degree) }
    | none => { node := v, degree := 0, edges := [], remote := true, failed := true }

/-- An answer settles a part of a walk. -/
def State.walkAnswer (s : State) (n walk status : Nat) (nodes : List ExpNode) (w : WalkSt) (p : XPart) : State :=
  if statusFails status then (s.setWalk walk (some (w.settle p.owner status (failedNodes p)))).partFailed n status walk
  else
    let wd := (s.ctx walk).wdesc
    s.devGated [(wd, 128, false)] fun s =>
      let (r, s) := s.devRead (rqXch n) wd 128
      let d := walkDescOf r.data
      s.setWalk walk (some (w.settle p.owner status (answered (d.fan w.hop) d.thresh p nodes)))

/-- PART_ANSWER (R225): a part that is settled discards it; rows of a look-up and of a RETURN come with their own
messages. -/
def execPartAnswer (n : Nat) (p : PartOf) (owner status : Nat) (nodes : List ExpNode) (s : State) : Res :=
  .next <|
    if !(decide (n < 2) && s.pageOn cXCH n) || decide (255 < status) then s
    else
      match p with
      | .ring k =>
        match s.cmdAt n k with
        | some c =>
          if (c.openPart owner).isSome && (statusFails status || c.op == 2 || c.op == 4) then s.settlePart n c owner status else s
        | none => s
      | .walk c =>
        match s.walkOf c with
        | some w =>
          match w.parts.find? (fun p => p.owner == owner && p.status.isNone) with
          | some p => if ctxFloe c = n then s.walkAnswer n c status nodes w p else s
          | none => s
        | none => s

/-! ### Completion (R218, R225, R226) -/

/-- The part has failed. -/
def XPart.failed (p : XPart) : Bool := p.status.any statusFails

/-- A part record (R226). -/
def XPart.record (p : XPart) : Nat :=
  (if p.owner < 65536 then p.owner else 0xFFFF) + p.status.getD 0 * 2 ^ 16 + min 255 p.sends * 2 ^ 24 + p.rows.length * 2 ^ 32

/-- The part report of a command (R226). -/
def partReport (ps : List XPart) : Bytes :=
  let recs := ps.flatMap fun p => toLE 8 p.record
  toLE 4 ps.length ++ toLE 4 (ps.filter XPart.failed).length ++ List.replicate 56 0 ++
    bpad recs (alignUp recs.length 64) ++ bitsToBytes (ps.map XPart.failed)

/-- Element-wise sum of rows in order, the first as it is (R221). -/
def sumRows (dim : Nat) : List (List W32) → List W32
  | [] => List.replicate dim 0
  | a :: r => r.foldl (fun x y => (x.zip y).map fun e => fadd32 e.1 e.2) a

/-- A pooled row from the rows that a bag has left (R221, R225). -/
def poolRow (pool dim : Nat) (l : List (List W32)) : List W32 :=
  if pool = 2 then
    match l with
    | [] => List.replicate dim 0x7FC00E00
    | _ => let k := (invOfNat l.length).getD 0; (sumRows dim l).map fun x => fmul32 x k
  else sumRows dim l

/-- A logical index's row did not come clean. -/
def XchCmd.rowLost (c : XchCmd) (r : XRow) : Bool := (c.rowVal r).isNone

/-- The last writes of a LOOKUP or GATHER: +0 rows, pooled bags, the poison mask (R221, R225). -/
def State.finishRead (s : State) (n : Nat) (c : XchCmd) : State :=
  let d := xDescOf c.desc
  let q := rqXch n
  let dim := tDim c.tdesc
  if d.pool = 0 then
    let s := (indexed c.rows).foldl (fun s e =>
      if c.rowLost e.1 then s.devWrite q (d.data + d.stride * e.2) (outRow d.bf16 (List.replicate dim 0)) else s) s
    s.devWrite q d.poisonOut (bitsToBytes (c.rows.map c.rowLost))
  else
    let bags := (List.range d.nbags).map fun b =>
      let lo := c.bags.getD b 0
      (c.rows.drop lo).take (c.bags.getD (b + 1) 0 - lo)
    let s := (indexed bags).foldl (fun s e =>
      s.devWrite q (d.data + d.stride * e.2) (outRow d.bf16 (poolRow d.pool dim (e.1.filterMap c.rowVal)))) s
    (s.bump cXCH n XCH.EMPTY_BAG_CNT (bags.filter List.isEmpty).length).devWrite q d.poisonOut
      (bitsToBytes (bags.map fun b => b.any c.rowLost))

/-- The receive area of a DISPATCH (R227): the regions in ascending source rank. -/
def State.finishDispatch (s : State) (n : Nat) (c : XchCmd) : State :=
  let d := xDescOf c.desc
  let q := rqXch n
  ((ascSet (c.recvd.map (·.1))).foldl (fun (a : Nat × State) src =>
    let rows := (((c.recvd.find? fun e => e.1 == src).map (·.2)).join).getD []
    let s := a.2.devWrite q a.1 (toLE 4 rows.length ++ List.replicate 60 0)
    let s := (indexed rows).foldl (fun s e =>
      s.devWrite q (a.1 + 64 + recvPitch d.dimx * e.2) (e.1.1.flatMap fun w => toLE 4 w.toNat) e.1.2) s
    (a.1 + 64 + recvPitch d.dimx * rows.length, s)) (d.recv, s)).2

/-- The +0 rows and the mask of a RETURN (R225, R227): a bit for each record of a failed part or poisoned output; a record
that was dropped has a +0 row and no bit. -/
def State.finishReturn (s : State) (n : Nat) (c : XchCmd) : State :=
  let d := xDescOf c.desc
  let q := rqXch n
  let got := c.parts.flatMap fun p =>
    match ((c.recvd.find? fun e => e.1 == p.owner).map (·.2)).join with
    | some rows => (p.rows.zip rows).filterMap fun e => if e.2.2 then none else some e.1
    | none => []
  let due := c.parts.flatMap (·.rows)
  let s := (List.range d.count).foldl (fun s i =>
    if got.contains i then s else s.devWrite q (d.data + d.stride * i) (List.replicate (4 * d.dimx) 0)) s
  s.devWrite q d.poisonOut (bitsToBytes ((List.range d.count).map fun i => due.contains i && !got.contains i))

/-- Everything a command of rank `me` waits for has come (R218, R220 event 7, R227, R240 event 5). A DISPATCH waits for its
own batches to be settled and, where its rank owns an expert, for the batch of every owner; the ranks that take part
beside them are named nowhere (log 101). -/
def XchCmd.ready (c : XchCmd) (me : Nat) : Bool :=
  c.status.isSome ||
  match c.op with
  | 1 | 2 | 3 | 5 => c.parts.all (·.status.isSome)
  | 4 => c.parts.all fun p => p.status.isSome &&
      (!c.parts.any (fun q => q.owner == me) || c.recvd.any fun r => r.1 == p.owner)
  | 0x18 => c.kv.fail || (c.kv.acked && c.kv.got)
  | _ => false

/-- STATUS of a command that is ready (R225, R244). -/
def XchCmd.final (c : XchCmd) : Nat :=
  match c.status with
  | some st => st
  | none => if c.op = 0x18 && c.kv.fail then 2 else if c.pois then 3 else if c.parts.any XPart.failed then 2 else 0

/-- The runs that completion writes. -/
def State.doneRuns (s : State) (n : Nat) (c : XchCmd) : List (Nat × Nat × Bool) :=
  let d := xDescOf c.desc
  let st := [(s.ringAddr cXCH n c.idx, 128, true)]
  let rep := (d.parts, (partReport c.parts).length, true)
  let recv := c.recvd.foldl (fun a r => a + 64 + recvPitch d.dimx * ((r.2.map List.length).getD 0)) 0
  if c.status.isSome || 0x10 ≤ c.op then st
  else match c.op with
    | 1 | 3 => st ++ [rep, (d.data, d.stride * d.outs, true), (d.poisonOut, (d.outs + 7) / 8, true)]
    | 5 => st ++ [rep, (d.data, d.stride * d.count, true), (d.poisonOut, (d.count + 7) / 8, true)]
    | 4 => st ++ [rep, (d.recv, recv, true)]
    | _ => st ++ [rep]

/-- Completes the first command of the ring order (R218). -/
def State.xchFinish (s : State) (n : Nat) (c : XchCmd) : State :=
  let d := xDescOf c.desc
  let q := rqXch n
  let st := c.final
  let s := if c.status.isSome || decide (0x10 ≤ c.op) then s
    else
      let s := match c.op with
        | 1 | 3 => s.finishRead n c
        | 4 => s.finishDispatch n c
        | 5 => s.finishReturn n c
        | _ => s
      s.devWrite q d.parts (partReport c.parts)
  let s := if c.pois && st != 0x10 then
      ((s.bump cXCH n XCH.POISON_CNT).irq cXCH n 8).recDef cXCH n 0x03 (some c.idx) else s
  let s := if st = 2 ∨ c.parts.any XPart.failed then s.irq cXCH n 2 else s
  let s := s.setXch n { s.xchOf n with cmds := (s.xchOf n).cmds.drop 1 }
  s.ringComplete q cXCH n c.idx 3 st c.irq

/-- A head descriptor that no operation takes, because its OP is reserved or cannot be read, is taken as refused (R229,
R249). -/
def State.takeBad (s0 : State) (n : Nat) : State :=
  if !s0.ringReady cXCH n || decide (8 ≤ (s0.xchOf n).cmds.length) then s0
  else
    s0.ringTake (rqXch n) cXCH n fun s h b =>
      match b with
      | none => s.xchRefuse n h 0 0x0E false
      | some b =>
        if [1, 2, 3, 4, 5, 0x10, 0x11, 0x12, 0x18].contains (bfield b 0 1) then s0
        else s.xchRefuse n h (bfield b 0 1) 0x01 (bfield b 2 1 / 128 % 2 == 1)

/-- XCH_CMD_COMPLETE (R218): what waits in the engine goes on first. -/
def execXchCmdComplete (n : Nat) (s0 : State) : Res :=
  .next <|
    if !(decide (n < 2) && s0.pageOn cXCH n) then s0
    else
      let s := s0.xchGo n
      match (s.xchOf n).cmds with
      | c :: _ => if c.ready s.myRank then s.devWhen (s.doneRuns n c) (s.xchFinish n c) else s.takeBad n
      | [] => s.takeBad n

end Sys2Proof.Machine
end

