-- ==== Sys2Proof/Machine/Shadow.lean ====
section
/-! DEFINITION. The shadow checkers (R139–R145): the reference products, the error bins, trips, CTRL. -/
namespace Sys2Proof.Machine

/-- Inserts a (stored row, K index) pair by its K index. -/
def insByK (p : Nat × Nat) : List (Nat × Nat) → List (Nat × Nat)
  | [] => [p]
  | q :: r => if p.2 < q.2 then p :: q :: r else q :: insByK p r

/-- The reference value of column c (R140): exact products rounded to FP32, each under its MX scale, added in ascending
K order. Elements of the integer family enter as their values (DESIGN CHOICE, log 96: R140 speaks of FP32 alone). -/
def VecItem.refCol (v : VecItem) (c : Nat) : W32 :=
  let prod (p : Nat × Nat) : W32 :=
    let x := arrProd (elemFv v.afmt (v.act p.2)) (elemFv v.wt.fmt (v.wt.weight p.1 c))
    if codeFamily v.wt.fmt = some 1 then scale32 x (v.blockExp (p.2 / 32) c) else x
  match ((v.pairs c).foldr insByK []).map prod with
  | [] => 0
  | a :: r => r.foldl fadd32 a

/-- The bin of an element (R141): 15 where exactly one is not finite; a NaN against an infinity has no stated bin. -/
def errBin (floor : Int) (d ref : W32) : Nat :=
  match f32 d, f32 ref with
  | .nan, .nan => 0
  | .inf a, .inf b => if a = b then 0 else 15
  | .nan, .inf _ => Config.shdBin d ref % 16
  | .inf _, .nan => Config.shdBin d ref % 16
  | .fin n m e, .fin n' m' e' =>
    match (FV.fin n m e).add (FV.fin (!n') m' e') with
    | none => 15
    | some df =>
      let r := (FV.fin n' m' e').mag
      let den := if r.lt (pow2 floor) then pow2 floor else r
      ((List.range 15).find? fun (b : Nat) => df.mag.lt (den.scale ((b : Int) - 20))).getD 15
  | _, _ => 15

/-- One layer trips: TRIP, TRIP_LAYER unless one is latched, a Corrected record (R142, R145). -/
def State.shdTrip (s : State) (n layer : Nat) : State :=
  let s := if s.rdb cSHD n SHD.TRIP_LAYER 8 then s else s.wr cSHD n SHD.TRIP_LAYER (u32 (256 + layer % 256))
  (s.irq cSHD n 1).recCE cSHD n 0x0D

/-- A sample is compared: bins, SAMPLES, the layer's trip counter (R141, R142). -/
def State.shdCompare (s : State) (n : Nat) (q : ShdSample) (rest : List ShdSample) : State :=
  let bins := (List.range 128).map fun c => errBin q.floor (q.d.getD c 0) (q.item.refCol c)
  let x := s.shdOf n
  let add (h : SMap Nat) (b : Nat) : SMap Nat :=
    let k := q.layer * 16 + b
    mset 0 h k (min 4294967295 (mget 0 h k + 1))
  let t := mget 0 x.trips q.layer + (bins.filter fun b => decide (q.bin ≤ b)).length
  let trip := decide (q.count ≤ t) && !mget false x.tripped q.layer
  let x' := { x with queue := rest, hist := bins.foldl add x.hist, trips := mset 0 x.trips q.layer t
                     tripped := if trip then mset false x.tripped q.layer true else x.tripped }
  let s := (s.setShd n x').bump64 cSHD n SHD.SAMPLES
  if trip then s.shdTrip n q.layer else s

/-- SHD_SAMPLE_COMPARE (R140, R141): the sample at the head of the queue. -/
def execShdSampleCompare (n : Nat) (s : State) : Res :=
  .next <|
    match (s.shdOf n).queue with
    | q :: rest => if s.live && decide (n < 2) then s.shdCompare n q rest else s
    | [] => s

/-- CTRL.CLR (R144): samples that wait stay. -/
def State.shdClr (s : State) (n : Nat) : State :=
  let s := s.setShd n { s.shdOf n with hist := [], trips := [], tripped := [] }
  ((s.wr cSHD n SHD.TRIP_LAYER 0).wr64 cSHD n SHD.SAMPLES 0).wr cSHD n SHD.SKIP_CNT 0

/-- SHD_CLR (R144). -/
def execShdClr (m n : Nat) (s : State) : Res := .next <| s.ownerWrite m cSHD n hCTRL false (·.shdClr n)

/-- A write of EN: turning it on restarts the vector counts (R139, R144). -/
def State.shdEn (s : State) (n : Nat) (en : Bool) : State :=
  let s1 := if en && !s.rdb cSHD n hCTRL 0 then s.setShd n { s.shdOf n with issued := [] } else s
  s1.wrb cSHD n hCTRL 0 en

/-- SHD_EN_SET (R139). -/
def execShdEnSet (m n : Nat) (s : State) : Res := .next <| s.ownerWrite m cSHD n hCTRL false (·.shdEn n true)

end Sys2Proof.Machine
end

