-- ==== Sys2Proof/Machine/Regs.lean ====
section
/-! DEFINITION. What a read of a register returns (R12, R38, R436): the stored value, or the value computed from the state
for the registers that show it. Side effects of a read are in `Access.lean`. -/
namespace Sys2Proof.Machine

/-- A word from the bits that are set. -/
def bitsOf (l : List (Nat × Bool)) : Nat := l.foldl (fun a p => a + b2n p.2 * 2 ^ p.1) 0

/-- 32 bits from the bit numbers 32 w to 32 w + 31 of a predicate. -/
def mapWord (w : Nat) (p : Nat → Bool) : W32 := u32 (bitsOf ((List.range 32).map fun i => (i, p (32 * w + i))))

/-- The half of a 64-bit value that a _LO or _HI word shows. -/
def half (hi : Bool) (n : Nat) : W32 := if hi then u32 (n / 4294967296) else u32 n

/-! ### The page that owns an arbiter group (R458, R460) -/

/-- Class and instance of the page whose FREEZE an ARB page shows. -/
def arbOwner (g : Nat) : Nat × Nat :=
  if g < 128 then (cTILE, g) else if g < 136 then (cHBM, g - 128) else if g < 144 then (cPORT, g - 136)
  else if g = 144 then (cMIR, 0) else (cOPL, 0)

/-- The page that holds a page's FREEZE. -/
def freezePage (cls inst : Nat) : Nat × Nat := if cls = cARB then arbOwner inst else (cls, inst)

/-! ### CAP -/

/-- CAP of a page: fused values where the page has them, else the reset value of its table. -/
def State.capOf (s : State) (cls inst : Nat) : W32 :=
  let lanes := if s.fuses.grade9632 then 0x30 else 0x40
  let tiles (lo n : Nat) : Nat := ((List.range n).filter fun i => s.tileEnabled (lo + i)).length
  match cls with
  | 0x0 => u32 (lanes * 65536 + tiles 0 128 * 256 + b2n s.fuses.grade9632)
  | 0x10 => u32 (if s.tileEnabled inst then 0x200D else 2)
  | 0x11 => u32 (if s.tileEnabled inst then lanes * 65536 + 0x800D else 2)
  | 0x12 => u32 (tiles (64 * inst) 64)
  | 0x48 => u32 ((if inst < 128 then 31 * 256 else if inst < 136 then 63 * 256 else if inst < 144 then 0 else 256) + arbReqs inst)
  | _ => regReset cls hCAP

/-! ### Oplis messages in flits (R403–R405) -/

/-- The virtual network of an opcode: 0 REQ, 1 SNP, 2 RSP, 3 DAT. -/
def oplVn (opc : Nat) : Nat := if opc < 0x10 then 0 else if opc < 0x20 then 1 else if opc < 0x30 then 2 else 3

/-- The 16 bytes of a message header; `val` is what stands at 0x04 to 0x07. -/
def oplHeader (opc flags txid val addr : Nat) : Bytes := toLE 1 opc ++ toLE 1 flags ++ toLE 2 txid ++ toLE 4 val ++ toLE 8 addr

/-- The slots after the header: a byte mask for Wr_Partial, and the line where the opcode carries one. -/
def oplSlots (opc : Nat) (dirty : Bool) (mask : BitVec 128) (data : Bytes) : Bytes :=
  if opc = 0x05 then toLE 16 mask.toNat ++ bpad data 128
  else if opc = 0x04 ∨ opc = 0x30 ∨ (opc = 0x06 ∧ dirty) then bpad data 128
  else []

/-- The slots of a message and its virtual network; `k` is its place in the outbox. -/
def OutMsg.oplBytes (m : OutMsg) (k : Nat) : Option (Nat × Bytes) :=
  match m with
  | .oplis opc txid rkind st status size addr dirty evp mask data plo phi =>
    some (oplVn opc, oplHeader opc (rkind % 4 + 16 * b2n evp + 32 * b2n dirty + 64 * b2n plo + 128 * b2n phi) txid
      (st + 256 * status + 65536 * size) addr ++ oplSlots opc dirty mask data)
  | .notify page pend => some (0, oplHeader 0x07 0 (Config.notifyTxid k).toNat pend.toNat page)
  | _ => none

/-- The slots of one virtual network, one message after the other. -/
def State.oplStream (s : State) (v : Nat) : Bytes :=
  s.outbox.zipIdx.flatMap fun e =>
    match e.1.oplBytes e.2 with
    | some x => if x.1 = v then x.2 else []
    | none => []

/-! ### STAT -/

/-- Some transition of a domain is pending: PD_PEND (R466–R468). -/
def State.pdPend (s : State) (d : Nat) : Bool :=
  let p := s.pdst d
  !p.queue.isEmpty || !(p.phase == .on || p.phase == .off)

/-- A switch is closing. -/
def State.closing (s : State) (d : Nat) : Bool := match (s.pdst d).phase with | .settling _ => !s.pdStat d | _ => false

/-- Drains that wait in a tile's array, oldest first. -/
def TileSt.drains (x : TileSt) : List DrainReq := x.pipe.flatMap fun p => match p with | .drain ds _ _ => ds | _ => []

/-- No flit of a link waits, and none is unacknowledged. -/
def LinkSt.idle (l : LinkSt) : Bool := l.retry.isEmpty && l.egress.isEmpty

/-- Slots of a message wait to be sent on an Oplis link that is up. -/
def State.oplUnsent (s : State) : Bool :=
  s.linkUpP 10 && (List.range 4).any fun v => decide ((s.link 10).outAt.getD v 0 < (s.oplStream v).length)

/-- The arbiter group of a link's egress, and the requester that a packet belongs to: R273 numbers those of a torus port; of
the mirror port they are Firn 0, Firn 1 and the management channel (R458). -/
def egGroup (p : Nat) : Nat := if p < 8 then 136 + p else 144
def egReq (p src : Nat) : Nat := if p < 8 then src else src - 11

/-- Requester r has a packet that waits for its grant and is not masked (R457). -/
def State.reqWaits (s : State) (p r : Nat) : Bool :=
  !s.arbMasked (egGroup p) r && (s.link p).egress.any fun e => e.sent == 0 && egReq p e.src == r

/-- The requesters of a group with a request that waits for its grant: packets at the egress of a link; accesses that wait at a
stack's controllers, the companion's as requester 7; a drain token that has left the array of a tile and cannot write; units'
accesses that wait in the Oplis agent for the thaw of its egress, as the line cache's (R462). -/
def State.arbPending (s : State) (g : Nat) : Nat :=
  bitsOf <| (List.range (arbReqs g)).map fun r => (r, !s.arbMasked g r &&
    (if g < 128 then r == 2 && (s.tile g).pipe.head?.any (fun p => match p with | .drain _ d _ => !d | _ => false) && s.rdb cTILE g hFREEZE 0
     else if g < 136 then s.opl.waits.any fun w => match w with
       | .rd a q _ _ => stackOf a == g - 128 && q == r
       | .wr a q _ _ _ _ _ => stackOf a == g - 128 && q == r
       | .co c => decide (c.addr < hbmSize) && stackOf c.addr == g - 128 && r == 7
     else if g < 144 then s.reqWaits (g - 136) r
     else if g = 144 then s.reqWaits 8 r || s.reqWaits 9 r
     else r == 1 && s.rdb cOPL 0 hFREEZE 0 && !s.opl.lcw.isEmpty))

/-- A grant of the group is in flight: a packet whose flits are still leaving, a device request without its answer (R462). -/
def State.arbInFlight (s : State) (g : Nat) : Bool :=
  let sending (p : Nat) : Bool := (s.link p).egress.any fun e => e.sent != 0
  if g < 136 then false
  else if g < 144 then sending (g - 136)
  else if g = 144 then sending 8 || sending 9
  else s.opl.txns.any fun e => e.2.any fun x => !x.dead

/-- No message of the Oplis agent waits, is unacknowledged or is outstanding. -/
def State.oplIdle (s : State) : Bool :=
  (s.link 10).idle && !s.oplUnsent && s.notes.isEmpty && s.opl.waits.isEmpty && s.opl.txns.all (fun e => e.2.all (·.dead)) &&
    s.opl.snps.all (fun e => e.2.all (·.dead))

/-- The Calving operations in progress: channel and operation (R318, R327). -/
def State.calving (s : State) : List (Nat × ChOp) :=
  s.red.flatMap fun e => (e.2.ops.filter fun o =>
    decide (0x10 ≤ o.op) && (o.phase == .calving || (o.phase == .down && o.status != some 0x10))).map fun o => (e.1, o)

/-- A chunk is held at the fence. -/
def ChOp.fenceWaits (o : ChOp) : Bool := o.cal.held.any (·.held.isSome) || o.cal.out.any (·.held.isSome)

/-- A CALVE or LAND is in progress. -/
def ChOp.isMove (o : ChOp) : Bool := o.op == 0x10 || o.op == 0x11

/-- Firn instance n scans (R341): it has a granule to send and may send it, or one it has sent is not answered. -/
def State.firnScans (s : State) (n : Nat) : Bool :=
  let f := s.firn
  (f.sent.any fun e => e.2.isSome && e.1 % 2 == n) ||
    (s.on (86 + n) && s.firnEn && s.rdb cFIRN 0 hSTAT 1 && s.mirUp && !s.rdb cFIRN 0 hSTAT 7 && !s.rdb cFIRN n hFREEZE 0 &&
      f.phase != .flush && f.phase != .manifest && f.cur.any fun e => e.2 && e.1 % 2 == n && s.protectedGran e.1)

/-- A request waits at a controller of a stack. -/
def State.stackWaits (s : State) (n : Nat) : Bool := s.opl.waits.any fun w => decide (w.addr < hbmSize) && stackOf w.addr == n

/-- STAT of a page. -/
def State.statOf (s : State) (cls inst : Nat) : W32 :=
  let st := s.rd cls inst hSTAT
  let b := bitsOf
  let kv (k : Nat) : Bool := bit st k && s.pageOn cls inst
  let qe := s.ringEmpty cls inst
  match cls with
  | 0x1 => u32 (b2n (s.own.mode == .owned))
  | 0x2 => u32 (b [(0, (List.range 96).all fun d => !s.pdPend d), (1, (List.range 96).any s.closing), (2, s.pwr.capped),
      (3, s.pwr.sag), (4, s.pwr.alert || bit (s.rd cPWR 0 hCTRL) 2), (5, s.pwr.therm), (6, s.pwr.overDecl)])
  | 0x3 => u32 (b [(0, s.clk.running && s.clk.time != 0), (1, bit st 1)])
  | 0x4 => u32 (b [(0, !s.age.asked), (1, s.age.asked)])
  | 0x5 => u32 (b [(0, s.sec.cmd.isNone), (1, s.sec.cmd.isSome), (2, s.sec.bscan || s.sec.full)])
  | 0x6 => u32 (b [(0, true), (1, s.err.queues.any fun e => !e.2.isEmpty), (2, decide (1024 ≤ s.err.logCnt)), (3, s.haltedPrev)])
  | 0x10 =>
    let x := s.tile inst
    u32 (b [(0, x.pipe.isEmpty && x.loading.isNone), (1, x.holder.isSome), (2, !x.drains.isEmpty),
        (3, x.acc.any fun e => e.2.sat)] + 16 * (x.drains.head?.map (·.tag)).getD 0)
  | 0x11 => u32 (b [(0, !(s.tile inst).vbusy), (1, kv 1), (2, bit st 2), (3, bit st 3)])
  | 0x12 => u32 (b [(0, !s.anyRunning inst), (1, s.quiet inst)])
  | 0x13 => u32 (b2n ((s.ctxBusyOf inst).isNone && !mget false s.scanDue inst))
  | 0x48 => u32 (b2n (s.arbPending inst == 0 && !s.arbInFlight inst))
  | 0x20 => u32 (b [(0, !s.stackWaits inst && !bit st 4), (1, s.scrubOn inst), (2, bit st 2), (3, bit st 3), (4, bit st 4)])
  | 0x22 =>
    let busy := (s.scanOf inst).isSome
    u32 (b [(0, !busy && !bit st 2), (1, busy), (2, bit st 2)])
  | 0x30 => u32 (b [(0, (s.link inst).idle), (1, s.linkUpP inst), (2, s.linkUpP inst && decide (s.linkWidth inst < 8))])
  | 0x31 => u32 (b [(0, (s.link 8).idle && (s.link 9).idle), (1, s.linkUpP 8), (2, s.linkUpP 9), (3, s.pins.twinAliveIn)])
  | 0x32 => u32 (b [(0, s.oplIdle), (1, s.linkUpP 10),
      (2, s.linkUpP 10 && decide (s.linkWidth 10 < 8)), (3, s.opl.sf.isEmpty), (4, s.opl.lc.any (·.dirty)), (5, s.opl.quiesced)])
  | 0x33 =>
    let x := mget {} s.red inst
    u32 (b [(0, x.ops.isEmpty), (1, qe), (2, kv 2), (3, x.ops.any fun o => o.gateDue != 0), (4, x.halted)])
  | 0x34 =>
    let cs := s.calving
    u32 (b [(0, cs.isEmpty), (1, cs.any fun c => c.2.isMove), (2, cs.any fun c => c.2.fenceWaits),
      (3, cs.any (fun c => !c.2.cal.staged.isEmpty) || s.doubt.any fun d => !d.op.cal.staged.isEmpty), (4, !s.doubt.isEmpty)])
  | 0x40 =>
    let x := s.xchOf inst
    u32 (b [(0, x.cmds.isEmpty), (1, qe)])
  | 0x41 =>
    let hold := s.walks.any fun e => e.1 / 32768 == inst && e.2.any fun w => w.parts.any (·.status.isNone)
    u32 (b [(0, s.walksOn inst == 0), (2, hold), (3, kv 3)])
  | 0x43 => u32 (b [(0, (mget {} s.prn inst).cur.isNone), (1, qe)])
  | 0x45 => u32 (b [(0, (mget {} s.opt inst).cur.isNone), (1, qe), (2, (mget {} s.opt inst).held.isSome), (3, kv 3)])
  | 0x46 =>
    let f := s.firn
    let run (l : List Nat) : Bool := (f.slotA.any fun c => l.contains (bfield c.bytes 0 1)) || (f.slotK.any fun c => l.contains (bfield c.bytes 0 1))
    let busy := f.phase == .flush || run [4, 5] || s.rdf cFIRN 0 hSTAT 9 2 == 3 || s.firnScans inst
    if inst = 0 then
      u32 ((s.rd cFIRN 0 hSTAT).toNat / 2 % 4 * 2 + (s.rd cFIRN 0 hSTAT).toNat / 64 * 64 +
        b [(0, !busy), (3, f.phase != .idle), (4, run [4]), (5, run [5])])
    else u32 (b2n (!busy))
  | 0x47 =>
    let q := (s.shdOf inst).queue.length
    u32 (b2n (q == 0) + 16 * min 15 q)
  | 0x0 => st
  | _ => 1

/-! ### Registers that are computed -/

/-- ERR_HEAD (R494). -/
def State.errHead (s : State) (page : Nat) : W32 :=
  let q := s.errQ page
  let first := b2n (mget none s.err.first page).isSome * 2 ^ 28
  match q with
  | [] => u32 first
  | r :: _ => u32 (2 ^ 31 + r.sev % 4 * 2 ^ 29 + first + min 15 q.length * 2 ^ 24 + r.code % 65536)

/-- The order of R485 between records of one instant; `true` when `a` comes first. -/
def ErrRec.before (a b : ErrRec) : Bool :=
  if a.time ≠ b.time then decide (a.time.toNat < b.time.toNat)
  else if a.sev ≠ b.sev then decide (b.sev < a.sev)
  else if a.cause ≠ b.cause then decide (a.cause < b.cause)
  else if a.detail ≠ b.detail then decide (a.detail < b.detail)
  else if a.addr.isSome ≠ b.addr.isSome then a.addr.isSome
  else if a.addr ≠ b.addr then decide ((a.addr.getD 0).toNat < (b.addr.getD 0).toNat)
  else if a.ctx.isSome ≠ b.ctx.isSome then a.ctx.isSome
  else if a.ctx ≠ b.ctx then decide (a.ctx.getD 0 < b.ctx.getD 0)
  else decide (a.info.toNat < b.info.toNat)

/-- NEXT_SRC: the page whose oldest queued record is the oldest in the device. -/
def State.nextSrc (s : State) : W32 :=
  let best := s.err.queues.foldl (fun (a : Option ErrRec) e => match e.2.head?, a with
    | some r, some b => if r.before b then some r else some b
    | some r, none => some r
    | none, a => a) none
  match best with | some r => u32 (2 ^ 31 + r.src % 2 ^ 24) | none => 0

/-- Word k of a record of the selected page. -/
def State.selRec (s : State) (f : Nat → Option ErrRec) (k : Nat) : W32 :=
  let sel := s.rd cERR 0 ERR.SEL
  if selValid sel then recWord (f (selPage sel)) k else 0

/-- Objects of the SEC window (R514). -/
def State.secObject (s : State) (k : Nat) : Bytes :=
  match k with
  | 0 => bpad s.sec.idPub 1312
  | 1 => s.certBytes
  | 2 => bpad s.sec.report 3124
  | 3 => ((List.range 4).flatMap s.dieRecord) ++ ((List.range 8).flatMap s.stackRecord)
  | 4 => bpad s.sec.chal 64
  | 5 => s.tokenBytes 3828
  | _ => []

/-- Bytes of an object. -/
def secObjLen (k : Nat) : Nat :=
  match k with | 0 => 1312 | 1 => 4096 | 2 => 3124 | 3 => 192 | 4 => 64 | 5 => 3828 | _ => 0

/-- ARB_VAL (R505). -/
def State.arbVal (s : State) : W32 :=
  let k := s.rdf cSEC 0 SEC.ARB_SEL 0 6
  u32 ((if s.sec.done && s.sec.runIdx == k then s.sec.runSvn % 256 else 255) * 256 + arbValue (s.arbFuse k))

/-- Charge of a rail in per-mille of its rating (R491). -/
def State.chgUsed (s : State) (off : Nat) : Nat := min 1023 (s.rd64 cPWR 0 off * 1000 / 155000000000000000)

/-- The last sample's value for the selected tile, while one has been taken since reset. -/
def State.ageTileOf (s : State) (f : AgeSample → List (Nat × Int)) : Option Int :=
  if s.age.shown then (s.age.hist.getLast?).bind fun a => (f a).lookup (s.rdf cAGE 0 AGE.TILE_SEL 0 7) else none

/-- WBUF of a tile. -/
def TileSt.wbuf (x : TileSt) : W32 :=
  let w (o : Option WTile) : Nat := match o with | some t => t.fmt % 16 + 16 * b2n t.sparse | none => 0
  u32 (w x.shadow + 256 * w x.active + b2n x.active.isSome * 65536 + b2n x.shadow.isSome * 131072)

/-- A register of a TILE page that shows the array. -/
def State.tileReg (s : State) (t off : Nat) : Option W32 :=
  let x := s.tile t
  if off = TILE.DRAIN_STAT then some (u32 ((s.rd cTILE t off).toNat % 32 + 256 * min 255 x.drains.length))
  else if off = TILE.WBUF then some x.wbuf
  else if off = TILE.HOLDER then some (u32 (match x.holder with | some c => 65536 + c % 65536 | none => 0))
  else if TILE.SAT_MAP ≤ off ∧ off < TILE.POISON_MAP then some (mapWord ((off - TILE.SAT_MAP) / 4) fun r => (x.accRow r).sat)
  else if TILE.POISON_MAP ≤ off ∧ off < TILE.TYPE_MAP then some (mapWord ((off - TILE.POISON_MAP) / 4) fun r => (x.accRow r).pois)
  else if TILE.TYPE_MAP ≤ off ∧ off < TILE.TYPE_MAP + 64 then some (mapWord ((off - TILE.TYPE_MAP) / 4) fun r => (x.accRow r).int)
  else none

/-- k0 XOR k1 XOR k2 XOR k3 of the key in force. -/
def State.keyChk (s : State) (cls inst : Nat) : W32 :=
  let k := s.keyOf cls inst
  k.1 ^^^ k.2.1 ^^^ k.2.2.1 ^^^ k.2.2.2

/-- Contexts of a Floe in a state. -/
def State.ctxIn (s : State) (fl : Nat) (st : CtxState) : Nat := (s.ctxs.filter fun e => e.1 / 32768 == fl && e.2.state == st).length

/-- SEL_STATE of a CTX page. -/
def State.selState (s : State) (fl : Nat) : W32 :=
  let x := s.ctx (fl * 32768 + s.rdf cCTX fl CTX.SEL 0 15)
  u32 ((match x.tile with | some t => if t < 128 then t else 255 | none => 255) * 256 + x.state.code)

/-- PHASE of a Calving in progress (R333). -/
def ChOp.calPhase (o : ChOp) : Nat :=
  if o.cal.decided.isSome then 3 else if o.cal.doneSent then 2 else if o.fenceWaits then 0 else 1

/-- ACTIVE and ACTIVE_SEQ of the CALV page: the oldest Calving in progress. -/
def State.calvReg (s : State) (seq : Bool) : W32 :=
  let l := s.calving
  match (l.filter fun e => e.2.isMove) ++ l with
  | (c, o) :: _ => if seq then u32 o.seq else u32 (2 ^ 31 + o.calPhase * 2 ^ 28 + c % 64 * 65536)
  | [] => 0

/-- Protected granules of a set. -/
def grans (l : List (Nat × Nat)) : Nat := (l.map (·.2)).foldl (· + ·) 0

/-- Chunks of the twin that await their fold. -/
def FirnSt.backlog (f : FirnSt) : Nat := (f.kChunks.filter fun e => e.2.delta.isSome).length

/-- Bytes of a stored form: a record of R343. -/
def KForm.size (k : KForm) : Nat := 32 + alignUp k.payload.length 32

/-- Bytes of the forms held of a chunk. -/
def KChunk.size (k : KChunk) : Nat := ([k.sealed, k.delta, k.prog].filterMap id).foldl (fun a x => a + x.size) 0

/-- Bytes of the mirror store in use: the coded forms, and what the keeper's own layout adds within the bound of R338
(log 23). -/
def storeBytes (m : SMap KChunk) : Nat :=
  if m.isEmpty then 0 else (m.map (·.2.size)).foldl (· + ·) 0 + min (80 * m.length + 2 ^ 20) (Config.storeExtra m.length)

/-- OP of the running or last command of a slot, STATUS of the last, BUSY. -/
def slotWord (stored : W32) (c : Option FirnCmd) : W32 :=
  match c with
  | some x => u32 (2 ^ 24 + (bfield x.bytes 0 1) + stored.toNat / 65536 % 256 * 65536)
  | none => u32 (stored.toNat % 2 ^ 24)

/-- A register of the FIRN page of instance 0 that shows the engine. -/
def State.firnReg (s : State) (off : Nat) : Option W32 :=
  let f := s.firn
  if off = FIRN.CMDA then some (slotWord (s.rd cFIRN 0 off) f.slotA)
  else if off = FIRN.CMDK then some (slotWord (s.rd cFIRN 0 off) f.slotK)
  else if off = FIRN.PENDING then some (u32 (f.cur.filter fun e => e.2 && s.protectedGran e.1).length)
  else if off = FIRN.RESIDUE then some (u32 (if f.phase == .flush ∨ f.phase == .manifest then
      (f.sealing.filter (·.2)).length + (f.sent.filter fun e => e.2.any fun g => g.epoch == f.sealEpoch).length else 0))
  else if off = FIRN.PSET_GRAN then some (u32 (grans f.pset))
  else if off = FIRN.MSTORE_USED then some (u32 (min 0xFFFFFF ((storeBytes f.kChunks + 65535) / 65536)))
  else none

/-- FEC_UNCORR_LIM of a link. -/
def State.fecLim (s : State) (p : Nat) : Nat :=
  let (c, i, _) := linkReg p
  s.rdf c i (if p < 8 then PORT.DEGRADE_CFG else if p = 10 then OPL.DEGRADE_CFG else MIR.DEGRADE_CFG) 0 16

/-- Lane k of a link is good: it holds lock and had fewer than FEC_UNCORR_LIM uncorrectable codewords in the last window
(R260). -/
def State.laneGood (s : State) (p k : Nat) : Bool :=
  bit (s.link p).lock k && decide ((s.link p).win.getD k 0 < s.fecLim p)

/-- The good lanes of a link. -/
def State.goodLanes (s : State) (p : Nat) : Nat := bitsOf ((List.range 8).map fun k => (k, s.laneGood p k))

/-- Lock and good bits of lane k of a link in a LANE_STAT word. -/
def State.laneStat (s : State) (cls inst off p k : Nat) : W32 :=
  u32 ((s.rd cls inst off).toNat / 256 * 256 + b2n (bit (s.link p).lock k) + 2 * b2n (s.laneGood p k))

/-- LINK_STAT with GOOD. -/
def State.linkStat (s : State) (p : Nat) : W32 :=
  let (c, i, o) := linkReg p
  setFld (s.rd c i (o + 4)) 8 8 (s.goodLanes p)

/-- A register whose value is computed from the state, if it is one. -/
def State.derived (s : State) (m cls inst off : Nat) : Option W32 :=
  match cls with
  | 0x0 => if SYS.TILE_MAP ≤ off ∧ off < SYS.TILE_MAP + 16 then some (mapWord ((off - SYS.TILE_MAP) / 4) s.tileEnabled) else none
  | 0x1 =>
    if off = OWN.OWNER then some s.ownerWord
    else if off = OWN.OWNER_NONCE then some (if s.own.valid then s.own.claim.nonce else 0)
    else if off = OWN.STATE then some (u32 ((match s.own.mode with | .vacant => 0 | .electing => 1 | .owned => 2 | .handover => 3) +
      (if s.own.mode == .handover then s.own.succ % 4 * 256 else 0)))
    else if off = OWN.LEASE_LEFT then some (u32 (if s.own.mode == .owned then min 0x7FFFFFF (s.own.deadline - s.clk.time) else 0))
    else if off = OWN.MY_MASTER then some (u32 (m % 4))
    else none
  | 0x2 =>
    if PWR.PD_STAT ≤ off ∧ off < PWR.PD_STAT + 12 then some (mapWord ((off - PWR.PD_STAT) / 4) s.pdStat)
    else if PWR.PD_PEND ≤ off ∧ off < PWR.PD_PEND + 12 then some (mapWord ((off - PWR.PD_PEND) / 4) s.pdPend)
    else if off = PWR.E_STORED then some (u32 (min 2047 s.eStored))
    else none
  | 0x3 =>
    if off = TIM.TIME_LO then some (half false s.clk.time)
    else if off = TIM.TIME_HI then some (half true s.clk.time)
    else if off = TIM.RATE_A then (if s.railLow 0 then some 0 else none)
    else if off = TIM.RATE_B then (if s.railLow 16 then some 0 else none)
    else if off = TIM.BRIDGE_STAT then some s.bridgeStat
    else if TIM.GPT_REMAIN ≤ off ∧ off < 0x200 ∧ off % 16 = 12 then some (u32 (min 0xFFFFFFFF (s.gptRemain ((off - 0x100) / 16))))
    else none
  | 0x4 =>
    if off = AGE.SAMPLES then some (u32 s.age.hist.length)
    else if off = AGE.TILE_DRIFT then some (match s.ageTileOf (·.drift) with | some d => u32 (2 ^ 31 + ofInt 16 d) | none => 0)
    else if off = AGE.TILE_REL then some (match s.ageTileOf (·.rel) with | some d => u32 (ofInt 16 d) | none => 0)
    else if off = AGE.CHG_USED then some (u32 (s.chgUsed PWR.CHARGE_B * 65536 + s.chgUsed PWR.CHARGE_A))
    else if off = AGE.POH then some (half false s.poh)
    else if off = AGE.POH_HI then some (half true s.poh)
    else none
  | 0x5 =>
    if off = SEC.FUSE_STAT then some (u32 (b2n s.fuses.grade9632 * 65536 + b2n s.fuses.dbgDisable * 256 + b2n s.certValid))
    else if off = SEC.TILE_PAIRS then some (half false s.fuses.tilePairs.toNat)
    else if off = SEC.TILE_PAIRS_HI then some (half true s.fuses.tilePairs.toNat)
    else if off = SEC.ARB_VAL then some s.arbVal
    else if off = SEC.DBG_STAT then some (u32 (bitsOf [(31, s.sec.full), (30, s.sec.bscan), (29, s.sec.chalValid)] + s.sec.scopesReq.toNat * 256))
    else if off = SEC.OBJ_LEN then some (u32 (secObjLen (s.rdf cSEC 0 SEC.WIN_SEL 16 3)))
    else if SEC.ROT_KEY_HASH ≤ off ∧ off < SEC.ID_KEY_HASH then some (u32 (bfield s.fuses.rotKeyHash (off - SEC.ROT_KEY_HASH) 4))
    else if SEC.ID_KEY_HASH ≤ off ∧ off < SEC.ID_KEY_HASH + 32 then some (u32 (bfield s.idKeyHash (off - SEC.ID_KEY_HASH) 4))
    else if SEC.MEAS ≤ off ∧ off < SEC.MEAS + 256 then some (u32 (bfield (s.meas ((off - SEC.MEAS) / 32)) ((off - SEC.MEAS) % 32) 4))
    else if SEC.WIN ≤ off then
      some (u32 (bfield (s.secObject (s.rdf cSEC 0 SEC.WIN_SEL 16 3)) (2048 * s.rdf cSEC 0 SEC.WIN_SEL 0 1 + (off - SEC.WIN)) 4))
    else none
  | 0x6 =>
    if off = ERR.NEXT_SRC then some s.nextSrc
    else if ERR.HEAD_REC ≤ off ∧ off < ERR.FIRST_REC then some (s.selRec (fun p => (s.errQ p).head?) ((off - ERR.HEAD_REC) / 4))
    else if ERR.FIRST_REC ≤ off ∧ off < ERR.FATAL_REC then some (s.selRec (fun p => mget none s.err.first p) ((off - ERR.FIRST_REC) / 4))
    else if ERR.FATAL_REC ≤ off ∧ off < ERR.LOG_SEL then some (recWord (s.err.fatal.map (·.1)) ((off - ERR.FATAL_REC) / 4))
    else if ERR.LOG_REC ≤ off ∧ off < ERR.LOG_REC + 32 then
      some (recWord (mget none s.err.log (s.rdf cERR 0 ERR.LOG_SEL 0 10)) ((off - ERR.LOG_REC) / 4))
    else none
  | 0x10 => s.tileReg inst off
  | 0x11 => if off = VEC.KEY_CHK then some (s.keyChk cls inst) else none
  | 0x12 =>
    if off = DSP.RUNNING then some (u32 (s.runningOf inst).length)
    else if off = DSP.TILE_MASK then some (s.rd cls inst off &&& mapWord (2 * inst) s.tileEnabled)
    else if off = DSP.TILE_MASK_HI then some (s.rd cls inst off &&& mapWord (2 * inst + 1) s.tileEnabled)
    else if off = DSP.READY then some (u32 (s.ctxIn inst .ready))
    else none
  | 0x13 =>
    if off = CTX.SEL_STATE then some (s.selState inst)
    else if off = CTX.N_READY_PARKED then some (u32 (s.ctxIn inst .ready * 65536 + s.ctxIn inst .parked))
    else if off = CTX.N_DONE_FAULTED then some (u32 (s.ctxIn inst .done * 65536 + s.ctxIn inst .faulted))
    else none
  | 0x30 =>
    if off = PORT.LINK_STAT then some (s.linkStat inst)
    else if off = PORT.MY_RANK then some (u32 s.myRank)
    else if PORT.LANE_STAT ≤ off ∧ off < PORT.LANE_STAT + 32 then some (s.laneStat cls inst off inst ((off - PORT.LANE_STAT) / 4))
    else none
  | 0x31 =>
    if off = MIR.SUB0_STAT then some (s.linkStat 8)
    else if off = MIR.SUB1_STAT then some (s.linkStat 9)
    else if MIR.LANE_STAT ≤ off ∧ off < MIR.LANE_STAT + 64 then
      let k := (off - MIR.LANE_STAT) / 4
      some (s.laneStat cls inst off (8 + k / 8) (k % 8))
    else none
  | 0x32 =>
    if off = OPL.LINK_STAT then some (s.linkStat 10)
    else if off = OPL.OUTSTANDING then
      some (u32 ((min 1984 (s.opl.waits.countP (·.tracked)) + s.opl.waits.countP (·.evicts)) % 4096 * 65536 +
        (s.opl.txns.filter fun e => e.2.any fun x => !x.dead).length % 4096))
    else if off = OPL.SF_OCC then some (u32 s.opl.sf.length)
    else if OPL.LANE_STAT ≤ off ∧ off < OPL.LANE_STAT + 32 then some (s.laneStat cls inst off 10 ((off - OPL.LANE_STAT) / 4))
    else none
  | 0x20 => if off = HBM.INIT_POS ∧ s.rdb cHBM inst hSTAT 4 then some (u32 (s.initShown inst)) else none
  | 0x22 =>
    match mget none s.hbm.scans inst with
    | some x => if off = CVU.BYTES then some (u32 (s.scanShown inst x)) else if off = CVU.BYTES + 4 then some (u32 (s.scanShown inst x / 2 ^ 32)) else none
    | none => none
  | 0x33 =>
    let x := mget {} s.red inst
    if off = RED.KEY_CHK then some (s.keyChk cls inst)
    else if off = RED.INFLIGHT then some (u32 x.ops.length)
    else if off = RED.OLDEST_SEQ then some (match x.ops with | o :: _ => u32 o.seq | [] => 0)
    else none
  | 0x34 =>
    if off = CALV.ACTIVE then some (s.calvReg false)
    else if off = CALV.ACTIVE_SEQ then some (s.calvReg true)
    else none
  | 0x40 =>
    if XCH.SLOT ≤ off then
      let k := (off - XCH.SLOT) / 4
      let v := s.rd cXCH inst off
      some (if bit v 31 then u32 (v.toNat / 2 ^ 30 * 2 ^ 30 + min 4095 (s.slotPins (k / 2) (k % 2)) * 65536 + v.toNat % 65536) else v)
    else none
  | 0x41 =>
    if off = SMP.KEY_CHK then some (s.keyChk cls inst)
    else if off = SMP.ACTIVE then some (u32 (s.walksOn inst % 32))
    else none
  | 0x45 => if off = OPT.KEY_CHK then some (s.keyChk cls inst) else none
  | 0x46 =>
    if off = FIRN.FOLD_BACKLOG then some (u32 (if inst = 0 then s.firn.backlog else 0))
    else if inst = 0 then s.firnReg off
    else if (0x40 ≤ off ∧ off < 0xC0) ∨ off = hCTRL then some 0
    else none
  | 0x47 =>
    if SHD.HIST_BIN ≤ off ∧ off < SHD.HIST_BIN + 64 then
      some (u32 (mget 0 (s.shdOf inst).hist (s.rdf cSHD inst SHD.HIST_SEL 0 8 * 16 + (off - SHD.HIST_BIN) / 4)))
    else none
  | 0x48 => if off = ARB.PENDING then some (u32 (s.arbPending inst)) else if off = ARB.MASK then some (u32 (bitsOf ((List.range 16).map fun r => (r, s.arbMasked inst r)))) else none
  | _ => none

/-- What a read of a register by master `m` returns, without its side effects. Offsets that are reserved read zero (R13);
so do all registers of the pages of a disabled tile but the header words that tell so (R3). -/
def State.peek (s : State) (m cls inst off : Nat) : W32 :=
  if off = hPAGE_ID then u32 (pageId cls inst)
  else if s.disabledPage cls inst then
    (if off = hCAP ∧ cls ≠ cARB then 2 else 0)
  else if regHidden cls inst off then 0
  else if off = hPAGE_VER then 0x100
  else if off = hCAP then s.capOf cls inst
  else if off = hSTAT then s.statOf cls inst
  else if off = hERR_HEAD then s.errHead (pageId cls inst)
  else
    match regRow cls off with
    | none => 0
    | some r =>
      if off = hFREEZE then
        let (c, i) := freezePage cls inst
        u32 ((s.rd c i hFREEZE).toNat % 2 + 2 * b2n (s.drained c i))
      else if r.acc = .wo then 0
      else
        match s.derived m cls inst off with
        | some v => v
        | none => s.rd cls inst off

end Sys2Proof.Machine
end

