-- ==== Sys2Proof/Machine/Channels.lean ====
section
/-! DEFINITION. Reduction channels (R282–R309): descriptors, the order of a channel's operations, gates, the fixed tree, the
agreement of exponents, the additions at the nodes, late and quarantined contributors, the descent and the result header. -/
namespace Sys2Proof.Machine

/-- The channels' accesses to HBM are requester 2 of every stack (R378). -/
def rqRed : Rq := ⟨2, 2⟩

/-- A channel. -/
def State.redOf (s : State) (c : Nat) : RedSt := mget {} s.red c
/-- Replaces it. -/
def State.setRed (s : State) (c : Nat) (x : RedSt) : State := { s with red := mset {} s.red c x }

/-- The operation of a SEQ. -/
def State.opAt (s : State) (c seq : Nat) : Option ChOp := (s.redOf c).ops.find? fun o => o.seq == seq

/-- Replaces the operation of the same SEQ. -/
def State.setOp (s : State) (c : Nat) (o : ChOp) : State :=
  let x := s.redOf c
  s.setRed c { x with ops := x.ops.map fun y => if y.seq = o.seq then o else y }

/-- Every access of a unit can be made now, tile stores included. -/
def State.devGate (s : State) (rs : List (Nat × Nat × Bool)) : Bool × State :=
  let win := rs.filter fun r => decide (dwBase ≤ r.1) && decide (r.1 + r.2.1 ≤ awBase)
  if win.any fun r => (dwPieces r.1 r.2.1).any fun p => s.tsFrozen p.1 then (false, s)
  else s.gate (rs.filter fun r => decide (r.1 < hbmSize) && r.2.1 != 0)

/-! ### The descriptor (R286, R304) -/

/-- A reduction descriptor. -/
structure RDesc where
  op    : Nat
  dtype : Nat
  axes  : Nat
  flags : Nat
  count : Nat
  src   : Nat
  dst   : Nat
  hdr   : Nat
  map   : Nat
  exp   : Nat
  mem0  : Nat
  mem1  : Nat
  gate  : Nat
  gval  : Nat
  rid   : Nat
  base  : Nat
  rsvd  : Bool
deriving DecidableEq, Repr

/-- Reads a descriptor. -/
def rDescOf (b : Bytes) : RDesc :=
  { op := bfield b 0 1, dtype := bfield b 1 1, axes := bfield b 2 1, flags := bfield b 3 1, count := bfield b 0xC 4
    src := bfield b 0x10 8, dst := bfield b 0x18 8, hdr := bfield b 0x20 8, map := bfield b 0x28 8, exp := bfield b 0x30 8
    mem0 := bfield b 0x38 8, mem1 := bfield b 0x40 8, gate := bfield b 0x48 8, gval := bfield b 0x50 4, rid := bfield b 0x54 4
    base := bfield b 0x58 4, rsvd := bfield b 5 3 != 0 || bfield b 0x5C 36 != 0 }

def RDesc.two (d : RDesc) : Bool := d.axes / 128 % 2 == 1
def RDesc.ax (d : RDesc) (k : Nat) : Nat := d.axes / 4 ^ k % 4
def RDesc.scale (d : RDesc) : Nat := d.flags / 32 % 4
def RDesc.mapw (d : RDesc) : Bool := d.flags / 16 % 2 == 1
def RDesc.gateEn (d : RDesc) : Bool := d.flags / 8 % 2 == 1
/-- Bytes of a BS16 unit, or of an INT32 or FP32 element. -/
def RDesc.unit (d : RDesc) : Nat := if d.dtype = 0 then 68 else 4
/-- Bytes of the contribution. -/
def RDesc.bytes (d : RDesc) : Nat := d.count * d.unit
/-- The agreement phase is run (R293, R294). -/
def RDesc.agrees (d : RDesc) : Bool := d.dtype == 0 && d.scale == 0 && d.count != 0

/-- The axes of a reduction with their member masks, in the order of its stages. -/
def RDesc.stages (d : RDesc) : List (Nat × Nat) := (d.ax 0, d.mem0) :: (if d.two then [(d.ax 1, d.mem1)] else [])

/-- Every address of the descriptor that has to lie in HBM or the window, with its bytes (R304): those of an operation without
data too. -/
def RDesc.addrs (d : RDesc) : List (Nat × Nat) :=
  [(d.src, max 1 d.bytes), (d.dst, max 1 d.bytes), (d.hdr, 128)] ++ (if d.mapw then [(d.map, 512)] else []) ++
  (if d.exp ≠ 0 then [(d.exp, max 1 (if d.dtype = 0 then d.count else 0))] else [])

/-- The ranges that the operation holds as referenced while it is in progress (R286). -/
def RDesc.ranges (d : RDesc) : List (Nat × Nat) :=
  (if d.bytes = 0 then [] else [(d.src, d.bytes), (d.dst, d.bytes)]) ++ [(d.hdr, 128)] ++
  (if d.mapw then [(d.map, 512)] else []) ++ (if d.dtype = 0 ∧ d.exp ≠ 0 ∧ d.count ≠ 0 then [(d.exp, d.count)] else [])

/-- An address of R16 that names a register. -/
def inRegSpace (a : Nat) : Bool := decide (0xF00000000000 ≤ a) && decide (a < 0xF00008000000)

/-- Class, instance and offset of a register address (R16). -/
def regOf (a : Nat) : Nat × Nat × Nat := ((a - 0xF00000000000) / 1048576, a / 4096 % 256, a % 4096)

/-- Members of an axis: coordinate i of length L under a mask, 0 meaning every coordinate. -/
def isMember (len mask i : Nat) : Bool := decide (i < len) && (mask == 0 || mask.testBit i)

/-- Members of an axis in ascending order. -/
def membersOf (len mask : Nat) : List Nat := (List.range len).filter (isMember len mask)

/-- A mask is legal on this rank: no bit at or above the axis length, this rank's coordinate a member (R304). -/
def State.maskOk (s : State) (p : Nat × Nat) : Bool :=
  decide (p.2 < 2 ^ s.axisLen p.1) && isMember (s.axisLen p.1) p.2 (s.axisPos p.1)

/-- The channel refuses the descriptor (R304). -/
def State.redBad (s : State) (d : RDesc) : Bool :=
  decide (2 < d.dtype) || d.scale == 3 || d.axes / 16 % 8 != 0 || d.flags % 8 != 0 || d.rsvd ||
  (d.two && d.ax 0 == d.ax 1) || (!d.two && d.mem1 != 0) || !d.stages.all s.maskOk ||
  (d.op == 1 && d.count == 0) || (d.op == 2 && d.count != 0) || decide (2 ^ 32 < d.base + d.count) ||
  (d.dtype != 0 && d.scale != 0) || (d.scale == 2 && d.exp == 0) ||
  (d.src != d.dst && runsMeet (d.src, d.bytes) (d.dst, d.bytes)) ||
  d.src % 4 != 0 || d.dst % 4 != 0 || d.hdr % 128 != 0 || (d.mapw && d.map % 64 != 0) ||
  d.addrs.any (fun r => !inDevSpace r.1 r.2) ||
  (d.gateEn && !(inDevSpace d.gate 4 || (inRegSpace d.gate &&
    (let r := regOf d.gate; regAddrOk r.1 r.2.1 r.2.2 4))))

/-- CRC-32C (R263). -/
def crc32c (b : Bytes) : Nat := crcGen 32 0x1EDC6F41 0xFFFFFFFF 0xFFFFFFFF true true b

/-- The digest of a reduction (R285; log 24). -/
def RDesc.digest (d : RDesc) : Nat :=
  crc32c (Config.digestBytes [d.op, d.dtype, d.axes, d.scale, d.count, d.mem0, d.mem1, d.rid, d.base])

/-! ### The fixed tree (R288–R290, R319) -/

/-- ⌈log2⌉ of an axis length: the levels of its tree. -/
def axisLevels (len : Nat) : Nat := clog2 len

/-- The lowest member coordinate in [i, i + 2^l). -/
def holder (len mask i l : Nat) : Option Nat := ((List.range (2 ^ l)).map (i + ·)).find? (isMember len mask)

/-- The place of coordinate x in the tree of one axis: the nodes it runs as (level, subtree start, right holder), and the
holder that its partial goes to with the level of that node. -/
def treePlace (len mask x : Nat) : Nat → Nat → List (Nat × Nat × Nat) × Option (Nat × Nat)
  | 0, _ => ([], none)
  | n + 1, l =>
    let i := x / 2 ^ (l + 1) * 2 ^ (l + 1)
    match holder len mask i l, holder len mask (i + 2 ^ l) l with
    | some a, some b =>
      if a = x then
        let r := treePlace len mask x n (l + 1)
        ((l, i, b) :: r.1, r.2)
      else ([], some (a, l))
    | _, _ => treePlace len mask x n (l + 1)

/-- The rank at coordinate c of axis a on this device's line. -/
def State.rankAt (s : State) (a c : Nat) : Nat := s.rankOf fun k => if k = a then c else s.axisPos k

/-- The children of this rank over all stages, and its parent with the stage and level of the parent's node. -/
def State.treeOf (s : State) : List (Nat × Nat) → Nat → Nat → List RedKid × Option (Nat × Nat × Nat)
  | [], _, _ => ([], none)
  | (a, m) :: r, stage, g0 =>
    let len := s.axisLen a
    let t := treePlace len m (s.axisPos a) (axisLevels len) 0
    let kids := t.1.map fun (l, i, b) => ({ stage := stage, glevel := g0 + l, level := l, start := i, rank := s.rankAt a b } : RedKid)
    match t.2 with
    | some (p, l) => (kids, some (s.rankAt a p, stage, l))
    | none =>
      let rest := s.treeOf r (stage + 1) (g0 + axisLevels len)
      (kids ++ rest.1, rest.2)

/-- Levels over all stages. -/
def State.levelsOf (s : State) (l : List (Nat × Nat)) : Nat := (l.map fun p => axisLevels (s.axisLen p.1)).foldl (· + ·) 0

/-- Members over all stages. -/
def State.memberCount (s : State) (l : List (Nat × Nat)) : Nat :=
  (l.map fun p => (membersOf (s.axisLen p.1) p.2).length).foldl (· * ·) 1

/-! ### Partials -/

/-- A rank's place in the present map: second coordinate · 64 + first coordinate (R302). -/
def State.redPlace (s : State) (d : RDesc) : Nat := (if d.two then s.axisPos (d.ax 1) * 64 else 0) + s.axisPos (d.ax 0)

/-- Bitmaps and counts of two partials together. -/
def joinPart (a b : RedPartial) : RedPartial :=
  { late0 := a.late0 ||| b.late0, late1 := a.late1 ||| b.late1, nf0 := a.nf0 ||| b.nf0, nf1 := a.nf1 ||| b.nf1
    esc := a.esc + b.esc, sat := a.sat + b.sat, map := ascSet (a.map ++ b.map) }

/-- A 64-bit map of coordinates. -/
def coordMap (l : List Nat) : BitVec 64 := l.foldl (fun a i => a ||| BitVec.ofNat 64 (2 ^ i)) 0

/-- The draw of R297, as the rounding of an element. -/
def State.redRnd (s : State) (c : Nat) (d : RDesc) (stage level start b j dn : Nat) : Rnd :=
  srOf (mix10 (s.keyOf cRED c) (u32 d.rid, u32 (d.base + b),
    u32 (stage % 2 * 2 ^ 31 + level % 8 * 2 ^ 28 + start % 64 * 65536 + j), u32 dn)).1

/-- Marks poison that this rank has read (R292): one Deferred record an operation. -/
def State.redPoison (s : State) (c : Nat) (o : ChOp) (us : List (Bytes × Bool)) (a : Nat) : ChOp × State :=
  if us.any (·.2) then
    ({ o with pois := true, poisRec := true }, if o.poisRec then s else s.recDef cRED c 0x03 (some a))
  else (o, s)

/-- Reads units, with the poison of each. -/
def State.readUnits (s : State) (a w n : Nat) : List (Bytes × Bool) × State :=
  let r := s.devRead rqRed a (w * n)
  (r.1.elems w n, r.2)

/-- Exponent that stands for an EXP byte read with poison: the block cannot be aligned (R490). -/
abbrev expPoison : Int := 1000

/-- A leaf's block aligned to its agreed or supplied exponent (R295). -/
def State.alignUnit (s : State) (c : Nat) (d : RDesc) (b : Nat) (ea : Int) (u : Bytes × Bool) : Bytes × Bool :=
  if ea = expPoison then (u.1, true)
  else
    let x := bs16Of u.1
    if x.exp < ea then
      let m := (indexed x.mant).map fun e =>
        if e.1 = 0x8000 then e.1
        else mantOf (roundInt (s.redRnd c d 0 7 (s.axisPos (d.ax 0)) b e.2 3) e.1.toInt (x.exp - ea))
      ({ x with mant := m, exp := ea }.bytes, u.2)
    else u

/-- This rank's own contribution as it is sent or added: SRC, aligned where there is an exponent to align to. -/
def State.leafUnits (s : State) (c : Nat) (d : RDesc) (o : ChOp) : List (Bytes × Bool) × ChOp × State :=
  let (us, s) := s.readUnits d.src d.unit d.count
  let (o, s) := s.redPoison c o us d.src
  let us := match o.ea with
    | some l => (indexed (us.zip l)).map fun e => s.alignUnit c d e.2 e.1.2 e.1.1
    | none => us
  (us, o, s)

/-- The partial so far. -/
def State.ownUnits (s : State) (c : Nat) (d : RDesc) (o : ChOp) : List (Bytes × Bool) × ChOp × State :=
  if o.inDst then
    let (us, s) := s.readUnits d.dst d.unit d.count
    let (o, s) := s.redPoison c o us d.dst
    (us, o, s)
  else s.leafUnits c d o

/-- Writes units to DST. -/
def State.putUnits (s : State) (d : RDesc) (us : List (Bytes × Bool)) : State :=
  (s.devWriteP rqRed d.dst (us.flatMap (·.1)) (us.flatMap fun u => List.replicate u.1.length u.2)).2

/-- Adds two units at a node (R292, R296): the sum, escalations, saturations. -/
def State.addUnit (s : State) (c : Nat) (d : RDesc) (k : RedKid) (b : Nat) (x y : Bytes × Bool) : (Bytes × Bool) × Nat × Nat :=
  let p := x.2 || y.2
  match d.dtype with
  | 0 =>
    let xa := bs16Of x.1
    let ya := bs16Of y.1
    let r (dn j : Nat) : Rnd := s.redRnd c d k.stage k.level k.start b j dn
    let z := bs16Add r 0 1 2 xa ya
    let own := bs16Add r 0 1 2 { xa with esc := false, sat := false } { ya with esc := false, sat := false }
    ((z.bytes, p), b2n own.esc, b2n own.sat)
  | 1 =>
    let v := sext 32 (leNat x.1) + sext 32 (leNat y.1)
    let w := clampI (-(2 ^ 31)) (2 ^ 31 - 1) v
    ((toLE 4 (ofInt 32 w), p), 0, if v = w then 0 else 1)
  | _ => ((toLE 4 (elFmax 8 .rne (u32 (leNat x.1)) (u32 (leNat y.1)) 0).1.toNat, p), 0, 0)

/-- The contribution holds a non-finite value (R301). -/
def nfUnit (dtype : Nat) (u : Bytes) : Bool :=
  match dtype with
  | 0 => (bs16Of u).mant.any (· == 0x8000)
  | 1 => false
  | _ => !isFin32 (u32 (leNat u))

/-- Non-finite elements of a result unit as NF_ELEM counts them (R302). -/
def nfElems (dtype : Nat) (u : Bytes) : Nat :=
  match dtype with
  | 0 => ((bs16Of u).mant.filter (· == 0x8000)).length
  | 1 => 0
  | _ => let v := leNat u % 2 ^ 31; if 0x7F800000 < v then 1 else 0

/-- A unit of an empty result (R303). -/
def emptyUnit (dtype : Nat) : Bytes :=
  match dtype with
  | 0 => ({ mant := List.replicate 32 0, exp := -128, esc := false, nf := false, sat := false } : Bs16).bytes
  | 1 => toLE 4 0
  | _ => toLE 4 0xFF800000

/-! ### Messages out -/

/-- Cuts a list into pieces of `n`. -/
def piecesOf {α : Type} (n : Nat) : Nat → List α → List (List α)
  | 0, l => [l]
  | f + 1, l => if l.length ≤ n then [l] else l.take n :: piecesOf n f (l.drop n)

/-- Chunks of up to 960 units with the index of their first, and whether they are the last. -/
def chunks960 (l : List (Bytes × Bool)) : List (Nat × List (Bytes × Bool) × Bool) :=
  let ps := piecesOf 960 l.length l
  (indexed ps).map fun e => (960 * e.2, e.1, e.2 + 1 == ps.length)

/-- A message of the in-link adders leaves by the router (R289, R291), and a list of them. -/
def State.redSend (s : State) (m : OutMsg) : State := s.inject 8 m
def State.sendAll (s : State) (l : List OutMsg) : State := s.injectAll 8 l

/-! ### An operation's steps (R291) -/

/-- Bit k of NF_POLICY: quarantine. -/
def State.quarantines (s : State) (c : Nat) : Bool := s.rdb cRED c hCTRL 1

/-- The start of an operation: T0, the scan of the own contribution, JOIN and READY (R291 events 1 and 2, R293, R301). -/
def State.redStart (s : State) (c : Nat) (d : RDesc) (o : ChOp) : State :=
  let g := d.digest
  let (us, s) := s.readUnits d.src d.unit d.count
  let (o, s) := s.redPoison c o us d.src
  let nf := us.any fun u => nfUnit d.dtype u.1
  let quar := nf && s.quarantines c
  let s := if quar then s.bump cRED c RED.QUAR_CNT else s
  let (ea, s) : Option (List Int) × State :=
    if d.dtype = 0 ∧ d.scale = 2 ∧ d.count ≠ 0 then
      let r := s.devRead rqRed d.exp d.count
      let bad := r.1.anyPois
      let l := (r.1.data.zip r.1.pois).map fun e => if e.2 then expPoison else sext 8 e.1.toNat
      (some l, if bad then r.2.recUC cRED c 0x0E (some d.exp) else r.2)
    else (none, s)
  let part : RedPartial := { o.part with
    nf0 := o.part.nf0 ||| (if nf then coordMap [s.axisPos (d.ax 0)] else 0)
    nf1 := o.part.nf1 ||| (if nf && d.two then coordMap [s.axisPos (d.ax 1)] else 0)
    map := if quar then [] else [s.redPlace d] }
  let o := { o with phase := if d.agrees then .agree else .data, t0 := s.clk.time, tPhase := s.clk.time, gateDue := 0, ea := ea
                    empty := quar, part := part, apart := part
                    mexp := if d.agrees && !quar then us.map fun u => (bs16Of u.1).exp else [] }
  let s := s.setOp c o
  s.sendAll ((o.parent.toList.map fun p => .redJoin c p o.seq g) ++
    (o.kids.filter (!·.dropped)).map fun k => .redReady c k.rank o.seq g)

/-- Larger exponents, block by block; an empty partial has none. -/
def maxExps : List Int → List Int → List Int
  | [], l => l
  | l, [] => l
  | a :: r, b :: t => max a b :: maxExps r t

/-- Replaces a child. -/
def ChOp.setKid (o : ChOp) (k : RedKid) : ChOp :=
  { o with kids := o.kids.map fun x => if x.rank = k.rank then k else x }

/-- The agreed exponents are known (R294): EXP is written, the data phase begins. -/
def State.agreed (s : State) (c : Nat) (d : RDesc) (o : ChOp) (ea : List Int) : State :=
  let s := if d.exp ≠ 0 then s.devWrite rqRed d.exp (ea.map fun e => BitVec.ofNat 8 (ofInt 8 e)) else s
  s.setOp c { o with ea := some ea, phase := .data, tPhase := s.clk.time, done := 0 }

/-- The root's exponents: Emax + H, at most 127; −128 stands for a block that no member contributes to. -/
def State.rootExps (s : State) (d : RDesc) (o : ChOp) : List Int :=
  let h : Int := clog2 (s.memberCount d.stages)
  ((List.range d.count).map fun b => o.mexp.getD b (-128)).map fun e => min 127 (e + h)

/-- A node adds a child's partial (R291 event 4, R296). -/
def State.nodeAdd (s : State) (c : Nat) (d : RDesc) (o : ChOp) (k : RedKid) (p : RedPartial) : State :=
  if p.map.isEmpty then s.setOp c { o with part := joinPart o.part p, done := o.done + 1 }
  else if o.empty then
    (s.putUnits d k.units).setOp c { o with part := joinPart o.part p, done := o.done + 1, empty := false, inDst := true }
  else if d.count = 0 then s.setOp c { o with part := joinPart o.part p, done := o.done + 1 }
  else
    let (us, o, s) := s.ownUnits c d o
    let sums := (indexed (us.zip k.units)).map fun e => s.addUnit c d k e.2 e.1.1 e.1.2
    let esc := (sums.map (·.2.1)).foldl (· + ·) 0
    let sat := (sums.map (·.2.2)).foldl (· + ·) 0
    let s := s.putUnits d (sums.map (·.1))
    let s := ((s.bump cRED c RED.ESC_CNT esc).bump cRED c RED.SAT_CNT sat).bump64 cRED c RED.BLOCKS d.count
    let s := if sat ≠ 0 ∧ !o.satRec then s.recCE cRED c 0x0D (some d.dst) else s
    let q := joinPart o.part p
    s.setOp c { o with part := { q with esc := q.esc + esc, sat := q.sat + sat }, done := o.done + 1, inDst := true
                       satRec := o.satRec || sat != 0 }

/-- The partial goes up (R291 event 5). -/
def State.sendUp (s : State) (c : Nat) (d : RDesc) (o : ChOp) (p : Nat) : State :=
  let r : List (Bytes × Bool) × ChOp × State := if o.empty || d.count == 0 then ([], o, s) else s.ownUnits c d o
  let o := r.2.1
  let g := d.digest
  let (stage, lev) := ((s.treeOf d.stages 0 0).2.map (·.2)).getD (0, 0)
  let s := r.2.2.setOp c { o with phase := .up }
  s.sendAll ((chunks960 r.1).map fun e => .redData c p o.seq g stage lev e.1 e.2.1 (if e.2.2 then some o.part else none))

/-- The result header (R302), T_GATE and T_DONE zero. -/
def State.resultHdr (s : State) (c : Nat) (d : RDesc) (o : ChOp) (nfElem : Nat) : Bytes :=
  let p := o.part
  let rings := ascSet (p.map.map (· / 64))
  let c0 := if d.two then (List.range 64).filter fun i => !rings.isEmpty && rings.all fun j => p.map.contains (j * 64 + i) else p.map
  let exp := s.memberCount d.stages
  let pres := p.map.length
  let fl := bitsOf [(6, d.scale == 1), (5, d.two), (4, pres == 0), (3, p.nf0 != 0), (2, p.sat != 0), (1, p.esc != 0), (0, decide (pres < exp))]
  toLE 4 o.seq ++ toLE 1 c ++ toLE 1 fl ++ toLE 1 d.axes ++ toLE 1 d.dtype ++ toLE 4 pres ++ toLE 4 exp ++
  toLE 8 (coordMap c0).toNat ++ toLE 8 (if d.two then (coordMap rings).toNat else 0) ++ toLE 8 p.late0.toNat ++
  toLE 8 (if d.two then p.late1.toNat else 0) ++ toLE 8 p.nf0.toNat ++ toLE 8 (if d.two then p.nf1.toNat else 0) ++
  toLE 4 p.esc ++ toLE 4 p.sat ++ toLE 4 nfElem ++ bpad [] 52

/-- The present map as bytes (R302). -/
def presBytes (l : List Nat) : Bytes := toLE 512 (l.foldl (fun a k => if a.testBit k then a else a + 2 ^ k) 0)

/-- The rank holds the result (R291 event 7): header and map are written, ACK goes to the parent. -/
def State.gotResult (s : State) (c : Nat) (d : RDesc) (o : ChOp) : State :=
  let h := o.hdr.take 0x50 ++ toLE 8 o.t0 ++ toLE 8 s.clk.time ++ bpad [] 32
  let s := s.devWrite rqRed d.hdr h
  let s := if d.mapw then s.devWrite rqRed d.map (presBytes o.pres) else s
  let s := s.setOp c { o with phase := .down, tRes := s.clk.time, res := [] }
  s.sendAll (o.parent.toList.map fun p => .redAck c p o.seq d.digest)

/-- The root has added everything: it forms the result (R291 event 6, R303). -/
def State.rootResult (s : State) (c : Nat) (d : RDesc) (o : ChOp) : State :=
  let none' := o.part.map.isEmpty
  let r : List (Bytes × Bool) × ChOp × State :=
    if d.count = 0 then ([], o, s)
    else if none' then (List.replicate d.count (emptyUnit d.dtype, false), o, s)
    else s.ownUnits c d o
  let (us, o, s) := r
  let s := if d.count = 0 || (o.inDst && !none') then s else s.putUnits d us
  let nf := (us.map fun u => nfElems d.dtype u.1).foldl (· + ·) 0
  let o := { o with inDst := true, pois := o.pois || us.any (·.2), hdr := s.resultHdr c d o nf, pres := o.part.map }
  s.gotResult c d o

/-- The result goes down to a child whose JOIN has come (R291 event 6). -/
def State.sendDown (s : State) (c : Nat) (d : RDesc) (o : ChOp) (k : RedKid) : State :=
  let r : List (Bytes × Bool) × State := if d.count = 0 then ([], s) else s.readUnits d.dst d.unit d.count
  let s := r.2.setOp c (o.setKid { k with resSent := true })
  let g := d.digest
  s.sendAll ((chunks960 r.1).map fun e => .redResult c k.rank o.seq g e.1 e.2.1 (if e.2.2 then some (o.hdr, o.pres) else none))

/-- STATUS of a reduction that has completed: the highest that applies. -/
def State.redStatus (_s : State) (o : ChOp) : Nat :=
  let pres := bfield o.hdr 8 4
  if o.pois then 3 else if pres = 0 then 2 else if pres < bfield o.hdr 0xC 4 then 1 else 0

/-- What an operation can do next: the accesses it makes and the effect. -/
def redNext (c : Nat) (d : RDesc) (o : ChOp) : Option (List (Nat × Nat × Bool) × (State → State)) :=
  let srcR : List (Nat × Nat × Bool) := if d.bytes = 0 then [] else [(d.src, d.bytes, false)]
  let dstR : List (Nat × Nat × Bool) := if d.bytes = 0 then [] else [(d.dst, d.bytes, false)]
  let dstW : List (Nat × Nat × Bool) := if d.bytes = 0 then [] else [(d.dst, d.bytes, true)]
  let hdrW : List (Nat × Nat × Bool) := (d.hdr, 128, true) :: (if d.mapw then [(d.map, 512, true)] else [])
  let expW : List (Nat × Nat × Bool) := if d.exp ≠ 0 then [(d.exp, d.count, true)] else []
  if o.status.isSome then none
  else
    match o.kids.find? fun k => k.joined && !k.exSent && !k.orphan && d.agrees && o.ea.isSome with
    | some k =>
      some ([], fun s => (s.setOp c (o.setKid { k with exSent := true })).redSend (.redAgreeRes c k.rank o.seq d.digest (o.ea.getD [])))
    | none =>
      match o.phase with
      | .wait | .calving => none
      | .down =>
        match o.kids.find? fun k => k.joined && !k.resSent && !k.orphan with
        | some k => some (dstR, fun s => s.sendDown c d o k)
        | none =>
          if o.kids.all fun k => k.orphan || (k.joined && k.acked) then
            some ([], fun s => s.setOp c { o with status := some (s.redStatus o) })
          else none
      | _ =>
        if !o.hdr.isEmpty then
          some (dstW ++ hdrW, fun s => (if d.count = 0 then s else s.putUnits d o.res).gotResult c d { o with inDst := true })
        else if o.phase == .up then none
        else if o.dropped then some ([], fun s => s.setOp c { o with phase := .up })
        else if o.phase == .agree then
          match o.ea with
          | some ea => some (expW, fun s => s.agreed c d o ea)
          | none =>
            match o.kids[o.done]? with
            | some k =>
              if k.dropped then some ([], fun s => s.setOp c { o with done := o.done + 1 })
              else match k.exps with
                | some l => some ([], fun s => s.setOp c { o with done := o.done + 1, mexp := maxExps o.mexp l, apart := joinPart o.apart k.apart })
                | none => none
            | none =>
              match o.parent with
              | some p =>
                if o.aSent || !o.ready then none
                else some ([], fun s => (s.setOp c { o with aSent := true }).redSend (.redAgree c p o.seq d.digest o.apart o.mexp))
              | none => some (expW, fun s => s.agreed c d o (s.rootExps d o))
        else
          match o.kids[o.done]? with
          | some k =>
            if k.dropped then some ([], fun s => s.setOp c { o with done := o.done + 1 })
            else match k.part with
              | some p => some (srcR ++ dstW, fun s => s.nodeAdd c d o k p)
              | none => none
          | none =>
            match o.parent with
            | some p => if o.ready then some (if o.inDst then dstR else srcR, fun s => s.sendUp c d o p) else none
            | none => some (srcR ++ dstW ++ hdrW, fun s => s.rootResult c d o)

/-- Carries an operation on as far as it can go: `n` bounds the steps, which are at most five for each child and eight
for the rank itself. -/
def redRun (c seq : Nat) : Nat → State → State
  | 0, s => s
  | n + 1, s =>
    match s.opAt c seq with
    | none => s
    | some o =>
      if o.op ≠ 1 ∧ o.op ≠ 2 then s
      else
        match redNext c (rDescOf o.desc) o with
        | none => s
        | some (rs, act) =>
          let g := s.devGate rs
          if g.1 then redRun c seq n (act g.2) else g.2

/-- Carries an operation on. -/
def State.redPump (s : State) (c seq : Nat) : State :=
  match s.opAt c seq with
  | some o => redRun c seq (5 * o.kids.length + 8) s
  | none => s

/-! ### Gates, fences and the start (R284, R287, R315, R324) -/

/-- The word at a gate: its value once it can be read clean; a word read with poison is recorded and read again (R490). -/
def State.gateWord (s : State) (c a : Nat) (first : Bool) : Option Nat × State :=
  if inRegSpace a then
    let r := regOf a
    (some (s.peek 0 r.1 r.2.1 r.2.2).toNat, s)
  else
    let g := s.devGate [(a, 4, false)]
    if !g.1 then (none, g.2)
    else
      let r := g.2.devRead rqRed a 4
      if !r.1.ok then (none, r.2)
      else if r.1.anyPois then (none, if first then r.2.recUC cRED c 0x0E (some a) else r.2)
      else (some (leNat r.1.data), r.2)

/-- The gate value minus GATE_VAL is 0 or more as a signed 32-bit value. -/
def gateOpen (v w : Nat) : Bool := decide (0 ≤ sext 32 (v + 2 ^ 32 - w % 2 ^ 32))

/-- The OLD, NEW and staging ranges of the CALVE or LAND operations that have started (R324). -/
def State.calvRanges (s : State) (c : Nat) : List (Nat × Nat) :=
  s.calving.flatMap fun e => if e.1 ≠ c ∧ e.2.isMove then e.2.cal.ranges else []

/-- The start of the first operation of a channel that has not started, when its turn, its gate and the fence allow. -/
def State.startNext (s : State) (c : Nat) : State :=
  let x := s.redOf c
  if x.halted || s.rdb cRED c hFREEZE 0 then s
  else
    match x.ops.find? fun o => o.phase == .wait && o.status.isNone with
    | none => s
    | some o =>
      if o.op ≠ 1 ∧ o.op ≠ 2 then s
      else if (x.ops.takeWhile (·.seq != o.seq)).any (·.isMove) then s
      else
        let d := rDescOf o.desc
        if d.ranges.any fun r => (s.calvRanges c).any (runsMeet r) then
          if o.fenced then s else (s.bump cCALV 0 CALV.FENCE_HOLD_CNT).setOp c { o with fenced := true }
        else if decide (s.clk.time < o.gateDue) then s
        else
          let w : Bool × State := if d.gateEn then
              let r := s.gateWord c d.gate (o.gateDue == 0)
              (match r.1 with | some v => gateOpen v d.gval | none => false, r.2)
            else (true, s)
          if !w.1 then w.2.setOp c { o with gateDue := w.2.clk.time + max 1 (w.2.rdf cRED c RED.GATE_POLL 0 16) }
          else
            let g := w.2.devGate ((if d.bytes = 0 then [] else [(d.src, d.bytes, false)]) ++
              (if d.scale = 2 then [(d.exp, d.count, false)] else []))
            if g.1 then (g.2.redStart c d o).redPump c o.seq else g.2

/-- Starts operations of a channel in SEQ order as long as one can start. -/
def State.startAll (s : State) (c : Nat) : State := (List.range 4).foldl (fun s _ => s.startNext c) s

/-! ### Late subtrees (R285, R298) -/

/-- Coordinates of the right subtree of a node. -/
def RedKid.coords (k : RedKid) : List Nat := (List.range (2 ^ k.level)).map (k.start + 2 ^ k.level + ·)

/-- A node drops a right subtree as late (R298): LATE bits, LATE_CNT, DROP. -/
def State.dropKid (s : State) (c : Nat) (o : ChOp) (k : RedKid) : State :=
  let d := rDescOf o.desc
  let m0 := membersOf (s.axisLen (d.ax 0)) d.mem0
  let m1 := membersOf (s.axisLen (d.ax 1)) d.mem1
  let sub := k.coords
  let l0 := if k.stage = 0 then m0.filter sub.contains else m0
  let l1 := if k.stage = 0 then [] else m1.filter sub.contains
  let n := if k.stage = 0 then l0.length else l1.length * m0.length
  let mark (p : RedPartial) : RedPartial := { p with late0 := p.late0 ||| coordMap l0, late1 := p.late1 ||| coordMap l1 }
  let o := { o with part := mark o.part, apart := mark o.apart }.setKid { k with dropped := true }
  ((s.setOp c o).bump cRED c RED.LATE_CNT n).redSend (.redDrop c k.rank o.seq d.digest k.glevel)

/-- What R285 counts and records of a message with another digest or SEQ. -/
def State.mismatchNote (s : State) (c src : Nat) : State :=
  ((s.bump cRED c RED.MISMATCH_CNT).irq cRED c 16).recUC cRED c 0x09 (some src)

/-- The subtree of a sender is late for a reduction that has not got its partial yet (R285). -/
def State.lateFor (s : State) (c : Nat) (o : ChOp) (src : Nat) : State :=
  match o.kids.find? fun k => k.rank == src && !k.dropped with
  | some k => if o.op < 3 && (o.phase == .wait || o.phase == .agree || o.phase == .data) then s.dropKid c o k else s
  | none => s

/-- A message with another digest (R285). -/
def State.redMismatch (s : State) (c : Nat) (o : Option ChOp) (src : Nat) : State :=
  match o with
  | none => s.mismatchNote c src
  | some o => (s.mismatchNote c src).lateFor c o src

/-- A message with another SEQ than those of the operations in progress or to come (R285): the sender's subtree is late for
every reduction of the channel that still waits for it. -/
def State.wrongSeq (s : State) (c src : Nat) : State :=
  (s.redOf c).ops.foldl (fun s o =>
    match s.opAt c o.seq with
    | some o => (s.lateFor c o src).redPump c o.seq
    | none => s) (s.mismatchNote c src)

/-! ### Taking descriptors (R283, R284, R304) -/

/-- The channel can take a descriptor. -/
def State.chReady (s : State) (c : Nat) : Bool :=
  decide (c < 64) && s.ringReady cRED c && !(s.redOf c).halted && decide ((s.redOf c).ops.length < 4)

/-- A descriptor leaves the ring and becomes an operation: it has its SEQ, which is written into the descriptor. -/
def State.chTake (s : State) (c h : Nat) (o : ChOp) : State :=
  let seq := (s.rd cRED c RED.NEXT_SEQ).toNat
  let s := s.devWrite rqRed (s.ringAddr cRED c h + 8) (toLE 4 seq)
  let s := (s.bumpW cRED c RED.NEXT_SEQ).ringNext cRED c
  let x := s.redOf c
  s.setRed c { x with ops := x.ops ++ [{ o with seq := seq, idx := h }] }

/-- A refused descriptor takes its SEQ, sends nothing and completes with 0x10 in its place (R304). -/
def State.chRefuse (s : State) (c h op cause : Nat) (irq : Bool) (b : Bytes) : State :=
  let seq := (s.rd cRED c RED.NEXT_SEQ).toNat
  let s := (((s.bump cRED c RED.DESC_ERR_CNT).irq cRED c 64).recUC cRED c cause (some h)).chTake c h
    { seq := 0, idx := h, op := op, irq := irq, desc := b, phase := .down, status := some 0x10 }
  let x := s.redOf c
  s.setRed c { x with held := x.held.filter fun m => m.1 != seq }

/-- Reads the descriptor at the head of a channel's ring, once it can be read and its SEQ written. -/
def State.chHead (s0 : State) (c : Nat) (go : State → Nat → Option Bytes → State) : State :=
  if !s0.chReady c then s0
  else
    let h := s0.ringHead cRED c
    let a := s0.ringAddr cRED c h
    s0.devGated [(a, 128, true)] fun s =>
      let (r, s) := s.devRead rqRed a 128
      go s h (if r.ok && !r.anyPois then some r.data else none)

/-- A held JOIN, READY or DROP reaches its operation. -/
def State.redHeld (s : State) (c : Nat) (o : ChOp) (m : RedMsg) : State :=
  let d := rDescOf o.desc
  match m with
  | .join src g =>
    if g ≠ d.digest then s.redMismatch c (some o) src
    else match o.kids.find? fun k => k.rank == src with
      | some k => s.setOp c (o.setKid { k with joined := true })
      | none => s.redMismatch c (some o) src
  | .ready src g => if g ≠ d.digest then s.redMismatch c (some o) src else s.setOp c { o with ready := true }
  | .drop src g _ => if g ≠ d.digest then s.redMismatch c (some o) src else s.setOp c { o with dropped := true }
  | .copyDone src _ _ _ | .chunk src _ _ _ _ _ _ | .decision src _ _ _ => s.redMismatch c (some o) src

/-- Messages that came before their operation was taken reach it now. -/
def State.deliverHeld (s : State) (c seq : Nat) (f : State → ChOp → RedMsg → State) : State :=
  let ms := ((s.redOf c).held.filter fun m => m.1 == seq).map (·.2)
  let s := s.setRed c { s.redOf c with held := (s.redOf c).held.filter fun m => m.1 != seq }
  ms.foldl (fun s m => match s.opAt c seq with | some o => f s o m | none => s) s

/-- REDUCE and BARRIER: the channel takes the descriptor at the head of its ring when it is one of `op`. -/
def State.redTake (s0 : State) (c op : Nat) : State :=
  s0.chHead c fun s h b =>
    match b with
    | none => s0
    | some b =>
      let d := rDescOf b
      if d.op ≠ op then s0
      else if s.redBad d then s.chRefuse c h d.op 0x01 (d.flags / 128 % 2 == 1) b
      else
        let seq := (s.rd cRED c RED.NEXT_SEQ).toNat
        let t := s.treeOf d.stages 0 0
        let s := s.chTake c h { seq := 0, idx := h, op := d.op, irq := d.flags / 128 % 2 == 1, desc := b, kids := t.1, parent := t.2.map (·.1) }
        (s.deliverHeld c seq fun s o m => s.redHeld c o m).startAll c

/-- REDUCE (R291). -/
def execReduce (c : Nat) (s : State) : Res := .next (s.redTake c 1)

/-- BARRIER (R292). -/
def execBarrier (c : Nat) (s : State) : Res := .next (s.redTake c 2)

/-- Every operation of a channel goes on as far as it can. -/
def State.redAll (s : State) (c : Nat) : State :=
  ((s.redOf c).ops.map (·.seq)).foldl (fun s q => s.redPump c q) (s.startAll c)

/-! ### Messages in -/

/-- A SEQ that the channel has not reached yet. -/
def State.seqAhead (s : State) (c seq : Nat) : Bool := decide ((seq + 2 ^ 32 - (s.rd cRED c RED.NEXT_SEQ).toNat) % 2 ^ 32 < 2 ^ 31)

/-- A message of a SEQ on channel c: to its operation; or kept for an operation to come, when it is one that may come so
early; or `wrong`. -/
def State.redMsg (s : State) (c seq : Nat) (keep : Option RedMsg) (go : State → ChOp → State) (wrong : State → State) : State :=
  if !s.live || !decide (c < 64) then s
  else
    match s.opAt c seq with
    | some o => if o.status.isSome then s else go s o
    | none =>
      match keep with
      | some m =>
        if s.seqAhead c seq then let x := s.redOf c; s.setRed c { x with held := x.held ++ [(seq, m)] } else wrong s
      | none => wrong s

/-- A partial that no operation in progress expects: of a child that was dropped in an operation that is complete it is
counted, once (R299); any other has a wrong SEQ (R285). -/
def State.pastPartial (s : State) (c seq src : Nat) (data : Bool) : State :=
  let x := s.redOf c
  match x.past.find? fun e => e.seq == seq && e.rank == src with
  | none => s.wrongSeq c src
  | some e =>
    if (if data then e.lateD else e.lateA) then s
    else
      let e' := if data then { e with lateD := true } else { e with lateA := true }
      (s.setRed c { x with past := x.past.map fun y => if y = e then e' else y }).bump cRED c RED.LATE_DROP_CNT

/-- JOIN (R291 event 2). -/
def execJoin (c src seq digest : Nat) (s : State) : Res :=
  .next <| s.redMsg c seq (some (.join src digest))
    (fun s o => (s.redHeld c o (.join src digest)).redPump c seq) (·.wrongSeq c src)

/-- RED_READY (R291 event 2). -/
def execRedReady (c src seq digest : Nat) (s : State) : Res :=
  .next <| s.redMsg c seq (some (.ready src digest)) (fun s o => (s.redHeld c o (.ready src digest)).redPump c seq)
    (·.wrongSeq c src)

/-- RED_DROP (R299). -/
def execRedDrop (c src seq digest level : Nat) (s : State) : Res :=
  .next <| s.redMsg c seq (some (.drop src digest level)) (fun s o => (s.redHeld c o (.drop src digest level)).redPump c seq)
    (·.wrongSeq c src)

/-- A partial of a dropped subtree is discarded; its AGREE and its DATA partial count once each (R299). -/
def State.lateDrop (s : State) (c : Nat) (o : ChOp) (k : RedKid) (data : Bool) : State :=
  if (if data then k.lateD else k.lateA) then s
  else
    (s.setOp c (o.setKid (if data then { k with lateD := true } else { k with lateA := true }))).bump cRED c RED.LATE_DROP_CNT

/-- A partial from a child reaches its operation, unless its digest differs or its subtree was dropped. -/
def State.fromKid (s : State) (c src digest : Nat) (data : Bool) (o : ChOp) (act : State → RedKid → State) : State :=
  if digest ≠ (rDescOf o.desc).digest then (s.redMismatch c (some o) src).redPump c o.seq
  else
    match o.kids.find? fun k => k.rank == src with
    | none => s.redMismatch c (some o) src
    | some k => if k.dropped then s.lateDrop c o k data else (act s k).redPump c o.seq

/-- AGREE (R294). -/
def execAgree (c src seq digest : Nat) (p : RedPartial) (exps : List Int) (s : State) : Res :=
  .next <| s.redMsg c seq none
    (fun s o => s.fromKid c src digest false o fun s k =>
      if k.exps.isSome || o.phase != .agree then s else s.setOp c (o.setKid { k with exps := some exps, apart := p }))
    (fun s => s.pastPartial c seq src false)

/-- AGREE_RES (R294): the agreed exponents; a rank that was dropped still writes them to EXP. -/
def execAgreeRes (c src seq digest : Nat) (exps : List Int) (s : State) : Res :=
  .next <| s.redMsg c seq none
    (fun s o =>
      let d := rDescOf o.desc
      if digest ≠ d.digest then s.redMismatch c none src
      else if o.ea.isSome || !d.agrees || o.parent != some src then s
      else if o.phase == .agree then (s.setOp c { o with ea := some exps }).redPump c seq
      else
        let s := if d.exp ≠ 0 then s.devWrite rqRed d.exp (exps.map fun e => BitVec.ofNat 8 (ofInt 8 e)) else s
        (s.setOp c { o with ea := some exps }).redPump c seq) (·.wrongSeq c src)

/-- RED_DATA (R296): the units of a chunk join those that have come; the partial is complete with its last chunk. -/
def execRedData (c src seq digest stage level first : Nat) (units : List (Bytes × Bool)) (last : Option RedPartial) (s : State) : Res :=
  let _ := (stage, level)
  .next <| s.redMsg c seq none
    (fun s o => s.fromKid c src digest true o fun s k =>
      if k.part.isSome || k.units.length != first then s
      else s.setOp c (o.setKid { k with units := k.units ++ units, part := last }))
    (fun s => s.pastPartial c seq src true)

/-- RESULT (R291 events 6 and 7). -/
def execResult (c src seq digest first : Nat) (units : List (Bytes × Bool)) (hdr : Option (Bytes × List Nat)) (s : State) : Res :=
  .next <| s.redMsg c seq none
    (fun s o =>
      if digest ≠ (rDescOf o.desc).digest then s.redMismatch c none src
      else if o.phase == .wait || o.phase == .down || !o.hdr.isEmpty || o.res.length != first || o.parent != some src then s
      else
        let o := { o with res := o.res ++ units, pois := o.pois || units.any (·.2) }
        let o := match hdr with | some (h, p) => { o with hdr := bpad h 128, pres := p } | none => o
        (s.setOp c o).redPump c seq) (·.wrongSeq c src)

/-- RED_ACK (R291 event 8). -/
def execRedAck (c src seq digest : Nat) (s : State) : Res :=
  .next <| s.redMsg c seq none
    (fun s o =>
      if digest ≠ (rDescOf o.desc).digest then s.redMismatch c (some o) src
      else match o.kids.find? fun k => k.rank == src with
        | some k => (s.setOp c (o.setKid { k with acked := true })).redPump c seq
        | none => s) (·.wrongSeq c src)

/-! ### Time -/

/-- The deadline of a level after its T (R298). -/
def State.levelDeadline (s : State) (c level : Nat) : Nat :=
  s.rdf cRED c RED.DEADLINE 0 24 + level * s.rdf cRED c RED.LEVEL_SLACK 0 24

/-- A subtree of a level whose partial of the phase is missing past its deadline. -/
def State.lateKid (s : State) (c level : Nat) (o : ChOp) : Option RedKid :=
  if (o.phase == .agree && o.ea.isNone || o.phase == .data) && o.status.isNone && decide (o.tPhase + s.levelDeadline c level ≤ s.clk.time) then
    o.kids.find? fun k => k.glevel == level && !k.dropped && (if o.phase == .agree then k.exps.isNone else k.part.isNone)
  else none

/-- LEVEL_DEADLINE_EXPIRE (R298). -/
def execLevelDeadlineExpire (c level : Nat) (s : State) : Res :=
  .next <|
    if !s.live || !decide (c < 64) then s
    else ((s.redOf c).ops.map (·.seq)).foldl (fun s q =>
      match s.opAt c q with
      | some o => match s.lateKid c level o with | some k => (s.dropKid c o k).redPump c q | none => s
      | none => s) s

/-- Children that have not sent both JOIN and ACK are orphaned (R300). -/
def State.orphanKids (s : State) (c : Nat) (o : ChOp) : State :=
  (o.kids.filter fun k => !k.orphan && !(k.joined && k.acked)).foldl (fun s k =>
    match s.opAt c o.seq with
    | some o => ((s.setOp c (o.setKid { k with orphan := true })).bump cRED c RED.ORPHAN_CNT).recUC cRED c 0x06 (some k.rank)
    | none => s) s

/-- The result has not come: the operation fails, DST is unspecified, the channel halts (R300). -/
def State.redFail (s : State) (c : Nat) (o : ChOp) : State :=
  let d := rDescOf o.desc
  let s := if d.count = 0 then s else s.scribble rqRed d.dst d.bytes
  let s := s.setOp c { o with status := some 8, phase := .down }
  ((s.setRed c { s.redOf c with halted := true }).irq cRED c 32).recUC cRED c 0x06 (some o.idx)

/-- When a rank that has no result gives up: RESULT_TMO and the level deadlines of the operation's levels (R300). -/
def State.resultDue (s : State) (c : Nat) (o : ChOp) : Nat :=
  let n := s.levelsOf (rDescOf o.desc).stages
  o.t0 + s.rdf cRED c RED.RESULT_TMO 0 24 + ((List.range n).map (s.levelDeadline c)).foldl (· + ·) 0

/-! ### Completion and reset -/

/-- Interrupt causes of a completed reduction (R308). -/
def ChOp.redIrqs (o : ChOp) (st : Nat) : Nat :=
  (if o.op < 3 ∧ (st = 1 ∨ st = 2) then 2 else 0) +
  (if o.op < 3 ∧ bfield o.hdr 0x40 4 ≠ 0 then 4 else 0) + (if o.op < 3 ∧ bfield o.hdr 0x44 4 ≠ 0 then 8 else 0)

/-- The oldest operation completes: STATUS, DONE_CNT, LAST, interrupts (R284). -/
def State.chComplete (s : State) (c : Nat) (o : ChOp) (st : Nat) : State :=
  let s := s.ringComplete rqRed cRED c o.idx 4 st o.irq
  let b := o.redIrqs st
  let s := if b = 0 then s else s.irq cRED c b
  let x := s.redOf c
  s.setRed c { x with ops := x.ops.tail
                      past := x.past ++ (o.kids.filter (·.dropped)).map fun k => ⟨o.seq, k.rank, k.lateA, k.lateD⟩ }

/-- Completes operations in SEQ order as long as the oldest is done. -/
def chCompleteAll (c : Nat) : Nat → State → State
  | 0, s => s
  | n + 1, s =>
    match (s.redOf c).ops with
    | o :: _ =>
      match o.status with
      | some st =>
        let g := s.devGate [(s.ringAddr cRED c o.idx + 4, 1, true)]
        if g.1 then chCompleteAll c n (g.2.chComplete c o st) else g.2
      | none => s
    | [] => s

/-- The check-value unit is left when no gather uses it any more. -/
def State.leaveCvu (s : State) (n : Nat) : State :=
  if s.calving.any fun e => e.2.cal.cvu == some n && e.2.status.isNone then s else s.wrb cCVU n hSTAT 2 false

/-- CTRL.RESET of a channel (R300, R308): refused unless the channel is drained or halted. -/
def State.redReset (s : State) (c : Nat) : State :=
  if !(s.drained cRED c || (s.redOf c).halted) then s.recUC cRED c 0x01
  else
    let s := (((s.wr cRED c RED.CQ_HEAD 0).wr cRED c RED.CQ_TAIL 0).wr cRED c RED.DONE_CNT 0).wr cRED c RED.NEXT_SEQ 0
    (List.range 4).foldl State.leaveCvu (s.setRed c {})

/-- RED_RESET (R308). -/
def execRedReset (m c : Nat) (s : State) : Res :=
  .next <| if c < 64 then s.ownerWrite m cRED c hCTRL false (·.redReset c) else s

end Sys2Proof.Machine
end

