-- ==== Sys2Proof/Machine/Calving.lean ====
section
/-! DEFINITION. Calving (R310–R334): layouts, the copy and its staging, the fence, agreement and commit, ranks in doubt,
gathers with shard versions; and the steps that reductions and Calvings share on a channel. -/
namespace Sys2Proof.Machine

/-! ### Layouts (R310, R311) -/

/-- A layout descriptor. Of each dimension `axes` holds NAX and the two axis codes; `lens` the axis lengths. -/
structure Layout where
  epoch : Nat
  elem  : Nat
  ndim  : Nat
  ext   : List Nat
  axes  : List (Nat × Nat × Nat)
  lens  : List Nat
  base  : Nat
  shdr  : Nat
  rsvd  : Bool
deriving DecidableEq, Repr

/-- Reads a layout descriptor at an offset of a plan entry. -/
def layoutOf (b : Bytes) (o : Nat) : Layout :=
  let byte (i : Nat) : Nat := bfield b (o + i) 1
  let lens := (List.range 4).map fun a => byte (0x2C + a)
  { epoch := bfield b o 2, elem := byte 2, ndim := byte 3
    ext := (List.range 4).map fun k => bfield b (o + 8 + 8 * k) 8
    axes := (List.range 4).map fun k => let v := byte (0x28 + k); (v / 64, v / 16 % 4, v / 4 % 4)
    lens := lens.map fun v => v % 64 + 1
    base := bfield b (o + 0x30) 8, shdr := bfield b (o + 0x38) 8
    rsvd := bfield b (o + 4) 4 != 0 || lens.any (fun v => decide (64 ≤ v)) || (List.range 4).any fun k => byte (0x28 + k) % 4 != 0 }

/-- Axes that split dimension k. -/
def Layout.axesOf (l : Layout) (k : Nat) : List Nat :=
  match l.axes.getD k (0, 0, 0) with
  | (0, _, _) => []
  | (1, a, _) => [a]
  | (_, a, b) => [a, b]

/-- Axes that split some dimension. -/
def Layout.split (l : Layout) : List Nat := (List.range l.ndim).flatMap l.axesOf

/-- Length of an axis. -/
def Layout.len (l : Layout) (a : Nat) : Nat := l.lens.getD a 1

/-- Parts of dimension k, and the part of a rank, its coordinates given axis by axis. -/
def Layout.parts (l : Layout) (k : Nat) : Nat := ((l.axesOf k).map l.len).foldl (· * ·) 1
def Layout.partOf (l : Layout) (pos : List Nat) (k : Nat) : Nat :=
  match l.axesOf k with
  | [a] => pos.getD a 0
  | [a, b] => pos.getD a 0 + l.len a * pos.getD b 0
  | _ => 0

/-- The indices of part c of dimension k: first and number. -/
def Layout.range (l : Layout) (k c : Nat) : Nat × Nat :=
  let e := l.ext.getD k 1
  let s := (e + l.parts k - 1) / l.parts k
  let lo := min e (c * s)
  (lo, min e ((c + 1) * s) - lo)

/-- The box that a rank holds, dimension by dimension. -/
def Layout.box (l : Layout) (pos : List Nat) : List (Nat × Nat) := (List.range l.ndim).map fun k => l.range k (l.partOf pos k)

/-- Units of a box. -/
def boxUnits (b : List (Nat × Nat)) : Nat := (b.map (·.2)).foldl (· * ·) 1

/-- Index of the unit at place j of a box, row-major. -/
def unitIdx : List (Nat × Nat) → Nat → List Nat
  | [], _ => []
  | (lo, _) :: r, j => (lo + j / boxUnits r) :: unitIdx r (j % boxUnits r)

/-- Place of a unit in a box, if the box holds it. -/
def unitOff : List (Nat × Nat) → List Nat → Option Nat
  | [], [] => some 0
  | (lo, n) :: r, i :: t => if lo ≤ i ∧ i < lo + n then (unitOff r t).map ((i - lo) * boxUnits r + ·) else none
  | _, _ => none

/-- Bytes of a rank's shard, and with its padding. -/
def Layout.bytes (l : Layout) (pos : List Nat) : Nat := boxUnits (l.box pos) * l.elem
def Layout.padded (l : Layout) (pos : List Nat) : Nat := alignUp (l.bytes pos) 64

/-- The whole tensor as a box. -/
def Layout.whole (l : Layout) : List (Nat × Nat) := (List.range l.ndim).map fun k => (0, l.ext.getD k 1)

/-- The boxes of all shards in the order of the shard index (R328), each with its parts. -/
def Layout.shards (l : Layout) : List (List Nat) :=
  (List.range l.ndim).foldr (fun k acc => (List.range (l.parts k)).flatMap fun c => acc.map (c :: ·)) [[]]

/-- The box of a shard by its parts. -/
def Layout.shardBox (l : Layout) (cs : List Nat) : List (Nat × Nat) := (indexed cs).map fun e => l.range e.2 e.1

/-- The layout breaks R310: a reserved field, ELEM, NDIM, extent, NAX, an axis that splits twice, an alignment. -/
def Layout.bad (l : Layout) : Bool :=
  l.rsvd || !(decide (l.elem = 1 ∨ l.elem = 2 ∨ l.elem = 4 ∨ l.elem = 8 ∨ l.elem = 68)) || l.ndim == 0 || decide (4 < l.ndim) ||
  (indexed l.ext).any (fun e => if e.2 < l.ndim then e.1 == 0 || decide (2 ^ 40 < e.1) else e.1 != 1) ||
  (indexed l.axes).any (fun e => e.1.1 == 3 || (decide (l.ndim ≤ e.2) && e.1.1 != 0)) ||
  decide (l.split.eraseDups.length ≠ l.split.length) || l.base % 64 != 0 || l.shdr % 32 != 0

/-! ### The descriptor (R314) -/

/-- A Calving descriptor. -/
structure CDesc where
  op    : Nat
  axmask : Nat
  flags : Nat
  nbuf  : Nat
  plan  : Nat
  stage : Nat
  slen  : Nat
  hdr   : Nat
  mem   : List Nat
  aux   : Nat
  dst   : Nat
  rsvd  : Bool
deriving DecidableEq, Repr

/-- Reads a descriptor. -/
def cDescOf (b : Bytes) : CDesc :=
  { op := bfield b 0 1, axmask := bfield b 1 1 % 16, flags := bfield b 3 1, nbuf := bfield b 0xC 4, plan := bfield b 0x10 8
    stage := bfield b 0x18 8, slen := bfield b 0x20 8, hdr := bfield b 0x28 8
    mem := (List.range 4).map fun a => bfield b (0x30 + 8 * a) 8
    aux := bfield b 0x50 8, dst := bfield b 0x58 8
    rsvd := bfield b 1 1 / 16 != 0 || bfield b 2 1 != 0 || bfield b 3 1 % 128 != 0 || bfield b 5 3 != 0 || bfield b 0x60 32 != 0 }

/-- Axes that the operation spans, with their member masks, in the order of the stages (R319). -/
def CDesc.stages (d : CDesc) : List (Nat × Nat) :=
  ((List.range 4).filter fun a => d.axmask.testBit a).map fun a => (a, d.mem.getD a 0)

def CDesc.moves (d : CDesc) : Bool := d.op == 0x10 || d.op == 0x11

/-- A plan entry's layouts. -/
abbrev oldOf (e : Bytes) : Layout := layoutOf e 0
abbrev newOf (e : Bytes) : Layout := layoutOf e 0x40

/-- Members with their coordinates, in the order of their ranks (R314). -/
def State.calvMembers (s : State) (d : CDesc) : List (Nat × List Nat) :=
  let on (a : Nat) : List Nat :=
    if d.axmask.testBit a then membersOf (s.axisLen a) (d.mem.getD a 0) else [s.axisPos a]
  (on 3).flatMap fun p => (on 2).flatMap fun q => (on 1).flatMap fun t => (on 0).map fun x =>
    (s.rankOf fun a => [x, t, q, p].getD a 0, [x, t, q, p])

/-- This rank's coordinates. -/
def State.myPos (s : State) : List Nat := (List.range 4).map s.axisPos

/-- Ranks of the machine of OLD, with their coordinates (R326). -/
def Layout.oldRanks (l : Layout) : List (List Nat) :=
  (List.range (l.len 3)).flatMap fun p => (List.range (l.len 2)).flatMap fun q => (List.range (l.len 1)).flatMap fun t =>
    (List.range (l.len 0)).map fun x => [x, t, q, p]

/-- A source map entry: HOLDER, PRESENT, OLD_LO, ADDR, LEN, reserved bits set. -/
structure MapEnt where
  holder  : Nat
  present : Bool
  oldLo   : Nat
  addr    : Nat
  len     : Nat
  rsvd    : Bool
deriving DecidableEq, Repr

def mapEntOf (b : Bytes) : MapEnt :=
  { holder := bfield b 0 2, present := bfield b 2 1 % 2 == 1, oldLo := bfield b 8 8, addr := bfield b 0x10 8, len := bfield b 0x18 8
    rsvd := bfield b 2 2 / 2 != 0 || bfield b 4 4 != 0 }

/-- What a started operation works with: the members, the ranks of the old machine with their map entries (LAND). -/
structure CalCtx where
  d    : CDesc
  me   : Nat
  pos  : List Nat
  mem  : List (Nat × List Nat)
  map  : List MapEnt
  log  : Nat
deriving DecidableEq, Repr

/-- The source of a unit: the rank that sends it, and the address of the unit there as this rank can know it (its own
copy, or the image's address). -/
def CalCtx.src (x : CalCtx) (e : Bytes) (idx : List Nat) : Option (Nat × Nat) :=
  let l := oldOf e
  if x.d.op = 0x11 then
    let at' (m : MapEnt × List Nat) : Option (MapEnt × Nat) :=
      if m.1.present then (unitOff (l.box m.2) idx).map fun o => (m.1, l.base + o * l.elem) else none
    match (x.map.zip l.oldRanks).findSome? at' with
    | some (m, a) => if m.oldLo ≤ a ∧ a + l.elem ≤ m.oldLo + m.len then some (m.holder, m.addr + (a - m.oldLo)) else none
    | none => none
  else
    x.mem.findSome? fun (r, p) => (unitOff (l.box p) idx).map fun o => (r, l.base + o * l.elem)

/-- Joins runs that follow on each other. -/
def mergeRuns : List (Nat × Nat) → List (Nat × Nat)
  | [] => []
  | r :: t =>
    match mergeRuns t with
    | (a, n) :: u => if r.1 + r.2 = a then (r.1, r.2 + n) :: u else r :: (a, n) :: u
    | [] => [r]

/-- The parts of chunk k of the NEW shard at `pos`, unit by unit: source, if there is one, offset in the shard, bytes. -/
def CalCtx.parts (x : CalCtx) (e : Bytes) (pos : List Nat) (k : Nat) : List (Option (Nat × Nat) × Nat × Nat) :=
  let l := newOf e
  let b := l.box pos
  let lo := k * 2 ^ x.log
  let hi := min (lo + 2 ^ x.log) (l.bytes pos)
  if hi ≤ lo then []
  else (List.range ((hi - 1) / l.elem + 1 - lo / l.elem)).map fun i =>
    let u := lo / l.elem + i
    let p := max lo (u * l.elem)
    let q := min hi ((u + 1) * l.elem)
    ((x.src e (unitIdx b u)).map fun (r, a) => (r, a + (p - u * l.elem)), p, q - p)

/-- Chunks of the NEW shard at `pos`. -/
def CalCtx.chunks (x : CalCtx) (e : Bytes) (pos : List Nat) : Nat := ((newOf e).bytes pos + 2 ^ x.log - 1) / 2 ^ x.log

/-- Of chunk k, the runs that come from rank r: where they are read there, and where they go in the shard. -/
def CalCtx.from' (x : CalCtx) (e : Bytes) (pos : List Nat) (k r : Nat) : List (Nat × Nat) × List (Nat × Nat) :=
  let ps := (x.parts e pos k).filterMap fun p => match p.1 with
    | some (q, a) => if q = r then some ((a, p.2.2), (p.2.1, p.2.2)) else none
    | none => none
  (mergeRuns (ps.map (·.1)), mergeRuns (ps.map (·.2)))

/-- Bytes of runs. -/
def runBytes (l : List (Nat × Nat)) : Nat := (l.map (·.2)).foldl (· + ·) 0

/-- The chunks that this rank sends (R318 event 3). -/
def CalCtx.outs (x : CalCtx) (plan : List Bytes) : List CalOut :=
  (indexed plan).flatMap fun (e, i) => x.mem.flatMap fun (r, p) => (List.range (x.chunks e p)).filterMap fun k =>
    let f := x.from' e p k x.me
    if f.1.isEmpty then none else some { entry := i, dst := r, off := k * 2 ^ x.log, segs := f.1 }

/-- What this rank expects: entry, source, offset, bytes. -/
def CalCtx.expects (x : CalCtx) (plan : List Bytes) : List (Nat × Nat × Nat × Nat) :=
  (indexed plan).flatMap fun (e, i) => (List.range (x.chunks e x.pos)).flatMap fun k =>
    (x.mem.map (·.1)).filterMap fun r =>
      let f := x.from' e x.pos k r
      if f.2.isEmpty then none else some (i, r, k * 2 ^ x.log, runBytes f.2)

/-- Some unit of this rank's NEW shards has no source (R326). -/
def CalCtx.orphans (x : CalCtx) (plan : List Bytes) : Bool :=
  plan.any fun e => (List.range (x.chunks e x.pos)).any fun k => (x.parts e x.pos k).any (·.1.isNone)

/-! ### Ranges (R316, R317) -/

/-- What is left of a run without another. -/
def minusRun (a r : Nat × Nat) : List (Nat × Nat) :=
  if !runsMeet a r then [a]
  else [(a.1, r.1 - a.1), (r.1 + r.2, a.1 + a.2 - (r.1 + r.2))].filter (·.2 != 0)

/-- What is left of a run without some others. -/
def minusRuns (a : Nat × Nat) (rs : List (Nat × Nat)) : List (Nat × Nat) := rs.foldl (fun l r => l.flatMap (minusRun · r)) [a]

/-- Bytes of a run that lie in some of the others. -/
def coveredBytes (a : Nat × Nat) (rs : List (Nat × Nat)) : Nat := a.2 - runBytes (minusRuns a rs)

/-- OLD ranges on this rank: its shards, or the images that it holds. -/
def CalCtx.olds (x : CalCtx) (plan : List Bytes) : List (Nat × Nat) :=
  (if x.d.op = 0x11 then (x.map.filter fun m => m.present && m.holder == x.me).map fun m => (m.addr, m.len)
   else plan.map fun e => ((oldOf e).base, (oldOf e).padded x.pos)).filter (·.2 != 0)

/-- NEW ranges on this rank. -/
def CalCtx.news (x : CalCtx) (plan : List Bytes) : List (Nat × Nat) :=
  (plan.map fun e => ((newOf e).base, (newOf e).padded x.pos)).filter (·.2 != 0)

/-- Staging that R317 asks for. -/
def CalCtx.stageNeed (x : CalCtx) (plan : List Bytes) : Nat :=
  (plan.map fun e => alignUp (coveredBytes ((newOf e).base, (newOf e).padded x.pos) (x.olds plan)) (2 ^ x.log)).foldl (· + ·) 0

/-- Staging that whole chunks take: every chunk that meets an OLD range. -/
def CalCtx.stageWhole (x : CalCtx) (plan : List Bytes) : Nat :=
  (plan.map fun e => ((List.range (x.chunks e x.pos)).map fun k =>
    let n := min (2 ^ x.log) ((newOf e).bytes x.pos - k * 2 ^ x.log)
    if (x.olds plan).any (runsMeet ((newOf e).base + k * 2 ^ x.log, n)) then n else 0).foldl (· + ·) 0).foldl (· + ·) 0

/-- CHUNK_LOG (values out of 12–16 act as the nearest). -/
def State.chunkLog (s : State) : Nat := max 12 (min 16 (s.rdf cCALV 0 CALV.CHUNK_CFG 0 5))

/-- What an operation works with. -/
def State.calCtx (s : State) (d : CDesc) (map : List MapEnt) : CalCtx :=
  { d := d, me := s.myRank, pos := s.myPos, mem := s.calvMembers d, map := map, log := s.chunkLog }

/-! ### Refusal (R304, R316, R317, R326, R332) -/

/-- The lengths of a layout are those of the GEOM registers. -/
def State.lensNow (s : State) (l : Layout) : Bool := (List.range 4).all fun a => l.len a == s.axisLen a

/-- A plan entry of a CALVE or LAND breaks its rules. -/
def State.entryBad (s : State) (d : CDesc) (e : Bytes) : Bool :=
  let o := oldOf e
  let n := newOf e
  let spans (l : Layout) : Bool := l.split.all fun a => d.axmask.testBit a
  o.bad || n.bad || o.elem != n.elem || o.ndim != n.ndim || o.ext != n.ext || n.epoch != (o.epoch + 1) % 65536 ||
  !s.lensNow n || !spans n || !spans o || (d.op == 0x10 && !s.lensNow o)

/-- Addresses of a plan entry on this rank lie outside HBM and the tile-store direct window. -/
def State.entryAddrBad (s : State) (d : CDesc) (e : Bytes) : Bool :=
  let o := oldOf e
  let n := newOf e
  !inDevSpace n.base (n.padded s.myPos) || (n.shdr != 0 && !inDevSpace n.shdr 32) ||
  (d.op == 0x10 && !inDevSpace o.base (o.padded s.myPos))

/-- The channel refuses a CALVE or LAND. -/
def State.moveBad (s : State) (d : CDesc) (plan : List Bytes) (map : List MapEnt) : Bool :=
  let x := s.calCtx d map
  let need := match plan with | e :: _ => ((oldOf e).oldRanks).length | [] => 0
  plan.any (s.entryBad d) || plan.any (s.entryAddrBad d) ||
  (d.op == 0x10 && anyMeet (x.olds plan)) || anyMeet (x.news plan) ||
  d.stage % 65536 != 0 || decide (d.slen < x.stageNeed plan) || (d.slen != 0 && !inDevSpace d.stage d.slen) ||
  ((x.olds plan) ++ (x.news plan)).any (runsMeet (d.stage, d.slen)) ||
  (d.op == 0x11 && (decide (map.length < need) || plan.any (fun e => decide ((oldOf e).oldRanks.length ≠ need)) ||
    map.any fun m => m.rsvd || !(x.mem.any fun r => r.1 == m.holder) ||
      (m.present && m.holder == x.me && !inDevSpace m.addr m.len)))

/-- The channel refuses a GATHER or REGATHER. -/
def State.gatherBad (s : State) (d : CDesc) (plan : List Bytes) : Bool :=
  match plan with
  | [e] =>
    let l := oldOf e
    let total := boxUnits l.whole * l.elem
    l.bad || !s.lensNow l || (e.drop 0x40).any (· != 0) || l.split.any (fun a => !d.axmask.testBit a) ||
    !inDevSpace l.base (l.padded s.myPos) || (l.shdr != 0 && !inDevSpace l.shdr 32) || d.dst % 4 != 0 || !inDevSpace d.dst total ||
    !inDevSpace d.aux (32 * l.shards.length) || runsMeet (d.dst, total) (l.base, l.padded s.myPos)
  | _ => true

/-- What every Calving descriptor is checked for before its plan is read. -/
def State.calvBad (s : State) (d : CDesc) : Bool :=
  !s.rdb cCALV 0 hCTRL 0 || d.rsvd || (if d.moves then d.nbuf == 0 || decide (4096 < d.nbuf) else d.nbuf != 1) ||
  d.hdr % 128 != 0 || d.plan % 64 != 0 || !inDevSpace d.hdr 128 || !inDevSpace d.plan (128 * d.nbuf) || !d.stages.all s.maskOk ||
  (List.range 4).any (fun a => !d.axmask.testBit a && d.mem.getD a 0 != 0)

/-- The digest of a Calving (R314; log 24): BASE and SHDR, which are local, count as zero. -/
def CDesc.digest (d : CDesc) (plan : List Bytes) : Nat :=
  let z := plan.flatMap fun e => e.take 0x30 ++ bpad [] 16 ++ bslice e 0x40 0x30 ++ bpad [] 16
  crc32c (Config.digestBytes ([d.op, d.axmask, d.nbuf] ++ d.mem ++ [crc32c z]))

/-- The digest of an operation that has been taken. -/
def ChOp.calDigest (o : ChOp) : Nat := (cDescOf o.desc).digest o.cal.plan

/-! ### The result record (R331) -/

/-- The result record of an operation. -/
def ChOp.record (o : ChOp) (c : Nat) (commit : Bool) (tDone : Nat) : Bytes :=
  let r := o.cal
  let e := r.plan.headD []
  let epoch := if commit then (newOf e).epoch else (oldOf e).epoch
  let dec := match r.decided with | some (true, _) => 1 | some (false, _) => 2 | none => 0
  let reason := match r.decided with | some (_, x) => x | none => 0
  toLE 4 o.seq ++ toLE 1 c ++ toLE 1 o.op ++ toLE 1 dec ++ toLE 1 reason ++ toLE 8 r.bytesOut ++ toLE 8 r.bytesIn ++
  toLE 4 r.stagedN ++ toLE 4 (r.done.length - r.missing) ++ toLE 4 r.stale ++ toLE 4 r.missing ++ toLE 2 epoch ++ toLE 6 0 ++
  toLE 8 o.t0 ++ toLE 8 r.tDecide ++ toLE 8 tDone ++ bpad [] 56

/-! ### The fence (R323) -/

/-- Ranges that reductions in progress hold as referenced (R286). -/
def State.referenced (s : State) : List (Nat × Nat) :=
  s.red.flatMap fun e => (e.2.ops.filter fun o => (o.op == 1 || o.op == 2) && o.phase != .wait && o.status != some 0x10).flatMap
    fun o => (rDescOf o.desc).ranges

/-- Some of the runs is referenced. -/
def State.fenced (s : State) (rs : List (Nat × Nat)) : Bool := rs.any fun r => s.referenced.any (runsMeet r)

/-! ### The copy phase (R317, R318) -/

/-- Replaces the run of an operation. -/
def State.setCal (s : State) (c seq : Nat) (f : CalRun → CalRun) : State :=
  match s.opAt c seq with
  | some o => s.setOp c { o with cal := f o.cal }
  | none => s

/-- A step of the copy phase has failed. -/
def State.copyFail (s : State) (c seq reason : Nat) : State :=
  s.setCal c seq fun r => if r.fail.isSome then r else { r with fail := some reason, out := [], held := [] }

/-- The copy phase goes on at this rank. -/
def ChOp.copying (o : ChOp) : Bool :=
  o.phase == .calving && o.cal.fail.isNone && !o.cal.doneSent && o.cal.decided.isNone

/-- The operation's context at this rank; the map is held with the plan's end. -/
def State.opCtx (s : State) (o : ChOp) : CalCtx :=
  s.calCtx (cDescOf o.desc) (o.cal.map.map mapEntOf)

/-- Cuts bytes and poison along runs. -/
def cutRuns : List (Nat × Nat) → Bytes → List Bool → List (Nat × Bytes × List Bool)
  | [], _, _ => []
  | (a, n) :: r, d, p => (a, d.take n, p.take n) :: cutRuns r (d.drop n) (p.drop n)

/-- Splits runs into those outside and those inside some ranges, in order: start, bytes, inside. -/
def splitRuns (rs : List (Nat × Nat)) (olds : List (Nat × Nat)) : List (Nat × Nat × Bool) :=
  rs.flatMap fun r =>
    let out := minusRuns r olds
    let inn := minusRuns r out
    ((out.map fun u => (u.1, u.2, false)) ++ (inn.map fun u => (u.1, u.2, true))).mergeSort fun a b => decide (a.1 ≤ b.1)

/-- Where a received chunk is written: (NEW address, bytes, staged). -/
def CalCtx.places (x : CalCtx) (plan : List Bytes) (i : CalIn) : List (Nat × Nat × Bool) :=
  let e := plan.getD i.entry []
  let rs := ((x.from' e x.pos (i.off / 2 ^ x.log) i.src).2).map fun r => ((newOf e).base + r.1, r.2)
  let olds := x.olds plan
  if !(rs.any fun r => olds.any (runsMeet r)) then rs.map fun r => (r.1, r.2, false)
  else if x.stageWhole plan ≤ x.d.slen then rs.map fun r => (r.1, r.2, true)
  else splitRuns rs olds

/-- Gives the staged places their addresses in staging. -/
def stagePlaces (stage : Nat) : Nat → List (Nat × Nat × Bool) → List (Nat × Nat × Nat × Bool)
  | _, [] => []
  | at', (a, n, st) :: r => (a, if st then stage + at' else a, n, st) :: stagePlaces stage (if st then at' + n else at') r

/-- Notes poison that this rank has read: one Deferred record an operation (R321, R330). -/
def State.calvPoison (s : State) (c seq : Nat) (a : Nat) : State :=
  match s.opAt c seq with
  | some o =>
    let s := s.setOp c { o with pois := true, poisRec := true }
    if o.poisRec then s else s.recDef cRED c 0x03 (some a)
  | none => s

/-- The places where a chunk of a CALVE or LAND goes: NEW address, address written, bytes, staged; and the runs that the fence
tests (R323). -/
def State.chunkPlaces (s : State) (o : ChOp) (i : CalIn) : List (Nat × Nat × Nat × Bool) :=
  let x := s.opCtx o
  stagePlaces x.d.stage o.cal.stageAt (x.places o.cal.plan i)
def fenceRuns (ps : List (Nat × Nat × Nat × Bool)) : List (Nat × Nat) := ps.flatMap fun p => [(p.1, p.2.2.1), (p.2.1, p.2.2.1)]

/-- A chunk of a CALVE or LAND is written if the fence and the gates allow it, else it is kept (R317, R323). -/
def State.putChunk (s : State) (c : Nat) (o : ChOp) (i : CalIn) : State :=
  let x := s.opCtx o
  let ps := s.chunkPlaces o i
  let keep (s : State) (t : Option Nat) : State := s.setCal c o.seq fun r =>
    { r with held := (r.held.filter fun h => !(h.entry == i.entry && h.src == i.src && h.off == i.off)) ++ [{ i with held := t }] }
  if s.fenced (fenceRuns ps) then
    match i.held with
    | some t => keep s (some t)
    | none => keep (s.bump cCALV 0 CALV.FENCE_WAIT_CNT) (some s.clk.time)
  else
    let g := s.devGate (ps.map fun p => (p.2.1, p.2.2.1, true))
    if !g.1 then keep g.2 i.held
    else
      let w := (cutRuns (ps.map fun p => (p.2.1, p.2.2.1)) i.data i.pois).foldl (fun (acc : Bool × State) r =>
        let v := acc.2.devWriteP rqRed r.1 r.2.1 r.2.2
        (acc.1 && v.1, v.2)) (true, g.2)
      if !w.1 then w.2.copyFail c o.seq 2
      else
        let st := ps.filter (·.2.2.2)
        let s := w.2.setCal c o.seq fun r =>
          { r with held := r.held.filter fun h => !(h.entry == i.entry && h.src == i.src && h.off == i.off)
                   expect := r.expect.filter fun e => !(e.1 == i.entry && e.2.1 == i.src && e.2.2.1 == i.off)
                   staged := r.staged ++ st.map fun p => (p.1, p.2.1, p.2.2.1)
                   stageAt := r.stageAt + (st.map (·.2.2.1)).foldl (· + ·) 0
                   stagedN := r.stagedN + b2n (!st.isEmpty)
                   bytesIn := if i.src = x.me then r.bytesIn else r.bytesIn + i.data.length }
        if i.src = x.me then s
        else (s.bump64 cCALV 0 CALV.BYTES_IN i.data.length).redSend (.calvReceipt c i.src o.seq o.calDigest i.entry i.off)

/-- A chunk is read and sent if the fence and the gates allow it (R318 event 3, R323). -/
def State.sendChunk (s : State) (c seq : Nat) (k : CalOut) : State :=
  match s.opAt c seq with
  | none => s
  | some o =>
    if !o.copying then s
    else if s.fenced k.segs then
      if k.held.isSome then s
      else (s.bump cCALV 0 CALV.FENCE_WAIT_CNT).setCal c seq fun r =>
        { r with out := r.out.map fun y => if y = k then { k with held := some s.clk.time } else y }
    else
      let g := s.devGate (k.segs.map fun r => (r.1, r.2, false))
      if !g.1 then g.2
      else
        let r := k.segs.foldl (fun (acc : Rd × State) e =>
          let v := acc.2.devRead rqRed e.1 e.2
          (⟨acc.1.data ++ v.1.data, acc.1.pois ++ v.1.pois, acc.1.ok && v.1.ok⟩, v.2)) (⟨[], [], true⟩, g.2)
        if !r.1.ok then r.2.copyFail c seq 2
        else
          let s := if r.1.anyPois then r.2.calvPoison c seq (k.segs.headD (0, 0)).1 else r.2
          let me := s.myRank
          let s := s.setCal c seq fun x =>
            { x with out := x.out.filter (· ≠ k)
                     unacked := if k.dst = me then x.unacked else x.unacked ++ [(k.entry, k.dst, k.off)]
                     bytesOut := if k.dst = me then x.bytesOut else x.bytesOut + r.1.data.length }
          if k.dst = me then
            match s.opAt c seq with
            | some o => s.putChunk c o { entry := k.entry, src := me, off := k.off, data := r.1.data, pois := r.1.pois }
            | none => s
          else
            (s.bump64 cCALV 0 CALV.BYTES_OUT r.1.data.length).redSend
              (.calvChunk c k.dst seq o.calDigest k.entry k.off r.1.data r.1.pois none)

/-! ### Agreement, decision, commit (R318, R319) -/

/-- The decision has reached this rank: it goes down the tree; the copy phase is over. -/
def State.takeDecision (s : State) (c : Nat) (o : ChOp) (commit : Bool) (reason : Nat) : State :=
  let s := s.setOp c { o with cal := { o.cal with decided := some (commit, reason), tDecide := s.clk.time, out := [], held := [] } }
  s.sendAll (o.kids.map fun k => .calvDecision c k.rank o.seq o.calDigest reason commit)

/-- The root decides (R318 event 6). -/
def State.rootDecide (s : State) (c : Nat) (o : ChOp) (commit : Bool) (reason : Nat) : State :=
  let s := (s.wr cCALV 0 CALV.LAST_DECISION (u32 ((if commit then 1 else 2) * 2 ^ 30 + c % 64 * 2 ^ 24 + reason % 256 * 65536))).wr
    cCALV 0 CALV.LAST_DEC_SEQ (u32 o.seq)
  s.takeDecision c o commit reason

/-- What this rank reports: OK or a reason; none while it cannot tell (R318 events 4 and 5). -/
def ChOp.verdict (o : ChOp) : Option (Bool × Nat) :=
  match o.cal.fail with
  | some r => some (false, r)
  | none =>
    match o.kids.findSome? fun k => match k.report with | some (false, r) => some r | _ => none with
    | some r => some (false, r)
    | none =>
      if o.cal.out.isEmpty && o.cal.unacked.isEmpty && o.cal.held.isEmpty && o.cal.expect.isEmpty &&
          o.kids.all (fun k => k.report.isSome) then some (true, 0)
      else none

/-- COPY_DONE goes up, or the root decides. -/
def State.calvReport (s : State) (c seq : Nat) : State :=
  match s.opAt c seq with
  | none => s
  | some o =>
    if o.phase != .calving || o.cal.doneSent || o.cal.decided.isSome then s
    else
      match o.verdict with
      | none => s
      | some (ok, r) =>
        let o := { o with cal := { o.cal with doneSent := true, fail := if ok then none else some r } }
        match o.parent with
        | none => s.rootDecide c o ok r
        | some p => (s.setOp c o).redSend (.calvCopyDone c p seq o.calDigest ok r)

/-- The accesses of event 7. -/
def ChOp.commitAccesses (o : ChOp) (commit : Bool) : List (Nat × Nat × Bool) :=
  ((cDescOf o.desc).hdr, 128, true) ::
  (if commit then
    (o.cal.staged.flatMap fun t => [(t.2.1, t.2.2, false), (t.1, t.2.2, true)]) ++
    ((o.cal.plan.filter fun e => (newOf e).shdr ≠ 0).map fun e => ((newOf e).shdr, 2, true))
   else [])

/-- Event 7: staged chunks go to their places and the shard headers have the new epoch, or staging is discarded; the
result record is written, ACK goes to the parent, the outcome is counted (R318, R320, R334). -/
def State.calvOutcome (s : State) (c : Nat) (o : ChOp) (commit : Bool) : State :=
  let s := if commit then
      let s := o.cal.staged.foldl (fun s t =>
        let r := s.devRead rqRed t.2.1 t.2.2
        (r.2.devWriteP rqRed t.1 r.1.data r.1.pois).2) s
      (o.cal.plan.filter fun e => (newOf e).shdr ≠ 0).foldl (fun s e => s.devWrite rqRed (newOf e).shdr (toLE 2 (newOf e).epoch)) s
    else s
  let s := s.devWrite rqRed (cDescOf o.desc).hdr (o.record c commit s.clk.time)
  let s := if commit then (s.bump cCALV 0 CALV.COMMIT_CNT).irq cCALV 0 1
    else ((s.bump cCALV 0 CALV.ABORT_CNT).irq cCALV 0 2).recUC cRED c 0x0B (some o.idx)
  s.sendAll (o.parent.toList.map fun p => .calvAck c p o.seq o.calDigest)

/-- A decided operation performs event 7 once its accesses can be made. -/
def State.calvFinish (s : State) (c seq : Nat) : State :=
  match s.opAt c seq with
  | none => s
  | some o =>
    match o.cal.decided with
    | some (commit, _) =>
      if o.phase != .calving then s
      else
        let g := s.devGate (o.commitAccesses commit)
        if !g.1 then g.2
        else (g.2.calvOutcome c o commit).setOp c { o with phase := .down, tRes := s.clk.time, cal := { o.cal with staged := [] } }
    | none => s

/-- A CALVE or LAND that has performed event 7 is complete once every child has acknowledged or is orphaned. -/
def State.calvClose (s : State) (c seq : Nat) : State :=
  match s.opAt c seq with
  | some o =>
    if o.isMove && o.phase == .down && o.status.isNone && o.kids.all (fun k => k.acked || k.orphan) then
      s.setOp c { o with status := some (if o.cal.decided.any (·.1) then b2n o.pois else 9) }
    else s
  | none => s

/-- Carries a CALVE or LAND on as far as it can go. -/
def State.movePump (s : State) (c seq : Nat) : State :=
  match s.opAt c seq with
  | none => s
  | some o =>
    let s := if o.copying then o.cal.held.foldl (fun s i => match s.opAt c seq with
      | some o => if o.copying then s.putChunk c o i else s
      | none => s) s else s
    let s := if o.copying then o.cal.out.foldl (fun s k => s.sendChunk c seq k) s else s
    ((s.calvReport c seq).calvFinish c seq).calvClose c seq

/-! ### Gathers (R327–R330) -/

/-- The rank that sends shard i: the member of lowest rank that holds it. -/
def CalCtx.shardSrc (x : CalCtx) (l : Layout) (cs : List Nat) : Option Nat :=
  (x.mem.find? fun m => (List.range l.ndim).map (l.partOf m.2) == cs).map (·.1)

/-- The index of this rank's shard. -/
def CalCtx.myShard (x : CalCtx) (l : Layout) : Nat :=
  let cs := (List.range l.ndim).map (l.partOf x.pos)
  (l.shards.findIdx? (· == cs)).getD 0

/-- The runs of a shard in the whole tensor at `dst`. -/
def Layout.dstRuns (l : Layout) (dst : Nat) (box : List (Nat × Nat)) : List (Nat × Nat) :=
  mergeRuns ((List.range (boxUnits box)).map fun j => (dst + (unitOff l.whole (unitIdx box j)).getD 0 * l.elem, l.elem))

/-- A gather record (R328). -/
def gatherRec (epoch rank flags upd check : Nat) : Bytes := toLE 2 epoch ++ toLE 2 rank ++ toLE 4 flags ++ toLE 8 upd ++ toLE 8 check ++ bpad [] 8

/-- The check-value unit of the gathers. -/
def State.gatherCvu (s : State) : Nat := s.rdf cCALV 0 CALV.CHECK_CFG 0 2

/-- Parts of a shard as chunks: offset, bytes, poison, whether it is the last. -/
def shardChunks (n : Nat) (d : Bytes) (p : List Bool) : List (Nat × Bytes × List Bool × Bool) :=
  let ds := piecesOf n d.length d
  let ps := piecesOf n d.length p
  (indexed (ds.zip ps)).map fun e => (n * e.2, e.1.1, e.1.2, e.2 + 1 == ds.length)

/-- EPOCH and UPDATE_CNT of a shard header, with the state after its read; free values where the layout names none. -/
def State.shardVersion (s : State) (l : Layout) : (Nat × Nat) × State :=
  if l.shdr = 0 then
    let a := s.free
    let b := a.2.free
    ((a.1.toNat % 65536, b.1.toNat), b.2)
  else
    let r := s.devRead rqRed l.shdr 16
    ((bfield r.1.data 0 2, bfield r.1.data 8 8), r.2)

/-- The source of a shard reads it, computes its check value and sends it (R327, R396). -/
def State.sendShard (s : State) (c seq : Nat) : State :=
  match s.opAt c seq with
  | none => s
  | some o =>
    let n := s.gatherCvu
    if o.cal.out.isEmpty || !s.on (90 + n / 2) || (s.scanOf n).isSome then s
    else
      let x := s.opCtx o
      let l := oldOf (o.cal.plan.headD [])
      let g := s.devGate [(l.base, l.bytes x.pos, false), (l.shdr, if l.shdr = 0 then 0 else 32, false)]
      if !g.1 then g.2
      else
        let r := g.2.devRead rqRed l.base (l.bytes x.pos)
        let v := r.2.shardVersion l
        let chk := v.2.cvuCrc n r.1.data
        let s := if r.1.anyPois then v.2.calvPoison c seq l.base else v.2
        let i := x.myShard l
        let others := x.mem.filter fun m => m.1 != x.me
        let s := (s.wrb cCVU n hSTAT 2 true).setCal c seq fun k =>
          { k with out := [], cvu := some n, bytesOut := k.bytesOut + others.length * r.1.data.length
                   held := k.held ++ [{ entry := i, src := x.me, off := 0, data := r.1.data, pois := r.1.pois, ver := some (v.1.1, v.1.2, chk) }] }
        let s := s.bump64 cCALV 0 CALV.BYTES_OUT (others.length * r.1.data.length)
        s.sendAll (others.flatMap fun m => (shardChunks (2 ^ x.log) r.1.data r.1.pois).map fun e =>
          .calvChunk c m.1 seq o.calDigest i e.1 e.2.1 e.2.2.1 (if e.2.2.2 then some (v.1.1, v.1.2, chk) else none))

/-- A stored gather record: EPOCH, UPDATE_CNT, CHECK, the other fields; poison of the record cannot be carried (R490). -/
def State.storedRec (s : State) (c : Nat) (a : Nat) : Option Bytes × State :=
  let r := s.devRead rqRed a 32
  if !r.1.ok then (none, r.2) else if r.1.anyPois then (none, r.2.recUC cRED c 0x0E (some a)) else (some r.1.data, r.2)

/-- A shard is done: missing, matching, or handled under STALE_POLICY; its record is written (R328–R330). -/
def State.placeShard (s : State) (c : Nat) (o : ChOp) (i : CalIn) : State :=
  let x := s.opCtx o
  let l := oldOf (o.cal.plan.headD [])
  let cs := l.shards.getD i.entry []
  let runs := l.dstRuns x.d.dst (l.shardBox cs)
  let ra := x.d.aux + 32 * i.entry
  let g := s.devGate ((runs.map fun r => (r.1, r.2, true)) ++ [(ra, 32, true)])
  if !g.1 then
    g.2.setCal c o.seq fun r => if r.held.any (·.entry == i.entry) then r else { r with held := r.held ++ [i] }
  else
    let put (s : State) (d : Bytes) (p : List Bool) : State :=
      (cutRuns runs d p).foldl (fun s r => (s.devWriteP rqRed r.1 r.2.1 r.2.2).2) s
    let regather := o.op == 0x13
    let s := g.2
    let drop (r : CalRun) : CalRun := { r with held := r.held.filter (·.entry != i.entry), done := r.done ++ [i.entry] }
    match i.ver with
    | none =>
      let n := runBytes runs
      let s := put s (bpad [] n) (List.replicate n false)
      let old : Option Bytes × State := if regather then s.storedRec c ra else (none, s)
      let rec' := match old.1 with
        | some b => b.take 4 ++ toLE 4 (bfield b 4 4 ||| 8) ++ bslice b 8 24
        | none => gatherRec 0 ((x.shardSrc l cs).getD 0) 8 0 0
      let s := (old.2.devWrite rqRed ra rec').setCal c o.seq fun r => { drop r with missing := r.missing + 1 }
      (s.bump cCALV 0 CALV.MISSING_CNT).recUC cRED c 0x0B (some i.entry)
    | some (ep, upd, chk) =>
      let pois := i.pois.any id
      let s := if pois then s.calvPoison c o.seq (runs.headD (0, 0)).1 else s
      let old : Option Bytes × State := if regather then s.storedRec c ra else (none, s)
      let same := match old.1 with
        | some b => bfield b 0 2 == ep && bfield b 8 8 == upd && bfield b 0x10 8 == chk
        | none => !regather
      let ok := ep == l.epoch && same
      let accept := s.rdb cCALV 0 CALV.CHECK_CFG 8
      let pf := 4 * b2n pois
      let s := if ok || accept then put old.2 i.data i.pois else old.2
      let fresh (st : Nat) : Bytes := gatherRec ep i.src (1 + st + pf) upd chk
      let rec' := match old.1 with
        | some b => if ok then b.take 4 ++ toLE 4 (bfield b 4 4 ||| pf) ++ bslice b 8 24
                    else if accept then fresh 2 else b.take 4 ++ toLE 4 (bfield b 4 4 ||| (2 + pf)) ++ bslice b 8 24
        | none => fresh (if ok then 0 else 2)
      let s := s.devWrite rqRed ra rec'
      let s := s.setCal c o.seq fun r => { drop r with stale := r.stale + b2n (!ok)
                                                       bytesIn := if i.src = x.me then r.bytesIn else r.bytesIn + i.data.length }
      let s := if i.src = x.me then s else s.bump64 cCALV 0 CALV.BYTES_IN i.data.length
      if ok then s
      else
        let s := (s.bump cCALV 0 CALV.STALE_CNT).irq cCALV 0 8
        let s := s.setCal c o.seq fun r => { r with fail := some (max (r.fail.getD 0) (if accept then 6 else 5)) }
        if accept then s.recCE cRED c 0x0D (some i.entry) else s.recUC cRED c 0x0B (some i.entry)

/-- Status of a gather: the highest that applies. -/
def ChOp.gatherStatus (o : ChOp) : Nat :=
  max (o.cal.fail.getD 0) (if o.pois then 3 else if o.cal.missing ≠ 0 then 2 else 0)

/-- A gather whose shards are all done writes its record and is complete. -/
def State.gatherClose (s : State) (c seq : Nat) : State :=
  match s.opAt c seq with
  | none => s
  | some o =>
    let l := oldOf (o.cal.plan.headD [])
    if !o.cal.out.isEmpty || !o.cal.held.isEmpty || o.cal.done.length < l.shards.length then s
    else
      let g := s.devGate [((cDescOf o.desc).hdr, 128, true)]
      if !g.1 then g.2
      else
        let s := g.2.devWrite rqRed (cDescOf o.desc).hdr (o.record c false s.clk.time)
        let s := s.setOp c { o with phase := .down, status := some o.gatherStatus }
        let s := if o.cal.missing = 0 then s else s.irq cCALV 0 4
        match o.cal.cvu with | some n => s.leaveCvu n | none => s

/-- Carries a gather on as far as it can go. -/
def State.gatherPump (s : State) (c seq : Nat) : State :=
  let s := s.sendShard c seq
  match s.opAt c seq with
  | none => s
  | some o =>
    let s := o.cal.held.foldl (fun s i => match s.opAt c seq with | some o => s.placeShard c o i | none => s) s
    s.gatherClose c seq

/-- Carries a Calving on. -/
def State.calvPump (s : State) (c seq : Nat) : State :=
  match s.opAt c seq with
  | some o =>
    if o.op < 0x10 || o.status.isSome || !(o.phase == .calving || o.phase == .down) then s
    else if o.isMove then s.movePump c seq else s.gatherPump c seq
  | none => s

/-! ### Messages -/

/-- A message with another digest (R285): counted and recorded; the sender's subtree, or this rank's own copy phase, is
not OK with REASON 0x03. -/
def State.calvMismatch (s : State) (c : Nat) (o : ChOp) (src : Nat) : State :=
  let s := s.mismatchNote c src
  if !o.isMove then s
  else
    match o.kids.find? fun k => k.rank == src with
    | some k => if k.report.isSome then s else s.setOp c (o.setKid { k with report := some (false, 3) })
    | none => s.copyFail c o.seq 3

/-- A Calving message with another SEQ than those of the operations in progress or to come (R285): the sender's subtree is late
for the reductions that wait for it, and not OK in the agreement of a CALVE or LAND that waits for its report. -/
def State.wrongCalv (s : State) (c src : Nat) : State :=
  (s.redOf c).ops.foldl (fun s o =>
    match s.opAt c o.seq with
    | some o =>
      match o.kids.find? fun k => k.rank == src && k.report.isNone with
      | some k => if o.isMove && o.phase == .calving then (s.setOp c (o.setKid { k with report := some (false, 3) })).calvPump c o.seq else s
      | none => s
    | none => s) (s.wrongSeq c src)

/-- A message reaches a started operation. -/
def State.calvTo (s : State) (c : Nat) (o : ChOp) (m : RedMsg) : State :=
  match m with
  | .chunk src dg entry off data pois ver =>
    if dg ≠ o.calDigest then s.calvMismatch c o src
    else if o.isMove then
      if !o.copying || !o.cal.expect.contains (entry, src, off, data.length) ||
          o.cal.held.any (fun h => h.entry == entry && h.src == src && h.off == off) then s
      else s.putChunk c o { entry := entry, src := src, off := off, data := data, pois := pois }
    else if o.phase != .calving || o.cal.done.contains entry || o.cal.held.any (·.entry == entry) then s
    else
      let got := (mget none o.cal.shards entry).getD ([], [])
      if got.1.length ≠ off then s
      else
        let d := (got.1 ++ data, got.2 ++ pois)
        match ver with
        | none => s.setCal c o.seq fun r => { r with shards := mset none r.shards entry (some d) }
        | some v =>
          let s := s.setCal c o.seq fun r => { r with shards := mset none r.shards entry none }
          match s.opAt c o.seq with
          | some o => s.placeShard c o { entry := entry, src := src, off := 0, data := d.1, pois := d.2, ver := some v }
          | none => s
  | .copyDone src dg ok reason =>
    if dg ≠ o.calDigest then s.calvMismatch c o src
    else
      match o.kids.find? fun k => k.rank == src with
      | some k => if k.report.isSome then s else s.setOp c (o.setKid { k with report := some (ok, reason) })
      | none => s.redMismatch c none src
  | .decision src dg reason commit =>
    if dg ≠ o.calDigest then s.calvMismatch c o src
    else if o.phase == .calving && o.cal.decided.isNone then s.takeDecision c o commit reason else s
  | .join src _ | .ready src _ | .drop src _ _ => s.calvMismatch c o src

/-- A Calving message on channel c. -/
def State.calvMsg (s : State) (c src seq : Nat) (m : RedMsg) : State :=
  s.redMsg c seq (some m)
    (fun s o =>
      if o.op < 0x10 then (s.redMismatch c (some o) src).redPump c seq
      else if o.phase == .wait then let x := s.redOf c; s.setRed c { x with held := x.held ++ [(seq, m)] }
      else (s.calvTo c o m).calvPump c seq) (·.wrongCalv c src)

/-! ### Starts (R315, R318, R324) -/

/-- Messages that came before the start reach the operation; then it goes on. -/
def State.calvStarted (s : State) (c seq : Nat) : State :=
  (s.deliverHeld c seq fun s o m => s.calvTo c o m).calvPump c seq

/-- The OLD, NEW and staging ranges of a CALVE or LAND on this rank. -/
def State.moveRanges (s : State) (o : ChOp) : List (Nat × Nat) :=
  let x := s.opCtx o
  x.olds o.cal.plan ++ x.news o.cal.plan ++ (if x.d.slen = 0 then [] else [(x.d.stage, x.d.slen)])

/-- The start of a CALVE or LAND. -/
def State.moveStart (s : State) (c : Nat) (o : ChOp) : State :=
  let x := s.opCtx o
  let r := o.cal
  let fail : Option Nat := if x.d.op = 0x11 && x.orphans r.plan then some 4 else none
  let s := s.setOp c { o with phase := .calving, t0 := s.clk.time, cal := { r with
    ranges := s.moveRanges o
    out := if fail.isSome then [] else x.outs r.plan, expect := if fail.isSome then [] else x.expects r.plan, fail := fail } }
  s.calvStarted c o.seq

/-- The start of a GATHER or REGATHER. -/
def State.calvGatherStart (s : State) (c : Nat) (o : ChOp) : State :=
  let x := s.opCtx o
  let l := oldOf (o.cal.plan.headD [])
  let mine := x.shardSrc l ((List.range l.ndim).map (l.partOf x.pos)) == some x.me
  let s := s.setOp c { o with phase := .calving, t0 := s.clk.time, cal := { o.cal with
    out := if mine then [{ entry := x.myShard l, dst := x.me, off := 0, segs := [] }] else [] } }
  s.calvStarted c o.seq

/-- Ranges of a gather, which R324 compares. -/
def State.gatherRanges (s : State) (o : ChOp) : List (Nat × Nat) :=
  let d := cDescOf o.desc
  let l := oldOf (o.cal.plan.headD [])
  [(l.base, l.padded s.myPos), (d.dst, boxUnits l.whole * l.elem), (d.aux, 32 * l.shards.length), (d.hdr, 128)]

/-- Some other CALVE or LAND of the device has started and is not complete (R315). -/
def State.moveBusy (s : State) : Bool := s.calving.any fun e => e.2.isMove

/-- The start of a channel's first operation that has not started, when it is a Calving and its turn has come. -/
def State.calvStartNext (s : State) (c : Nat) : State :=
  let x := s.redOf c
  if x.halted || s.rdb cRED c hFREEZE 0 then s
  else
    match x.ops.find? fun o => o.phase == .wait && o.status.isNone with
    | none => s
    | some o =>
      if o.op < 0x10 then s
      else if o.isMove then
        if (x.ops.head?.map (·.seq)) ≠ some o.seq || s.firn.phase == .cutWait then s
        else if s.moveBusy then
          if !o.fenced && (s.moveRanges o).any (fun r => (s.calvRanges c).any (runsMeet r)) then
            (s.bump cCALV 0 CALV.FENCE_HOLD_CNT).setOp c { o with fenced := true }
          else s
        else s.moveStart c o
      else if (x.ops.takeWhile (·.seq != o.seq)).any (·.isMove) then s
      else if (s.gatherRanges o).any fun r => (s.calvRanges c).any (runsMeet r) then
        if o.fenced then s else (s.bump cCALV 0 CALV.FENCE_HOLD_CNT).setOp c { o with fenced := true }
      else s.calvGatherStart c o

/-- Starts operations of a channel in SEQ order as long as one can start. -/
def State.chanStart (s : State) (c : Nat) : State := (List.range 4).foldl (fun s _ => (s.startNext c).calvStartNext c) s

/-- Every operation of a channel goes on as far as it can. -/
def State.chanGo (s : State) (c : Nat) : State :=
  ((s.redOf c).ops.map (·.seq)).foldl (fun s q => (s.redPump c q).calvPump c q) (s.chanStart c)

/-! ### Taking a Calving descriptor -/

/-- Reads the plan and, for a LAND, the source map of the old machine that its first entry names: nothing while the map cannot be
read yet, else what was read, or that it cannot be used. -/
def State.readPlan (s : State) (d : CDesc) : Option (Option (List Bytes × List Bytes)) × State :=
  let r := s.devRead rqRed d.plan (128 * d.nbuf)
  if !r.1.ok || r.1.anyPois then (some none, r.2)
  else
    let plan := chunksOf 128 d.nbuf r.1.data
    if d.op ≠ 0x11 then (some (some (plan, [])), r.2)
    else
      let n := (oldOf (plan.headD [])).oldRanks.length
      let g := r.2.devGate [(d.aux, 32 * n, false)]
      if !g.1 then (none, g.2)
      else
        let m := g.2.devRead rqRed d.aux (32 * n)
        (some (if !m.1.ok || m.1.anyPois then none else some (plan, chunksOf 32 n m.1.data)), m.2)

/-- A refused Calving (R304, R332): it takes its SEQ and completes with 0x10; as its place in the agreement fails, its
parent hears REASON 0x03 and its children an abort with it (a gather's members miss its shard). -/
def State.calvRefuse (s : State) (c h : Nat) (d : CDesc) (plan : List Bytes) (cause : Nat) (b : Bytes) : State :=
  let seq := (s.rd cRED c RED.NEXT_SEQ).toNat
  let s := ((s.bump cCALV 0 CALV.DESC_ERR_CNT).irq cCALV 0 32).chRefuse c h d.op cause (d.flags / 128 % 2 == 1) b
  if !d.moves then s
  else
    let t := s.treeOf d.stages 0 0
    let s := match t.2 with
      | some (p, _) => s.redSend (.calvCopyDone c p seq (d.digest plan) false 3)
      | none => (s.wr cCALV 0 CALV.LAST_DECISION (u32 (2 ^ 31 + c % 64 * 2 ^ 24 + 3 * 65536))).wr cCALV 0 CALV.LAST_DEC_SEQ (u32 seq)
    s.sendAll (t.1.map fun k => .calvDecision c k.rank seq (d.digest plan) 3 false)

/-- The channel takes the descriptor at the head of its ring when it is a Calving of `op`. -/
def State.calvTake (s0 : State) (c op : Nat) : State :=
  s0.chHead c fun s h b =>
    match b with
    | none => s0
    | some b =>
      let d := cDescOf b
      if d.op ≠ op then s0
      else if s.calvBad d then s.calvRefuse c h d [] 0x01 b
      else
        let g := s.devGate [(d.plan, 128 * d.nbuf, false)]
        if !g.1 then g.2
        else
          let r := g.2.readPlan d
          match r.1 with
          | none => r.2
          | some none => r.2.calvRefuse c h d [] 0x0E b
          | some (some (plan, map)) =>
            if (if d.moves then r.2.moveBad d plan (map.map mapEntOf) else r.2.gatherBad d plan) then r.2.calvRefuse c h d plan 0x01 b
            else
              let t := if d.moves then r.2.treeOf d.stages 0 0 else ([], none)
              let s := r.2.chTake c h { seq := 0, idx := h, op := d.op, irq := d.flags / 128 % 2 == 1, desc := b
                                        kids := t.1.map fun k => { k with joined := true }, parent := t.2.map (·.1)
                                        cal := { plan := plan, map := map } }
              s.chanGo c

/-- CALVE (R318). -/
def execCalve (c : Nat) (s : State) : Res := .next (s.calvTake c 0x10)

/-- LAND (R326). -/
def execLand (c : Nat) (s : State) : Res := .next (s.calvTake c 0x11)

/-- CALV_GATHER (R327). -/
def execCalvGather (c : Nat) (s : State) : Res := .next (s.calvTake c 0x12)

/-- REGATHER (R329). -/
def execRegather (c : Nat) (s : State) : Res := .next (s.calvTake c 0x13)

/-! ### Messages in -/

/-- CALV_CHUNK (R317, R318, R327). -/
def execCalvChunk (c src seq digest entry off : Nat) (data : Bytes) (pois : List Bool) (ver : Option (Nat × Nat × Nat)) (s : State) : Res :=
  .next (s.calvMsg c src seq (.chunk src digest entry off data pois ver))

/-- COPY_DONE (R318 event 5). -/
def execCopyDone (c src seq digest : Nat) (ok : Bool) (reason : Nat) (s : State) : Res :=
  .next (s.calvMsg c src seq (.copyDone src digest ok reason))

/-- CALV_DECISION (R318 events 6 and 7). -/
def execCalvDecision (c src seq digest reason : Nat) (commit : Bool) (s : State) : Res :=
  .next (s.calvMsg c src seq (.decision src digest reason commit))

/-- CALV_ACK (R318): the receipt of a chunk, or a child's ACK of the decision. -/
def execCalvAck (c src seq digest : Nat) (chunk : Option (Nat × Nat)) (s : State) : Res :=
  .next <| s.redMsg c seq none
    (fun s o =>
      if o.op < 0x10 then (s.redMismatch c (some o) src).redPump c seq
      else if digest ≠ o.calDigest then (s.calvMismatch c o src).calvPump c seq
      else match chunk with
      | some (entry, off) =>
        (s.setCal c seq fun r => { r with unacked := r.unacked.filter (· ≠ (entry, src, off)) }).calvPump c seq
      | none =>
        match o.kids.find? fun k => k.rank == src with
        | some k => (s.setOp c (o.setKid { k with acked := true })).calvPump c seq
        | none => s) (·.wrongCalv c src)

/-! ### Time -/

/-- Does something to every operation of a channel that the block can serve. -/
def State.eachOp (s : State) (c : Nat) (f : State → ChOp → State) : State :=
  if !s.live || !decide (c < 64) then s
  else ((s.redOf c).ops.map (·.seq)).foldl (fun s q => match s.opAt c q with | some o => f s o | none => s) s

/-- COPY_TMO_EXPIRE (R318 events 4 and 5). -/
def execCopyTmoExpire (c : Nat) (s : State) : Res :=
  .next <| s.eachOp c fun s o =>
    if !o.isMove || o.phase != .calving || o.cal.doneSent || o.cal.decided.isSome ||
        !decide (o.t0 + s.rdf cCALV 0 CALV.COPY_TMO 0 24 ≤ s.clk.time) then s
    else
      let kids := o.kids.map fun k => if k.report.isNone then { k with report := some (false, 2) } else k
      let done := o.cal.out.isEmpty && o.cal.unacked.isEmpty && o.cal.held.isEmpty && o.cal.expect.isEmpty
      let s := s.setOp c { o with kids := kids }
      (if done then s else s.copyFail c o.seq 2).calvPump c o.seq

/-- DECIDE_TMO_EXPIRE (R319, R322), counted from T0: a rank that reported OK and has no decision is in doubt; its channel halts. -/
def execDecideTmoExpire (c : Nat) (s : State) : Res :=
  .next <| s.eachOp c fun s o =>
    if !o.isMove || o.phase != .calving || !o.cal.doneSent || o.cal.fail.isSome || o.cal.decided.isSome ||
        !decide (o.t0 + s.rdf cCALV 0 CALV.DECIDE_TMO 0 24 ≤ s.clk.time) then s
    else
      let s := s.setOp c { o with phase := .down, status := some 8 }
      let s : State := { s.setRed c { s.redOf c with halted := true } with doubt := s.doubt ++ [⟨c, o⟩] }
      (((s.bump cCALV 0 CALV.INDOUBT_CNT).irq cCALV 0 16).irq cRED c 32).recUC cRED c 0x0B (some o.idx)

/-- A rank in doubt performs the outcome that software has resolved, once its accesses can be made (R322). -/
def State.doubtGo (s : State) (x : DoubtSt) : State :=
  match x.op.cal.decided with
  | some (commit, _) =>
    let g := s.devGate (x.op.commitAccesses commit)
    if !g.1 then g.2
    else { g.2.calvOutcome x.chan x.op commit with doubt := g.2.doubt.filter (· ≠ x) }
  | none => s

/-- Every rank's operation in doubt that is resolved goes on. -/
def State.doubtsGo (s : State) : State := s.doubt.foldl (fun s x => s.doubtGo x) s

/-- FENCE_RELEASE (R323, R324): what the fence held, or a controller, is tried again on every channel. -/
def execFenceRelease (c : Nat) (s : State) : Res :=
  .next <| if s.live && decide (c < 64) then (s.chanGo c).doubtsGo else s

/-- FENCE_TMO_EXPIRE (R323): a chunk is still referenced FENCE_TMO after it was first asked for. -/
def execFenceTmoExpire (c : Nat) (s : State) : Res :=
  .next <| s.eachOp c fun s o =>
    let due (t : Option Nat) : Bool := t.any fun t => decide (t + s.rdf cCALV 0 CALV.FENCE_TMO 0 24 ≤ s.clk.time)
    if o.isMove && o.copying && (o.cal.out.any (fun k => due k.held && s.fenced k.segs) ||
        o.cal.held.any (fun k => due k.held && s.fenced (fenceRuns (s.chunkPlaces o k)))) then
      (s.copyFail c o.seq 1).calvPump c o.seq
    else s

/-- GATHER_SHARD_DEADLINE (R330): shards that have not arrived by DEADLINE after T0 are missing. -/
def execGatherShardDeadline (c : Nat) (s : State) : Res :=
  .next <| s.eachOp c fun s o =>
    if (o.op != 0x12 && o.op != 0x13) || o.phase != .calving || o.status.isSome ||
        !decide (o.t0 + s.rdf cRED c RED.DEADLINE 0 24 ≤ s.clk.time) then s
    else
      let n := (oldOf (o.cal.plan.headD [])).shards.length
      let gone := (List.range n).filter fun i => !o.cal.done.contains i && !o.cal.held.any (·.entry == i)
      (s.setCal c o.seq fun r =>
        { r with out := [], shards := []
                 held := r.held ++ gone.map fun i => ({ entry := i, src := 0, off := 0, data := [], pois := [] } : CalIn) }).calvPump c o.seq

/-! ### RESOLVE (R322) -/

/-- A write of RESOLVE. -/
def State.resolve (s : State) (commit : Bool) : State :=
  if s.doubt.isEmpty then s.recUC cCALV 0 0x01
  else
    let d := s.doubt.map fun (x : DoubtSt) => if x.op.cal.decided.isSome then x else
      { x with op := { x.op with cal := { x.op.cal with decided := some (commit, if commit then 0 else 5), tDecide := s.clk.time } } }
    let s : State := { s with doubt := d }
    s.doubtsGo

/-- RESOLVE_COMMIT (R322). -/
def execResolveCommit (m : Nat) (s : State) : Res := .next <| s.ownerWrite m cCALV 0 CALV.RESOLVE false (·.resolve true)

/-- RESOLVE_ABORT (R322). -/
def execResolveAbort (m : Nat) (s : State) : Res := .next <| s.ownerWrite m cCALV 0 CALV.RESOLVE false (·.resolve false)

/-! ### What a channel does for both kinds -/

/-- GATE_POLL (R287). -/
def execGatePoll (c : Nat) (s : State) : Res := .next <| if s.live && decide (c < 64) then s.chanGo c else s

/-- RESULT_TMO_EXPIRE (R300): a holder stops waiting for its children; a rank without the result fails. -/
def execResultTmoExpire (c : Nat) (s : State) : Res :=
  .next <| s.eachOp c fun s o =>
    if o.status.isSome then s
    else match o.phase with
      | .down =>
        if decide (o.tRes + s.rdf cRED c RED.RESULT_TMO 0 24 ≤ s.clk.time) then
          ((s.orphanKids c o).redPump c o.seq).calvPump c o.seq
        else s
      | .agree | .data | .up => if decide (s.resultDue c o ≤ s.clk.time) then s.redFail c o else s
      | _ => s

/-- RED_OP_COMPLETE (R284): operations of the channel go on, and those that are done complete in SEQ order; a head
descriptor that no operation takes is refused (R304). -/
def execRedOpComplete (c : Nat) (s0 : State) : Res :=
  .next <|
    if !s0.live || !decide (c < 64) then s0
    else
      let s1 := ((chCompleteAll c 4 (s0.chanGo c)).chanStart c).doubtsGo
      s1.chHead c fun s h b =>
        match b with
        | none => s.chRefuse c h 0 0x0E false []
        | some b =>
          let op := bfield b 0 1
          if op = 1 ∨ op = 2 ∨ (0x10 ≤ op ∧ op ≤ 0x13) then s1
          else
            let s := if 0x14 ≤ op ∧ op ≤ 0x1F then (s.bump cCALV 0 CALV.DESC_ERR_CNT).irq cCALV 0 32 else s
            s.chRefuse c h op 0x01 (bfield b 3 1 / 128 % 2 == 1) b

end Sys2Proof.Machine
end

