-- ==== Sys2Proof/Machine/Firn.lean ====
section
/-! DEFINITION. Firn (R335–R373): chunk records, check values and the root, streaming, seals, the keeper's part, restores,
rollbacks, exports, and the commands of slots A and K. -/
namespace Sys2Proof.Machine

/-- Firn instance n is requester 6 of the stacks of its Floe (R335, R378). -/
def rqFirn (n : Nat) : Rq := ⟨n, 6⟩

/-- The commands' unit at the Oplis egress (R432). -/
abbrev firnUnit : Nat := 4

/-! ### Chunk records (R343–R347) -/

/-- CRC-64 of R346 over content, address and version epoch. -/
def chunkCheck (b : Bytes) (addr vepoch : Nat) : W64 :=
  u64 (crcGen 64 0x42F0E1EBA9EA3693 0xFFFFFFFFFFFFFFFF 0xFFFFFFFFFFFFFFFF true true (b ++ toLE 8 addr ++ toLE 8 vepoch))

/-- Equal bytes at the front. -/
def runLen (x : Byte) : Bytes → Nat
  | [] => 0
  | y :: r => if y = x then runLen x r + 1 else 0

/-- Literal tokens of at most 128 bytes. -/
def litTokens : Nat → Bytes → Bytes
  | 0, _ => []
  | n + 1, l => if l.isEmpty then [] else
    let k := min 128 l.length
    BitVec.ofNat 8 (k - 1) :: l.take k ++ litTokens n (l.drop k)

/-- The device's encoder (R345): `lit` holds the bytes gathered for literals, last first. -/
def runEnc : Nat → Bytes → Bytes → Bytes
  | 0, lit, _ => litTokens (lit.length + 1) lit.reverse
  | n + 1, lit, b =>
    match b with
    | [] => litTokens (lit.length + 1) lit.reverse
    | x :: r =>
      let k := runLen x b
      if k < 3 then runEnc n (x :: lit) r
      else
        let k := min k (if x = 0 then 4096 else 114)
        let tok : Bytes := if x = 0 then [BitVec.ofNat 8 (0x80 + (k - 1) / 256), BitVec.ofNat 8 ((k - 1) % 256)]
          else [BitVec.ofNat 8 (0x8D + k), x]
        litTokens (lit.length + 1) lit.reverse ++ tok ++ runEnc n [] (b.drop k)

/-- Run tokens decoded (R345); none for a broken stream. -/
def runDec : Nat → Bytes → Option Bytes
  | 0, _ => none
  | n + 1, b =>
    match b with
    | [] => some []
    | c :: r =>
      if c.toNat < 0x80 then
        if r.length < c.toNat + 1 then none else (runDec n (r.drop (c.toNat + 1))).map (r.take (c.toNat + 1) ++ ·)
      else
        match r with
        | [] => none
        | x :: t =>
          if c.toNat < 0x90 then (runDec n t).map (List.replicate ((c.toNat - 0x80) * 256 + x.toNat + 1) 0 ++ ·)
          else (runDec n t).map (List.replicate (c.toNat - 0x8D) x ++ ·)

/-- Two contents XORed. -/
def xorBytes (a b : Bytes) : Bytes := List.zipWith (· ^^^ ·) a b

/-- 4,096 zero bytes: the base of the mirror link and of images (R344). -/
def zeroChunk : Bytes := List.replicate 4096 0

/-- Code and payload of a content coded against a base (R344). -/
def codeOn (base b : Bytes) : Nat × Bytes :=
  if b.all (· == 0) then (0, [])
  else if b = base then (3, [])
  else
    let d := xorBytes base b
    let r := runEnc (d.length + 1) [] d
    if r.length < 4096 then (1, r) else (2, d)

/-- Code and payload of a content coded against zero. -/
def codeChunk (b : Bytes) : Nat × Bytes := codeOn zeroChunk b

/-- The content that a code and a payload give on a base; none where they give none (R344, R345). -/
def contentOn (base : Bytes) (code : Nat) (payload : Bytes) : Option Bytes :=
  match code with
  | 0 => some zeroChunk
  | 1 => (runDec (payload.length + 1) payload).bind fun d => if d.length = 4096 then some (xorBytes base d) else none
  | 2 => if payload.length = 4096 then some (xorBytes base payload) else none
  | 3 => if base.all (· == 0) then none else some base
  | _ => none

/-- The record of a chunk's content. -/
def chunkRec (addr vepoch : Nat) (b : Bytes) (pois : Bool) : ChunkRec :=
  let c := codeChunk b
  { addr := addr, vepoch := vepoch, check := chunkCheck b addr vepoch, code := c.1, pois := pois, payload := c.2 }

/-- The content of a record coded against zero, if it decodes to 4,096 bytes and its check holds (R345, R346). -/
def recContent (r : ChunkRec) : Option Bytes :=
  match contentOn zeroChunk r.code r.payload with
  | some b => if chunkCheck b r.addr r.vepoch = r.check then some b else none
  | none => none

/-- Bytes of a record with its padding. -/
def recSize (r : ChunkRec) : Nat := 32 + alignUp r.payload.length 32

/-- A record as it stands in an image. -/
def recRaw (r : ChunkRec) : Bytes :=
  toLE 8 r.addr ++ toLE 8 r.vepoch ++ toLE 8 r.check.toNat ++ toLE 1 r.code ++ toLE 1 (b2n r.pois) ++ toLE 2 r.payload.length ++
  toLE 4 0 ++ bpad r.payload (alignUp r.payload.length 32)

/-- Bytes of some records. -/
def recBytes (l : List ChunkRec) : Nat := (l.map recSize).foldl (· + ·) 0

/-! ### Root and manifest (R348–R351) -/

/-- Granules of a range table in ascending order. -/
def granList (l : List (Nat × Nat)) : List Nat := l.flatMap fun e => (List.range e.2).map (e.1 / 65536 + ·)

/-- One level of the tree of R349: pairs that follow on each other; the last of an odd number passes. -/
def treeRound : List Bytes → List Bytes
  | a :: b :: r => hash32 (0x01#8 :: a ++ b) :: treeRound r
  | l => l

/-- The root of the leaves; `n` bounds the levels. -/
def treeRoot : Nat → List Bytes → Bytes
  | _, [] => bpad Config.emptyRoot 32
  | _, [a] => a
  | 0, a :: _ => a
  | n + 1, l => treeRoot n (treeRound l)

/-- The root over granules from the check value of each chunk. -/
def rootOf (chk : Nat → W64) (gs : List Nat) : Bytes :=
  treeRoot gs.length (gs.map fun g => hash32 (0x00#8 :: (List.range 16).flatMap fun i => toLE 8 (chk (16 * g + i)).toNat))

/-- Bytes of a range table. -/
def rangeBytes (l : List (Nat × Nat)) : Bytes := l.flatMap fun e => toLE 8 e.1 ++ toLE 8 e.2

/-- A range table from its bytes. -/
def rangesOf (n : Nat) (b : Bytes) : List (Nat × Nat) := (List.range n).map fun i => (bfield b (16 * i) 8, bfield b (16 * i + 8) 8)

/-- NRANGE, the ranges, the bytes that are signed, the signature, and the length of a manifest (R350). -/
def manN (m : Bytes) : Nat := bfield m 2 2
def manRanges (m : Bytes) : List (Nat × Nat) := rangesOf (manN m) (m.drop 256)
def manBody (m : Bytes) : Bytes := m.take (256 + 16 * manN m)
def manSig (m : Bytes) : Bytes := bslice m (256 + 16 * manN m) 2420
def manLen (n : Nat) : Nat := alignUp (256 + 16 * n + 2420) 64
def manEpoch (m : Bytes) : Nat := bfield m 8 8
def manRoot (m : Bytes) : Bytes := bslice m 0x40 32

/-- Start and length of a table of ranges are legal: aligned, in HBM, ascending, not overlapping, one granule at least (R337). -/
def rangesOk : Nat → List (Nat × Nat) → Bool
  | _, [] => true
  | lo, e :: r => decide (lo ≤ e.1) && e.1 % 65536 == 0 && e.2 != 0 && decide (e.1 + e.2 * 65536 ≤ hbmSize) && rangesOk (e.1 + e.2 * 65536) r

/-- Work area and mirror store. -/
def State.workArea (s : State) : Nat × Nat := (s.rd64 cFIRN 0 FIRN.WORK_BASE_LO % 2 ^ 48, s.rdf cFIRN 0 FIRN.WORK_LEN 0 24 * 65536)
def State.mirStore (s : State) : Nat × Nat := (s.rd64 cFIRN 0 FIRN.MSTORE_BASE_LO % 2 ^ 48, s.rdf cFIRN 0 FIRN.MSTORE_LEN 0 24 * 65536)

/-- A region of Firn's own takes contents that the spec leaves internal (R338, R342): every byte of it is free. -/
def State.firnFill (s : State) (r : Nat × Nat) : State :=
  let n := min r.2 (hbmSize - r.1)
  { s with fresh := s.fresh + n, hbm := { s.hbm with
    mem := setBytes s.hbm.mem r.1 ((List.range n).map fun i => (Config.freeW32 (s.fresh + i)).setWidth 8)
    chk := s.hbm.chk.filter fun e => !(decide (r.1 ≤ e.1 * 64) && decide (e.1 * 64 < r.1 + n)) } }

/-! ### Small readings and writings -/

/-- Firn instance n works. -/
def State.firnOn (s : State) (n : Nat) : Bool := s.on (86 + n)

/-- Bits of STAT that are stored: 1 PAIRED, 2 CUT, 6 PROT_CHANGED, 7 RESYNC_NEEDED, 8 KEEPER_HELD. -/
def State.fstat (s : State) (i : Nat) : Bool := s.rdb cFIRN 0 hSTAT i
def State.setFstat (s : State) (i : Nat) (b : Bool) : State := s.wrb cFIRN 0 hSTAT i b

/-- KSTATE: 0 EMPTY, 1 ACTIVE, 2 HELD, 3 SERVING. -/
def State.kstate (s : State) : Nat := s.rdf cFIRN 0 hSTAT 9 2
def State.setKstate (s : State) (n : Nat) : State := s.wrf cFIRN 0 hSTAT 9 2 n

def State.setFirn (s : State) (f : FirnSt → FirnSt) : State := { s with firn := f s.firn }

def State.epochCur (s : State) : Nat := s.rd64 cFIRN 0 FIRN.EPOCH_CUR
def State.epochSealed (s : State) : Nat := s.rd64 cFIRN 0 FIRN.EPOCH_SEALED
def State.keepSealed (s : State) : Nat := s.rd64 cFIRN 0 FIRN.KEEP_SEALED

/-- KEEP_EN and SERVE_EN. -/
def State.keepEn (s : State) : Bool := s.firnEn && s.rdb cFIRN 0 hCTRL 2
def State.serveEn (s : State) : Bool := s.firnEn && s.rdb cFIRN 0 hCTRL 3

/-- Granules marked in the current bitmap. -/
def State.markGrans (s : State) (gs : List Nat) : State :=
  s.setFirn fun f => { f with cur := gs.foldl (fun m g => mset false m g true) f.cur }

/-- A RESYNC (R358). -/
def State.resyncNow (s : State) : State := (s.markGrans (granList s.firn.pset)).setFstat 7 false

/-- A chunk check has failed here (R364, R360). -/
def State.checkErr (s : State) (g : Nat) : State := (s.bump cFIRN (g % 2) FIRN.CHECK_ERR_CNT).irq cFIRN (g % 2) 32

/-- Chunks read or written with poison (R347). -/
def State.chunkPois (s : State) (g n : Nat) : State :=
  if n = 0 then s else (s.bump cFIRN (g % 2) FIRN.POISON_CNT n).irq cFIRN (g % 2) 16

/-! ### Slots (R370, R371) -/

/-- Offset of a slot's register. -/
def slotOff (k : Bool) : Nat := if k then FIRN.CMDK else FIRN.CMDA

/-- The command of a slot. -/
def State.firnCmd (s : State) (k : Bool) : Option FirnCmd := if k then s.firn.slotK else s.firn.slotA
def State.setFirnCmd (s : State) (k : Bool) (x : Option FirnCmd) : State :=
  s.setFirn fun f => if k then { f with slotK := x } else { f with slotA := x }

/-- HBM and the companion windows (R371). -/
def inFirnSpace (a len : Nat) : Bool := decide (a + len ≤ hbmSize) || (inCompRange a && inCompRange (a + len - 1))

/-- A command whose STATUS is decided ends, once its descriptor can be written (R370). -/
def State.firnClose (s : State) (k : Bool) : State :=
  match s.firnCmd k with
  | none => s
  | some x =>
    match x.status with
    | none => s
    | some st =>
      let op := bfield x.bytes 0 1
      let rs := if inFirnSpace x.desc 256 then (x.desc + 2, 1, true) :: (if op = 4 then [(x.desc + 0x38, 8, true)] else []) else []
      let g := s.unitGate firnUnit true rs
      if !g.1 then g.2
      else
        let s := if rs.isEmpty then g.2 else
          let s := (g.2.unitWrite (rqFirn 0) firnUnit (x.desc + 2) [BitVec.ofNat 8 st] [false] true).2
          if op = 4 then (s.unitWrite (rqFirn 0) firnUnit (x.desc + 0x38) (toLE 8 x.off) (List.replicate 8 false) true).2 else s
        let s := (s.wr cFIRN 0 (slotOff k) (u32 (st * 65536 + op))).setFirnCmd k none
        if bfield x.bytes 1 1 / 128 % 2 = 1 then s.irq cFIRN 0 (if k then 4 else 2) else s

/-- The STATUS of the command of a slot is decided. -/
def State.firnEnd (s : State) (k : Bool) (st : Nat) : State :=
  match s.firnCmd k with
  | some x => (s.setFirnCmd k (some { x with status := some st })).firnClose k
  | none => s

/-- A command is refused (R371). -/
def State.firnRefuse (s : State) (k : Bool) (cause : Nat) : State :=
  (s.recUC cFIRN 0 cause ((s.firnCmd k).map (·.desc)) (some 0x10)).firnEnd k 0x10

/-- Gate k of a SEAL: address and value. -/
def gateOf (b : Bytes) (k : Nat) : Nat × Nat := (bfield b (0x40 + 16 * k) 8, bfield b (0x48 + 16 * k) 4)

/-- An address that a gate may name (R287). -/
def gateAddrOk (a : Nat) : Bool :=
  inDevSpace a 4 || (inRegSpace a && (let r := regOf a; regAddrOk r.1 r.2.1 r.2.2 4))

/-- SRC of a RESTORE, and ROLLBACK. -/
def srcOf (b : Bytes) : Nat := bfield b 1 1 / 16 % 4
def rollOf (b : Bytes) : Bool := bfield b 1 1 / 8 % 2 == 1

/-- Reserved fields, and fields that the OP does not use, are not zero (R371). -/
def firnFieldsBad (b : Bytes) : Bool :=
  let op := bfield b 0 1
  let fl := bfield b 1 1
  let z (o n : Nat) : Bool := bfield b o n == 0
  fl % 8 != 0 || !z 0x34 4 || !z 0xC0 64 || (op != 1 && (fl / 64 % 2 == 1 || !z 3 1 || !z 4 4 || !z 8 8 || !z 0x40 128)) ||
  (op != 5 && (fl / 8 % 8 != 0 || !z 0x20 8 || !z 0x28 8)) || (op != 3 && !z 0x30 4) || (op != 4 && !z 0x38 8) ||
  (op != 3 && op != 4 && op != 5 && !z 0x10 8) || (op != 4 && !(op == 5 && srcOf b == 2) && !z 0x18 8) ||
  (op == 5 && srcOf b == 2 && !z 0x28 8) ||
  (op == 1 && (List.range 8).any fun k => bfield b (0x4C + 16 * k) 4 != 0)

/-- The command breaks R371, what lies in memory apart. -/
def State.firnBad (s : State) (k : Bool) (b : Bytes) : Bool :=
  let op := bfield b 0 1
  let addr := bfield b 0x10 8
  let len := bfield b 0x18 8
  let key := bfield b 0x28 8
  let src := srcOf b
  !(if k then [4, 6].contains op else [1, 2, 3, 5].contains op) || firnFieldsBad b || (op != 3 && !s.firnEn) ||
  (op == 1 && (decide (8 < bfield b 3 1) || (List.range (min 8 (bfield b 3 1))).any fun i => !gateAddrOk (gateOf b i).1)) ||
  (op == 3 && (bfield b 0x30 4 == 0 || decide (256 < bfield b 0x30 4) || addr % 64 != 0 || !inFirnSpace addr (16 * bfield b 0x30 4))) ||
  (op == 4 && (s.kstate == 0 || addr % 64 != 0 || !inFirnSpace addr len)) ||
  (op == 5 && (src == 3 || (rollOf b && src != 0) || (src == 2 && s.kstate == 0) ||
    (!rollOf b && src != 2 && (key == 0 || key % 8 != 0 || !inFirnSpace key 1312)) ||
    (src != 0 && addr % 64 != 0) || (src == 1 && !inFirnSpace addr 256) || (src == 2 && !inFirnSpace addr len))) ||
  (op == 6 && s.kstate == 3)

/-! ### The protected set (R337, R338) -/

/-- A table breaks R337 or R338. -/
def State.psetBad (s : State) (l : List (Nat × Nat)) : Bool :=
  let g := max (grans l) (max (grans s.firn.pset) (grans (s.firn.psetNext.getD [])))
  let w := s.workArea
  let m := s.mirStore
  let runs := l.map fun e => (e.1, e.2 * 65536)
  !rangesOk 0 l || decide (w.2 < 320 * g + 2 ^ 20) || decide (hbmSize < w.1 + w.2) || decide (hbmSize < m.1 + m.2) ||
  runsMeet w m || runs.any (fun r => runsMeet r w || runsMeet r m)

/-- A table that has been accepted. -/
def State.psetTake (s : State) (l : List (Nat × Nat)) : State :=
  if s.firn.everEn then s.setFirn fun f => { f with psetNext := some l } else s.setFirn fun f => { f with pset := l }

/-! ### Failed seals (R358) -/

/-- Granules of a map that await an answer, by epoch. -/
def FirnSt.unacked (f : FirnSt) (p : Nat → Bool) : List Nat :=
  f.sent.filterMap fun e => match e.2 with | some g => if p g.epoch then some e.1 else none | none => none

/-- What is pending or unacknowledged of the epoch being sealed goes back to the current bitmap; held writes go on. -/
def State.abandon (s : State) : State :=
  let f := s.firn
  let gs := (f.sealing.filter (·.2)).map (·.1) ++ f.unacked (· == f.sealEpoch)
  let s := s.setFirn fun f => { f with phase := .idle, sealing := [], unitHeld := [], sent := f.sent.filter fun e => !e.2.any fun g => g.epoch == f.sealEpoch }
  s.markGrans gs

/-- A seal fails with a STATUS. -/
def State.sealFail (s : State) (st : Nat) : State :=
  let after := s.firn.phase == .flush || s.firn.phase == .manifest
  let s := if after then s.abandon else s.setFirn fun f => { f with phase := .idle }
  let s := ((s.bump cFIRN 0 FIRN.SEAL_FAIL_CNT).irq cFIRN 0 8).recUC cFIRN 0 0x0C (some s.firn.sealEpoch) (u32 st)
  let s := s.firnEnd false st
  if after then s.oplSettle else s

/-- A seal is past its cut. -/
def State.afterCut (s : State) : Bool := s.firn.phase == .flush || s.firn.phase == .manifest

/-- The keeper does not accept the stream (R358, R361). -/
def State.notAccepted (s : State) : State :=
  let s := (s.setFstat 1 false).setFstat 8 true
  if s.afterCut then s.sealFail 8 else s

/-- STORE_FULL has come from the keeper (R358). -/
def State.storeFull (s : State) : State :=
  let s := ((s.setFstat 7 true).irq cFIRN 0 64).recUC cFIRN 0 0x0C none (some 0x05)
  let s := s.markGrans (s.firn.unacked fun _ => true)
  let s := if s.firn.phase = .idle then s else s.sealFail 5
  s.setFirn fun f => { f with sent := [] }

/-! ### HELLO (R360, R361) -/

/-- Sends HELLO. -/
def State.sendHello (s : State) : State :=
  let free := s.mirStore.2 - storeBytes s.firn.kChunks
  s.firnSend 0 (.firnHello s.idKeyHash s.epochSealed s.epochCur (b2n s.fuses.grade9632) s.kstate s.firn.kKey s.keepSealed free s.keepEn)

/-- Everything that the keeper holds is discarded. -/
def State.keeperDrop (s : State) : State :=
  (s.setFirn fun f => { f with kChunks := [], kManifest := [], kKey := [], kBad := [], kWait := none }).wr64 cFIRN 0 FIRN.KEEP_SEALED 0

/-- In-progress forms are discarded; what never was sealed goes. -/
def dropProg (m : SMap KChunk) : SMap KChunk :=
  (m.map fun e => (e.1, { e.2 with prog := none })).filter fun e => e.2.sealed.isSome || e.2.delta.isSome

/-- HELLO as this device's sender sees it: the stream is not accepted, resumes, or resynchronises. A keeper that says it takes
no stream has KEEP_EN = 0 (log 61). -/
def State.helloSender (s : State) (h : TwinHello) : State :=
  if !h.keeps then s.notAccepted
  else if h.kstate = 1 ∧ h.heldHash = s.idKeyHash ∧ h.heldEpoch = s.epochSealed then
    let s := (s.setFstat 1 true).setFstat 8 false
    let s := s.firn.sent.foldl (fun s e => match e.2 with
      | some g => (s.firnSend (e.1 % 2) (.firnChunks (e.1 % 2) g.epoch e.1 g.recs)).bump64 cFIRN (e.1 % 2) FIRN.SENT_BYTES (recBytes g.recs)
      | none => s) s
    if s.firn.phase = .manifest then s.firnSend 0 (.firnManifest s.firn.sealMan) else s
  else if h.kstate = 0 ∨ h.kstate = 1 then
    let s := if s.afterCut then s.sealFail 8 else s
    let s := ((s.setFirn fun f => { f with sent := [], prog := [] }).setFstat 1 true).setFstat 8 false
    s.resyncNow
  else s.notAccepted

/-- HELLO as this device's keeper sees it. -/
def State.helloKeeper (s : State) (h : TwinHello) : State :=
  if !s.keepEn || decide (2 ≤ s.kstate) then s
  else if s.kstate = 1 ∧ s.firn.kKey = h.keyHash ∧ s.keepSealed = h.sealed then s.setFirn fun f => { f with kEpochCur := h.cur }
  else (s.keeperDrop.setFirn fun f => { f with kKey := h.keyHash, kEpochCur := h.cur }).setKstate 1

/-- Both sides of HELLO are settled once this device runs Firn. -/
def State.helloGo (s : State) : State :=
  if !s.firnEn then s
  else match s.firn.hello with
    | some h => (s.helloKeeper h).helloSender h
    | none => s

/-- HELLO (R361). -/
def execHello (keyHash : Bytes) (epochSealed epochCur grade kstate : Nat) (heldHash : Bytes) (heldEpoch freeStore : Nat) (keeps : Bool) (s : State) : Res :=
  let _ := (grade, freeStore)
  .next <|
    if !s.mirUp then s
    else (s.setFirn fun f => { f with hello := some ⟨bpad keyHash 32, epochSealed, epochCur, kstate, bpad heldHash 32, heldEpoch, keeps⟩ }).helloGo

/-- Both sub-links are down: the stream stops until the next HELLO. -/
def State.firnMirrorDown (s : State) : State :=
  (s.setFirn fun f => { f with mirDown := some s.clk.time, hello := none }).setFstat 1 false

/-- CTRL.EN is set (R337, R361). -/
def State.firnEnable (s : State) : State :=
  let s := s.setFirn fun f => { f with everEn := true }
  if s.mirUp then s.sendHello.helloGo else s

/-! ### Streaming and the flush (R340, R341, R347, R354) -/

/-- Reads granule g and forms its records. -/
def State.readGran (s : State) (n g vepoch : Nat) : List ChunkRec × State :=
  let r := s.hbmRead (rqFirn n) (g * 65536) 65536
  ((List.range 16).map fun i =>
    chunkRec (g * 65536 + 4096 * i) vepoch (bslice r.1.data (4096 * i) 4096) (r.1.poisIn (4096 * i) 4096), r.2)

/-- A write that waits until its granule has been read (R354). -/
def State.heldWrite (s : State) (w : Wait) : Bool := w.isWrite && decide (w.addr < hbmSize) && s.firnHeld (w.addr / 65536)

/-- A granule is read and sent, if it can be read; its bit is cleared at the read. The writes that wait for this read do not
hold it back. -/
def State.sendGran (s : State) (n g : Nat) (flush : Bool) : Bool × State :=
  let ep := if flush then s.firn.sealEpoch else s.epochCur
  let q := s.gatePast s.heldWrite [(g * 65536, 65536, false)]
  if !q.1 then q
  else
    let (recs, s) := q.2.readGran n g ep
    let np := (recs.filter (·.pois)).length
    let s := s.chunkPois g np
    let s := if np ≠ 0 ∧ s.firn.poisEpoch ≠ ep then
        (s.setFirn fun f => { f with poisEpoch := ep }).recDef cFIRN n 0x03 (some (g * 65536)) else s
    let s := ((s.bump cFIRN n FIRN.ZERO_CNT (recs.filter (·.code == 0)).length).bump cFIRN n FIRN.RAW_CNT (recs.filter (·.code == 2)).length).bump64
      cFIRN n FIRN.SENT_BYTES (recBytes recs)
    let s := s.setFirn fun f => { f with
      cur := if flush then f.cur else mset false f.cur g false
      sealing := if flush then mset false f.sealing g false else f.sealing
      sent := mset none f.sent g (some ⟨ep, recs⟩)
      prog := recs.foldl (fun m r => mset none m (r.addr / 4096) (some ⟨r.vepoch, r.check, r.pois⟩)) f.prog
      next := mset 0 f.next n (g + 1) }
    let s := (s.firnFill s.workArea).firnSend n (.firnChunks n ep g recs)
    if flush then (true, (s.setFirn fun f => { f with unitHeld := f.unitHeld.filter fun r => !(s.heldGrans r.1 r.2).isEmpty }).oplSettle)
    else (true, s)

/-- Granules that a waiting write needs read (R354). -/
def State.waitedGrans (s : State) : List Nat :=
  (s.opl.waits.filter s.heldWrite).map (fun w => w.addr / 65536) ++ s.firn.unitHeld.flatMap fun r => s.heldGrans r.1 r.2

/-- The next of some granules in ascending order from `lo`, wrapping at the end. -/
def nextFrom (lo : Nat) (gs : List Nat) : Option Nat :=
  match gs.find? fun g => decide (lo ≤ g) with | some g => some g | none => gs.head?

/-- Granules that an instance has started in the present window. -/
def State.granStarts (s : State) (n : Nat) : Nat :=
  let p := mget (0, 0) s.firn.started n
  if p.1 = s.clk.time / 1000 then p.2 else 0

/-- RATE_LIMIT lets an instance start a granule now. -/
def State.rateOk (s : State) (n : Nat) : Bool :=
  let lim := s.rdf cFIRN 0 FIRN.RATE_LIMIT 0 16
  lim == 0 || decide (s.granStarts n < lim)

/-- A granule sent by the scan counts in its window once it has been started. -/
def State.scanGran (s : State) (n g : Nat) : State :=
  let r := s.sendGran n g false
  if r.1 then r.2.setFirn fun f => { f with started := mset (0, 0) f.started n (s.clk.time / 1000, s.granStarts n + 1) } else r.2

/-- FIRN_SCAN_GRANULE (R341, R352 event 5). -/
def execFirnScanGranule (n : Nat) (s : State) : Res :=
  .next <|
    if 2 ≤ n ∨ !s.firnOn n ∨ !s.firnEn ∨ !s.fstat 1 ∨ !s.mirUp then s
    else if s.firn.phase = .flush then
      let gs := ((s.firn.sealing.filter fun e => e.2 && e.1 % 2 == n).map (·.1)).filter fun g => (mget none s.firn.sent g).isNone
      match (gs.filter s.waitedGrans.contains).head?.or gs.head? with
      | some g => (s.sendGran n g true).2
      | none => s
    else if s.firn.phase = .manifest ∨ s.rdb cFIRN n hFREEZE 0 ∨ s.fstat 7 then s
    else
      let gs := ((s.firn.cur.filter fun e => e.2 && e.1 % 2 == n).map (·.1)).filter fun g =>
        s.protectedGran g && (mget none s.firn.sent g).isNone
      match nextFrom (mget 0 s.firn.next n) gs with
      | some g => if s.rateOk n then s.scanGran n g else s
      | none => s

/-- GACK (R360): 0 stored, 1 check failed, 2 STORE_FULL, 3 not accepted. -/
def execGack (gran status : Nat) (s : State) : Res :=
  .next <|
    if !s.mirUp then s
    else if status = 2 then s.storeFull
    else
      match mget none s.firn.sent gran with
      | none => if status = 3 then s.notAccepted else s
      | some g =>
        let clear (s : State) : State := s.setFirn fun f => { f with sent := mset none f.sent gran none }
        match status with
        | 0 => (clear s).bump64 cFIRN (gran % 2) FIRN.SENT_GRAN
        | 1 =>
          let s := s.bump cFIRN (gran % 2) FIRN.RESEND_CNT
          if s.firn.phase = .flush then
            (s.firnSend (gran % 2) (.firnChunks (gran % 2) g.epoch gran g.recs)).bump64 cFIRN (gran % 2) FIRN.SENT_BYTES (recBytes g.recs)
          else (clear s).markGrans [gran]
        | _ => if s.firn.phase = .flush then s.notAccepted else ((clear s).markGrans [gran]).notAccepted

/-! ### The seal (R352–R359) -/

/-- The word at a gate, read as R287 says. -/
def State.firnGateWord (s : State) (a : Nat) (first : Bool) : Option Nat × State :=
  if inRegSpace a then (let r := regOf a; some (s.peek 0 r.1 r.2.1 r.2.2).toNat, s)
  else
    let g := s.devGate [(a, 4, false)]
    if !g.1 then (none, g.2)
    else
      let r := g.2.devRead (rqFirn 0) a 4
      if !r.1.ok then (none, r.2)
      else if r.1.anyPois then (none, if first then r.2.recUC cFIRN 0 0x0E (some a) else r.2)
      else (some (leNat r.1.data), r.2)

/-- Every gate of a SEAL is open. -/
def State.gatesOpen (s : State) (x : FirnCmd) : Bool × State :=
  (List.range (bfield x.bytes 3 1)).foldl (fun acc k =>
    let g := gateOf x.bytes k
    let r := acc.2.firnGateWord g.1 (x.tries == 0)
    (acc.1 && (match r.1 with | some v => gateOpen v g.2 | none => false), r.2)) (true, s)

/-- R355 and R356 hold. -/
def State.cutFree (s : State) (x : FirnCmd) : Bool :=
  !s.moveBusy && s.doubt.isEmpty &&
  (bfield x.bytes 1 1 / 64 % 2 == 0 ||
    (List.range 2).all fun n => (s.xchOf n).groups.all fun g => decide (bfield x.bytes 4 4 < g.step))

/-- The cut (R352 event 4, R337). -/
def State.cut (s : State) : State :=
  let e := s.epochCur
  let old := s.firn.pset
  let new := s.firn.psetNext.getD old
  let adds := (granList new).filter fun g => !s.protectedGran g
  let s := s.setFirn fun f => { f with
    sealing := f.cur.filter fun x => x.2 && s.protectedGran x.1
    cur := adds.map fun g => (g, true)
    phase := .flush, sealEpoch := e, sealRank := s.myRank, psetSeal := old, pset := new, psetNext := none }
  let s := ((s.wr64 cFIRN 0 FIRN.CUT_TIME s.clk.time).wr64 cFIRN 0 FIRN.EPOCH_CUR (e + 1)).setFstat 2 true
  let s := (s.setFstat 6 false).irq cFIRN 0 1
  if s.fstat 8 then s.sealFail 8 else s

/-- SEAL_CUT (R352 events 2 to 4). -/
def execSealCut (s : State) : Res :=
  .next <|
    if !s.firnOn 0 then s
    else
      match s.firn.slotA with
      | none => s
      | some x =>
        let s : State :=
          if s.firn.phase = .gates ∧ x.due ≤ s.clk.time then
            let r := s.gatesOpen x
            if r.1 then r.2.setFirn fun f => { f with phase := .cutWait }
            else r.2.setFirnCmd false (some { x with due := s.clk.time + max 1 (s.rdf cFIRN 0 FIRN.GATE_POLL 0 16), tries := 1 })
          else s
        if s.firn.phase = .cutWait ∧ s.cutFree x then s.cut else s

/-- Check value of a chunk as the epoch being sealed has it: as sent in it, else as last sealed. -/
def FirnSt.valOf (f : FirnSt) (k : Nat) : Option ChkVal := (mget none f.prog k).or (mget none f.sealed k)

/-- The manifest of the epoch being sealed, without signature (R350). -/
def State.manHead (s : State) : Bytes :=
  let f := s.firn
  let gs := granList f.psetSeal
  let chunks := gs.flatMap fun g => (List.range 16).map (16 * g + ·)
  let pois := chunks.any fun k => (f.valOf k).any (·.pois)
  let x := (f.slotA.map (·.bytes)).getD []
  toLE 2 1 ++ toLE 2 f.psetSeal.length ++ toLE 1 (b2n s.fuses.grade9632) ++ toLE 1 (b2n pois) ++ toLE 2 f.sealRank ++
  toLE 8 f.sealEpoch ++ toLE 8 s.epochSealed ++ toLE 8 (bfield x 8 8) ++ toLE 8 (s.rd64 cFIRN 0 FIRN.CUT_TIME) ++
  toLE 8 (16 * gs.length) ++ ((List.range 4).flatMap fun a => toLE 1 (s.axisLen a - 1)) ++ bpad [] 12 ++
  rootOf (fun k => ((f.valOf k).map (·.check)).getD 0) gs ++ s.idKeyHash ++ bpad [] 128 ++ rangeBytes f.psetSeal

/-- SEAL_FLUSH_DONE (R352 events 6 and 7): check values, tree and signature, then the manifest goes out. The security
controller signs one thing at a time. -/
def execSealFlushDone (s : State) : Res :=
  .next <|
    if !s.firnOn 0 || s.firn.phase != .flush || s.firn.sealing.any (·.2) || !(s.firn.unacked (· == s.firn.sealEpoch)).isEmpty ||
        s.sec.cmd.any (·.op == 1) then s
    else
      let b := s.manHead
      let (g, s) := s.signed b
      let m := bpad (b ++ g) (manLen s.firn.psetSeal.length)
      let s := (s.setFirn fun f => { f with phase := .manifest, sealMan := m }).firnFill s.workArea
      if s.fstat 1 then s.firnSend 0 (.firnManifest m) else s

/-- Values sent in the epoch take the place of those last sealed. -/
def mergeVals (sealed prog : SMap (Option ChkVal)) : SMap (Option ChkVal) :=
  prog.foldl (fun m e => match e.2 with | some v => mset none m e.1 (some v) | none => m) sealed

/-- SEALED (R352 event 9, R358): 0 sealed, 1 roots differ, 2 STORE_FULL. -/
def execSealed (epoch status : Nat) (s : State) : Res :=
  .next <|
    if !s.mirUp then s
    else if status = 2 then s.storeFull
    else if s.firn.phase != .manifest || s.firn.sealEpoch != epoch then s
    else if status = 0 then
      let man := s.firn.sealMan
      let s := s.setFirn fun f => { f with phase := .idle, sealing := [], sealed := mergeVals f.sealed f.prog, prog := [], sealRoot := manRoot man }
      let s := (s.wr64 cFIRN 0 FIRN.EPOCH_SEALED epoch).wr cFIRN 0 FIRN.SEAL_DUR
        (u32 (min 0xFFFFFFFF (s.clk.time - s.rd64 cFIRN 0 FIRN.CUT_TIME)))
      (s.firnFill s.workArea).firnEnd false (if bfield man 5 1 % 2 = 1 then 3 else 0)
    else (s.sealFail 6).resyncNow

/-- SEAL_CANCEL (R359). -/
def State.sealCancel (s : State) : State :=
  if s.firn.phase = .gates ∨ s.firn.phase = .cutWait then (s.setFirn fun f => { f with phase := .idle }).firnEnd false 1 else s

/-- SEAL_CANCEL (R359). -/
def execSealCancel (m : Nat) (s : State) : Res := .next <| s.actionWrite m cFIRN 0 hCTRL (!s.memReady) (·.sealCancel)

/-! ### The keeper (R342, R352 events 7 and 8, R362) -/

/-- The keeper takes the twin's stream now; while a rollback is served, what is still on its way too. -/
def State.keeps (s : State) : Bool := s.keepEn && (s.kstate == 1 || (s.kstate == 3 && s.firn.kReturn == 1 && s.firn.kRoll))

/-- A chunk of the twin. -/
def FirnSt.kChunk (f : FirnSt) (k : Nat) : KChunk := mget {} f.kChunks k

/-- The records of a granule are the 16 of its chunks in order and each checks. -/
def granContents (g : Nat) (recs : List ChunkRec) : List (Option Bytes) :=
  (List.range 16).map fun i => match recs[i]? with
    | some r => if r.addr = g * 65536 + 4096 * i then recContent r else none
    | none => none

/-- The content of the sealed form, coded against zero (R342). -/
def KChunk.base (k : KChunk) : Bytes :=
  match k.sealed with | some f => (contentOn zeroChunk f.code f.payload).getD zeroChunk | none => zeroChunk

/-- The version and the sealed content of a chunk, folded or not. -/
def KChunk.content (k : KChunk) : Option (ChkVal × Bytes) :=
  match k.delta with
  | some f => some (f.v, (contentOn k.base f.code f.payload).getD zeroChunk)
  | none => k.sealed.map fun f => (f.v, k.base)

/-- The fold: the sealed content coded against zero again. -/
def KChunk.fold (k : KChunk) : KChunk :=
  match k.delta, k.content with
  | some _, some (v, b) => let c := codeChunk b; { k with sealed := some ⟨v, c.1, c.2⟩, delta := none }
  | _, _ => k

/-- An in-progress form arrives: a chunk not yet folded is folded first (R342). -/
def KChunk.take (k : KChunk) (v : ChkVal) (b : Bytes) : KChunk :=
  let k := k.fold
  let c := codeOn k.base b
  { k with prog := some ⟨v, c.1, c.2⟩ }

/-- The epoch in progress is sealed: its in-progress form becomes sealed content. -/
def KChunk.settle (k : KChunk) : KChunk := if k.prog.isSome then { k with delta := k.prog, prog := none } else k

/-- In-progress forms of a granule enter the store. -/
def State.keepGran (s : State) (g : Nat) (recs : List ChunkRec) (cs : List (Option Bytes)) : State :=
  s.setFirn fun f => { f with
    kBad := mset false f.kBad g false
    kChunks := (recs.zip cs).foldl (fun m e =>
      let k := e.1.addr / 4096
      mset {} m k ((mget {} m k).take ⟨e.1.vepoch, e.1.check, e.1.pois⟩ (e.2.getD []))) f.kChunks }

/-- CHUNKS (R342, R360). -/
def execChunks (epoch gran : Nat) (recs : List ChunkRec) (s : State) : Res :=
  .next <|
    if !s.mirUp || !s.firnOn (gran % 2) then s
    else
      let s := s.bump64 cFIRN (gran % 2) FIRN.RECV_BYTES (recBytes recs)
      if !s.keeps then s.firnSend (gran % 2) (.firnGack gran 3)
      else
        let cs := granContents gran recs
        let bad := (cs.filter (·.isNone)).length
        if bad ≠ 0 ∨ recs.length ≠ 16 then
          let s := (s.bump cFIRN (gran % 2) FIRN.CHECK_ERR_CNT (max 1 bad)).irq cFIRN (gran % 2) 32
          (s.setFirn fun f => { f with kBad := mset false f.kBad gran true }).firnSend (gran % 2) (.firnGack gran 1)
        else
          let again := mget false s.firn.kBad gran
          let t := s.keepGran gran recs cs
          if t.mirStore.2 < storeBytes t.firn.kChunks then
            let s := ((s.setFirn fun f => { f with kChunks := dropProg f.kChunks }).irq cFIRN 0 64).recUC cFIRN 0 0x0C (some gran) (some 0x05)
            (s.firnFill s.mirStore).firnSend (gran % 2) (.firnGack gran 2)
          else
            let t := (t.setFirn fun f => { f with kEpochCur := epoch }).firnFill t.mirStore
            let t := if again then t.recCE cFIRN (gran % 2) 0x04 (some (gran * 65536)) else t
            t.firnSend (gran % 2) (.firnGack gran 0)

/-- What a chunk of the twin holds when its epoch in progress is sealed. -/
def KChunk.newest (k : KChunk) : Option KForm := k.prog.or (k.delta.or k.sealed)

/-- The keeper settles a manifest: it seals the epoch, or answers that the roots differ (R352 events 7 and 8). -/
def State.keeperSeal (s : State) (m : Bytes) : State :=
  let f := s.firn
  let gs := granList (manRanges m)
  let root := rootOf (fun k => ((f.kChunk k).newest.map (·.v.check)).getD 0) gs
  if root = manRoot m then
    let keep (k : Nat) : Bool := (manRanges m).any fun e => decide (e.1 / 65536 ≤ k / 16) && decide (k / 16 < e.1 / 65536 + e.2)
    let s := s.setFirn fun f => { f with
      kManifest := m, kKey := bslice m 0x60 32
      kChunks := (f.kChunks.filter fun e => keep e.1).map fun e => (e.1, e.2.settle) }
    ((s.wr64 cFIRN 0 FIRN.KEEP_SEALED (manEpoch m)).firnFill s.mirStore).firnSend 0 (.firnSealed (manEpoch m) 0)
  else
    ((s.setFirn fun f => { f with kChunks := dropProg f.kChunks }).firnFill s.mirStore).firnSend 0 (.firnSealed (manEpoch m) 1)

/-- An export runs. -/
def State.exporting (s : State) : Bool := s.firn.slotK.any fun x => bfield x.bytes 0 1 == 4

/-- MANIFEST (R352 event 7, R369). A keeper that does not take the stream says so by a GACK that names no granule sent
(R358, R361, log 61). -/
def execManifest (m : Bytes) (s : State) : Res :=
  .next <|
    if !s.mirUp || !s.firnOn 0 then s
    else if !s.keepEn || s.kstate != 1 then s.firnSend 0 (.firnGack 0 3)
    else if s.exporting then s.setFirn fun f => { f with kWait := some m }
    else s.keeperSeal m

/-- KEEPER_FOLD (R342). -/
def execKeeperFold (addr : Nat) (s : State) : Res :=
  .next <|
    let k := addr / 4096
    if !s.firnOn (addr / 65536 % 2) || (s.firn.kChunk k).delta.isNone then s
    else (s.setFirn fun f => { f with kChunks := mset {} f.kChunks k (f.kChunk k).fold }).firnFill s.mirStore

/-- TWIN_ALIVE_FALL (R278, R362). -/
def execTwinAliveFall (s : State) : Res :=
  .next <|
    if !s.live then { s with pins := { s.pins with twinAliveIn := false } }
    else if !s.pins.twinAliveIn then s
    else
      let s := ({ s with pins := { s.pins with twinAliveIn := false } } : State).irq cMIR 0 8
      if s.kstate = 1 then
        (((s.setFirn fun f => { f with kChunks := dropProg f.kChunks }).setKstate 2).irq cFIRN 0 128).recCE cFIRN 0 0x0D
      else s

/-! ### Serving the twin (R363, R364, R366) -/

/-- The sealed records of a granule. -/
def FirnSt.sealedRecs (f : FirnSt) (g : Nat) : List ChunkRec :=
  (List.range 16).filterMap fun i => (f.kChunk (16 * g + i)).content.map fun k =>
    { chunkRec (g * 65536 + 4096 * i) k.1.vepoch k.2 k.1.pois with check := k.1.check }

/-- Sends the sealed form of some granules. -/
def State.serveGrans (s : State) (gs : List Nat) : State :=
  gs.foldl (fun s g => s.firnSend (g % 2) (.firnRChunks g (s.firn.sealedRecs g))) s

/-- RQ_RESTORE (R363, R366): mode 0 a restore, 1 a rollback; an ACTIVE copy is this twin's when the key of its HELLO signed it. Where the keeper has nothing that matches it answers with an
empty manifest. -/
def execRqRestore (mode epoch : Nat) (wanted : List Nat) (s : State) : Res :=
  .next <|
    if !s.mirUp || !s.firnOn 0 then s
    else
      let roll := mode == 1
      let st := if s.kstate = 3 then s.firn.kReturn else s.kstate
      let ok := s.serveEn && !s.firn.kManifest.isEmpty && ((st == 1 && s.firn.hello.any fun h => h.keyHash == s.firn.kKey) || (st == 2 && !roll)) &&
        (epoch == s.keepSealed || (epoch == 0 && !roll))
      if !ok then s.firnSend 0 (.firnRManifest [])
      else
        let s := (s.setFirn fun f => { f with kReturn := st, kRoll := roll }).setKstate 3
        let s := s.firnSend 0 (.firnRManifest s.firn.kManifest)
        let inProg := ascSet ((s.firn.kChunks.filter fun e => e.2.prog.isSome).map fun e => e.1 / 16)
        s.serveGrans (if roll then ascSet (inProg ++ wanted) else granList (manRanges s.firn.kManifest))

/-- R_RESEND (R364). -/
def execRResend (gran : Nat) (s : State) : Res :=
  .next <|
    if s.mirUp && s.firnOn (gran % 2) then (if s.kstate = 3 then s.serveGrans [gran] else s.firnSend 0 (.firnRManifest [])) else s

/-- RESTORED (R365, R366): the keeper leaves SERVING; a restore makes it ACTIVE with the device that was restored (R362). -/
def execRestored (epoch status : Nat) (s : State) : Res :=
  let _ := epoch
  .next <|
    if !s.mirUp || s.kstate != 3 then s
    else if status != 0 && status != 3 then s.setKstate s.firn.kReturn
    else
      let s := s.setFirn fun f => { f with kChunks := dropProg f.kChunks }
      if s.firn.kRoll then s.setKstate s.firn.kReturn
      else (s.setFirn fun f => { f with kKey := (f.hello.map (·.keyHash)).getD f.kKey }).setKstate 1

/-! ### Restores at the target (R364–R368) -/

/-- A restore ends: the keeper hears of it when it was served over the mirror. -/
def State.restEnd (s : State) (st epoch : Nat) : State :=
  let served := s.firn.slotA.any fun x => srcOf x.bytes == 0
  let s := if served && st != 8 then s.firnSend 0 (.firnRestored epoch st) else s
  let s := if st = 0 ∨ st = 3 then s else s.recUC cFIRN 0 0x0C none (u32 st)
  (s.setFirn fun f => { f with rest := {} }).firnEnd false st

/-- The manifest is accepted (R364 event 2). -/
def State.manOk (s : State) (b m : Bytes) : Bool :=
  let key := s.firn.rest.key
  let want := bfield b 0x20 8
  let rs := manRanges m
  let runs := rs.map fun e => (e.1, e.2 * 65536)
  decide (m.length = manLen (manN m)) && bfield m 0 2 == 1 && manN m != 0 && decide (manN m ≤ 256) && (want == 0 || want == manEpoch m) &&
  bslice m 0x60 32 == hash32 key && mldsaVerify key (manBody m) (manSig m) && rangesOk 0 rs &&
  !runs.any (fun r => runsMeet r s.workArea || runsMeet r s.mirStore)

/-- Writes a restored chunk and enters its values; `false` when the write is not possible at all. -/
def State.putChunkRec (s : State) (a : Nat) (r : ChunkRec) (c : Bytes) : Bool × State :=
  let w := s.unitWrite (rqFirn (r.addr / 65536 % 2)) firnUnit a c (List.replicate 4096 r.pois) true
  let s := w.2.setFirn fun f => { f with rest := { f.rest with
    got := mset none f.rest.got (r.addr / 4096) (some ⟨r.vepoch, r.check, r.pois⟩), pois := f.rest.pois || r.pois } }
  let s := if r.pois then
      let s := s.chunkPois (r.addr / 65536) 1
      if w.2.firn.rest.pois then s else s.recDef cFIRN (r.addr / 65536 % 2) 0x03 (some r.addr)
    else s
  (w.1, s)

/-- All chunks of the manifest have come: the root decides (R364 event 4, R365). -/
def State.restoreDone (s : State) (src : Nat) (m : Bytes) : State :=
  let f := s.firn
  let gs := granList (manRanges m)
  if rootOf (fun k => ((mget none f.rest.got k).map (·.check)).getD 0) gs ≠ manRoot m then s.restEnd 0x0A (manEpoch m)
  else
    let st := if f.rest.pois then 3 else 0
    let s := s.setFirn fun f => { f with pset := manRanges m, psetNext := none, sealed := f.rest.got, prog := [], sent := [], sealRoot := manRoot m }
    let s := ((s.wr64 cFIRN 0 FIRN.EPOCH_SEALED (manEpoch m)).wr64 cFIRN 0 FIRN.EPOCH_CUR (manEpoch m + 1)).firnFill s.workArea
    let s := if src = 0 then ((s.setFirn fun f => { f with cur := [], sealing := [] }).setFstat 1 s.mirUp).setFstat 8 false
      else s.markGrans gs
    (s.setFstat 7 false).restEnd st (manEpoch m)

/-- A rollback has every granule that it awaits (R366). -/
def State.rollbackDone (s : State) : State :=
  let f := s.firn
  let vals := mergeVals f.sealed f.rest.got
  if rootOf (fun k => ((mget none vals k).map (·.check)).getD 0) (granList (manRanges (f.rest.manifest.getD []))) ≠ f.sealRoot then s.restEnd 0x0A s.epochSealed
  else
    let s := s.setFirn fun f => { f with cur := [], prog := [], sent := [], sealed := vals }
    (s.firnFill s.workArea).restEnd (if f.rest.pois then 3 else 0) s.epochSealed

/-- Chunks of a served granule: those that check are written, the others are asked for again, at most three times (R364). -/
def State.takeRChunks (s : State) (g : Nat) (recs : List ChunkRec) : State :=
  let cs := granContents g recs
  let r := (recs.zip cs).foldl (fun (acc : Bool × State) e => match e.2 with
    | some c => let w := acc.2.putChunkRec e.1.addr e.1 c; (acc.1 && w.1, w.2)
    | none => (acc.1, acc.2.checkErr g)) (true, s)
  let s := r.2
  if !r.1 then s.restEnd 0x0A 0
  else if cs.any (·.isNone) then
    let n := mget 0 s.firn.rest.tries g
    if 3 ≤ n then s.restEnd 0x0A 0
    else (s.setFirn fun f => { f with rest := { f.rest with tries := mset 0 f.rest.tries g (n + 1) } }).firnSend (g % 2) (.firnRResend g)
  else
    let s := if mget 0 s.firn.rest.tries g = 0 then s else s.recCE cFIRN (g % 2) 0x04 (some (g * 65536))
    s.setFirn fun f => { f with rest := { f.rest with want := f.rest.want.filter (· != g) } }

/-- Served chunk messages that wait go on as far as their writes can be made; then the restore may be complete. -/
def restQueue : Nat → State → State
  | 0, s => s
  | n + 1, s =>
    match s.firn.slotA, s.firn.rest.manifest, s.firn.rest.queue with
    | some x, some m, (g, recs) :: rest =>
      if x.status.isSome then s
      else
        let q := s.gate [(g * 65536, 65536, true)]
        if !q.1 then q.2
        else
          let inSet := (manRanges m).any fun e => decide (e.1 / 65536 ≤ g) && decide (g < e.1 / 65536 + e.2)
          let s := q.2.setFirn fun f => { f with rest := { f.rest with queue := rest } }
          restQueue n (if inSet then s.takeRChunks g recs else s.checkErr g)
    | _, _, _ => s

/-- Whether a served restore or rollback is complete, and its end. -/
def State.servedDone (s : State) : State :=
  match s.firn.slotA, s.firn.rest.manifest with
  | some x, some m =>
    if x.status.isSome || bfield x.bytes 0 1 != 5 || srcOf x.bytes != 0 || !s.firn.rest.queue.isEmpty then s
    else if rollOf x.bytes then (if s.firn.rest.want.isEmpty then s.rollbackDone else s)
    else if bfield m 0x28 8 ≤ s.firn.rest.got.length ∧ 16 * grans (manRanges m) ≤ s.firn.rest.got.length then s.restoreDone 0 m else s
  | _, _ => s

/-- A served restore goes on. -/
def State.servedGo (s : State) : State := (restQueue (s.firn.rest.queue.length) s).servedDone

/-- The granules of a served restore that have not come, or of which a chunk is missing. -/
def State.granMissing (s : State) (m : Bytes) : List Nat :=
  (granList (manRanges m)).filter fun g =>
    !(s.firn.rest.queue.any fun q => q.1 == g) && (List.range 16).any fun i => (mget none s.firn.rest.got (16 * g + i)).isNone

/-- A restore from the twin or a rollback runs. -/
def State.served (s : State) : Option FirnCmd :=
  s.firn.slotA.filter fun x => bfield x.bytes 0 1 == 5 && srcOf x.bytes == 0 && x.status.isNone

/-- The granules that the mirror took with it are asked for again, at most three times each (R364, log 107). -/
def askAgain : List Nat → State → State
  | [], s => s
  | g :: r, s =>
    let n := mget 0 s.firn.rest.tries g
    if 3 ≤ n then s.restEnd 0x0A 0
    else askAgain r ((s.setFirn fun f => { f with rest := { f.rest with tries := mset 0 f.rest.tries g (n + 1) } }).firnSend (g % 2) (.firnRResend g))

/-- A restore from the twin that the mirror interrupted goes on: it asks for the manifest, or for what has not come. -/
def State.restResume (s : State) : State :=
  match s.served with
  | none => s
  | some x =>
    let b := x.bytes
    match s.firn.rest.manifest with
    | none => s.firnSend 0 (.firnRqRestore (b2n (rollOf b)) (if rollOf b then s.epochSealed else bfield b 0x20 8) s.firn.rest.want)
    | some m => askAgain (if rollOf b then s.firn.rest.want.filter fun g => !(s.firn.rest.queue.any fun q => q.1 == g) else s.granMissing m) s

/-- The first sub-link of the mirror comes up: HELLO goes out, a restore that waits asks again (R361, R364). -/
def State.firnMirrorUp (s : State) : State :=
  let s := s.setFirn fun f => { f with mirDown := none }
  (if s.firnEn then s.sendHello else s).restResume

/-- R_MANIFEST (R364 event 2, R366). An empty one says that the keeper serves nothing: no epoch that matches, or, once the
manifest has come, records that fall short. -/
def execRManifest (m : Bytes) (s : State) : Res :=
  .next <|
    match s.served with
    | none => s
    | some x =>
      if !s.mirUp then s
      else if s.firn.rest.manifest.isSome then (if m.isEmpty then s.restEnd 0x0A 0 else s)
      else if m.isEmpty then s.restEnd 0x0B 0
      else if !rollOf x.bytes && !s.manOk x.bytes m then s.restEnd 0x09 (manEpoch m)
      else (s.setFirn fun f => { f with rest := { f.rest with manifest := some m } }).servedGo

/-- R_CHUNKS (R364 event 3). -/
def execRChunks (gran : Nat) (recs : List ChunkRec) (s : State) : Res :=
  .next <|
    if !s.mirUp || s.served.isNone || s.firn.rest.manifest.isNone then s
    else
      let s := s.bump64 cFIRN (gran % 2) FIRN.RECV_BYTES (recBytes recs)
      (s.setFirn fun f => { f with rest := { f.rest with queue := f.rest.queue ++ [(gran, recs)] } }).servedGo

/-- A RESTORE from the twin, or a ROLLBACK, asks the keeper (R364, R366). Once STORE_FULL has made the keeper discard its
in-progress forms, a rollback asks for what they covered as well (log 107). -/
def State.askKeeper (s : State) (b : Bytes) : State :=
  let roll := rollOf b
  let pend := (s.firn.cur.filter fun e => e.2 && s.protectedGran e.1).map (·.1)
  let sent := s.firn.unacked fun _ => true
  let prog := s.firn.prog.map fun e => e.1 / 16
  let want := if roll then ascSet (pend ++ sent ++ (if s.fstat 7 then prog else [])) else []
  let s := s.setFirn fun f => { f with rest := { f.rest with want := if roll then ascSet (want ++ prog) else [] } }
  s.firnSend 0 (.firnRqRestore (b2n roll) (if roll then s.epochSealed else bfield b 0x20 8) want)

/-! ### Images (R363, R367, R369) -/

/-- The record pieces of the twin's sealed epoch in ascending address. -/
def FirnSt.image (f : FirnSt) : List ChunkRec := (granList (manRanges f.kManifest)).flatMap f.sealedRecs

/-- A write of a unit has failed. -/
def State.firnFailed (s : State) : Bool := s.opl.fails.contains firnUnit

/-- Forgets such a failure. -/
def State.firnForget (s : State) : State := { s with opl := { s.opl with fails := s.opl.fails.filter (· != firnUnit) } }

/-- The export goes on piece by piece: piece 0 is the manifest, then one record each (R369). -/
def exportRun : Nat → State → State
  | 0, s => s
  | n + 1, s =>
    match s.firn.slotK with
    | none => s
    | some x =>
      if x.status.isSome || bfield x.bytes 0 1 != 4 then s
      else
        let img := s.firn.image
        if x.pos = img.length + 1 ∨ s.firnFailed then
          if s.firnFailed then (s.firnForget.recUC cFIRN 0 0x05 (some x.desc)).firnEnd true 0x0A
          else if s.unitBusy firnUnit then s
          else s.firnEnd true (if img.any (·.pois) then 3 else 0)
        else
          let b := if x.pos = 0 then s.firn.kManifest else ((img[x.pos - 1]?).map recRaw).getD []
          let a := bfield x.bytes 0x10 8 + x.off
          let g := s.unitGate firnUnit true [(a, b.length, true)]
          if !g.1 then g.2
          else
            let w := g.2.unitWrite (rqFirn 0) firnUnit a b (List.replicate b.length false) true
            let s := w.2.setFirnCmd true (some { x with pos := x.pos + 1, off := x.off + b.length })
            if w.1 then exportRun n s else (s.recUC cFIRN 0 0x05 (some a)).firnEnd true 0x0A

/-- The start of an EXPORT: what there is to write must fit (R369). -/
def State.exportStart (s : State) (x : FirnCmd) : State :=
  if s.firn.kManifest.isEmpty then s.firnEnd true 0x0B
  else
    let total := s.firn.kManifest.length + recBytes s.firn.image
    if bfield x.bytes 0x18 8 < total then
      (s.setFirnCmd true (some { x with off := total })).firnEnd true 0x0C
    else exportRun (s.firn.image.length + 2) s

/-- Where the twin's address lies in a local image (R367). -/
def localAddr (b m : Bytes) (a : Nat) : Nat := bfield b 0x10 8 + (a - (((manRanges m).head?.map (·.1)).getD 0))

/-- Bytes that a local image needs (R367). -/
def localLen (m : Bytes) : Nat :=
  let rs := manRanges m
  ((rs.getLast?.map fun e => e.1 + e.2 * 65536).getD 0) - ((rs.head?.map (·.1)).getD 0)

/-- The local image is written chunk by chunk (R367). -/
def localRun : Nat → State → State
  | 0, s => s
  | n + 1, s =>
    match s.firn.slotA with
    | none => s
    | some x =>
      if x.status.isSome || bfield x.bytes 0 1 != 5 || srcOf x.bytes != 2 then s
      else if s.firnFailed then s.firnForget.restEnd 0x0A s.keepSealed
      else
        match s.firn.image[x.pos]? with
        | none => if s.unitBusy firnUnit then s else s.restEnd (if s.firn.rest.pois then 3 else 0) s.keepSealed
        | some r =>
          let a := localAddr x.bytes s.firn.kManifest r.addr
          let g := s.unitGate firnUnit true [(a, 4096, true)]
          if !g.1 then g.2
          else
            let w := g.2.putChunkRec a r ((recContent r).getD (List.replicate 4096 0))
            let s := w.2.setFirnCmd false (some { x with pos := x.pos + 1 })
            if w.1 then localRun n s else s.restEnd 0x0A s.keepSealed

/-- A record of an image from its 32-byte header and its payload. -/
def recOf (h p : Bytes) : ChunkRec :=
  { addr := bfield h 0 8, vepoch := bfield h 8 8, check := u64 (bfield h 0x10 8), code := bfield h 0x18 1
    pois := bfield h 0x19 1 % 2 == 1, payload := p }

/-- Reads a run of an image, once it can be read: none while it waits; unavailable or poisoned bytes read as such. -/
def State.imageRead (s : State) (a n : Nat) : Option Rd × State :=
  if !inFirnSpace a n then (some ⟨List.replicate n 0, List.replicate n true, false⟩, s)
  else
    let g := s.unitGate firnUnit true [(a, n, false)]
    if !g.1 then (none, g.2) else let r := g.2.unitRead (rqFirn 0) firnUnit a n; (some r.1, r.2)

/-- A record that does not check is read again once, then the restore fails (R364). -/
def State.imageBad (s : State) (x : FirnCmd) (g : Nat) : State :=
  let s := s.checkErr g
  if x.tries = 0 then s.setFirnCmd false (some { x with tries := 1 }) else s.restEnd 0x0A 0

/-- A restore from an image goes on: first the manifest, then record by record (R364). -/
def imageRun : Nat → State → State
  | 0, s => s
  | n + 1, s =>
    match s.firn.slotA with
    | none => s
    | some x =>
      if x.status.isSome || bfield x.bytes 0 1 != 5 || srcOf x.bytes != 1 then s
      else
        let base := bfield x.bytes 0x10 8
        match s.firn.rest.manifest with
        | none =>
          match s.imageRead base 256 with
          | (none, s) => s
          | (some h, s) =>
            match s.imageRead base (manLen (bfield h.data 2 2)) with
            | (none, s) => s
            | (some r, s) =>
              if !h.ok || h.anyPois || !r.ok || r.anyPois || !s.manOk x.bytes r.data then s.restEnd 0x09 0
              else
                imageRun n ((s.setFirn fun f => { f with rest := { f.rest with manifest := some r.data } }).setFirnCmd false
                  (some { x with off := r.data.length }))
        | some m =>
          if bfield m 0x28 8 ≤ x.pos then s.restoreDone 1 m
          else
            match s.imageRead (base + x.off) 32 with
            | (none, s) => s
            | (some h, s) =>
              let len := min 4096 (bfield h.data 0x1A 2)
              match s.imageRead (base + x.off + 32) (alignUp len 32) with
              | (none, s) => s
              | (some p, s) =>
                let r := recOf h.data (p.data.take len)
                let g := r.addr / 65536
                let inSet := (manRanges m).any fun e => decide (e.1 / 65536 ≤ g) && decide (g < e.1 / 65536 + e.2)
                if !h.ok || h.anyPois || !p.ok || p.anyPois || !inSet || r.addr % 4096 != 0 then imageRun n (s.imageBad x g)
                else
                  match recContent r with
                  | none => imageRun n (s.imageBad x g)
                  | some c =>
                    let q := s.gate [(r.addr, 4096, true)]
                    if !q.1 then q.2
                    else
                      let w := q.2.putChunkRec r.addr r c
                      let s := if x.tries = 0 then w.2 else w.2.recCE cFIRN (g % 2) 0x04 (some r.addr)
                      let s := s.setFirnCmd false (some { x with pos := x.pos + 1, off := x.off + recSize r, tries := 0 })
                      if w.1 then imageRun n s else s.restEnd 0x0A 0

/-- The long command of slot A goes on. -/
def State.slotAGo (s : State) : State :=
  match s.firn.slotA with
  | some x =>
    if x.status.isSome || bfield x.bytes 0 1 != 5 then s
    else match srcOf x.bytes with
      | 0 => s.servedGo
      | 1 => imageRun (2 * (match s.firn.rest.manifest with | some m => bfield m 0x28 8 | none => 16 * 2 ^ 23) + 4) s
      | _ => localRun (s.firn.image.length + 2) s
  | none => s

/-- The start of a RESTORE whose key has been read. -/
def State.restoreStart (s : State) (x : FirnCmd) : State :=
  let b := x.bytes
  let s := s.setFirnCmd false (some { x with due := s.clk.time })
  let want := bfield b 0x20 8
  match srcOf b with
  | 0 => if rollOf b ∧ want ≠ 0 ∧ want ≠ s.epochSealed then s.restEnd 0x0B 0 else s.askKeeper b
  | 1 => s.slotAGo
  | _ =>
    if bfield b 0x18 8 < localLen s.firn.kManifest then s.firnRefuse false 0x01
    else if s.firn.kManifest.isEmpty ∨ (want ≠ 0 ∧ want ≠ s.keepSealed) then s.restEnd 0x0B 0
    else s.slotAGo

/-! ### Taking a command -/

/-- Does what a command asks for; what it still has to read is read once it can be. -/
def State.firnDispatch (s : State) (k : Bool) (x : FirnCmd) : State :=
  let b := x.bytes
  if s.firnBad k b then s.firnRefuse k 0x01
  else
    match bfield b 0 1 with
    | 1 =>
      if s.fstat 7 then s.sealFail 5
      else (s.setFirn fun f => { f with phase := .gates, slotA := some { x with due := s.clk.time } }).setFstat 2 false
    | 2 => s.resyncNow.firnEnd false 0
    | 3 =>
      let n := 16 * bfield b 0x30 4
      match s.imageRead (bfield b 0x10 8) n with
      | (none, s) => s
      | (some r, s) =>
        let l := rangesOf (bfield b 0x30 4) r.data
        if !r.ok || r.anyPois then s.firnRefuse false 0x0E
        else if s.psetBad l then s.firnRefuse false 0x01
        else (s.psetTake l).firnEnd false 0
    | 4 => s.exportStart x
    | 5 =>
      if srcOf b = 2 ∨ rollOf b then (s.setFirn fun f => { f with rest := {} }).restoreStart x
      else
        match s.imageRead (bfield b 0x28 8) 1312 with
        | (none, s) => s
        | (some r, s) =>
          if !r.ok || r.anyPois then s.firnRefuse false 0x0E
          else (s.setFirn fun f => { f with rest := { key := r.data } }).restoreStart x
    | _ => (if s.kstate = 2 then ((s.keeperDrop.setKstate 0).firnFill s.mirStore) else s).firnEnd true 0

/-- Reads the descriptor of a command once it can be read, and does what it asks for; `want` tells the commands that the
caller takes. -/
def State.firnFetch (s0 s : State) (k : Bool) (x : FirnCmd) (want : Bytes → Bool) : State :=
  match s.imageRead x.desc 256 with
  | (none, s) => s
  | (some r, s) =>
    if !r.ok || r.anyPois then s.firnRefuse k (if r.anyPois then 0x0E else 0x01)
    else if !want r.data then s0
    else
      let x := { x with bytes := r.data, pos := 0 }
      (s.setFirnCmd k (some x)).firnDispatch k x

/-- Writes STATUS 0x10 of commands that a busy slot refused, once their descriptors can be written (R371). -/
def refusedRun : List Nat → State → State
  | [], s => s
  | a :: r, s =>
    let g := s.unitGate firnUnit true [(a + 2, 1, true)]
    let s := refusedRun r (if g.1 then (g.2.unitWrite (rqFirn 0) firnUnit (a + 2) [0x10#8] [false] true).2 else g.2)
    if g.1 then s else s.setFirn fun f => { f with refused := a :: f.refused }

/-- The refused commands whose STATUS waits. -/
def State.refusedGo (s : State) : State := refusedRun s.firn.refused (s.setFirn fun f => { f with refused := [] })

/-- GO is written (R370); while the slot is busy it is refused (R371). -/
def State.firnGo (s : State) (k : Bool) (want : Bytes → Bool) : State :=
  let a := s.rd64 cFIRN 0 (slotOff k - 8) % 2 ^ 48 / 256 * 256
  if (s.firnCmd k).isSome then
    let s := (s.recUC cFIRN 0 0x01 (some a) (some 0x10)).wrf cFIRN 0 (slotOff k) 16 8 0x10
    if !inFirnSpace a 256 then s else (s.setFirn fun f => { f with refused := f.refused ++ [a] }).refusedGo
  else
    let x : FirnCmd := { desc := a, bytes := [] }
    s.firnFetch (s.setFirnCmd k (some x)) k x want

/-- A write of CMDA.GO or CMDK.GO by a master, for the commands of one row. -/
def State.firnWrite (s : State) (m : Nat) (k : Bool) (want : Bytes → Bool) : State :=
  s.actionWrite m cFIRN 0 (slotOff k) (!s.memReady) (·.firnGo k want)

/-- The OP of a descriptor is `op`, or one that slot `k` does not run, which any row refuses. -/
def isOp (k : Bool) (op : Nat) (b : Bytes) : Bool :=
  let o := bfield b 0 1
  o == op || !(if k then [4, 6].contains o else [1, 2, 3, 5].contains o)

/-- PSET (R337). -/
def execPset (m : Nat) (s : State) : Res := .next <| s.firnWrite m false (isOp false 3)

/-- SEAL (R352 event 1). -/
def execSeal (m : Nat) (s : State) : Res := .next <| s.firnWrite m false (isOp false 1)

/-- RESYNC (R358). -/
def execResync (m : Nat) (s : State) : Res := .next <| s.firnWrite m false (isOp false 2)

/-- RESTORE_TWIN (R364). -/
def execRestoreTwin (m : Nat) (s : State) : Res :=
  .next <| s.firnWrite m false fun b => isOp false 5 b && srcOf b == 0 && !rollOf b

/-- RESTORE_COMPANION (R364). -/
def execRestoreCompanion (m : Nat) (s : State) : Res :=
  .next <| s.firnWrite m false fun b => isOp false 5 b && srcOf b == 1 && !rollOf b

/-- RESTORE_OWN_STORE (R367); SRC 3, which is reserved, is refused here. -/
def execRestoreOwnStore (m : Nat) (s : State) : Res :=
  .next <| s.firnWrite m false fun b => isOp false 5 b && decide (2 ≤ srcOf b) && !rollOf b

/-- ROLLBACK (R366). -/
def execRollback (m : Nat) (s : State) : Res :=
  .next <| s.firnWrite m false fun b => isOp false 5 b && rollOf b

/-- EXPORT (R369). -/
def execFirnExport (m : Nat) (s : State) : Res := .next <| s.firnWrite m true (isOp true 4)

/-- FIRN_RELEASE (R362). -/
def execFirnRelease (m : Nat) (s : State) : Res := .next <| s.firnWrite m true (isOp true 6)

/-- A command that waits to read its descriptor, or what its descriptor names, tries again. -/
def State.firnRetry (s : State) (k : Bool) : State :=
  match s.firnCmd k with
  | none => s
  | some x =>
    if x.status.isSome then s
    else if x.bytes.isEmpty then s.firnFetch s k x fun _ => true
    else
      let op := bfield x.bytes 0 1
      if op = 3 ∨ (op = 5 ∧ srcOf x.bytes ≠ 2 ∧ !rollOf x.bytes ∧ s.firn.rest.key.isEmpty) then s.firnDispatch k x
      else if k then exportRun (s.firn.image.length + 2) s
      else s.slotAGo

/-- A manifest that an export withheld is settled (R369). -/
def State.keeperWait (s : State) : State :=
  match s.firn.kWait with
  | some m => if s.exporting then s else (s.setFirn fun f => { f with kWait := none }).keeperSeal m
  | none => s

/-- FIRN_CMD_END (R370): a command of a slot goes on, and ends when it is done. -/
def execFirnCmdEnd (slotK : Bool) (s : State) : Res :=
  .next <| if s.firnOn 0 then ((s.refusedGo.firnRetry slotK).firnClose slotK).keeperWait else s

/-- MIRROR_TMO_EXPIRE (R358, R364): the mirror has been down for MIRROR_TMO. -/
def execMirrorTmoExpire (s : State) : Res :=
  .next <|
    match s.firn.mirDown with
    | none => s
    | some t =>
      let tmo := s.rdf cFIRN 0 FIRN.MIRROR_TMO 0 24
      if !s.firnOn 0 || s.mirUp then s
      else
        let s := if s.afterCut && decide (max t (s.rd64 cFIRN 0 FIRN.CUT_TIME) + tmo ≤ s.clk.time) then s.sealFail 8 else s
        let s := match s.served with
          | some x => if max t x.due + tmo ≤ s.clk.time then s.restEnd 8 0 else s
          | none => s
        if s.kstate = 3 ∧ t + tmo ≤ s.clk.time then s.setKstate s.firn.kReturn else s

end Sys2Proof.Machine
end

