-- ==== Sys2Proof/Machine/Links.lean ====
section
/-! DEFINITION. The links (R257–R267, R273–R281, R401–R403): training, lane groups and degrade, flits, go-back-N retry,
credits, the egress arbiter; and the router of the Serac dies (R268–R272). Links are numbered as in `linkReg`. -/
namespace Sys2Proof.Machine

/-! ### What a link is -/

/-- LINK_STAT.STATE. -/
def State.linkState (s : State) (p : Nat) : Nat :=
  let (c, i, o) := linkReg p
  s.rdf c i (o + 4) 28 4

/-- LINK_STAT.ACTIVE. -/
def State.linkActive (s : State) (p : Nat) : Nat :=
  let (c, i, o) := linkReg p
  s.rdf c i (o + 4) 16 8

/-- Writes STATE, WIDTH and ACTIVE of LINK_STAT. -/
def State.putLink (s : State) (p st width active : Nat) : State :=
  let (c, i, o) := linkReg p
  s.wr c i (o + 4) (u32 (st * 2 ^ 28 + width * 2 ^ 24 + active * 2 ^ 16))

/-- LINK_CTRL.LANE_EN. -/
def State.laneEn (s : State) (p : Nat) : Nat :=
  let (c, i, o) := linkReg p
  s.rdf c i o 0 8

/-- LINK_CTRL.AUTO_DEGRADE. -/
def State.autoDegrade (s : State) (p : Nat) : Bool :=
  let (c, i, o) := linkReg p
  s.rdb c i o 8

/-- Offset of a register that every link's page has: of the PORT, MIR or OPL page. -/
def linkOff (p port mir opl : Nat) : Nat := if p < 8 then port else if p < 10 then mir else opl

/-- Adds to a counter register of a link's page. -/
def State.bumpLink (s : State) (p port mir opl : Nat) (n : Nat := 1) : State :=
  s.bump (linkPage p).1 (linkPage p).2 (linkOff p port mir opl) n

/-- Sets an interrupt cause of a link's page. -/
def State.irqLink (s : State) (p bits : Nat) : State := s.irq (linkPage p).1 (linkPage p).2 bits

/-- What a link's records name in ADDR: the port, or the sub-link (R483). -/
def linkAddr (p : Nat) : Option Nat := if p < 8 then some p else if p < 10 then some (p - 8) else none

/-- RETRY_MAX and RETRY_TMO. -/
def State.retryMax (s : State) (p : Nat) : Nat :=
  s.rdf (linkPage p).1 (linkPage p).2 (linkOff p PORT.RETRY_CFG MIR.RETRY_CFG OPL.RETRY_CFG) 24 4
def State.retryTmo (s : State) (p : Nat) : Nat :=
  s.rdf (linkPage p).1 (linkPage p).2 (linkOff p PORT.RETRY_CFG MIR.RETRY_CFG OPL.RETRY_CFG) 0 24

/-- Credits that a receiver grants for each VC (R267, R277, R403). -/
def linkCredits (p : Nat) : List Nat :=
  if p < 8 then [32, 32, 512, 512, 512, 512] else if p < 10 then [32, 1024] else [128, 64, 64, 256]

/-- Virtual channels of a link. -/
def linkVcs (p : Nat) : Nat := (linkCredits p).length

/-! ### Lane groups (R260, R401) -/

/-- The groups, widest first and lowest-numbered first: width and lanes. -/
def laneGroups (p : Nat) : List (Nat × Nat) :=
  [(8, 0xFF), (4, 0x0F), (4, 0xF0), (2, 0x03), (2, 0x0C), (2, 0x30), (2, 0xC0)] ++
  (if p = 10 then (List.range 8).map fun k => (1, 2 ^ k) else [])

/-- The group that a link takes from the lanes good and enabled at both ends, no wider than `cap`. -/
def pickGroup (p both cap : Nat) : Option (Nat × Nat) :=
  (laneGroups p).find? fun g => decide (g.1 ≤ cap) && both &&& g.2 == g.2

/-- Lanes good at this end and enabled. -/
def State.ownLanes (s : State) (p : Nat) : Nat := s.goodLanes p &&& s.laneEn p

/-! ### Discards (R272, R281) and the loss of a link -/

/-- Adds one to the list's entry k. -/
def incAt (l : List Nat) (k n : Nat) : List Nat := (List.range (max l.length (k + 1))).map fun i =>
  if i = k then l.getD i 0 + n else l.getD i 0

/-- Credits go back to the link a packet came in on (R267). -/
def State.creditBack (s : State) (src vc n : Nat) : State :=
  if src < 8 ∧ 0 < n then
    let l := s.link src
    s.setLink src { l with crRet := incAt l.crRet vc n }
  else s

/-- The link's state is lost. Packets at its egress are discarded (R275); packets that came in whole stay, and hold no
credit of the next link. -/
def State.linkClear (s : State) (p : Nat) : State :=
  let l := s.link p
  let s := l.egress.foldl (fun s e => (s.creditBack e.src e.inVc e.owed).discard (if e.src < 8 then e.src else p) 0x05) s
  let settle (x : EgPkt) : EgPkt := if x.src = p then { x with owed := 0 } else x
  let s := (List.range 8).foldl (fun s q => s.setLink q { s.link q with egress := (s.link q).egress.map settle }) s
  let keep (x : InPkt) : InPkt := { x with flits := 0 }
  s.setLink p { inq := (l.inq.filter (fun (x : InPkt) => x.done)).map keep }

/-- What hangs on the mirror port and on Oplis when a link goes down (R277, R430). -/
def State.linkLossBefore (s : State) (p : Nat) : State := if p = 10 then s.oplisLost else s
def State.linkLossAfter (s : State) (p : Nat) : State :=
  if p = 10 then s.oplSettle
  else if (p = 8 ∨ p = 9) ∧ !s.linkUpP 8 ∧ !s.linkUpP 9 then s.firnMirrorDown else s

/-- A link that is up goes down, to STATE `st` (R275, R281, R435). -/
def State.linkLost (s : State) (p st : Nat) : State :=
  let s := s.linkLossBefore p
  let s := (s.linkClear p).putLink p st 0 0
  let s := if p < 8 then s.wr cPORT p PORT.PEER 0 else s
  let s := (s.irqLink p 2).recUC (linkPage p).1 (linkPage p).2 0x07 (linkAddr p)
  s.linkLossAfter p

/-- A link that fails to train or trains with the wrong partner: STATE `st`, and it stays down (R257, R260, R281). -/
def State.linkBad (s : State) (p st : Nat) : State :=
  ((s.putLink p st 0 0).irqLink p 2).recUC (linkPage p).1 (linkPage p).2 0x07 (linkAddr p)

/-! ### Training (R257, R276, R402) -/

/-- The coordinate next to this device's on an axis (R256). -/
def State.nextCoord (s : State) (a : Nat) (minus : Bool) : Nat :=
  let l := s.axisLen a
  if minus then (s.axisPos a + l - 1) % l else (s.axisPos a + 1) % l

/-- The partner fits the port: for a torus port the same axis, the opposite sign, the neighbouring coordinate and the same
four lengths (R257); for the mirror port a mirror port (axis 4); for Oplis a companion agent (axis 5). -/
def State.peerFits (s : State) (p : Nat) (x : PeerInfo) : Bool :=
  if p < 8 then
    let a := p / 2
    let minus := p % 2 == 1
    x.axis == a && x.minus != minus &&
      ((List.range 4).all fun k => x.lens.getD k 0 == s.axisLen k &&
        x.coord.getD k 0 == (if k = a then s.nextCoord a minus else s.axisPos k))
  else if p < 10 then x.axis == 4
  else x.axis == 5

/-- What this end declares while a link trains: rank, coordinates, axis and sign of the port, the four lengths (R257); of the
mirror port and of Oplis that it is one (R276, R402). -/
def State.linkMe (s : State) (p : Nat) : PeerInfo :=
  { rank := s.myRank, coord := (List.range 4).map s.axisPos, lens := (List.range 4).map s.axisLen
    axis := if p < 8 then p / 2 else if p < 10 then 4 else 5, minus := decide (p < 8) && p % 2 == 1 }

/-- This end advertises its good lanes (R260). -/
def State.advertise (s : State) (p : Nat) : State := s.send (.lanes p (s.ownLanes p))

/-- LINK_TRAIN (R257): the ends exchange what they are; the lanes offered take lock, and the good ones are advertised. -/
def execLinkTrain (p : Nat) (peer : PeerInfo) (s : State) : Res :=
  .next <|
    if s.linkReady p && !s.linkUpP p then
      let s := s.send (.train p (s.linkMe p))
      let s := if p < 8 then s.wr cPORT p PORT.PEER (u32 (65536 + peer.rank % 65536)) else s
      let s := s.setLink p { s.link p with lock := BitVec.ofNat 8 (s.laneEn p), win := [] }
      if s.peerFits p peer then (s.putLink p 1 0 0).advertise p else s.linkBad p 4
    else s

/-- The state of a link that has just come up: full credits, nothing sent, the lanes' own state kept. -/
def LinkSt.fresh (l : LinkSt) (p : Nat) : LinkSt :=
  { lock := l.lock, win := l.win, inq := l.inq, egress := l.egress, credit := linkCredits p }

/-- The TXIDs of requests and snoops that ended without their answer are free again: the link has retrained (R428). -/
def State.txidsFree (s : State) (p : Nat) : State :=
  if p = 10 then
    { s with opl := { s.opl with txns := s.opl.txns.filter fun e => e.2.any fun x => !x.dead
                                 snps := s.opl.snps.filter fun e => e.2.any fun x => !x.dead } }
  else s

/-- A link comes up on a group (R260). -/
def State.linkComesUp (s : State) (p width lanes : Nat) : State :=
  let first := !s.linkUpP 8 && !s.linkUpP 9
  let l := (s.link p).fresh p
  let l := if p = 10 then { l with outAt := (List.range 4).map fun v => (s.oplStream v).length } else l
  let s := (s.setLink p l).putLink p 2 width lanes
  let s := s.irqLink p 1
  if p = 10 then (s.txidsFree p).oplSettle
  else if (p = 8 ∨ p = 9) ∧ first then ({ s with pins := { s.pins with twinAliveIn := true } }).firnMirrorUp
  else s

/-- LINK_UP (R260): training ends. -/
def execLinkUp (p : Nat) (peerGood : BitVec 8) (s : State) : Res :=
  .next <|
    if s.linkReady p && s.linkState p == 1 && (s.link p).lock != 0 then
      match pickGroup p (s.ownLanes p &&& peerGood.toNat) 8 with
      | some g => s.linkComesUp p g.1 g.2
      | none => s.linkBad p 5
    else s

/-! ### Degrade and retraining (R261) -/

/-- Both ends stop sending new data and retrain, and advertise their good lanes; `full`: with every enabled lane offered. -/
def State.startRetrain (s : State) (p : Nat) (full : Bool) : State :=
  let l := s.link p
  let l := if full then { l with lock := l.lock ||| BitVec.ofNat 8 (s.laneEn p), win := [] } else l
  ((s.setLink p { l with full := full }).putLink p 3 (s.linkWidth p) (s.linkActive p)).advertise p

/-- A lane has stopped being good (R261). -/
def State.laneLost (s : State) (p : Nat) : State :=
  if s.autoDegrade p then s.startRetrain p false else s.linkLost p 0

/-- Some lane that is offered and was good, in use or not, is good no more. -/
def State.laneMissing (before s : State) (p : Nat) : Bool :=
  let was := before.ownLanes p
  s.goodLanes p &&& was != was

/-- LANE_FAULT (R261): the lane has lost lock. -/
def execLaneFault (p lane : Nat) (s : State) : Res :=
  .next <|
    if s.linkReady p && decide (lane < 8) then
      let l := s.link p
      let t := s.setLink p { l with lock := l.lock &&& ~~~ BitVec.ofNat 8 (2 ^ lane) }
      if t.linkState p == 2 && s.laneMissing t p then t.laneLost p else t
    else s

/-- RETRAIN (R261): a link that is up retrains with every enabled lane offered. -/
def execRetrain (m p : Nat) (s : State) : Res :=
  .next <|
    if p < 11 then
      s.actionWrite m (linkReg p).1 (linkReg p).2.1 (linkReg p).2.2 false fun s =>
        if s.linkReady p && s.linkState p == 2 then s.startRetrain p true else s
    else s

/-- A retraining has ended on a group: the width, a replay of what is unacknowledged, the counts (R261, R281). -/
def State.retrained (s : State) (p width lanes : Nat) : State :=
  let old := s.linkWidth p
  let l := s.link p
  let s := s.setLink p { l with full := false, replays := 0, replay := if l.retry.isEmpty then none else some 0,
                                ackDue := s.clk.time + s.retryTmo p }
  let s := s.putLink p 2 width lanes
  let s := if p < 8 ∨ p = 10 then s.bumpLink p PORT.DEGRADE_CNT 0 OPL.DEGRADE_CNT else s
  let s := s.recCE (linkPage p).1 (linkPage p).2 0x08 (linkAddr p)
  if width < old then s.irqLink p 4 else s

/-- DEGRADE_RETRAIN_DONE (R261): without RETRAIN the width does not rise. -/
def execDegradeRetrainDone (p : Nat) (peerGood : BitVec 8) (ok : Bool) (s : State) : Res :=
  .next <|
    if s.linkReady p && s.linkState p == 3 then
      match (if ok then pickGroup p (s.ownLanes p &&& peerGood.toNat) (if (s.link p).full then 8 else s.linkWidth p) else none) with
      | some g => (s.retrained p g.1 g.2).txidsFree p
      | none => s.linkLost p 5
    else s

/-- LANE_STAT of lane k: class, instance, offset. -/
def laneReg (p k : Nat) : Nat × Nat × Nat :=
  if p < 8 then (cPORT, p, PORT.LANE_STAT + 4 * k)
  else if p < 10 then (cMIR, 0, MIR.LANE_STAT + 4 * (8 * (p - 8) + k))
  else (cOPL, 0, OPL.LANE_STAT + 4 * k)

/-- The eye margins of the lanes. -/
def State.putEyes (s : State) (p : Nat) (eyes : List (Nat × Nat)) : State :=
  (List.range 8).foldl (fun s k =>
    let (c, i, o) := laneReg p k
    let e := eyes.getD k (0, 0)
    s.wr c i o (u32 (min 255 e.1 * 65536 + min 255 e.2 * 256))) s

/-- What a 1 ms window of the timebase has found (R259, R260). -/
def State.fecWindow (s : State) (p : Nat) (uncorr corr : List Nat) (lock : BitVec 8) (eyes : List (Nat × Nat)) : State :=
  let before := s
  let n := (uncorr.take 8).foldl (· + ·) 0
  let s := s.setLink p { s.link p with lock := lock, win := uncorr.take 8 }
  let s := s.putEyes p eyes
  let s := if n = 0 then s else
    let s := s.bumpLink p PORT.FEC_UNCORR_CNT MIR.FEC_UNCORR_CNT OPL.FEC_UNCORR_CNT n
    if p < 8 ∨ p = 10 then s.irqLink p 8 else s
  let s := if p < 8 then s.bump64 cPORT p PORT.FEC_CORR ((corr.take 8).foldl (· + ·) 0) else s
  if s.linkState p == 2 && before.laneMissing s p then s.laneLost p else s

/-- FEC_WINDOW_END (R260). -/
def execFecWindowEnd (p : Nat) (uncorr corr : List Nat) (lock : BitVec 8) (eyes : List (Nat × Nat)) (s : State) : Res :=
  .next <|
    if s.linkReady p && s.clk.running && s.clk.time % 100000 == 0 then s.fecWindow p uncorr corr lock eyes else s

/-! ### Flits (R262, R263) -/

/-- The fold word of R263: the sequence number of a DATA flit, 0x0001_0000 for any other kind. -/
def foldWord (seq : Option Nat) : Nat := match seq with | some n => n % 65536 | none => 0x10000

/-- The CRC of a flit's bytes 0x00 to 0xFB. -/
def flitCrc (seq : Option Nat) (b : Bytes) : Nat := crc32c (toLE 4 (foldWord seq) ++ b.take 252)

/-- A flit with its CRC. -/
def flitSeal (seq : Option Nat) (b : Bytes) : Bytes := bpad b 252 ++ toLE 4 (flitCrc seq (bpad b 252))

/-- Places of the retry buffer (R264). -/
abbrev retrySize : Nat := 512

/-- The credits that the next flit returns: VC and the cumulative count modulo 256, at most 255 above the last. -/
def LinkSt.creditOut (l : LinkSt) (p : Nat) : Nat × Nat :=
  let v := l.crTurn % linkVcs p
  (v, min (l.crRet.getD v 0) (l.crRep.getD v 0 + 255))

/-- The list with entry k replaced. -/
def putAt (l : List Nat) (k x : Nat) : List Nat := (List.range (max l.length (k + 1))).map fun i =>
  if i = k then x else l.getD i 0

/-- A flit leaves: acknowledgement and returned credits are filled in, the CRC closes it (R262–R264). -/
def State.flitOut (s : State) (p kind vc flags : Nat) (payload : Bytes) (seq : Option Nat) : State :=
  let l := s.link p
  let c := l.creditOut p
  let ackv := if kind = 2 then 0 else if l.rxAny then 8 else 0
  let ack := if kind = 2 then l.rxNext else if l.rxAny then (l.rxNext + 65535) % 65536 else 0
  let b := toLE 1 kind ++ toLE 1 vc ++ toLE 1 payload.length ++ toLE 1 (flags + ackv) ++ toLE 2 ack ++ toLE 1 c.1 ++
    toLE 1 c.2 ++ toLE 4 0 ++ payload
  let s := s.setLink p { l with crRep := putAt l.crRep c.1 c.2, crTurn := (c.1 + 1) % linkVcs p }
  s.send (.flit p (flitSeal seq b))

/-- Sequence number of place i of the retry buffer. -/
def LinkSt.seqAt (l : LinkSt) (i : Nat) : Nat := (l.txNext + 65536 - l.retry.length + i) % 65536

/-- A DATA flit leaves, new or replayed. -/
def State.dataOut (s : State) (p : Nat) (f : TxFlit) (seq : Nat) : State :=
  s.flitOut p 1 f.vc (b2n f.head + 2 * b2n f.tail + 4 * b2n f.pois) f.payload (some seq)

/-! ### The egress (R267, R273, R274) -/

/-- The egress of a port is frozen. -/
def State.egFrozen (s : State) (p : Nat) : Bool := s.rdb (linkPage p).1 (linkPage p).2 hFREEZE 0

/-- WAIT_LIMIT of an egress requester. -/
def State.waitLimit (s : State) (p r : Nat) : Nat := s.rdf cARB (egGroup p) (ARB.WAIT_LIMIT + 4 * r) 0 8

/-- The requester that takes the next grant: the lowest one that has waited for its non-zero limit (R456). -/
def State.forced (s : State) (p : Nat) : Option Nat :=
  (List.range 11).find? fun r =>
    s.reqWaits p r && s.waitLimit p r != 0 && decide (s.waitLimit p r ≤ (s.link p).waits.getD r 0)

/-- A packet of a VC is being sent. -/
def LinkSt.vcBusy (l : LinkSt) (v : Nat) : Bool := l.egress.any fun e => e.outVc == v && e.sent != 0

/-- The packet whose next flit leaves on a VC: the one already granted, else, unless frozen, the oldest of the requester whose
win is forced or of the one next in turn; a masked one has no turn (R273, R274, R456, R457). -/
def State.vcPacket (s : State) (p v : Nat) : Option EgPkt :=
  let l := s.link p
  let here := l.egress.filter fun e => e.outVc == v
  match here.find? fun e => e.sent != 0 with
  | some e => some e
  | none =>
    if s.egFrozen p then none
    else
      let last := l.lastReq.getD v 10
      let turn := ((s.forced p).toList ++ (List.range 11).map fun k => (last + 1 + k) % 11).filter fun r => !s.arbMasked (egGroup p) r
      turn.findSome? fun r => here.find? fun e => egReq p e.src == r

/-- A VC has a ready flit and credit. -/
def State.vcReady (s : State) (p v : Nat) : Bool :=
  decide (0 < (s.link p).credit.getD v 0) && (s.vcPacket p v).isSome

/-- A VC on which a forced win can be granted now. -/
def State.forcedVc (s : State) (p v : Nat) : Bool :=
  s.vcReady p v && !(s.link p).vcBusy v && (s.forced p).any fun r => (s.vcPacket p v).any fun e => egReq p e.src == r

/-- The VC that sends: of a forced win, then CTL, then RED and XCH in turn. -/
def State.pickVc (s : State) (p : Nat) : Option Nat :=
  ((List.range 6).find? (s.forcedVc p)).or <|
    ([0, 1].find? (s.vcReady p)).or <|
      ((List.range 4).map fun k => 2 + ((s.link p).lastVc + 3 + k) % 4).find? (s.vcReady p)

/-- The egress grants requester r: the others that wait have waited for one grant more, a masked one for none; a forced win is
counted (R456, R457). -/
def State.egGrant (s : State) (p r : Nat) : State :=
  let g := egGroup p
  let w := (List.range 11).map fun q =>
    if q = r ∨ s.arbMasked g q then 0 else (s.link p).waits.getD q 0 + b2n (s.reqWaits p q)
  let f := s.forced p == some r
  let s := s.setLink p { s.link p with waits := w }
  let s := s.grant g
  if f then (s.bump cARB g (ARB.FORCED_CNT + 4 * r)).irq cARB g 1 else s

/-- Takes out the first packet of the list that is the given one. -/
def dropPkt (e : EgPkt) : List EgPkt → List EgPkt
  | [] => []
  | x :: r => if x = e then r else x :: dropPkt e r

/-- The first packet of the list that is the given one gets another. -/
def replPkt (e f : EgPkt) : List EgPkt → List EgPkt
  | [] => []
  | x :: r => if x = e then f :: r else x :: replPkt e f r

/-- The next flit of a packet leaves: it enters the retry buffer, takes a credit, and frees a place of the input buffer. -/
def State.sendNew (s : State) (p v : Nat) (e : EgPkt) : State :=
  let s := if e.sent = 0 then s.egGrant p (egReq p e.src) else s
  let l := s.link p
  let rest := e.bytes.drop (240 * e.sent)
  let tail := decide (rest.length ≤ 240)
  let f : TxFlit := { vc := v, head := e.sent == 0, tail := tail, pois := e.pois, payload := rest.take 240 }
  let back := if tail then e.owed else min 1 e.owed
  let l := { l with retry := l.retry ++ [f], txNext := (l.txNext + 1) % 65536
                    ackDue := if l.retry.isEmpty then s.clk.time + s.retryTmo p else l.ackDue
                    credit := putAt l.credit v (l.credit.getD v 0 - 1)
                    egress := if tail then dropPkt e l.egress
                              else replPkt e { e with sent := e.sent + 1, owed := e.owed - back } l.egress
                    lastVc := if 2 ≤ v then v else l.lastVc
                    lastReq := if e.sent = 0 then putAt (l.lastReq ++ List.replicate (6 - l.lastReq.length) 10) v (egReq p e.src)
                               else l.lastReq }
  let seq := (l.txNext + 65535) % 65536
  let s := (s.setLink p l).creditBack e.src e.inVc back
  let s := if p < 8 then s.bump64 cPORT p PORT.TX_FLITS else if p < 10 then s.bump64 cMIR 0 MIR.TX_FLITS else s
  s.dataOut p f seq

/-! ### New flits -/

/-- A virtual network has slots to send and credit. -/
def State.vnReady (s : State) (v : Nat) : Bool :=
  decide (0 < (s.link 10).credit.getD v 0) && decide ((s.link 10).outAt.getD v 0 < (s.oplStream v).length)

/-- The virtual network that sends: in turn (log 68). -/
def State.pickVn (s : State) : Option Nat :=
  ((List.range 4).map fun k => ((s.link 10).lastVc + 1 + k) % 4).find? s.vnReady

/-- The next DATA flit of a virtual network: up to 15 slots, HEAD and TAIL 0 (R404). -/
def State.oplFlit (s : State) (v : Nat) : State :=
  let l := s.link 10
  let pay := ((s.oplStream v).drop (l.outAt.getD v 0)).take 240
  let f : TxFlit := { vc := v, head := false, tail := false, pois := false, payload := pay }
  let l1 := { l with retry := l.retry ++ [f], txNext := (l.txNext + 1) % 65536
                     ackDue := if l.retry.isEmpty then s.clk.time + s.retryTmo 10 else l.ackDue
                     credit := putAt l.credit v (l.credit.getD v 0 - 1)
                     outAt := putAt l.outAt v (l.outAt.getD v 0 + pay.length)
                     lastVc := v }
  (s.setLink 10 l1).dataOut 10 f l.txNext

/-- A new flit of a link, where one can leave: of a packet, or of a message stream. -/
def State.newFlit (s : State) (p : Nat) : Option State :=
  if p = 10 then s.pickVn.map s.oplFlit
  else
    match s.pickVc p with
    | some v => (s.vcPacket p v).map (s.sendNew p v)
    | none => none

/-- FLIT_SEND (R264, R273): a replay goes first; then a new flit; else an IDLE flit. -/
def execFlitSend (p : Nat) (s : State) : Res :=
  .next <|
    if s.linkReady p && s.linkState p == 2 then
      let l := s.link p
      match l.replay with
      | some i =>
        match l.retry[i]? with
        | some f =>
          let seq := l.seqAt i
          (s.setLink p { l with replay := if i + 1 < l.retry.length then some (i + 1) else none }).dataOut p f seq
        | none => (s.setLink p { l with replay := none }).flitOut p 0 0 0 [] none
      | none =>
        match (if l.retry.length < retrySize then s.newFlit p else none) with
        | some u => u
        | none => s.flitOut p 0 0 0 [] none
    else s

/-! ### Retry (R264) -/

/-- The sender replays from the oldest unacknowledged flit, or retrains after RETRY_MAX replays in a row. -/
def State.replayGo (s : State) (p : Nat) : State :=
  let l := s.link p
  if l.retry.isEmpty then s
  else if s.retryMax p ≤ l.replays then s.startRetrain p true
  else
    (s.setLink p { l with replay := some 0, replays := l.replays + 1, ackDue := s.clk.time + s.retryTmo p }).bumpLink p
      PORT.REPLAY_CNT MIR.REPLAY_CNT OPL.REPLAY_CNT

/-- Every flit before number `next` is acknowledged. -/
def State.ackTo (s : State) (p next : Nat) : State :=
  let l := s.link p
  let n := (next % 65536 + 65536 - l.seqAt 0) % 65536
  if n = 0 ∨ l.retry.length < n then s
  else
    s.setLink p { l with retry := l.retry.drop n, replays := 0, ackDue := s.clk.time + s.retryTmo p,
                         replay := match l.replay with
                           | some i => if n < l.retry.length then some (i - n) else none
                           | none => none }

/-- A NAK arrives (R264): what lies before the number it expects is acknowledged, the rest is replayed. -/
def State.nakIn (s : State) (p seq : Nat) : State := (s.ackTo p seq).replayGo p

/-- NAK_RECEIVE (R264). -/
def execNakReceive (p seq : Nat) (s : State) : Res :=
  .next <| if s.linkReady p && s.linkState p == 2 then s.nakIn p seq else s

/-- RETRY_TMO_EXPIRE (R264). -/
def execRetryTmoExpire (p : Nat) (s : State) : Res :=
  .next <|
    if s.linkReady p && s.linkState p == 2 && !(s.link p).retry.isEmpty && decide ((s.link p).ackDue ≤ s.clk.time) then
      s.replayGo p
    else s

/-! ### Receiving (R263, R264, R267) -/

/-- Kind of a flit. -/
def flitKind (b : Bytes) : Nat := bfield b 0 1

/-- The flit passes: 256 bytes, the CRC under the number expected, a virtual channel of the link; on Oplis a PLEN of whole
slots (R404; a flit with another PLEN is discarded as R403 discards one of an unused VC, log 68). -/
def LinkSt.flitOk (l : LinkSt) (p : Nat) (b : Bytes) (fecBad : Bool) : Bool :=
  let data := flitKind b == 1
  !fecBad && b.length == 256 && (!data || decide (bfield b 1 1 % 8 < linkVcs p)) &&
    (!data || p != 10 || (bfield b 2 1 % 16 == 0 && decide (bfield b 2 1 ≤ 240))) && bfield b 0xFC 4 == flitCrc (if data then some l.rxNext else none) b

/-- A flit fails: counted, and the first failure since the last accepted flit sends a NAK (R264). -/
def State.flitFail (s : State) (p : Nat) : State :=
  let s := s.bumpLink p PORT.CRC_ERR_CNT MIR.CRC_ERR_CNT OPL.CRC_ERR_CNT
  let l := s.link p
  if l.nakked then s else (s.setLink p { l with nakked := true }).flitOut p 2 0 0 [] none

/-- Returned credits are taken: the count is cumulative. -/
def State.creditIn (s : State) (p vc n : Nat) : State :=
  let l := s.link p
  let d := (n + 256 - l.crSeen.getD vc 0) % 256
  if vc < linkVcs p then
    s.setLink p { l with crSeen := putAt l.crSeen vc (n % 256)
                         credit := putAt l.credit vc (min ((linkCredits p).getD vc 0) (l.credit.getD vc 0 + d)) }
  else s

/-- Acknowledgement and credits of a flit that passed. -/
def State.flitTake (s : State) (p : Nat) (b : Bytes) : State :=
  let s := s.creditIn p (bfield b 6 1) (bfield b 7 1)
  if flitKind b ≤ 1 ∧ bit (bslice b 3 1)[0]! 3 then s.ackTo p (bfield b 4 2 + 1) else s

/-- The open packet of a VC takes the payload; HEAD opens one. -/
def takePayload (vc : Nat) (head tail pois : Bool) (pay : Bytes) : List InPkt → List InPkt
  | [] => if head then [⟨vc, pay, 1, pois, tail⟩] else []
  | x :: r =>
    if x.vc = vc ∧ !x.done then { x with bytes := x.bytes ++ pay, flits := x.flits + 1, pois := x.pois || pois, done := tail } :: r
    else x :: takePayload vc head tail pois pay r

/-- A packet that the mirror link has brought whole reaches its endpoint (R277, R360); what its message does comes with the
message's own command (log 103). -/
def State.mirDeliver (s : State) (p : Nat) : State :=
  let l := s.link p
  let give (s : State) (x : InPkt) : State :=
    let b := x.bytes
    s.send (.deliver p (bfield b 7 1 % 64) (bfield b 2 2) (u32 (bfield b 0xC 4)) (bslice b 16 (bfield b 8 4)) x.pois)
  (l.inq.filter (·.done)).foldl give (s.setLink p { l with inq := l.inq.filter (!·.done) })

/-- A DATA flit is accepted in order. -/
def State.dataIn (s : State) (p : Nat) (b : Bytes) : State :=
  let l := s.link p
  let vc := bfield b 1 1 % 8
  let fl := (bslice b 3 1)[0]!
  let pay := bslice b 0x0C (min 240 (bfield b 2 1))
  let l := { l with rxNext := (l.rxNext + 1) % 65536, rxAny := true, nakked := false }
  let l := if p < 10 then { l with inq := takePayload vc (bit fl 0) (bit fl 1) (bit fl 2) pay l.inq } else l
  let l := if p = 10 then { l with inAt := (List.range 4).map fun v => l.inAt.getD v [] ++ (if v = vc then pay else []) } else l
  let l := if p < 8 then l else { l with crRet := incAt l.crRet vc 1 }
  let s := s.setLink p l
  if p < 8 then s.bump64 cPORT p PORT.RX_FLITS
  else if p < 10 then (s.bump64 cMIR 0 MIR.RX_FLITS).mirDeliver p
  else s

/-- A flit comes in on a link that is up (R264). -/
def State.flitIn (s : State) (p : Nat) (flit : Bytes) (fecBad : Bool) : State :=
  if s.linkReady p && s.linkState p == 2 then
    if !(s.link p).flitOk p flit fecBad then s.flitFail p
    else
      let s := s.flitTake p flit
      if flitKind flit = 1 then s.dataIn p flit
      else if flitKind flit = 2 then s.nakIn p (bfield flit 4 2)
      else s
  else s

/-! ### The router (R266, R268–R272) -/

/-- A packet is routed: delivered, queued at its egress, or discarded. `owed` flits of input buffer go with it. -/
def State.routePkt (s : State) (src vc owed : Nat) (k : Packet) : State :=
  match s.wayOf src vc k with
  | .drop p cause b => (s.creditBack src vc owed).dropAt p cause b
  | .here => (s.creditBack src vc owed).send (.deliver src k.ep k.src k.tag k.body k.pois)
  | .out p v =>
    s.enqueue p [{ src := src, inVc := vc, outVc := v, bytes := pktBytes k, pois := k.pois, sent := 0, owed := owed }]

/-- A packet that came in on the same port and VC still waits at some egress (R274). -/
def State.headBlocked (s : State) (src vc : Nat) : Bool :=
  s.links.any fun e => e.2.egress.any fun x => x.src == src && x.inVc == vc

/-- Takes the first packet of a VC out of an input queue. -/
def dropIn (vc : Nat) : List InPkt → List InPkt
  | [] => []
  | x :: r => if x.vc = vc then r else x :: dropIn vc r

/-- PACKET_ROUTE (R268): from an input port the packet at the head of its VC, which the operand is; where the port holds none,
the operand has just arrived whole. From an injector the operand. -/
def execPacketRoute (src vc : Nat) (pkt : Packet) (s : State) : Res :=
  .next <|
    if !s.live then s
    else if src < 8 then
      if !s.on (72 + src) || !decide (vc < 6) || s.headBlocked src vc then s
      else
        match (s.link src).inq.find? fun x => x.vc == vc with
        | none => s.routePkt src vc 0 pkt
        | some x =>
          if x.done && x.bytes == pktBytes pkt && x.pois == pkt.pois then
            (s.setLink src { s.link src with inq := dropIn vc (s.link src).inq }).routePkt src vc x.flits pkt
          else s
    else if src < 11 then s.routePkt src 6 0 pkt
    else s

/-! ### EN and GEOM (R275) -/

/-- The links of a link's page. -/
def pageLinks (p : Nat) : List Nat := if p = 8 ∨ p = 9 then [8, 9] else [p]

/-- EN has been written: a link starts to train, or goes down. -/
def State.enEdge (s : State) (p : Nat) (en : Bool) : State :=
  if en then (if s.linkUpP p || !s.on (linkDomain p) then s else (s.setLink p { s.link p with lock := 0 }).putLink p 1 0 0)
  else if s.linkUpP p then s.linkLost p 0
  else (s.setLink p { s.link p with lock := 0 }).putLink p 0 0 0

/-- A write of EN of a link's page. -/
def State.enWrite (s : State) (p : Nat) (en : Bool) : State :=
  if s.linkEn p = en then s
  else (pageLinks p).foldl (fun s q => s.enEdge q en) (s.wrb (linkPage p).1 (linkPage p).2 hCTRL 0 en)

/-- PORT_CTRL_EN (R275). -/
def execPortCtrlEn (m p : Nat) (en : Bool) (s : State) : Res :=
  .next <| if p < 11 then s.ownerWrite m (linkPage p).1 (linkPage p).2 hCTRL false (·.enWrite p en) else s

/-- A write of GEOM: both pages of the axis change, if every port is frozen and drained. -/
def State.geomSet (s : State) (p : Nat) (v : W32) : State :=
  if (List.range 8).all fun q => s.drained cPORT q then
    let x := v &&& 0x3F3F
    (s.wr cPORT (p / 2 * 2) PORT.GEOM x).wr cPORT (p / 2 * 2 + 1) PORT.GEOM x
  else s.recUC cPORT p 0x01 (some p)

/-- GEOM_WRITE (R275). -/
def execGeomWrite (m p : Nat) (v : BitVec 32) (s : State) : Res :=
  .next <| if p < 8 then s.ownerWrite m cPORT p PORT.GEOM false (·.geomSet p v) else s

end Sys2Proof.Machine
end

