-- ==== Sys2Proof/Machine/SwitchOff.lean ====
section
/-! DEFINITION. Events 3 to 5 of a domain's switch-off (R465, R467): what a block loses with its supply. Registers keep their
values, and the stacks their contents (R379). -/
namespace Sys2Proof.Machine

/-- Firn instance 0 loses its bitmaps, its copy of the set, and what it has heard; the chunks in the work area and in the
mirror store lie in HBM. -/
def FirnSt.lost (f : FirnSt) : FirnSt :=
  { everEn := f.everEn, mirDown := f.mirDown, sealed := f.sealed, sealRoot := f.sealRoot, poisEpoch := f.poisEpoch,
    kKey := f.kKey, kChunks := f.kChunks, kManifest := f.kManifest, kEpochCur := f.kEpochCur, kBad := f.kBad }

/-- A link of the domain loses its state; one that is up goes down. -/
def State.linkOff (s : State) (p : Nat) : State :=
  if s.linkUpP p then s.linkLost p 0 else (s.setLink p {}).putLink p 0 0 0

/-- The functional state of a domain's blocks is lost (R465). -/
def State.pdLose (s : State) (d : Nat) : State :=
  if d < 64 then s.pairClear d
  else if d < 72 then s.wrb cHBM (d - 64) hSTAT 2 false
  else if d < 80 then (s.linkOff (d - 72)).setLink (d - 72) {}
  else if d = 80 then (s.linkOff 8).linkOff 9
  else if d = 81 then { s.linkOff 10 with opl := { (s.linkOff 10).opl with txns := [], rdbuf := [], fails := [] } }
  else if d < 84 then
    { s with xch := mset {} s.xch (d - 82) {}, walks := s.walks.filter fun e => e.1 / 32768 != d - 82 }
  else if d < 86 then { s with opt := mset {} s.opt (d - 84) {} }
  else if d = 86 then { s with firn := s.firn.lost }
  else if d = 88 ∨ d = 89 then s.bridgeClear d
  else if d < 94 then s
  else { s with prn := mset {} s.prn (d - 94) {} }

/-- PD_SWITCH_OFF (R467): once the domain has drained, its switch opens. -/
def execPdSwitchOff (pd : Nat) (s : State) : Res :=
  .next <|
    if decide (pd < 96) && s.live && (s.pdst pd).phase == .offWait && s.pdDrained pd then
      let s := s.pdLose pd
      (s.setPd pd { s.pdst pd with phase := .off }).pdEnded pd
    else s

end Sys2Proof.Machine
end

