-- ==== Sys2Proof/Machine/Access.lean ====
section
/-! DEFINITION. Accesses to the register pages (R12–R16, R38, R424, R436–R439, R458): what a write does in every register, what
a read returns and clears, counter clears, freezes, and the masters' ways to a register. -/
namespace Sys2Proof.Machine

/-! ### Counter clears (R39, R75 and every page's CLR_CNT) -/

/-- Offsets of the 64-bit counters that CLR_CNT of a page clears beside its RC registers; TJ_PEAK takes the present TJ. -/
def clr64 (cls : Nat) : List Nat :=
  match cls with
  | 0x2 => [PWR.THROTTLE]
  | 0x10 => [TILE.ARRAY_HS]
  | 0x11 => [VEC.VEC_HS, VEC.SFU_HS]
  | 0x12 => [DSP.SWITCH]
  | 0x13 => [CTX.SAVES, CTX.RESUMES]
  | 0x20 => [HBM.RD_SECT, HBM.WR_SECT]
  | 0x30 => [PORT.TX_FLITS, PORT.RX_FLITS, PORT.FEC_CORR]
  | 0x31 => [MIR.TX_FLITS, MIR.RX_FLITS]
  | 0x32 => [OPL.TX_MSG, OPL.RX_MSG, OPL.LC_HIT, OPL.LC_MISS]
  | 0x33 => [RED.BLOCKS]
  | 0x34 => [CALV.BYTES_OUT, CALV.BYTES_IN]
  | 0x40 => [XCH.ROWS]
  | 0x41 => [SMP.DRAWS, SMP.EDGES]
  | 0x43 => [PRN.MERGE_REC]
  | 0x45 => [OPT.ELEM]
  | 0x46 => [FIRN.SENT_GRAN, FIRN.SENT_BYTES, FIRN.RECV_BYTES]
  | 0x48 => [ARB.GRANTS]
  | _ => []

/-- The RC registers of a class, ERR_COUNT apart. -/
def rcOffs (cls : Nat) : List Nat :=
  ((pageRows cls).filter fun r => r.acc == .rc && r.off != hERR_COUNT).flatMap fun r =>
    (List.range r.cnt).map fun k => r.off + k * r.step

/-- CLR_CNT of a page: its 64-bit and RC counters clear at one instant; of the ERR page, every page's ERR_COUNT (R494). -/
def State.clrCounters (s : State) (cls inst : Nat) : State :=
  if cls = cERR then { s with regs := s.regs.filter fun e => e.1 % 4096 != hERR_COUNT }
  else
    let s := (rcOffs cls).foldl (fun s o => s.wr cls inst o 0) s
    let s := (clr64 cls).foldl (fun s o => s.wr64 cls inst o 0) s
    if cls = cPWR then s.wr cPWR 0 PWR.TJ_PEAK (s.rd cPWR 0 PWR.TJ) else s

/-- The CTRL bit that holds CLR_CNT of a page. -/
def clrBit (cls : Nat) : Option Nat :=
  match cls with
  | 0x1 => some 0
  | 0x0 | 0x2 | 0x5 | 0x6 | 0x10 | 0x11 | 0x12 | 0x13 | 0x20 | 0x22 | 0x30 | 0x31 | 0x32 | 0x34 | 0x43 | 0x46 | 0x48 => some 1
  | 0x33 | 0x40 | 0x41 | 0x45 => some 2
  | _ => none

/-- CLR_CNT: the other bits are written as they stand. -/
def execClrCnt (m cls inst : Nat) (s : State) : Res :=
  .next <| s.ownerWrite m cls inst hCTRL false fun s => if (clrBit cls).isSome then s.clrCounters cls inst else s

/-! ### FREEZE (R458) -/

/-- What a thaw lets go on. -/
def State.thawed (s : State) (cls inst : Nat) : State :=
  if cls = cXCH ∨ cls = cSMP then s.xchGo inst
  else if cls = cRED then s.chanGo inst
  else if cls = cHBM ∨ cls = cOPL then (((s.oplSettle.xchGo 0).xchGo 1).ctxGo 0).ctxGo 1
  else if cls = cTILE then (s.xchGo 0).xchGo 1
  else s

/-- A write of FREEZE; an ARB page shows the FREEZE of the page that owns the group, and a page without an arbiter ignores
the write. -/
def State.freezeSet (s : State) (cls inst : Nat) (f : Bool) : State :=
  let (c, i) := freezePage cls inst
  if (regRow c hFREEZE).isNone then s
  else
    let s := s.wrb c i hFREEZE 0 f
    if f then s else s.thawed c i

/-- FREEZE_WRITE (R458). -/
def execFreezeWrite (m cls inst : Nat) (f : Bool) (s : State) : Res :=
  .next <| s.ownerWrite m cls inst hFREEZE false (·.freezeSet cls inst f)

/-! ### CTRL -/

/-- A write that starts an action in a page whose domain is off has no effect and is recorded (R465). -/
def State.pageAct (s : State) (cls inst : Nat) (f : State → State) : State :=
  if s.pageOn cls inst then f s else s.offAction cls inst

/-- The bits of CTRL that keep their value take it. -/
def State.ctrlPlain (s : State) (cls inst : Nat) (v : W32) : State :=
  match regRow cls hCTRL with
  | some r => s.wr cls inst hCTRL ((s.rd cls inst hCTRL &&& ~~~ u32 r.mask) ||| (v &&& u32 r.mask))
  | none => s

/-- The RW bits of CTRL, with what follows from their change. -/
def State.ctrlRw (s : State) (cls inst : Nat) (v : W32) : State :=
  match cls with
  | 0x2 => s.shedEdge (s.ctrlPlain cls inst v)
  | 0x12 =>
    let s := s.wrb cDSP inst hCTRL 0 (bit v 0)
    if bit v 2 = s.rdb cDSP inst hCTRL 2 then s else s.dspHold inst (bit v 2)
  | 0x13 => if bit v 0 then s.ctxEnSet inst else s.wrb cCTX inst hCTRL 0 false
  | 0x20 => s.scrubEn inst (bit v 2)
  | 0x30 => s.enWrite inst (bit v 0)
  | 0x31 => (s.wrb cMIR 0 hCTRL 2 (bit v 2)).enWrite 8 (bit v 0)
  | 0x32 => (s.wrb cOPL 0 hCTRL 3 (bit v 3)).enWrite 10 (bit v 0)
  | 0x46 =>
    if inst = 0 then
      let rise := bit v 0 && !s.rdb cFIRN 0 hCTRL 0
      let s := s.ctrlPlain cFIRN 0 v
      if rise && s.pageOn cFIRN 0 then s.firnEnable else s
    else s
  | 0x47 => s.shdEn inst (bit v 0)
  | _ => s.ctrlPlain cls inst v

/-- The bits of CTRL that perform an action, CLR_CNT apart. -/
def State.ctrlWo (s : State) (cls inst : Nat) (v : W32) : State :=
  match cls with
  | 0x0 => if bit v 0 then (s.enterReset.resetWhy false true false).leaveReset else s
  | 0x3 => if bit v 1 then s.clrHs else s
  | 0x4 =>
    let s := if bit v 1 then s.clrHist else s
    if bit v 2 then { s with age := { s.age with asked := true } } else s
  | 0x6 => if bit v 2 then s.clrLog else s
  | 0x11 => if bit v 2 then s.pageAct cVEC inst (·.katGo inst) else s
  | 0x20 => if bit v 3 then s.pageAct cHBM inst (·.hbmInit inst) else s
  | 0x22 =>
    if bit v 2 || bit v 0 then
      s.pageAct cCVU inst fun s =>
        let s := if bit v 2 then s.cvuAbort inst else s
        if bit v 0 then s.cvuGo inst else s
    else s
  | 0x32 => if bit v 4 then s.pageAct cOPL 0 (·.quiesce) else s
  | 0x33 => if bit v 3 then s.redReset inst else s
  | 0x46 => if bit v 4 && inst == 0 then s.pageAct cFIRN 0 (·.sealCancel) else s
  | 0x47 => if bit v 1 then s.shdClr inst else s
  | _ => s

/-- A write of CTRL: the RW bits, then CLR_CNT, then the actions. -/
def State.ctrlWrite (s : State) (cls inst : Nat) (v : W32) : State :=
  let s := s.ctrlRw cls inst v
  let s := match clrBit cls with | some b => if bit v b then s.clrCounters cls inst else s | none => s
  s.ctrlWo cls inst v

/-! ### The registers whose write does more than store -/

/-- CMD of a CTX page (R450). -/
def State.ctxCmdReg (s : State) (fl : Nat) (v : W32) : State :=
  let c := fl * 32768 + fld v 0 15
  s.pageAct cCTX fl (·.ctxTake (fld v 28 4) c)

/-- CMD of the SEC page (R514): a reserved OP is refused. -/
def State.secCmdReg (s : State) (v : W32) : State :=
  let a := fld v 0 6
  match fld v 28 4 with
  | 1 => s.secStart 1 0 false 0
  | 2 => s.secStart 2 a false (if s.arbOk a then 0 else 0x0B)
  | 3 => s.secStart 3 a (decide (a < 2) || decide (7 < a)) 0
  | 4 => s.secStart 4 a false (if s.fuses.dbgDisable then 0x09 else 0)
  | 5 => s.secStart 5 0 false 0
  | op => s.secStart op 0 true 0

/-- The window of the SEC page: only the debug token is written (R514). -/
def State.secWin (s : State) (off : Nat) (v : W32) : State :=
  let o := 2048 * s.rdf cSEC 0 SEC.WIN_SEL 0 1 + (off - SEC.WIN)
  if s.rdf cSEC 0 SEC.WIN_SEL 16 3 = 5 then
    let put (t : SMap Byte) (k : Nat) : SMap Byte :=
      if o + k < 3828 then mset 0 t (o + k) (BitVec.ofNat 8 (fld v (8 * k) 8)) else t
    { s with sec := { s.sec with token := (List.range 4).foldl put s.sec.token } }
  else s

/-- LINK_CTRL of a link: the lanes and AUTO_DEGRADE are kept; RETRAIN acts (R261). -/
def State.linkCtrlWrite (s : State) (p : Nat) (v : W32) : State :=
  let (c, i, o) := linkReg p
  let s := s.wr c i o (v &&& 0x1FF)
  if bit v 31 then s.pageAct c i fun s => if s.linkReady p && s.linkState p == 2 then s.startRetrain p true else s else s

/-- Bits that a register keeps or clears by its row of the page's table (R12, R13). -/
def State.plainWrite (s : State) (cls inst off : Nat) (v : W32) : State :=
  if regHidden cls inst off then s else
  match regRow cls off with
  | some r =>
    match r.acc with
    | .rw => s.wr cls inst off ((s.rd cls inst off &&& ~~~ u32 r.mask) ||| (v &&& u32 r.mask))
    | .w1c => s.wr cls inst off (s.rd cls inst off &&& ~~~ (v &&& u32 r.mask))
    | _ => s
  | none => s

/-- The parameters of a CVU (R395). -/
def cvuParam (off : Nat) : Bool := decide (0x40 ≤ off) && (regRow cCVU off).any fun r => r.acc == .rw

/-- A scan or a Calving uses the unit: its parameters do not change (R395). -/
def State.cvuBusy (s : State) (n : Nat) : Bool := (s.scanOf n).isSome || s.calvUse n

/-- A write of a register other than the header's: the registers with an effect of their own, then the plain ones. -/
def State.bodyWrite (s : State) (cls inst off : Nat) (v : W32) : State :=
  let plain := s.plainWrite cls inst off v
  match cls with
  | 0x1 =>
    if off = OWN.RENEW then (if bit v 0 then s.renewLease else s)
    else if off = OWN.RELEASE then s.releaseWrite v else plain
  | 0x2 => if PWR.PD_ON0 ≤ off ∧ off < PWR.PD_ON0 + 12 then s.pdOnWrite ((off - PWR.PD_ON0) / 4) v else plain
  | 0x3 =>
    if TIM.GPT_TCTRL ≤ off ∧ off < TIM.GPT_TCTRL + 256 ∧ (off - TIM.GPT_TCTRL) % 16 = 0 then
      s.tctrlWrite ((off - TIM.GPT_TCTRL) / 16) v else plain
  | 0x5 => if off = SEC.CMD then s.secCmdReg v else if SEC.WIN ≤ off then s.secWin off v else plain
  | 0x6 =>
    if off = ERR.POP then (if bit v 0 then s.popErr else s)
    else if off = ERR.CLR_FIRST then (if bit v 0 then s.clrFirst else s) else plain
  | 0x10 => if off = TILE.DRAIN_CTRL ∧ bit v 31 then s.pageAct cTILE inst (·.drainGo inst v) else plain
  | 0x11 => if off = VEC.SEED0 + 12 then s.seed3 cVEC inst v else plain
  | 0x13 => if off = CTX.CMD then s.ctxCmdReg inst v else plain
  | 0x30 => if off = PORT.LINK_CTRL then s.linkCtrlWrite inst v else if off = PORT.GEOM then s.geomSet inst v else plain
  | 0x31 =>
    if off = MIR.SUB0_CTRL then s.linkCtrlWrite 8 v else if off = MIR.SUB1_CTRL then s.linkCtrlWrite 9 v else plain
  | 0x32 => if off = OPL.LINK_CTRL then s.linkCtrlWrite 10 v else plain
  | 0x33 => if off = RED.SEED0 + 12 then s.seed3 cRED inst v else plain
  | 0x34 =>
    if off = CALV.RESOLVE then (if fld v 0 2 = 1 ∨ s.doubt.isEmpty then s.resolve true else if fld v 0 2 = 2 then s.resolve false else s)
    else plain
  | 0x40 => if XCH.SLOT ≤ off then s.slotWrite inst ((off - XCH.SLOT) / 8) ((off - XCH.SLOT) / 4 % 2) v else plain
  | 0x41 => if off = SMP.SEED0 + 12 then s.seed3 cSMP inst v else plain
  | 0x45 => if off = OPT.SEED0 + 12 then s.seed3 cOPT inst v else plain
  | 0x46 =>
    if inst ≠ 0 ∧ 0x40 ≤ off ∧ off < 0xC0 then s
    else if off = FIRN.CMDA then (if bit v 31 then s.pageAct cFIRN 0 (·.firnGo false fun _ => true) else s)
    else if off = FIRN.CMDK then (if bit v 31 then s.pageAct cFIRN 0 (·.firnGo true fun _ => true) else s)
    else plain
  | _ => plain

/-- What a write of the owner does to a register (R12). Enabling a pending cause may make the page's pending set non-zero (R426). -/
def State.regStore (s : State) (cls inst off : Nat) (v : W32) : State :=
  if off = hCTRL then s.ctrlWrite cls inst v
  else if off = hFREEZE then s.freezeSet cls inst (bit v 0)
  else if off = hIRQ_EN then s.notifyFrom (s.plainWrite cls inst off v) cls inst
  else if off = hIRQ_STAT then s.plainWrite cls inst off v
  else s.bodyWrite cls inst off v

/-! ### A master's write (R14, R15, R436–R440, R523) -/

/-- The words of a write: offset and value. -/
def wordsOf (off width : Nat) (v : W64) : List (Nat × W32) :=
  if width = 8 then [(off, u32 v.toNat), (off + 4, u32 (v.toNat / 4294967296))] else [(off, u32 v.toNat)]

/-- A word that R523 ignores now. -/
def State.lockHit (s : State) (cls inst : Nat) (x : Nat × W32) : Bool :=
  let en := bit x.2 0 != s.rdb cls inst hCTRL 0
  if cls = cPWR then decide (PWR.PD_ON0 ≤ x.1) && decide (x.1 < PWR.PD_ON0 + 12) && !s.bringupOver
  else if cls = cHBM then x.1 == hCTRL && bit x.2 3 && !s.bringupOver
  else if cls = cVEC then x.1 == hCTRL && bit x.2 2 && !s.bringupOver
  else if cls = cDSP ∨ cls = cCTX then x.1 == hCTRL && en && !s.bringupOver
  else if cls = cFIRN then
    inst == 0 && ((x.1 == hCTRL && en) || ((x.1 == FIRN.CMDA || x.1 == FIRN.CMDK) && bit x.2 31)) && !s.memReady
  else false

/-- The access names a register page, by width and alignment too. -/
def accessOk (addr width : Nat) : Bool :=
  let r := regOf addr
  decide (0xF00000000000 ≤ addr) && regAddrOk r.1 r.2.1 r.2.2 width

/-- The two claim registers, which every master writes (R440). -/
def State.claimAccess (s : State) (m off width : Nat) (v : W64) : Nat × State :=
  if off = OWN.CLAIM then
    let s := if width = 8 then s.storeNonce m (u32 (v.toNat / 4294967296)) else s
    s.claimTake m (BitVec.ofNat 8 v.toNat)
  else (0, s.storeNonce m (u32 v.toNat))

/-- A write of a master at a register address, with the status of its answer: 0 performed, 1 address error, 3 dropped. -/
def State.regWrite (s : State) (m addr width : Nat) (v : W64) : Nat × State :=
  let (cls, inst, off) := regOf addr
  if !accessOk addr width || !s.writeServed cls then (1, s)
  else
    let s := s.ownSettle
    if cls = cOWN ∧ (off = OWN.CLAIM ∨ off = OWN.CLAIM_NONCE) then s.claimAccess m off width v
    else if (wordsOf off width v).any (s.lockHit cls inst) then (0, s.bump cSYS 0 SYS.LOCK_DROP_CNT)
    else if !s.isOwner m then
      let s := s.dropNote m addr
      (dropStatus m, if cls = cAGE ∧ off = hCTRL ∧ bit v 1 then s.recUC cAGE 0 0x01 else s)
    else if s.disabledPage cls inst then (0, s)
    else
      let (shut, ws) := (wordsOf off width v).partition fun x => cls == cCVU && s.cvuBusy inst && x.1 != hCTRL && cvuParam x.1
      (0, ws.foldl (fun s x => s.regStore cls inst x.1 x.2) (if shut.isEmpty then s else s.cvuRefuse inst))

/-- REGISTER_WRITE (R14). -/
def execRegisterWrite (m addr width : Nat) (v : BitVec 64) (s : State) : Res :=
  .next <|
    if !s.pathOk m then s.pathShut m addr
    else
      let r := s.regWrite m addr width v
      if r.1 = 1 then r.2.addrErr m addr else r.2.answer m (.wack m addr r.1)

/-! ### A master's read (R14, R38, R501) -/

/-- Whether reads of a class are served: over I3C the AON pages from the sensing of the fuses on, all pages after secure boot, the
AON pages other than SYS during a halt. -/
def State.readServed (s : State) (m cls : Nat) : Bool :=
  if s.sec.done then s.writeServed cls else m == 2 && inAon cls && decide (1 ≤ s.bootStage)

/-- The offset is the _LO word of a 64-bit register. -/
def isLo (cls off : Nat) : Bool :=
  (loRows cls).any fun r => decide (r.1 ≤ off) && (off - r.1) % r.2.1 == 0 && decide ((off - r.1) / r.2.1 < r.2.2)

/-- Key of a master's shadow of a 64-bit register. -/
def shadowKey (m cls inst off : Nat) : Nat := m * 4294967296 + rk cls inst off

/-- A read by the owner clears an RC register. -/
def State.rcClear (s : State) (m cls inst off : Nat) : State :=
  if (regRow cls off).any (fun r => r.acc == .rc) && s.isOwner m && !s.disabledPage cls inst then s.wr cls inst off 0 else s

/-- One 32-bit read (R38). -/
def State.readWord (s : State) (m cls inst off : Nat) : W32 × State :=
  let v := s.peek m cls inst off
  if isLo cls off then
    (v, { s with shadows := mset none s.shadows (shadowKey m cls inst off) (some (s.peek m cls inst (off + 4))) })
  else if isLo cls (off - 4) && decide (4 ≤ off) then
    ((mget none s.shadows (shadowKey m cls inst (off - 4))).getD v, s)
  else (v, s.rcClear m cls inst off)

/-- A master's read with the status of its answer and its value. -/
def State.regRead (s : State) (m addr width : Nat) : Nat × W64 × State :=
  let (cls, inst, off) := regOf addr
  if !accessOk addr width || !s.readServed m cls then (1, 0, s)
  else
    let s := s.ownSettle
    if width = 8 then
      let v := (s.peek m cls inst off).toNat + (s.peek m cls inst (off + 4)).toNat * 4294967296
      (0, u64 v, (s.rcClear m cls inst off).rcClear m cls inst (off + 4))
    else
      let r := s.readWord m cls inst off
      (0, u64 r.1.toNat, r.2)

/-- A read that fails is answered with an error, over I3C with zeros (R541). -/
def State.readError (s : State) (m addr width : Nat) : State :=
  if m = 2 then (s.answer m (.rdata m addr width 0)).addrNote m addr else s.addrErr m addr

/-- A master's read with its answer. -/
def State.readAnswer (s : State) (m addr width : Nat) : State :=
  let r := s.regRead m addr width
  if r.1 = 1 then r.2.2.readError m addr width else r.2.2.answer m (.rdata m addr width r.2.1)

/-- LO_READ_LATCH (R38): a 32-bit read. -/
def execLoReadLatch (m addr : Nat) (s : State) : Res :=
  .next <| if s.pathOk m then s.readAnswer m addr 4 else s.pathShut m addr

/-! ### The management channel (R277) -/

/-- MGMT_ACCESS (R277, R437). -/
def execMgmtAccess (addr width : Nat) (wr : Option (BitVec 64)) (s : State) : Res :=
  .next <|
    if !s.mirUp then s
    else if !s.rdb cMIR 0 hCTRL 2 then s.pathShut 1 addr
    else
      match wr with
      | none => s.readAnswer 1 addr width
      | some v =>
        let r := s.regWrite 1 addr width v
        r.2.answer 1 (.wack 1 addr r.1)

/-! ### The companion's register accesses (R415, R423, R424) -/

/-- The one aligned group of 4 or 8 bytes that a mask enables: first byte and width. -/
def maskGroup (k : BitVec 128) : Option (Nat × Nat) :=
  match (List.range 32).find? fun i => k == BitVec.ofNat 128 (15 * 2 ^ (4 * i)) with
  | some i => some (4 * i, 4)
  | none =>
    match (List.range 16).find? fun i => k == BitVec.ofNat 128 (255 * 2 ^ (8 * i)) with
    | some i => some (8 * i, 8)
    | none => none

/-- Address, width and value of a companion's register write; `none` where R424 allows none. -/
def CoReq.regWr (r : CoReq) : Option (Nat × Nat × W64) :=
  if r.opc = 0x08 then
    let a := regOf r.addr
    if r.addr % 4 = 0 ∧ accessOk r.addr 4 ∧ (regRow a.1 a.2.2).isSome then some (r.addr, 4, u64 (bfield r.data 0 4)) else none
  else
    (maskGroup r.mask).map fun g => (r.addr / 128 * 128 + g.1, g.2, u64 (bfield r.data g.1 g.2))

/-- The data of the write is poisoned where the register's bytes lie. -/
def CoReq.regPois (r : CoReq) : Bool :=
  r.opc != 0x08 && match maskGroup r.mask with | some g => if g.1 < 64 then r.plo else r.phi | none => false

/-- Performs a companion's register access. A poisoned register write is not performed (R490). -/
def State.coReg (s : State) (r : CoReq) : State :=
  if r.opc = 0x03 then
    if (r.size = 2 ∨ r.size = 3) ∧ r.addr % 2 ^ r.size = 0 then
      let x := s.regRead 0 r.addr (2 ^ r.size)
      if x.1 = 1 then x.2.2.coAck r 1 else x.2.2.coData r 0 (toLE (2 ^ r.size) x.2.1.toNat) false false
    else s.coAck r 1
  else
    match r.regWr with
    | none => s.coAck r 1
    | some (a, w, v) =>
      if r.regPois then (s.recUC cOPL 0 0x0E (some r.addr)).coAck r 0
      else
        let x := s.regWrite 0 a w v
        x.2.coAck r x.1

/-- The oldest register access that waits, and whether a memory write of the companion waits ahead of it. -/
def firstReg : List Wait → Bool → Option (CoReq × Bool)
  | [], _ => none
  | .co r :: t, w => if r.isReg then some (r, w) else firstReg t (w || r.opc == 0x04 || r.opc == 0x05 || r.opc == 0x06)
  | .wr _ q _ _ _ _ _ :: t, w => firstReg t (w || q == 7)
  | .rd _ _ _ _ :: t, w => firstReg t w

/-- Performs the companion's register accesses in order of arrival, as far as they can be: a Doorbell only after every write
ahead of it (R423). -/
def regGo : Nat → State → State
  | 0, s => s
  | n + 1, s =>
    match firstReg s.opl.waits false with
    | none => s
    | some (r, w) =>
      if r.opc = 0x08 ∧ w then s
      else regGo n (({ s with opl := { s.opl with waits := s.opl.waits.filter (· != Wait.co r) } }).coReg r)

/-- Register accesses of the companion that can proceed do so. -/
def State.regSettle (s : State) : State := regGo s.opl.waits.length s

/-- A companion request arrives (R424): one to a register takes its place, one to memory enters the tracker. -/
def State.coIn (s : State) (r : CoReq) : State :=
  (if r.isReg then { s with opl := { s.opl with waits := s.opl.waits ++ [Wait.co r] } } else s.coArrive r).regSettle

/-- RD_UNCACHED (R415, R424). -/
def execRdUncached (addr size txid : Nat) (s : State) : Res :=
  .next <| if s.oplLive then (s.oplRecv false).coIn ⟨0x03, addr, txid, size, 0, [], false, false, false⟩ else s

/-- WR_FULL (R415). -/
def execWrFull (addr txid : Nat) (data : Bytes) (plo phi : Bool) (s : State) : Res :=
  .next <| if s.oplLive then
      (s.oplRecv (plo || phi)).coIn ⟨0x04, addr, txid, 7, BitVec.allOnes 128, data, plo, phi, false⟩ else s

/-- WR_PARTIAL (R415, R424). -/
def execWrPartial (addr txid : Nat) (mask : BitVec 128) (data : Bytes) (plo phi : Bool) (s : State) : Res :=
  .next <| if s.oplLive then (s.oplRecv (plo || phi)).coIn ⟨0x05, addr, txid, 7, mask, data, plo, phi, false⟩ else s

/-- DOORBELL (R423, R424). -/
def execDoorbell (addr txid : Nat) (v : BitVec 32) (s : State) : Res :=
  .next <| if s.oplLive then
      (s.oplRecv false).coIn ⟨0x08, addr, txid, 7, 0, toLE 4 v.toNat, false, false, false⟩ else s

/-- EVICT (R414, R415). -/
def execEvict (addr txid : Nat) (dirty : Bool) (data : Bytes) (plo phi : Bool) (s : State) : Res :=
  .next <| if s.oplLive then
      ((s.oplRecv (plo || phi)).evictArrive ⟨0x06, addr, txid, 7, BitVec.allOnes 128, data, plo, phi, dirty⟩).regSettle else s

/-- OPLIS_ACK (R411, R414, R428, R431). -/
def execOplisAck (txid rkind st status : Nat) (evp : Bool) (s : State) : Res :=
  .next <| if s.oplLive then (s.ackIn txid rkind st status evp).regSettle else s

/-- OPLIS_DATA (R415, R416, R419, R431). -/
def execOplisData (txid rkind st status : Nat) (dirty : Bool) (data : Bytes) (plo phi : Bool) (s : State) : Res :=
  .next <| if s.oplLive then (s.dataMsg txid rkind st status dirty data plo phi).regSettle else s

/-! ### Messages in flits (R404, R405) -/

/-- Bytes of a message by its first slot: the opcode fixes them. -/
def oplMsgLen (b : Bytes) : Nat :=
  let opc := bfield b 0 1
  16 + (oplSlots opc (bfield b 1 1 / 32 % 2 == 1) 0 []).length

/-- A message of the companion acts as its command does. One that the companion does not send, or that comes on another virtual
network than its own, is discarded as R431 discards one whose TXID is unknown (log 68). -/
def State.oplMsg (s : State) (v : Nat) (b : Bytes) : State :=
  let opc := bfield b 0 1
  let fl := bslice b 1 1
  let flag (i : Nat) : Bool := bit (fl[0]!) i
  let txid := bfield b 2 2 % 4096
  let a := bfield b 8 8 % 2 ^ 52
  let line := bslice b (if opc = 0x05 then 32 else 16) 128
  let mask : BitVec 128 := if opc = 0x05 then BitVec.ofNat 128 (bfield b 16 16) else if opc < 4 ∨ opc = 0x08 then 0 else BitVec.allOnes 128
  let data := if opc = 0x08 then bslice b 4 4 else if opc < 4 then [] else line
  let r : CoReq := ⟨opc, a % 2 ^ 48, txid, bfield b 6 1, mask, data, flag 6, flag 7, flag 5⟩
  if !([1, 2, 3, 4, 5, 6, 8, 0x10, 0x11, 0x20, 0x30].contains opc) || oplVn opc != v then (s.oplRecv false).oplProto
  else
    match opc with
    | 0x10 => ((s.oplRecv false).snoopLc a txid true).oplSettle
    | 0x11 => ((s.oplRecv false).snoopLc a txid false).oplSettle
    | 0x20 => (s.ackIn txid (bfield b 1 1 % 4) (bfield b 4 1) (bfield b 5 1) (flag 4)).regSettle
    | 0x30 => (s.dataMsg txid (bfield b 1 1 % 4) (bfield b 4 1) (bfield b 5 1) (flag 5) line (flag 6) (flag 7)).regSettle
    | 0x06 => ((s.oplRecv (flag 6 || flag 7)).evictArrive r).regSettle
    | 0x01 => (s.oplRecv false).coArrive r
    | 0x02 => (s.oplRecv false).coArrive r
    | _ => (s.oplRecv ((opc == 4 || opc == 5) && (flag 6 || flag 7))).coIn r

/-- Whole messages at the front of a virtual network's slots, one after the other; `n` bounds them. -/
def oplAssemble (v : Nat) : Nat → State → State
  | 0, s => s
  | n + 1, s =>
    let l := s.link 10
    let b := l.inAt.getD v []
    if b.length < 16 ∨ b.length < oplMsgLen b then s
    else oplAssemble v n ((s.setLink 10 { l with inAt := l.inAt.set v (b.drop (oplMsgLen b)) }).oplMsg v (b.take (oplMsgLen b)))

/-- FLIT_RECEIVE (R264, R404). -/
def execFlitReceive (p : Nat) (flit : Bytes) (fecBad : Bool) (s : State) : Res :=
  .next <|
    let s := s.flitIn p flit fecBad
    if p = 10 then (List.range 4).foldl (fun s v => oplAssemble v 16 s) s else s

/-- SNP_TMO (R429). -/
def execSnpTmoExpire (txid : Nat) (s : State) : Res := .next (s.snpExpire txid).regSettle

/-! ### A woken domain goes on -/

/-- PD_WAKE_READY (R466 event 6): accesses that waited for a stack go on; a FIRN CTRL.EN written meanwhile takes effect (R465). -/
def execPdWakeReady (pd : Nat) (s : State) : Res :=
  .next <|
    if pd < 96 && s.pdSettled pd then
      let s := s.pdReady pd
      let s := if pd = 86 && s.firnEn then s.firnEnable else s
      ((s.oplSettle.ctxGo 0).ctxGo 1).regSettle
    else s

/-! ### WAITW (R447, R448, R490) -/

/-- The word that a WAITW reads: its value once it can be read clean. The second part tells poison. -/
def State.waitWord (s : State) (t a : Nat) : Option Nat × Bool × State :=
  if 0xF00000000000 ≤ a then
    let r := regOf a
    (some (s.peek 0 r.1 r.2.1 r.2.2).toNat, false, s)
  else
    let g := s.gate [(a, 4, false)]
    if !g.1 then (none, false, g.2)
    else
      let r := g.2.hbmRead (rqTile (floeOf t)) a 4
      if !r.1.ok then (none, false, r.2) else if r.1.anyPois then (none, true, r.2) else (some (leNat r.1.data), false, r.2)

/-- WAITW: misaligned, or at an address that is no word of HBM or of a register page, it faults. -/
def waitwForm (t : Nat) (f : VecFields) (s : State) (c : Nat) (x : Ctx) : Ex :=
  let a := (x.sreg (sNum f.vs1)).toNat
  let v := (x.sreg (sNum f.vs2)).toNat % 4294967296
  if a % 4 ≠ 0 then .fault 0x13
  else if !(decide (a + 4 ≤ hbmSize) || accessOk a 4) then .fault 0x10
  else
    let (w, p, s) := s.waitWord t a
    if w.any (gateOpen · v) then .ok s
    else
      let s := if p then s.recUC cCTX (ctxFloe c) 0x0E (some a) none (some c) else s
      .jump (s.setCtx c { s.ctx c with waitw := some (a, v) }) x.pc

/-- WAITW (R447). -/
def execWaitw (t : Nat) (f : VecFields) (s : State) : Res := .next <| s.instr t 0xE2 f (waitwForm t f)

/-- The word of a WAITW is read again (R448). -/
def State.waitAgain (s : State) (t c : Nat) (q : Nat × Nat) : State :=
  let (w, _, s) := s.waitWord t q.1
  if w.any (gateOpen · q.2) then
    let x := s.ctx c
    (s.setCtx c { x with waitw := none, pc := x.pc + 8 }).boundary c
  else s

/-- WAITW_REREAD (R448). -/
def execWaitwReread (t : Nat) (s : State) : Res :=
  .next <|
    if s.arrOn t then
      match s.runner t with
      | some c => match (s.ctx c).waitw with | some q => s.waitAgain t c q | none => s
      | none => s
    else s

/-! ### The clock -/

/-- One REFCLK count with no command: the timebase advances while it runs and RESET_N is high (R32, R34); register accesses of
the companion that have become free to proceed do so. -/
def State.tick (s : State) : State :=
  (if s.clk.running && s.life.vaon && !s.life.inReset then { s with clk := { s.clk with time := s.clk.time + 1 } } else s).regSettle

end Sys2Proof.Machine
end

