-- ==== Sys2Proof/Machine/ArrayRows.lean ====
section
/-! DEFINITION. The array instructions of a task context (R42–R45, R63, R73, R447), the hold limit (R74) and empty tokens
(R22, R23). -/
namespace Sys2Proof.Machine

/-- The 32-byte array descriptor at s[VS1] + IMM: misaligned or outside the store, the context faults; poisoned, the
instruction is refused (R45, R447, R449, R490). -/
def withDesc (t : Nat) (f : VecFields) (s : State) (x : Ctx) (go : State → Bytes → Ex) : Ex :=
  let o := f.storeOff x
  if o % 32 ≠ 0 ∨ tsSize < o + 32 then .fault 0x13
  else if s.tsFrozen t then .wait
  else
    let (d, s) := s.tsRead t o 32
    if d.anyPois then .ok (s.arrRefuse t 0x0E) else go s d.data

/-- WLOAD: waits while an earlier one loads; the context takes the array (R43, R44, R73). -/
def wloadForm (t : Nat) (f : VecFields) (s : State) (c : Nat) (x : Ctx) : Ex :=
  if (s.tile t).loading.isSome || (s.tile t).leaving then .wait
  else withDesc t f s x fun s b =>
    .ok (s.wload t c (descWord b 0).toNat (descWord b 1).toNat (descWord b 2).toNat)

/-- MMA: waits until every WLOAD before it has finished (R44); the context takes the array. -/
def mmaForm (t : Nat) (f : VecFields) (s : State) (c : Nat) (x : Ctx) : Ex :=
  if (s.tile t).loading.isSome || (s.tile t).leaving then .wait
  else withDesc t f s x fun s b =>
    let r : MmaReq := { off := (descWord b 0).toNat, stride := (descWord b 1).toNat, fmt := fld (descWord b 2) 0 4
                        m := fld (descWord b 3) 0 10, row := fld (descWord b 4) 0 9, add := bit (descWord b 5) 0
                        swap := bit (descWord b 5) 1, scl := (descWord b 6).toNat, sclStride := (descWord b 7).toNat }
    .ok (s.mma t c r x.layer)

/-- DRAIN: its descriptor has the form of the drain registers, with GO ignored (R63, R447). -/
def drainForm (t : Nat) (f : VecFields) (s : State) (c : Nat) (x : Ctx) : Ex :=
  withDesc t f s x fun s b =>
    .ok (s.drainIssue t (drainOf (descWord b 0) (descWord b 1) (descWord b 2) (descWord b 3) (descWord b 4) (descWord b 5)
      (descWord b 6) (descWord b 7) (.store (some c))))

/-- RELEASE: completes once nothing of the array's work is left; a context that does not hold the array releases nothing
(R73). -/
def releaseForm (t : Nat) (s : State) (c : Nat) (_x : Ctx) : Ex :=
  if (s.tile t).holder = some c then
    if !(s.tile t).pipe.isEmpty || (s.tile t).loading.isSome || (s.tile t).leaving then .wait else .ok (s.arrayRelease t)
  else .ok s

/-- WLOAD (R43). -/
def execWload (t : Nat) (f : VecFields) (s : State) : Res := .next <| s.instr t 0xA0 f (wloadForm t f)
/-- MMA (R42). -/
def execMma (t : Nat) (f : VecFields) (s : State) : Res := .next <| s.instr t 0xA1 f (mmaForm t f)
/-- DRAIN (R63). -/
def execDrain (t : Nat) (f : VecFields) (s : State) : Res := .next <| s.instr t 0xA2 f (drainForm t f)
/-- RELEASE (R73). -/
def execRelease (t : Nat) (f : VecFields) (s : State) : Res := .next <| s.instr t 0xA3 f (releaseForm t)

/-- The dispatcher releases an array held past its limit: recorded against the context on the TILE page, counted, and the
context faults with 0x15 (R74, R449, R460, R463). -/
def State.holdRelease (s : State) (t c : Nat) : State :=
  let fl := floeOf t
  let s := s.recUC cTILE t 0x0A none none (some c)
  ((s.bump cDSP fl DSP.HOLD_REL_CNT).irq cDSP fl 2).ctxFaulted c 0x15 0

/-- ARRAY_HOLD_LIMIT (R74): due once HOLD_LIMIT has passed; 0 is no limit. -/
def execArrayHoldLimit (t : Nat) (s : State) : Res :=
  .next <|
    match (s.tile t).holder with
    | some c =>
      let lim := s.rdf cDSP (floeOf t) DSP.HOLD_LIMIT 0 24
      if s.arrOn t && !(s.tile t).leaving && lim != 0 && decide ((s.tile t).since + lim ≤ s.clk.time) then s.whenRec c (s.holdRelease t c) else s
    | none => s

/-- EMPTY_TOKEN_EXIT (R22, R23): an empty token leaves the array pipeline of tile p, completing the drains whose tag it
carries; the pipelines of the other blocks hold no token between commands. -/
def execEmptyTokenExit (p : Nat) (s : State) : Res :=
  .next <|
    match (s.tile p).pipe with
    | .drain ds true _ :: rest => if s.arrOn p then (s.drainComplete p ds rest).arraySettle p else s
    | _ => s

end Sys2Proof.Machine
end

