-- ==== Sys2Proof/Machine/Pruner.lean ====
section
/-! DEFINITION. The pruner-codec, the merge unit and the hub splitter (R146–R164, R171–R178). -/
namespace Sys2Proof.Machine

/-! ### Command descriptors (R171, R172, R174) -/

/-- A command descriptor. -/
structure PrnDesc where
  op : Nat
  src : Nat
  dst : Nat
  flags : Nat
  count : Nat
  s0 : Nat
  s1 : Nat
  s2 : Nat
  s3 : Nat
  d0 : Nat
  d1 : Nat
  k : Nat
  stride : Nat
  segLen : Nat
  thresh : Nat
  tiles : Nat
  resv : Bool

/-- The descriptor in 128 bytes. -/
def prnDescOf (b : Bytes) : PrnDesc :=
  { op := bfield b 0 1, src := bfield b 1 1 / 16, dst := bfield b 1 1 % 16, flags := bfield b 2 1, count := bfield b 4 4
    s0 := bfield b 8 8, s1 := bfield b 0x10 8, s2 := bfield b 0x18 8, s3 := bfield b 0x20 8, d0 := bfield b 0x28 8
    d1 := bfield b 0x30 8, k := bfield b 0x38 8, stride := bfield b 0x40 4, segLen := bfield b 0x44 4
    thresh := bfield b 0x48 4, tiles := bfield b 0x4C 4, resv := (bslice b 0x50 48).any (· != 0) }

def PrnDesc.irq (d : PrnDesc) : Bool := d.flags / 128 % 2 == 1
def PrnDesc.reuse (d : PrnDesc) : Bool := d.flags / 64 % 2 == 1
def PrnDesc.mmode (d : PrnDesc) : Nat := d.flags / 16 % 4
def PrnDesc.idx64 (d : PrnDesc) : Bool := d.flags / 8 % 2 == 1
def PrnDesc.segB (d : PrnDesc) : Bool := d.flags / 4 % 2 == 1
def PrnDesc.tbase (d : PrnDesc) : Nat := d.tiles % 256
def PrnDesc.tcount (d : PrnDesc) : Nat := d.tiles / 256 % 256

/-- Enabled tiles in ascending number. -/
def State.enabledTiles (s : State) : List Nat := (List.range 128).filter s.tileEnabled

/-- A format is one of the array's (R46, R113). -/
abbrev arrFmt (c : Nat) : Bool := (codeFamily c).isSome
/-- A format code is an MX code. -/
abbrev mxCode (c : Nat) : Bool := codeFamily c == some 1
/-- A format code is an integer code. -/
abbrev intCode (c : Nat) : Bool := codeFamily c == some 2

/-- Fields that the OP does not use are zero (R172). -/
def PrnDesc.unusedZero (d : PrnDesc) : Bool :=
  let z (l : List Nat) : Bool := l.all (· == 0)
  match d.op with
  | 1 => z [d.count, d.s3, d.d1, d.segLen, d.thresh, d.tiles, d.mmode, d.flags / 4 % 4] && (d.reuse || d.s1 == 0) &&
      (mxCode d.src || d.s2 == 0)
  | 2 => z [d.count, d.s1, d.s3, d.d1, d.segLen, d.thresh, d.tiles, d.flags / 4 % 32] && (mxCode d.src || d.s2 == 0)
  | 3 => z [d.s1, d.s2, d.s3, d.d1, d.k, d.segLen, d.thresh, d.tiles, d.flags / 4 % 32]
  | 4 => z [d.src, d.dst, d.stride, d.segLen, d.thresh, d.tiles, d.flags / 64 % 2] &&
      (if d.segB then d.k == 0 else d.s3 == 0)
  | 5 => z [d.src, d.dst, d.s1, d.s2, d.s3, d.d1, d.k, d.stride, d.flags / 4 % 32]
  | _ => z [d.src, d.dst, d.s2, d.s3, d.d0, d.d1, d.segLen, d.thresh, d.tiles, d.flags / 4 % 4, d.flags / 64 % 2]

/-- R174 refuses the command by its descriptor alone. -/
def State.prnBad (s : State) (d : PrnDesc) : Bool :=
  d.op == 0 || decide (6 < d.op) || d.resv || d.flags % 4 != 0 || decide (65536 ≤ d.tiles) || !d.unusedZero ||
  match d.op with
  | 1 => d.k == 0 || d.k % 4 != 0 || ((mxCode d.src || mxCode d.dst) && d.k % 32 != 0) || decide (0xC < d.src) ||
      !arrFmt d.dst || (intCode d.dst && !intCode d.src) || d.d0 % 64 != 0 || d.s1 % 64 != 0 || d.stride % 64 != 0
  | 2 => d.k == 0 || d.k % 4 != 0 || (mxCode d.src && d.k % 32 != 0) || !arrFmt d.src || decide (0xC < d.dst) ||
      d.d0 % 64 != 0 || d.stride % 64 != 0
  | 3 => d.count == 0 || decide (0xC < d.src) || decide (0xC < d.dst) || d.s0 % 64 != 0 || d.stride % 64 != 0
  | 4 =>
    let e := if d.idx64 then 8 else 4
    d.count == 0 || d.mmode == 3 || d.s0 % e != 0 || d.s1 % e != 0 || d.s2 % 8 != 0 || d.s3 % 8 != 0 || d.d0 % 8 != 0 ||
      d.d1 % 4 != 0
  | 5 => d.count == 0 || decide (d.segLen < 32) || decide (2 ^ 20 < d.segLen) || decide (d.thresh < d.segLen) ||
      d.tcount == 0 || decide (s.enabledTiles.length < d.tcount) || d.s0 % 8 != 0 || d.d0 % 32 != 0
  | _ => d.count == 0 || d.mmode == 3 || d.s0 % 32 != 0 || d.s1 % 64 != 0 || d.stride % 64 != 0 || decide (d.stride < 4 * d.k)

/-! ### What a command does, gathered -/

/-- The ranges a command read and wrote, its STATUS, and its counts. -/
structure PrnOut where
  srcs : List (Nat × Nat) := []
  dsts : List (Nat × Nat) := []
  /-- the command is refused, and whether for poison in what it must understand (R174, R490) -/
  refuse : Bool := false
  refPois : Bool := false
  /-- what a COMBINE reads of the slots it works on in place -/
  reads : List (Nat × Nat) := []
  /-- poison was written -/
  pois : Bool := false
  s24  : Nat := 0
  fb   : Nat := 0
  bm   : Nat := 0
  recs : Nat := 0
  miss : Nat := 0
  hub  : Nat := 0
  seg  : Nat := 0
  ord  : Bool := false

/-- A refusal found while the command works. -/
def prnNo (pois : Bool := false) : PrnOut := { refuse := true, refPois := pois }

/-- Unit n as HBM requester (R378). -/
abbrev rqPrn (n : Nat) : Rq := ⟨n, 5⟩

/-- Poison of the bytes of a packed list of elements. -/
def packPois (bits : Nat) (l : List Bool) : List Bool :=
  (List.range ((l.length * bits + 7) / 8)).map fun i =>
    let lo := 8 * i / bits
    let hi := (8 * i + 7) / bits
    ((l.drop lo).take (hi - lo + 1)).any id

/-- Poison of element i of a packed run: that of every byte that holds a bit of it. -/
def packPoisAt (bits i : Nat) (l : List Bool) : Bool := ((l.drop (i * bits / 8)).take ((i * bits % 8 + bits + 7) / 8)).any id

/-- One element of a tile: its value, its stored code, the sign its encoding carries, poison. -/
structure TElem where
  v    : FV
  code : Nat
  neg  : Bool
  pois : Bool

/-- Zero in place of an element beyond the block. -/
def TElem.zero : TElem := ⟨.fin false 0 0, 0, false, false⟩

/-! ### Tile objects (R147, R148) -/

/-- A tile object's parts as they are written: TAG, FMT, KSPAN, payload, index plane or bitmap, scale rows, each with
the poison of its bytes; NNZ and DROPPED. -/
structure TObj where
  tag   : Nat
  fmt   : Nat
  kspan : Nat
  pay   : Bytes × List Bool
  idx   : Bytes × List Bool
  scl   : Bytes × List Bool
  nnz   : Nat
  dropped : W32

/-- Offsets of the three parts and the size of the object. -/
def TObj.layout (o : TObj) : Nat × Nat × Nat × Nat :=
  let i := 64 + alignUp o.pay.1.length 64
  let c := i + alignUp o.idx.1.length 64
  (64, i, c, c + alignUp o.scl.1.length 64)

/-- The object's bytes and their poison. -/
def TObj.bytes (o : TObj) : Bytes × List Bool :=
  let (po, io, so, _) := o.layout
  let at' (off : Nat) (p : Bytes × List Bool) : Nat := if p.1.isEmpty then 0 else off
  let desc := toLE 1 o.tag ++ toLE 1 o.fmt ++ toLE 2 o.kspan ++ toLE 4 (at' po o.pay) ++ toLE 4 o.pay.1.length ++
    toLE 4 (at' io o.idx) ++ toLE 4 o.idx.1.length ++ toLE 4 (at' so o.scl) ++ toLE 4 o.nnz ++ toLE 4 o.dropped.toNat
  let part (p : Bytes × List Bool) : Bytes × List Bool :=
    let n := alignUp p.1.length 64 - p.1.length
    (p.1 ++ List.replicate n 0, p.2 ++ List.replicate n false)
  let a := part o.pay
  let b := part o.idx
  let c := part o.scl
  (desc ++ List.replicate 32 0 ++ a.1 ++ b.1 ++ c.1, List.replicate 64 false ++ a.2 ++ b.2 ++ c.2)

/-- Value of a stored element under a scale byte. -/
def tileVal (fmt code : Nat) (scale : Nat) : FV :=
  if mxCode fmt then (if scale = 255 then .nan else (elemVal fmt code).scale ((scale : Int) - 127)) else elemFv fmt code

/-- The sign bit of a stored element's code; an integer and a BS16 mantissa code carry no sign of a NaN. -/
def codeNeg (fmt code : Nat) : Bool := (codeFmt fmt).any fun f => f.neg code

/-- Elements of rows [k0, k0 + n) of a dense block of a format, row by row, from its bytes and its scale rows (R47, R48,
R117). -/
def blockElems (fmt k0 n : Nat) (r sc : Rd) : List TElem :=
  if fmt = 0xC then
    (unitElems (4 * n) r.data r.pois).map fun e => ⟨f32 e.1, e.1.toNat, bit e.1 31, e.2⟩
  else
    let bits := codeBits fmt
    (List.range (n * 128)).map fun i =>
      let code := packGet r.data bits i
      let p := packPoisAt bits i r.pois
      let si := ((k0 + i / 128) / 32) * 128 + i % 128
      let sp := mxCode fmt && sc.pois.getD si false
      ⟨tileVal fmt code (sc.data.getD si 0).toNat, code, codeNeg fmt code, p || sp⟩

/-- Bytes of n rows of a dense block. -/
def blockBytes (fmt n : Nat) : Nat := if fmt = 0xC then n * 272 else n * 16 * codeBits fmt

/-! ### PRUNE24 (R151–R154) -/

/-- |a| is larger than |b|, a NaN above every number (R151). -/
def magGt (a b : FV) : Bool :=
  match a, b with
  | .nan, .nan => false
  | .nan, _ => true
  | _, .nan => false
  | a, b => b.mag.lt a.mag

/-- The position of the largest of the listed positions, lower positions first. -/
def bestOf (g : Nat → FV) : List Nat → Nat
  | [] => 0
  | p :: r => r.foldl (fun b q => if magGt (g q) (g b) then q else b) p

/-- The two positions kept of a group, ascending (R151). -/
def keepTwo (g : Nat → FV) : Nat × Nat :=
  let a := bestOf g [0, 1, 2, 3]
  let b := bestOf g ([0, 1, 2, 3].filter (· != a))
  (min a b, max a b)

/-- The positions a previous object keeps in group g of column c: from its index plane, or, where it has none, left open
by the spec (R153; log 13). -/
def reuseTwo (plane : Option Bytes) (g c : Nat) : Nat × Nat :=
  match plane with
  | some p => let b := (p.getD (g / 2 * 128 + c) 0).toNat / 16 ^ (g % 2); (b % 4, b / 4 % 4)
  | none =>
    let x := Config.reusePair (g * 128 + c)
    let i := x % 3
    (i, i + 1 + x / 3 % (3 - i))

/-- Value converted to an element code of a format outside MX, to nearest; a NaN keeps the sign of its encoding (R115,
R152). An element of an MX block whose scale byte makes it NaN keeps the sign bit of its stored code (DESIGN CHOICE,
log 97). -/
def convElem (dst : Nat) (e : TElem) : Nat :=
  if intCode dst then
    match e.v with
    | .fin n m x =>
      let i := roundInt .rne (if n then -(m : Int) else m) x
      if dst = 0xB then ofInt 4 (clampI (-8) 7 i) else ofInt 8 (clampI (-128) 127 i)
    | _ => 0
  else match codeFmt dst with
    | some f => (f.cvt .rne e.v e.neg).1
    | none => 0

/-- A column of pruned elements in the destination format: codes, and MX scale bytes per 32. -/
def convCol (dst : Nat) : Nat → List TElem → List Nat × List (Nat × Bool)
  | 0, _ => ([], [])
  | n + 1, l =>
    let b := l.take 32
    let r := convCol dst n (l.drop 32)
    if mxCode dst then
      let (sc, es) := mxEncode dst (fun _ => .rne) (b.map (·.v))
      (es ++ r.1, (sc, b.any (·.pois)) :: r.2)
    else (b.map (convElem dst) ++ r.1, r.2)

/-- The stored code is a zero. -/
def codeZero (fmt code : Nat) : Bool := if intCode fmt then code == 0 else (elemVal fmt code).isZero

/-- One object of PRUNE24 from the source elements of its KSPAN rows (R151–R154). -/
def pruneObj (dst kspan : Nat) (sel : Option (Option Bytes)) (es : List TElem) : TObj :=
  let kd := codeK dst
  let dense := decide (kspan ≤ kd)
  let span := if dense then alignUp kspan 32 else 2 * kd
  let el (k c : Nat) : TElem := if k < kspan then es.getD (k * 128 + c) TElem.zero else TElem.zero
  let pair (g c : Nat) : Nat × Nat := match sel with
    | some plane => reuseTwo plane g c
    | none => keepTwo fun p => (el (4 * g + p) c).v
  let kept (k c : Nat) : Bool := let q := pair (k / 4) c; q.1 == k % 4 || q.2 == k % 4
  let gp (g c : Nat) : Bool := (List.range 4).any fun p => (el (4 * g + p) c).pois
  let col (c : Nat) : List TElem := (List.range span).map fun k =>
    { (if kept k c then el k c else TElem.zero) with pois := gp (k / 4) c }
  let cols := (List.range 128).map fun c => convCol dst (span / 32) (col c)
  let code (k c : Nat) : Nat := (cols.getD c ([], [])).1.getD k 0
  let rows := if dense then kspan else kd
  let kOf (r c : Nat) : Nat := if dense then r else let q := pair (r / 2) c; 4 * (r / 2) + (if r % 2 = 0 then q.1 else q.2)
  let ix := (List.range rows).flatMap fun r => (List.range 128).map fun c => (r, c)
  let codes := ix.map fun p => code (kOf p.1 p.2) p.2
  let pois := ix.map fun p => gp (kOf p.1 p.2 / 4) p.2
  let plane : Bytes × List Bool := if dense then ([], []) else
    let cells := (List.range (kd / 4)).flatMap fun b => (List.range 128).map fun c => (b, c)
    (cells.map fun p =>
      let a := pair (2 * p.1) p.2
      let d := pair (2 * p.1 + 1) p.2
      BitVec.ofNat 8 (a.1 + 4 * a.2 + 16 * d.1 + 64 * d.2),
     cells.map fun p => gp (2 * p.1) p.2 || gp (2 * p.1 + 1) p.2)
  let scs := if mxCode dst then
      (List.range (span / 32)).flatMap fun b => (List.range 128).map fun c => (cols.getD c ([], [])).2.getD b (0, false)
    else []
  let gone := (List.range kspan).flatMap fun k => (List.range 128).filterMap fun c => if kept k c then none else some (el k c).v
  { tag := if dense then 0x10 else 0x01, fmt := dst, kspan := kspan
    pay := (packAll (codeBits dst) codes, packPois (codeBits dst) pois), idx := plane
    scl := (scs.map fun s => BitVec.ofNat 8 s.1, scs.map (·.2)), nnz := (codes.filter fun x => !codeZero dst x).length
    dropped := gone.foldl (fun a v => fadd32 a (toF32 v.mag)) 0 }

/-- Writes an object. -/
def State.writeObj (s : State) (n a : Nat) (o : TObj) : State := let b := o.bytes; (s.devWriteP (rqPrn n) a b.1 b.2).2

/-- Scale rows of a source block that covers `k` indices. -/
def State.readScales (s : State) (n fmt a k : Nat) : Rd × State :=
  if mxCode fmt then s.devRead (rqPrn n) a (k / 32 * 128) else (⟨[], [], true⟩, s)

/-- The index plane of the object at `a` for REUSE_MASK: refused, or the plane if the object has one: its address, bytes
and poison. -/
def State.prevPlane (s : State) (n a kd : Nat) : Option (Option (Nat × Bytes × Bool)) × State :=
  let (r, s) := s.devRead (rqPrn n) a 32
  let tag := bfield r.data 0 1
  if r.anyPois || !(tag == 0 || tag == 1 || tag == 2 || tag == 0x10 || tag == 0x12) then (none, s)
  else if tag = 1 then
    let io := a + bfield r.data 12 4
    let (p, s) := s.devRead (rqPrn n) io (kd * 32)
    (some (some (io, p.data, p.anyPois)), s)
  else (some none, s)

/-- Ranges of objects at a base. -/
def objRanges (base stride : Nat) (sizes : List Nat) : List (Nat × Nat) :=
  (indexed sizes).map fun e => (base + e.2 * stride, e.1)

/-- PRUNE24 (R151). -/
def State.prune24 (s : State) (n : Nat) (d : PrnDesc) : PrnOut × State :=
  let kd := codeK d.dst
  let nobj := (d.k + 2 * kd - 1) / (2 * kd)
  let (sc, s) := s.readScales n d.src d.s2 d.k
  let r := (List.range nobj).foldl (fun (a : List TObj × Bool × Bool × List (Nat × Nat) × State) j =>
    let (objs, no, noP, srcs, s) := a
    let k0 := 2 * kd * j
    let span := min (2 * kd) (d.k - k0)
    let len := blockBytes d.src span
    let at' := d.s0 + blockBytes d.src k0
    let (b, s) := s.devRead (rqPrn n) at' len
    let es := blockElems d.src k0 span b sc
    if d.reuse then
      match s.prevPlane n (d.s1 + j * d.stride) kd with
      | (none, s) => (objs, true, noP, srcs, s)
      | (some p, s) =>
        let pp := p.any (·.2.2)
        (objs ++ [pruneObj d.dst span (some (p.map (·.2.1))) es], no, noP || pp,
          (d.s1 + j * d.stride, 64) :: (p.elim (0, 0) fun x => (x.1, kd * 32)) :: srcs, s)
    else (objs ++ [pruneObj d.dst span none es], no, noP, srcs, s)) ([], false, false, [], s)
  let (objs, no, noP, srcs, s) := r
  let sizes := objs.map fun o => o.layout.2.2.2
  if no || noP || sizes.any (fun x => decide (d.stride < x)) then (prnNo noP, s)
  else
    let s := (indexed objs).foldl (fun s e => s.writeObj n (d.d0 + e.2 * d.stride) e.1) s
    ({ srcs := (d.s0, blockBytes d.src d.k) :: (d.s2, if mxCode d.src then d.k / 32 * 128 else 0) :: srcs
       dsts := objRanges d.d0 d.stride sizes
       pois := objs.any fun o => o.pay.2.any id || o.idx.2.any id || o.scl.2.any id
       s24 := (objs.filter fun o => o.tag == 1).length, fb := (objs.filter fun o => o.tag != 1).length }, s)

/-! ### ENCODE and DECODE (R155, R156) -/

/-- One object of ENCODE (R155). -/
def encodeObj (fmt kspan : Nat) (pay : Bytes × List Bool) (scl : Bytes × List Bool) (es : List TElem) : TObj :=
  let bits := codeBits fmt
  let nz := es.filter fun e => !codeZero fmt e.code
  let pad (p : Bytes × List Bool) : Bytes × List Bool :=
    let n := alignUp p.1.length 64
    (bpad p.1 n, p.2 ++ List.replicate (n - p.2.length) false)
  let map := pad (bitsToBytes (es.map fun e => !codeZero fmt e.code), packPois 1 (es.map (·.pois)))
  let vals := pad (packAll bits (nz.map (·.code)), packPois bits (nz.map (·.pois)))
  let small := decide (map.1.length + vals.1.length < pay.1.length)
  { tag := if small then 0x02 else 0x12, fmt := fmt, kspan := kspan, pay := if small then vals else pay
    idx := if small then map else ([], []), scl := scl, nnz := nz.length, dropped := 0 }

/-- ENCODE (R155, R172). -/
def State.encode (s : State) (n : Nat) (d : PrnDesc) : PrnOut × State :=
  let kd := codeK d.src
  let (sc, s) := s.readScales n d.src d.s2 d.k
  let (b, s) := s.devRead (rqPrn n) d.s0 (blockBytes d.src d.k)
  let objs := (List.range ((d.k + kd - 1) / kd)).map fun j =>
    let k0 := kd * j
    let span := min kd (d.k - k0)
    let o := blockBytes d.src k0
    let len := blockBytes d.src span
    let r : Rd := ⟨bslice b.data o len, (b.pois.drop o).take len, b.ok⟩
    let so := k0 / 32 * 128
    let sl := if mxCode d.src then span / 32 * 128 else 0
    encodeObj d.src span (r.data, r.pois) (bslice sc.data so sl, (sc.pois.drop so).take sl) (blockElems d.src k0 span r sc)
  let sizes := objs.map fun o => o.layout.2.2.2
  if sizes.any (fun x => decide (d.stride < x)) then (prnNo, s)
  else
    let s := (indexed objs).foldl (fun s e => s.writeObj n (d.d0 + e.2 * d.stride) e.1) s
    ({ srcs := [(d.s0, blockBytes d.src d.k), (d.s2, if mxCode d.src then d.k / 32 * 128 else 0)]
       dsts := objRanges d.d0 d.stride sizes
       pois := b.anyPois || sc.anyPois
       fb := (objs.filter fun o => o.tag != 2).length, bm := (objs.filter fun o => o.tag == 2).length }, s)

/-- The dense rows of an object: bytes and poison; `none` refuses it. -/
def State.decodeObj (s : State) (n a : Nat) : Option (Bytes × List Bool × List (Nat × Nat)) × Bool × State :=
  let (r, s) := s.devRead (rqPrn n) a 32
  let tag := bfield r.data 0 1
  let fmt := bfield r.data 1 1
  let kspan := bfield r.data 2 2
  let bits := codeBits fmt
  if r.anyPois then (none, true, s)
  else if !arrFmt fmt || !(tag == 0 || tag == 1 || tag == 2 || tag == 0x10 || tag == 0x12) then (none, false, s)
  else
    let kd := codeK fmt
    let po := a + bfield r.data 4 4
    let io := a + bfield r.data 12 4
    if tag = 1 then
      let (p, s) := s.devRead (rqPrn n) po (elemBytes fmt (kd * 128))
      let (i, s) := s.devRead (rqPrn n) io (kd * 32)
      let w : WTile := { fmt := fmt, sparse := true, w := p.data, idx := i.data, scale := [], pois := false, kspan := kspan }
      let cell (k c : Nat) : Nat × Bool :=
        let g := k / 4
        let ib := i.pois.getD (g / 2 * 128 + c) false
        let hit := [2 * g, 2 * g + 1].find? fun r => w.index r c == k % 4
        match hit with
        | some r =>
          (w.weight r c, ib || packPoisAt bits (r * 128 + c) p.pois)
        | none => (0, ib)
      let cells := (List.range kspan).flatMap fun k => (List.range 128).map (cell k)
      (some (packAll bits (cells.map (·.1)), packPois bits (cells.map (·.2)),
        [(a, 32), (po, p.data.length), (io, i.data.length)]), false, s)
    else if tag = 2 then
      let (m, s) := s.devRead (rqPrn n) io (kspan * 16)
      let nnz := ((List.range (kspan * 128)).filter (mapBit m.data)).length
      let (p, s) := s.devRead (rqPrn n) po ((nnz * bits + 7) / 8)
      let r := (List.range (kspan * 128)).foldl (fun (acc : List (Nat × Bool) × Nat) i =>
        let mp := m.pois.getD (i / 8) false
        if mapBit m.data i then
          ((packGet p.data bits acc.2, mp || packPoisAt bits acc.2 p.pois) :: acc.1, acc.2 + 1)
        else ((0, mp) :: acc.1, acc.2)) ([], 0)
      let cells := r.1.reverse
      (some (packAll bits (cells.map (·.1)), packPois bits (cells.map (·.2)),
        [(a, 32), (po, p.data.length), (io, m.data.length)]), false, s)
    else
      let (p, s) := s.devRead (rqPrn n) po (elemBytes fmt (kspan * 128))
      (some (p.data, p.pois, [(a, 32), (po, p.data.length)]), false, s)

/-- DECODE (R156): the dense rows of the objects, one object after the other. -/
def State.decodeAll (s : State) (n : Nat) (d : PrnDesc) : PrnOut × State :=
  let r := (List.range d.count).foldl (fun (a : PrnOut × Nat × State) j =>
    let (o, at', s) := a
    if o.refuse then a
    else
      match s.decodeObj n (d.s0 + j * d.stride) with
      | (none, p, s) => (prnNo p, at', s)
      | (some (b, p, src), _, s) =>
        ({ o with srcs := o.srcs ++ src, dsts := o.dsts ++ [(at', b.length)], pois := o.pois || p.any id }, at' + b.length,
          (s.devWriteP (rqPrn n) at' b p).2)) ({}, d.d0, s)
  (r.1, r.2.2)

/-! ### MERGE (R157–R160) -/

/-- An index of a stream with its position and poison. -/
abbrev MIdx : Type := Nat × Nat × Bool

/-- A record: positions in A and B, poison. -/
abbrev MRec : Type := Option Nat × Option Nat × Bool

/-- The index is not strictly above the one before it. -/
def notAbove (p : Option Nat) (x : Nat) : Bool := match p with | some q => decide (x ≤ q) | none => false

/-- The walk of one segment: records, misses, and whether an order error stopped it (R158–R160). -/
def mergeWalk (mode : Nat) : Nat → List MIdx → List MIdx → Option Nat → Option Nat → List MRec × Nat × Bool
  | 0, _, _, _, _ => ([], 0, false)
  | f + 1, la, lb, pa, pb =>
    let emit (on : Bool) (r : MRec) (miss : Nat) (t : List MRec × Nat × Bool) : List MRec × Nat × Bool :=
      if on then (r :: t.1, miss + t.2.1, t.2.2) else t
    match la, lb with
    | [], [] => ([], 0, false)
    | (x, i, p) :: ra, [] =>
      if notAbove pa x then ([], 0, true)
      else emit (mode != 0) (some i, none, p) (if mode = 2 then 1 else 0) (mergeWalk mode f ra [] (some x) pb)
    | [], (y, j, q) :: rb =>
      if notAbove pb y then ([], 0, true)
      else emit (mode == 1) (none, some j, q) 0 (mergeWalk mode f [] rb pa (some y))
    | (x, i, p) :: ra, (y, j, q) :: rb =>
      if notAbove pa x || notAbove pb y then ([], 0, true)
      else if x = y then emit true (some i, some j, p || q) 0 (mergeWalk mode f ra rb (some x) (some y))
      else if x < y then
        emit (mode != 0) (some i, none, p) (if mode = 2 then 1 else 0) (mergeWalk mode f ra ((y, j, q) :: rb) (some x) pb)
      else emit (mode == 1) (none, some j, q) 0 (mergeWalk mode f ((x, i, p) :: ra) rb pa (some y))

/-- Segment offsets. -/
def State.readOffs (s : State) (n a k : Nat) : List Nat × Bool × State :=
  let (r, s) := s.devRead (rqPrn n) a (8 * (k + 1))
  ((chunksOf 8 (k + 1) r.data).map leNat, r.anyPois, s)

/-- Indices [lo, hi) of a stream. -/
def State.readIdx (s : State) (n a e lo hi : Nat) : List MIdx × State :=
  let k := hi - lo
  let (r, s) := s.devRead (rqPrn n) (a + lo * e) (k * e)
  ((indexed (r.elems e k)).map fun x => (leNat x.1.1, lo + x.2, x.1.2), s)

/-- Bytes of a position. -/
def posBytes (p : Option Nat) : Bytes := toLE 4 (p.getD 0xFFFFFFFF)

/-- MERGE (R157–R160). -/
def State.mergeRun (s : State) (n : Nat) (d : PrnDesc) : PrnOut × State :=
  let e := if d.idx64 then 8 else 4
  let (oa, pa, s) := s.readOffs n d.s2 d.count
  let (ob, pb, s) := if d.segB then s.readOffs n d.s3 d.count else ([], false, s)
  if pa || pb then (prnNo true, s)
  else
    let r := (List.range d.count).foldl (fun (a : PrnOut × Nat × State) k =>
      let (o, recs, s) := a
      if o.ord then (o, recs, s.devWrite (rqPrn n) (d.d1 + 4 * k) (toLE 4 0xFFFFFFFF))
      else
        let (la, s) := s.readIdx n d.s0 e (oa.getD k 0) (oa.getD (k + 1) 0)
        let (lb, s) := if d.segB then s.readIdx n d.s1 e (ob.getD k 0) (ob.getD (k + 1) 0) else s.readIdx n d.s1 e 0 d.k
        let (out, miss, err) := mergeWalk d.mmode (la.length + lb.length + 1) la lb none none
        let s := s.devWriteElems (rqPrn n) (d.d0 + 8 * recs) 8 (out.map fun x => some (posBytes x.1 ++ posBytes x.2.1, x.2.2))
        let s := s.devWrite (rqPrn n) (d.d1 + 4 * k) (toLE 4 (if err then 0xFFFFFFFF else out.length))
        ({ o with miss := o.miss + miss, ord := err, pois := o.pois || out.any (·.2.2) }, recs + out.length, s))
      ({}, 0, s)
    ({ r.1 with recs := r.2.1
                srcs := [(d.s0, e * (oa.getLastD 0)), (d.s1, e * (if d.segB then ob.getLastD 0 else d.k)), (d.s2, 8 * (d.count + 1)),
                  (d.s3, if d.segB then 8 * (d.count + 1) else 0)]
                dsts := [(d.d0, 8 * r.2.1), (d.d1, 4 * d.count)] }, r.2.2)

/-! ### SPLIT and COMBINE (R161–R163) -/

/-- TILE of record q (R162); a number beyond the enabled tiles is left open by the spec (log 14). -/
def State.splitTile (s : State) (d : PrnDesc) (q : Nat) : Nat :=
  match s.enabledTiles[d.tbase + q % d.tcount]? with
  | some t => t
  | none => Config.splitTile q % 256

/-- The records of one row from record q on. -/
def State.splitRow (s : State) (d : PrnDesc) (row off len q : Nat) : List Bytes :=
  let nseg := if len ≤ d.thresh then 1 else (len + d.segLen - 1) / d.segLen
  (List.range nseg).map fun k =>
    let start := off + (if nseg = 1 then 0 else k * d.segLen)
    let l := if nseg = 1 then len else min d.segLen (len - k * d.segLen)
    toLE 8 (row % 2 ^ 40) ++ toLE 8 start ++ toLE 4 l ++ toLE 4 (q + k) ++ toLE 2 k ++ toLE 2 nseg ++
      toLE 1 (s.splitTile d (q + k)) ++ [0, 0, 0]

/-- SPLIT (R161, R162). -/
def State.splitRun (s : State) (n : Nat) (d : PrnDesc) : PrnOut × State :=
  let (offs, p, s) := s.readOffs n d.s0 d.count
  if p then (prnNo true, s)
  else
    let r := (List.range d.count).foldl (fun (a : List Bytes × Nat × Nat) k =>
      let off := offs.getD k 0
      let l := s.splitRow d k off (offs.getD (k + 1) 0 - off) a.1.length
      (a.1 ++ l, a.2.1 + (if 1 < l.length then 1 else 0), a.2.2 + (if 1 < l.length then l.length else 0))) ([], 0, 0)
    ({ srcs := [(d.s0, 8 * (d.count + 1))], dsts := [(d.d0, 32 * r.1.length)], hub := r.2.1, seg := r.2.2 },
      s.devWrite (rqPrn n) d.d0 r.1.flatten)

/-- IEEE 754 maximum and minimum of FP32 words: a NaN gives the quiet NaN, −0 lies below +0. -/
def fmaxmin32 (mx : Bool) (a b : W32) : W32 :=
  match f32 a, f32 b with
  | .nan, _ => qnan
  | _, .nan => qnan
  | x, y =>
    let lt := x.lt y || (x.eqv y && bit a 31 && !bit b 31)
    if lt == mx then b else a

/-- One row of COMBINE: the partials of slots Q to Q + NSEG − 1 become slot Q (R163). -/
def State.combineRow (s : State) (n : Nat) (d : PrnDesc) (q nseg : Nat) : Bool × State :=
  let slot (k : Nat) : Nat := d.s1 + (q + k) * d.stride
  let r := (List.range nseg).foldl (fun (a : List (List (Bytes × Bool)) × State) k =>
    let (b, s) := a.2.devRead (rqPrn n) (slot k) (4 * d.k)
    (a.1 ++ [b.elems 4 d.k], s)) ([], s)
  let op : W32 → W32 → W32 := if d.mmode = 0 then fadd32 else fmaxmin32 (d.mmode == 1)
  let out := (List.range d.k).map fun i =>
    let e (k : Nat) : Bytes × Bool := (r.1.getD k []).getD i ([], false)
    let v := (treeRed op nseg fun k => some (u32 (leNat (e k).1))).getD 0
    some (toLE 4 v.toNat, (List.range nseg).any fun k => (e k).2)
  (out.any fun x => x.any (·.2), r.2.devWriteElems (rqPrn n) (slot 0) 4 out)

/-- COMBINE (R163). -/
def State.combineRun (s : State) (n : Nat) (d : PrnDesc) : PrnOut × State :=
  let (r, s) := s.devRead (rqPrn n) d.s0 (32 * d.count)
  if r.anyPois then (prnNo true, s)
  else
    let rows := (chunksOf 32 d.count r.data).filter fun b => bfield b 0x18 2 == 0 && decide (1 < bfield b 0x1A 2)
    let o := rows.foldl (fun (a : PrnOut × State) b =>
      let q := bfield b 0x14 4
      let nseg := bfield b 0x1A 2
      let x := a.2.combineRow n d q nseg
      ({ a.1 with dsts := a.1.dsts ++ [(d.s1 + q * d.stride, 4 * d.k)], pois := a.1.pois || x.1 }, x.2)) ({}, s)
    let parts := rows.map fun b => (d.s1 + bfield b 0x14 4 * d.stride, (bfield b 0x1A 2 - 1) * d.stride + 4 * d.k)
    if parts.any fun p => !inDevSpace p.1 p.2 then (prnNo, s)
    else ({ o.1 with srcs := [(d.s0, 32 * d.count)], reads := parts }, o.2)

/-! ### The ring -/

/-- The command in progress of an instance. -/
def State.prnCur (s : State) (n : Nat) : Option RingCmd := (mget {} s.prn n).cur
/-- Replaces it, with the runs that it writes. -/
def State.setPrn (s : State) (n : Nat) (c : Option RingCmd) (dsts : List (Nat × Nat) := []) : State :=
  { s with prn := mset {} s.prn n ⟨c, dsts⟩ }

/-- The command leaves the ring with its STATUS decided. -/
def State.prnEnd (s : State) (n idx op status : Nat) (irq : Bool) (dsts : List (Nat × Nat) := []) : State :=
  (s.setPrn n (some ⟨idx, op, some status, irq⟩) dsts).ringNext cPRN n

/-- A refused command (R174, R178). -/
def State.prnRefuse (s : State) (n idx op cause : Nat) (irq : Bool) : State :=
  (((s.bump cPRN n PRN.DESC_ERR_CNT).irq cPRN n 16).recUC cPRN n cause (some idx)).prnEnd n idx op 0x10 irq

/-- Two runs of bytes overlap. -/
def overlaps (a b : Nat × Nat) : Bool := a.2 != 0 && b.2 != 0 && decide (a.1 < b.1 + b.2) && decide (b.1 < a.1 + a.2)

/-- The command breaks R173 or names an address outside the space (R174). -/
def PrnOut.bad (o : PrnOut) : Bool :=
  o.refuse || (o.srcs ++ o.dsts).any (fun r => !inDevSpace r.1 r.2) || o.srcs.any fun a => o.dsts.any (overlaps a)

/-- Counts, records and the STATUS of a command that ran (R160, R174, R175, R178). -/
def State.prnCounted (s : State) (n idx : Nat) (o : PrnOut) : Nat × State :=
  let s := (((s.bump cPRN n PRN.S24_CNT o.s24).bump cPRN n PRN.FALLBACK_CNT o.fb).bump cPRN n PRN.BITMAP_CNT o.bm).bump64 cPRN n
    PRN.MERGE_REC o.recs
  let s := (s.bump cPRN n PRN.HUB_ROWS_CNT o.hub).bump cPRN n PRN.SEG_CNT o.seg
  let s := if o.miss = 0 then s else (s.bump cPRN n PRN.MISS_CNT o.miss).irq cPRN n 2
  let s := if o.ord then ((s.bump cPRN n PRN.ORDER_ERR_CNT).irq cPRN n 8).recUC cPRN n 0x09 (some idx) else s
  let s := if o.pois then ((s.bump cPRN n PRN.POISON_CNT).irq cPRN n 4).recDef cPRN n 0x03 (some idx) else s
  (if o.miss ≠ 0 then 6 else if o.ord then 5 else if o.pois then 3 else 0, s)

/-- The effect of a command. -/
def State.prnWork (s : State) (n : Nat) (d : PrnDesc) : PrnOut × State :=
  match d.op with
  | 1 => s.prune24 n d
  | 2 => s.encode n d
  | 3 => s.decodeAll n d
  | 4 => s.mergeRun n d
  | 5 => s.splitRun n d
  | _ => s.combineRun n d

/-- An accepted descriptor: the command runs, or is refused for what it finds, once its accesses can be made. -/
def State.prnRun (s0 : State) (n idx : Nat) (d : PrnDesc) (s : State) : State :=
  let (o, s') := s.prnWork n d
  if o.bad then s.prnRefuse n idx d.op (if o.refPois then 0x0E else 0x01) d.irq
  else
    s0.devWhen ((o.srcs ++ o.reads).map (fun r => (r.1, r.2, false)) ++ o.dsts.map fun r => (r.1, r.2, true))
      (let (st, s) := s'.prnCounted n idx o; s.prnEnd n idx d.op st d.irq (o.dsts.filter fun r => decide (dwBase ≤ r.1)))

/-- The instance takes the command at the head of its ring when it is one of `op`. -/
def State.prnTake (s0 : State) (n op : Nat) : State :=
  if !s0.ringReady cPRN n || (s0.prnCur n).isSome then s0
  else
    s0.ringTake (rqPrn n) cPRN n fun s h b =>
      match b with
      | none => s0
      | some b =>
        let d := prnDescOf b
        if d.op ≠ op then s0 else if s.prnBad d then s.prnRefuse n h d.op 0x01 d.irq else s0.prnRun n h d s

/-- PRUNE24 (R151). -/
def execPrune24 (n : Nat) (s : State) : Res := .next (s.prnTake n 1)
/-- ENCODE (R155). -/
def execEncodeTiles (n : Nat) (s : State) : Res := .next (s.prnTake n 2)
/-- DECODE (R156). -/
def execDecodeTiles (n : Nat) (s : State) : Res := .next (s.prnTake n 3)
/-- MERGE (R158). -/
def execMerge (n : Nat) (s : State) : Res := .next (s.prnTake n 4)
/-- SPLIT (R161). -/
def execSplit (n : Nat) (s : State) : Res := .next (s.prnTake n 5)
/-- COMBINE (R163). -/
def execCombine (n : Nat) (s : State) : Res := .next (s.prnTake n 6)

/-- PRN_CMD_COMPLETE (R171): the command in progress completes; with none, a head descriptor that no operation takes is
refused (R174). -/
def execPrnCmdComplete (n : Nat) (s0 : State) : Res :=
  .next <|
    match s0.prnCur n with
    | some c =>
      if !s0.pageOn cPRN n then s0
      else
        s0.devGated [(s0.ringAddr cPRN n c.idx + 3, 1, true)] fun s =>
          (s.ringComplete (rqPrn n) cPRN n c.idx 3 (c.status.getD 0) c.irq).setPrn n none
    | none =>
      if !s0.ringReady cPRN n then s0
      else
        s0.ringTake (rqPrn n) cPRN n fun s h b =>
          match b with
          | none => s.prnRefuse n h 0 0x0E false
          | some b =>
            let d := prnDescOf b
            if d.op = 0 ∨ 6 < d.op then s.prnRefuse n h d.op 0x01 d.irq else s0

end Sys2Proof.Machine
end

