-- ==== Sys2Proof/Machine/Dispatch.lean ====
section
/-! DEFINITION. The dispatch: one arm per command, one direct call of its meaning. -/
namespace Sys2Proof.Machine

/-- What a command does to everything but the queue. -/
def exec (i : Instr) (s : State) : Host.Outcome State Fault Refusal :=
  match i with
  | .wload t f => Sys2Proof.Machine.execWload t f s
  | .mma t f => Sys2Proof.Machine.execMma t f s
  | .drain t f => Sys2Proof.Machine.execDrain t f s
  | .release t f => Sys2Proof.Machine.execRelease t f s
  | .vSetvl t f => Sys2Proof.Machine.execVSetvl t f s
  | .vSetrs t f => Sys2Proof.Machine.execVSetrs t f s
  | .vGetrs t f => Sys2Proof.Machine.execVGetrs t f s
  | .vGetf t f => Sys2Proof.Machine.execVGetf t f s
  | .vClrf t f => Sys2Proof.Machine.execVClrf t f s
  | .vFence t f => Sys2Proof.Machine.execVFence t f s
  | .vLd t f => Sys2Proof.Machine.execVLd t f s
  | .vLds t f => Sys2Proof.Machine.execVLds t f s
  | .vLdx t f => Sys2Proof.Machine.execVLdx t f s
  | .vSt t f => Sys2Proof.Machine.execVSt t f s
  | .vSts t f => Sys2Proof.Machine.execVSts t f s
  | .vStx t f => Sys2Proof.Machine.execVStx t f s
  | .vAdd t f => Sys2Proof.Machine.execVAdd t f s
  | .vSub t f => Sys2Proof.Machine.execVSub t f s
  | .vMul t f => Sys2Proof.Machine.execVMul t f s
  | .vMulh t f => Sys2Proof.Machine.execVMulh t f s
  | .vMin t f => Sys2Proof.Machine.execVMin t f s
  | .vMax t f => Sys2Proof.Machine.execVMax t f s
  | .vAbs t f => Sys2Proof.Machine.execVAbs t f s
  | .vNeg t f => Sys2Proof.Machine.execVNeg t f s
  | .vSll t f => Sys2Proof.Machine.execVSll t f s
  | .vSrl t f => Sys2Proof.Machine.execVSrl t f s
  | .vSra t f => Sys2Proof.Machine.execVSra t f s
  | .vSrar t f => Sys2Proof.Machine.execVSrar t f s
  | .vSlls t f => Sys2Proof.Machine.execVSlls t f s
  | .vRotl t f => Sys2Proof.Machine.execVRotl t f s
  | .vAnd t f => Sys2Proof.Machine.execVAnd t f s
  | .vOr t f => Sys2Proof.Machine.execVOr t f s
  | .vXor t f => Sys2Proof.Machine.execVXor t f s
  | .vAndn t f => Sys2Proof.Machine.execVAndn t f s
  | .vNot t f => Sys2Proof.Machine.execVNot t f s
  | .vMov t f => Sys2Proof.Machine.execVMov t f s
  | .vIdx t f => Sys2Proof.Machine.execVIdx t f s
  | .vFadd t f => Sys2Proof.Machine.execVFadd t f s
  | .vFsub t f => Sys2Proof.Machine.execVFsub t f s
  | .vFmul t f => Sys2Proof.Machine.execVFmul t f s
  | .vFma t f => Sys2Proof.Machine.execVFma t f s
  | .vFmin t f => Sys2Proof.Machine.execVFmin t f s
  | .vFmax t f => Sys2Proof.Machine.execVFmax t f s
  | .vFabs t f => Sys2Proof.Machine.execVFabs t f s
  | .vFneg t f => Sys2Proof.Machine.execVFneg t f s
  | .vExp2 t f => Sys2Proof.Machine.execVExp2 t f s
  | .vLog2 t f => Sys2Proof.Machine.execVLog2 t f s
  | .vRcp t f => Sys2Proof.Machine.execVRcp t f s
  | .vRsqrt t f => Sys2Proof.Machine.execVRsqrt t f s
  | .vCvt t f => Sys2Proof.Machine.execVCvt t f s
  | .vRsum t f => Sys2Proof.Machine.execVRsum t f s
  | .vRprod t f => Sys2Proof.Machine.execVRprod t f s
  | .vRmax t f => Sys2Proof.Machine.execVRmax t f s
  | .vRmin t f => Sys2Proof.Machine.execVRmin t f s
  | .vRmean t f => Sys2Proof.Machine.execVRmean t f s
  | .vRargmax t f => Sys2Proof.Machine.execVRargmax t f s
  | .vRargmin t f => Sys2Proof.Machine.execVRargmin t f s
  | .vCmpeq t f => Sys2Proof.Machine.execVCmpeq t f s
  | .vCmplt t f => Sys2Proof.Machine.execVCmplt t f s
  | .vCmple t f => Sys2Proof.Machine.execVCmple t f s
  | .vCmpun t f => Sys2Proof.Machine.execVCmpun t f s
  | .vMand t f => Sys2Proof.Machine.execVMand t f s
  | .vMor t f => Sys2Proof.Machine.execVMor t f s
  | .vMxor t f => Sys2Proof.Machine.execVMxor t f s
  | .vMnot t f => Sys2Proof.Machine.execVMnot t f s
  | .vMpop t f => Sys2Proof.Machine.execVMpop t f s
  | .vMsel t f => Sys2Proof.Machine.execVMsel t f s
  | .vRandu t f => Sys2Proof.Machine.execVRandu t f s
  | .vRandf t f => Sys2Proof.Machine.execVRandf t f s
  | .vRandb t f => Sys2Proof.Machine.execVRandb t f s
  | .vRandg t f => Sys2Proof.Machine.execVRandg t f s
  | .vRandn t f => Sys2Proof.Machine.execVRandn t f s
  | .dmain t f => Sys2Proof.Machine.execDmain t f s
  | .dmaout t f => Sys2Proof.Machine.execDmaout t f s
  | .dmawait t f => Sys2Proof.Machine.execDmawait t f s
  | .sli t f => Sys2Proof.Machine.execSli t f s
  | .sadd t f => Sys2Proof.Machine.execSadd t f s
  | .ssub t f => Sys2Proof.Machine.execSsub t f s
  | .smul t f => Sys2Proof.Machine.execSmul t f s
  | .sand t f => Sys2Proof.Machine.execSand t f s
  | .sor t f => Sys2Proof.Machine.execSor t f s
  | .sxor t f => Sys2Proof.Machine.execSxor t f s
  | .sshl t f => Sys2Proof.Machine.execSshl t f s
  | .sshr t f => Sys2Proof.Machine.execSshr t f s
  | .sld t f => Sys2Proof.Machine.execSld t f s
  | .sst t f => Sys2Proof.Machine.execSst t f s
  | .brz t f => Sys2Proof.Machine.execBrz t f s
  | .brnz t f => Sys2Proof.Machine.execBrnz t f s
  | .waitw t f => Sys2Proof.Machine.execWaitw t f s
  | .setlayer t f => Sys2Proof.Machine.execSetlayer t f s
  | .yield t f => Sys2Proof.Machine.execYield t f s
  | .ctxEnd t f => Sys2Proof.Machine.execCtxEnd t f s
  | .spawn t f => Sys2Proof.Machine.execSpawn t f s
  | .registerWrite m addr width v => Sys2Proof.Machine.execRegisterWrite m addr width v s
  | .loReadLatch m addr => Sys2Proof.Machine.execLoReadLatch m addr s
  | .clrCnt m cls inst => Sys2Proof.Machine.execClrCnt m cls inst s
  | .freezeWrite m cls inst f => Sys2Proof.Machine.execFreezeWrite m cls inst f s
  | .bridgeWordTransfer b ch toSecond digits after flit => Sys2Proof.Machine.execBridgeWordTransfer b ch toSecond digits after flit s
  | .bridgeStall b ch toSecond ev => Sys2Proof.Machine.execBridgeStall b ch toSecond ev s
  | .gptTctrlWrite m n v => Sys2Proof.Machine.execGptTctrlWrite m n v s
  | .gptExpire n => Sys2Proof.Machine.execGptExpire n s
  | .rateWindowEnd ringA ringB => Sys2Proof.Machine.execRateWindowEnd ringA ringB s
  | .clrHs m => Sys2Proof.Machine.execClrHs m s
  | .emptyTokenExit p => Sys2Proof.Machine.execEmptyTokenExit p s
  | .wloadDone t => Sys2Proof.Machine.execWloadDone t s
  | .mmaVectorAccumulate t => Sys2Proof.Machine.execMmaVectorAccumulate t s
  | .drainCtrlGo m t v => Sys2Proof.Machine.execDrainCtrlGo m t v s
  | .drainReadout t => Sys2Proof.Machine.execDrainReadout t s
  | .drainComplete t => Sys2Proof.Machine.execDrainComplete t s
  | .accWindowRead m addr len => Sys2Proof.Machine.execAccWindowRead m addr len s
  | .arrayHoldLimit t => Sys2Proof.Machine.execArrayHoldLimit t s
  | .tsAccess t off req wr flips => Sys2Proof.Machine.execTsAccess t off req wr flips s
  | .seed3Write m cls inst v => Sys2Proof.Machine.execSeed3Write m cls inst v s
  | .keyDerived cls inst => Sys2Proof.Machine.execKeyDerived cls inst s
  | .katGo m t => Sys2Proof.Machine.execKatGo m t s
  | .katComplete t badLanes => Sys2Proof.Machine.execKatComplete t badLanes s
  | .cqTailWrite m cls inst v => Sys2Proof.Machine.execCqTailWrite m cls inst v s
  | .update n => Sys2Proof.Machine.execUpdate n s
  | .accum n => Sys2Proof.Machine.execAccum n s
  | .accum32 n => Sys2Proof.Machine.execAccum32 n s
  | .copy n => Sys2Proof.Machine.execCopy n s
  | .zero n => Sys2Proof.Machine.execZero n s
  | .optWaitRelease n => Sys2Proof.Machine.execOptWaitRelease n s
  | .optCmdComplete n => Sys2Proof.Machine.execOptCmdComplete n s
  | .shdSampleCompare n => Sys2Proof.Machine.execShdSampleCompare n s
  | .shdClr m n => Sys2Proof.Machine.execShdClr m n s
  | .shdEnSet m n => Sys2Proof.Machine.execShdEnSet m n s
  | .prune24 n => Sys2Proof.Machine.execPrune24 n s
  | .encodeTiles n => Sys2Proof.Machine.execEncodeTiles n s
  | .decodeTiles n => Sys2Proof.Machine.execDecodeTiles n s
  | .merge n => Sys2Proof.Machine.execMerge n s
  | .split n => Sys2Proof.Machine.execSplit n s
  | .combine n => Sys2Proof.Machine.execCombine n s
  | .prnCmdComplete n => Sys2Proof.Machine.execPrnCmdComplete n s
  | .sample c => Sys2Proof.Machine.execSample c s
  | .sampleHopWrite c => Sys2Proof.Machine.execSampleHopWrite c s
  | .remoteExpansionServe n b => Sys2Proof.Machine.execRemoteExpansionServe n b s
  | .replay c => Sys2Proof.Machine.execReplay c s
  | .walkEnd c => Sys2Proof.Machine.execWalkEnd c s
  | .lookup n => Sys2Proof.Machine.execLookup n s
  | .lookupBatchServe n src table ver tag rows => Sys2Proof.Machine.execLookupBatchServe n src table ver tag rows s
  | .lookupAnswer n ring owner status recs poison => Sys2Proof.Machine.execLookupAnswer n ring owner status recs poison s
  | .scatter n => Sys2Proof.Machine.execScatter n s
  | .scatterBatchAccept n src table ver step batch rows => Sys2Proof.Machine.execScatterBatchAccept n src table ver step batch rows s
  | .scatterApply n table step batch => Sys2Proof.Machine.execScatterApply n table step batch s
  | .applyWaitExpire n table step batch => Sys2Proof.Machine.execApplyWaitExpire n table step batch s
  | .gather n => Sys2Proof.Machine.execGather n s
  | .dispatch n => Sys2Proof.Machine.execDispatch n s
  | .xchReturn n => Sys2Proof.Machine.execXchReturn n s
  | .partDeadlineExpire n p owner => Sys2Proof.Machine.execPartDeadlineExpire n p owner s
  | .partAnswer n p owner status nodes => Sys2Proof.Machine.execPartAnswer n p owner status nodes s
  | .xchCmdComplete n => Sys2Proof.Machine.execXchCmdComplete n s
  | .slotWrite m n tbl slot v => Sys2Proof.Machine.execSlotWrite m n tbl slot v s
  | .offload n => Sys2Proof.Machine.execOffload n s
  | .prefetch n => Sys2Proof.Machine.execPrefetch n s
  | .drop n => Sys2Proof.Machine.execDrop n s
  | .kvShift n => Sys2Proof.Machine.execKvShift n s
  | .kvReady n dir round len => Sys2Proof.Machine.execKvReady n dir round len s
  | .kvShiftData n dir round data pois => Sys2Proof.Machine.execKvShiftData n dir round data pois s
  | .kvShiftAck n dir round => Sys2Proof.Machine.execKvShiftAck n dir round s
  | .linkTrain p peer => Sys2Proof.Machine.execLinkTrain p peer s
  | .linkUp p peerGood => Sys2Proof.Machine.execLinkUp p peerGood s
  | .flitReceive p flit fecBad => Sys2Proof.Machine.execFlitReceive p flit fecBad s
  | .nakReceive p seq => Sys2Proof.Machine.execNakReceive p seq s
  | .retryTmoExpire p => Sys2Proof.Machine.execRetryTmoExpire p s
  | .flitSend p => Sys2Proof.Machine.execFlitSend p s
  | .fecWindowEnd p uncorr corr lock eyes => Sys2Proof.Machine.execFecWindowEnd p uncorr corr lock eyes s
  | .laneFault p lane => Sys2Proof.Machine.execLaneFault p lane s
  | .retrain m p => Sys2Proof.Machine.execRetrain m p s
  | .degradeRetrainDone p peerGood ok => Sys2Proof.Machine.execDegradeRetrainDone p peerGood ok s
  | .packetRoute src vc pkt => Sys2Proof.Machine.execPacketRoute src vc pkt s
  | .portCtrlEn m p en => Sys2Proof.Machine.execPortCtrlEn m p en s
  | .geomWrite m p v => Sys2Proof.Machine.execGeomWrite m p v s
  | .mgmtAccess addr width wr => Sys2Proof.Machine.execMgmtAccess addr width wr s
  | .reduce c => Sys2Proof.Machine.execReduce c s
  | .barrier c => Sys2Proof.Machine.execBarrier c s
  | .gatePoll c => Sys2Proof.Machine.execGatePoll c s
  | .join c src seq digest => Sys2Proof.Machine.execJoin c src seq digest s
  | .redReady c src seq digest => Sys2Proof.Machine.execRedReady c src seq digest s
  | .redDrop c src seq digest level => Sys2Proof.Machine.execRedDrop c src seq digest level s
  | .agree c src seq digest p exps => Sys2Proof.Machine.execAgree c src seq digest p exps s
  | .agreeRes c src seq digest exps => Sys2Proof.Machine.execAgreeRes c src seq digest exps s
  | .redData c src seq digest stage level first units last => Sys2Proof.Machine.execRedData c src seq digest stage level first units last s
  | .result c src seq digest first units hdr => Sys2Proof.Machine.execResult c src seq digest first units hdr s
  | .redAck c src seq digest => Sys2Proof.Machine.execRedAck c src seq digest s
  | .levelDeadlineExpire c level => Sys2Proof.Machine.execLevelDeadlineExpire c level s
  | .resultTmoExpire c => Sys2Proof.Machine.execResultTmoExpire c s
  | .redOpComplete c => Sys2Proof.Machine.execRedOpComplete c s
  | .redReset m c => Sys2Proof.Machine.execRedReset m c s
  | .calve c => Sys2Proof.Machine.execCalve c s
  | .land c => Sys2Proof.Machine.execLand c s
  | .calvGather c => Sys2Proof.Machine.execCalvGather c s
  | .regather c => Sys2Proof.Machine.execRegather c s
  | .calvChunk c src seq digest entry off data pois ver => Sys2Proof.Machine.execCalvChunk c src seq digest entry off data pois ver s
  | .copyDone c src seq digest ok reason => Sys2Proof.Machine.execCopyDone c src seq digest ok reason s
  | .calvDecision c src seq digest reason commit => Sys2Proof.Machine.execCalvDecision c src seq digest reason commit s
  | .calvAck c src seq digest chunk => Sys2Proof.Machine.execCalvAck c src seq digest chunk s
  | .copyTmoExpire c => Sys2Proof.Machine.execCopyTmoExpire c s
  | .decideTmoExpire c => Sys2Proof.Machine.execDecideTmoExpire c s
  | .fenceRelease c => Sys2Proof.Machine.execFenceRelease c s
  | .fenceTmoExpire c => Sys2Proof.Machine.execFenceTmoExpire c s
  | .gatherShardDeadline c => Sys2Proof.Machine.execGatherShardDeadline c s
  | .resolveCommit m => Sys2Proof.Machine.execResolveCommit m s
  | .resolveAbort m => Sys2Proof.Machine.execResolveAbort m s
  | .pset m => Sys2Proof.Machine.execPset m s
  | .seal m => Sys2Proof.Machine.execSeal m s
  | .sealCancel m => Sys2Proof.Machine.execSealCancel m s
  | .resync m => Sys2Proof.Machine.execResync m s
  | .restoreTwin m => Sys2Proof.Machine.execRestoreTwin m s
  | .restoreCompanion m => Sys2Proof.Machine.execRestoreCompanion m s
  | .restoreOwnStore m => Sys2Proof.Machine.execRestoreOwnStore m s
  | .rollback m => Sys2Proof.Machine.execRollback m s
  | .firnExport m => Sys2Proof.Machine.execFirnExport m s
  | .firnRelease m => Sys2Proof.Machine.execFirnRelease m s
  | .firnScanGranule n => Sys2Proof.Machine.execFirnScanGranule n s
  | .hello keyHash epochSealed epochCur grade kstate heldHash heldEpoch freeStore keeps => Sys2Proof.Machine.execHello keyHash epochSealed epochCur grade kstate heldHash heldEpoch freeStore keeps s
  | .chunks epoch gran recs => Sys2Proof.Machine.execChunks epoch gran recs s
  | .gack gran status => Sys2Proof.Machine.execGack gran status s
  | .manifest m => Sys2Proof.Machine.execManifest m s
  | .sealed epoch status => Sys2Proof.Machine.execSealed epoch status s
  | .keeperFold addr => Sys2Proof.Machine.execKeeperFold addr s
  | .rqRestore mode epoch grans => Sys2Proof.Machine.execRqRestore mode epoch grans s
  | .rManifest m => Sys2Proof.Machine.execRManifest m s
  | .rChunks gran recs => Sys2Proof.Machine.execRChunks gran recs s
  | .rResend gran => Sys2Proof.Machine.execRResend gran s
  | .restored epoch status => Sys2Proof.Machine.execRestored epoch status s
  | .hbmRead addr req e1 e2 => Sys2Proof.Machine.execHbmRead addr req e1 e2 s
  | .hbmWrite addr req mask data pois e1 e2 => Sys2Proof.Machine.execHbmWrite addr req mask data pois e1 e2 s
  | .init m n => Sys2Proof.Machine.execInit m n s
  | .initDone n => Sys2Proof.Machine.execInitDone n s
  | .scrubStepExpire n errs odecc => Sys2Proof.Machine.execScrubStepExpire n errs odecc s
  | .scrubEnWrite m n en => Sys2Proof.Machine.execScrubEnWrite m n en s
  | .cvuGo m n => Sys2Proof.Machine.execCvuGo m n s
  | .cvuAbort m n => Sys2Proof.Machine.execCvuAbort m n s
  | .cvuScanDone n => Sys2Proof.Machine.execCvuScanDone n s
  | .rdShared addr txid => Sys2Proof.Machine.execRdShared addr txid s
  | .rdOwn addr txid => Sys2Proof.Machine.execRdOwn addr txid s
  | .rdUncached addr size txid => Sys2Proof.Machine.execRdUncached addr size txid s
  | .wrFull addr txid data plo phi => Sys2Proof.Machine.execWrFull addr txid data plo phi s
  | .wrPartial addr txid mask data plo phi => Sys2Proof.Machine.execWrPartial addr txid mask data plo phi s
  | .evict addr txid dirty data plo phi => Sys2Proof.Machine.execEvict addr txid dirty data plo phi s
  | .doorbell addr txid v => Sys2Proof.Machine.execDoorbell addr txid v s
  | .snpInv addr txid => Sys2Proof.Machine.execSnpInv addr txid s
  | .snpShare addr txid => Sys2Proof.Machine.execSnpShare addr txid s
  | .oplisAck txid rkind st status evp => Sys2Proof.Machine.execOplisAck txid rkind st status evp s
  | .oplisData txid rkind st status dirty data plo phi => Sys2Proof.Machine.execOplisData txid rkind st status dirty data plo phi s
  | .lineCacheAccess addr unit stream wr => Sys2Proof.Machine.execLineCacheAccess addr unit stream wr s
  | .quiesce m => Sys2Proof.Machine.execQuiesce m s
  | .txnTmoExpire txid => Sys2Proof.Machine.execTxnTmoExpire txid s
  | .snpTmoExpire txid => Sys2Proof.Machine.execSnpTmoExpire txid s
  | .claim m prio nonce => Sys2Proof.Machine.execClaim m prio nonce s
  | .claimNonce m v => Sys2Proof.Machine.execClaimNonce m v s
  | .renew m v => Sys2Proof.Machine.execRenew m v s
  | .ownRelease m v => Sys2Proof.Machine.execOwnRelease m v s
  | .start m fl c => Sys2Proof.Machine.execStart m fl c s
  | .park m fl c => Sys2Proof.Machine.execPark m fl c s
  | .kill m fl c => Sys2Proof.Machine.execKill m fl c s
  | .ctxCtrlEn m fl => Sys2Proof.Machine.execCtxCtrlEn m fl s
  | .dspHoldWrite m fl hold => Sys2Proof.Machine.execDspHoldWrite m fl hold s
  | .contextDispatch fl => Sys2Proof.Machine.execContextDispatch fl s
  | .quantumExpire c => Sys2Proof.Machine.execQuantumExpire c s
  | .contextSave c => Sys2Proof.Machine.execContextSave c s
  | .dmaDone t cur => Sys2Proof.Machine.execDmaDone t cur s
  | .pdOnWrite m w v => Sys2Proof.Machine.execPdOnWrite m w v s
  | .pdWake pd => Sys2Proof.Machine.execPdWake pd s
  | .pdWakeReady pd => Sys2Proof.Machine.execPdWakeReady pd s
  | .pdSwitchOff pd => Sys2Proof.Machine.execPdSwitchOff pd s
  | .govWindow iA iB vA vB held => Sys2Proof.Machine.execGovWindow iA iB vA vB held s
  | .shedForceWrite m on => Sys2Proof.Machine.execShedForceWrite m on s
  | .sag vA vB => Sys2Proof.Machine.execSag vA vB s
  | .overDecl vA vB => Sys2Proof.Machine.execOverDecl vA vB s
  | .thermThrottle tj => Sys2Proof.Machine.execThermThrottle tj s
  | .thermRelease tj => Sys2Proof.Machine.execThermRelease tj s
  | .thermtrip tj => Sys2Proof.Machine.execThermtrip tj s
  | .powerLoss pin => Sys2Proof.Machine.execPowerLoss pin s
  | .bleedEnd diss ret => Sys2Proof.Machine.execBleedEnd diss ret s
  | .pop m => Sys2Proof.Machine.execPop m s
  | .clrFirst m => Sys2Proof.Machine.execClrFirst m s
  | .clrLog m => Sys2Proof.Machine.execClrLog m s
  | .ageSample inp => Sys2Proof.Machine.execAgeSample inp s
  | .sampleNow m inp => Sys2Proof.Machine.execSampleNow m inp s
  | .clrHist m => Sys2Proof.Machine.execClrHist m s
  | .resetNAssert tj => Sys2Proof.Machine.execResetNAssert tj s
  | .warmReset m => Sys2Proof.Machine.execWarmReset m s
  | .append data => Sys2Proof.Machine.execAppend data s
  | .attest m => Sys2Proof.Machine.execAttest m s
  | .arbCommit m k => Sys2Proof.Machine.execArbCommit m k s
  | .extend m slot => Sys2Proof.Machine.execExtend m slot s
  | .dbgReq m arg => Sys2Proof.Machine.execDbgReq m arg s
  | .dbgToken m => Sys2Proof.Machine.execDbgToken m s
  | .bringupTrain failed badLanes ids => Sys2Proof.Machine.execBringupTrain failed badLanes ids s
  | .bringupTest failTiles => Sys2Proof.Machine.execBringupTest failTiles s
  | .waitwReread t => Sys2Proof.Machine.execWaitwReread t s
  | .secCmdEnd blown => Sys2Proof.Machine.execSecCmdEnd blown s
  | .firnCmdEnd slotK => Sys2Proof.Machine.execFirnCmdEnd slotK s
  | .expertBatchReceive n src step isReturn rows failed => Sys2Proof.Machine.execExpertBatchReceive n src step isReturn rows failed s
  | .jtagInstruction ir => Sys2Proof.Machine.execJtagInstruction ir s
  | .refclkLost => Sys2Proof.Machine.execRefclkLost s
  | .twinAliveFall => Sys2Proof.Machine.execTwinAliveFall s
  | .sealCut => Sys2Proof.Machine.execSealCut s
  | .sealFlushDone => Sys2Proof.Machine.execSealFlushDone s
  | .mirrorTmoExpire => Sys2Proof.Machine.execMirrorTmoExpire s
  | .quiesceDone => Sys2Proof.Machine.execQuiesceDone s
  | .oplisLinkDown => Sys2Proof.Machine.execOplisLinkDown s
  | .electionClose => Sys2Proof.Machine.execElectionClose s
  | .leaseExpire => Sys2Proof.Machine.execLeaseExpire s
  | .handoverTmoExpire => Sys2Proof.Machine.execHandoverTmoExpire s
  | .govAlertAssert => Sys2Proof.Machine.execGovAlertAssert s
  | .govAlertDeassert => Sys2Proof.Machine.execGovAlertDeassert s
  | .resetNRelease => Sys2Proof.Machine.execResetNRelease s
  | .fusesSensed => Sys2Proof.Machine.execFusesSensed s
  | .bootRestart => Sys2Proof.Machine.execBootRestart s
  | .verify => Sys2Proof.Machine.execVerify s
  | .bringupPower => Sys2Proof.Machine.execBringupPower s
  | .vaonComesUp => Sys2Proof.Machine.execVaonComesUp s
  | .vaonLeavesRange => Sys2Proof.Machine.execVaonLeavesRange s

end Sys2Proof.Machine
end

