-- ==== Sys2Proof/Safety.lean ====
section
/-! DEFINITION. What the statements speak of: states in which a command is performed, what a step leaves alone, canonical forms. -/
namespace Sys2Proof.Safety
open Sys2Proof.Machine

/-- A step completes: it answers a next state. -/
def Completes (s : State) : Prop := ∃ s', step s = .next s'

/-! ### Canonical forms -/

/-- HBM holds its cells in canonical form: rising addresses, no listed byte that reads as an unlisted one. -/
def HbmWf (s : State) : Prop := mwf (fun _ => (0 : BitVec 8)) s.hbm.mem = true

/-- The tile stores hold their cells in canonical form. -/
def TsWf (s : State) : Prop := mwf (fun _ => (0 : BitVec 8)) s.ts.mem = true

/-- The register file holds its entries in canonical form. -/
def RegsWf (s : State) : Prop := mwf keyReset s.regs = true

/-! ### Frames -/

/-- One byte of HBM, one byte of a tile store. -/
def hbmByte (s : State) (a : Nat) : BitVec 8 := mget 0 s.hbm.mem a
def tsByte (s : State) (t o : Nat) : BitVec 8 := mget 0 s.ts.mem (tsAddr t o)

/-- `u` is `s` but for the registers with the keys `ks` and messages sent at the end of the outbox. -/
structure OnlyRegs (ks : List Nat) (s u : State) : Prop where
  regs : ∀ k d, k ∉ ks → mget d u.regs k = mget d s.regs k
  out  : ∃ l, u.outbox = s.outbox ++ l
  rest : ({ u with regs := s.regs, outbox := s.outbox } : State) = s

/-- The two words of a 64-bit register. -/
def keys64 (cls inst off : Nat) : List Nat := [rk cls inst off, rk cls inst (off + 4)]

/-- What a message of Oplis that leaves counts: TX_MSG and GRANTS of the Oplis egress (R432, R456). -/
def msgKeys : List Nat := keys64 cOPL 0 OPL.TX_MSG ++ keys64 cARB 145 ARB.GRANTS

/-- As `OnlyRegs`, of a command that may set an interrupt cause: a Notify may leave, which TX_MSG counts, or may wait for the Acks
of writes made before it (R426). -/
def OnlyRegsN (ks : List Nat) (s u : State) : Prop := OnlyRegs (ks ++ msgKeys) { s with notes := u.notes } u

/-- `s` with the packet in which the twin's companion will have its answer: over the management channel it joins VC 0 of a mirror
sub-link (R277); the other masters' answers join nothing. -/
def answering (s : State) (m : Nat) : State := if m = 1 && s.mirUp then s.mgmtOut else s

/-- The last message sent answers a register write of master `m`. -/
def Acks (u : State) (m cls inst off st : Nat) : Prop := u.outbox.getLast? = some (.wack m (regAddr cls inst off) st)

/-- The interrupt causes `b` of a page are set and no cause is cleared. -/
def Raises (s u : State) (cls inst b : Nat) : Prop := u.rd cls inst hIRQ_STAT = s.rd cls inst hIRQ_STAT ||| u32 b

/-- A saturating 32-bit counter has risen by n. -/
def Counts (s u : State) (cls inst off n : Nat) : Prop :=
  (u.rd cls inst off).toNat = min 4294967295 ((s.rd cls inst off).toNat + n)

/-! ### The ways to a register (R14, R436, R439) -/

/-- A write of master `m` reaches the register interface: its path is up and pages are served. -/
def Reaches (s : State) (m cls inst off : Nat) : Prop :=
  s.pathOk m = true ∧ regAddrOk cls inst off 4 = true ∧ s.writeServed cls = true

/-- The owner's write of a register is performed: it reaches the interface, `m` owns the device and its lease has not passed, and
the page is not that of a disabled tile (R3, R14, R439, R442). -/
def OwnerReady (s : State) (m cls inst off : Nat) : Prop :=
  Reaches s m cls inst off ∧ s.own.mode = .owned ∧ s.own.owner = m ∧ s.clk.time ≤ s.own.deadline ∧
    s.disabledPage cls inst = false

/-- The device runs outside reset, so that events of the timebase and of its pins happen. -/
def Awake (s : State) : Prop := s.life.vaon = true ∧ s.life.inReset = false


/-! ### Owner writes: which rows are one master's write of one register -/

/-- Master, class, instance and offset of the rows that write one register as the owner and that nothing but the drop of R14 answers
otherwise (CLR_HIST, which records its refusal, and the rows of R523 apart). -/
def masterWrite (i : Instr) : Option (Nat × Nat × Nat × Nat) :=
  match i with
  | .clrCnt m cls inst => some (m, cls, inst, hCTRL)
  | .freezeWrite m cls inst _ => some (m, cls, inst, hFREEZE)
  | .gptTctrlWrite m n _ => if n < 16 then some (m, cTIM, 0, TIM.GPT_TCTRL + 16 * n) else none
  | .clrHs m => some (m, cTIM, 0, hCTRL)
  | .pop m => some (m, cERR, 0, ERR.POP)
  | .clrFirst m => some (m, cERR, 0, ERR.CLR_FIRST)
  | .clrLog m => some (m, cERR, 0, hCTRL)
  | .shdClr m n => some (m, cSHD, n, hCTRL)
  | .shdEnSet m n => some (m, cSHD, n, hCTRL)
  | .shedForceWrite m _ => some (m, cPWR, 0, hCTRL)
  | .renew m _ => some (m, cOWN, 0, OWN.RENEW)
  | .ownRelease m _ => some (m, cOWN, 0, OWN.RELEASE)
  | _ => none

/-- The rows of ownership (R440–R443). -/
def ownershipRow (i : Instr) : Bool :=
  match i with
  | .claim _ _ _ | .claimNonce _ _ | .electionClose | .renew _ _ | .leaseExpire | .ownRelease _ _ | .handoverTmoExpire => true
  | _ => false

/-- The owner state is lawful: OWNER.VALID stands exactly in OWNED, with a master as owner; claims stand entered exactly in
ELECTING, and only of masters (R440, R441, R443). -/
structure OwnInv (s : State) : Prop where
  valid  : s.own.valid = true ↔ s.own.mode = .owned
  owner  : s.own.mode = .owned → s.own.owner < 3
  claims : ∀ m c, mget none s.own.claims m = some c → m < 3
  some'  : s.own.mode = .electing ↔ s.own.claims ≠ []

/-- The registers that a dropped write of master `m` changes (R14, R439). -/
def dropKeys (m : Nat) : List Nat :=
  [rk cOWN 0 (OWN.DROP_CNT + 4 * m), rk cOWN 0 OWN.LAST_DROP_ADDR, rk cOWN 0 (OWN.LAST_DROP_ADDR + 4),
    rk cOWN 0 OWN.LAST_DROP_INFO, rk cOWN 0 hIRQ_STAT]

/-- What a register holds after a write of `v`, by its row of the page's table and the access codes of R12: RW bits take the value,
W1C bits that are written 1 clear, everything else stays (R13). -/
def written (cls off : Nat) (old v : W32) : W32 :=
  match regRow cls off with
  | some r =>
    match r.acc with
    | .rw => (old &&& ~~~ u32 r.mask) ||| (v &&& u32 r.mask)
    | .w1c => old &&& ~~~ (v &&& u32 r.mask)
    | _ => old
  | none => old

/-! ### Fatal errors, timers, domains -/

/-- The device has halted on a Fatal error of a page (R482, R486): the page's first queued record is Fatal with HALT and the cause,
TWIN_ALIVE_OUT is low, every link is down. -/
def HaltedBy (u : State) (cls inst cause : Nat) : Prop :=
  u.life.halted = true ∧ u.pins.twinAliveOut = false ∧
    (∃ r, u.errQ (pageId cls inst) = [r] ∧ r.sev = 3 ∧ r.halt = true ∧ r.cause = cause ∧ r.src = pageId cls inst) ∧
    (∀ p, p < 8 → u.rd cPORT p PORT.LINK_STAT = 0) ∧ u.rd cMIR 0 MIR.SUB0_STAT = 0 ∧ u.rd cMIR 0 MIR.SUB1_STAT = 0 ∧
    u.rd cOPL 0 OPL.LINK_STAT = 0

/-- Nothing of the companion waits at a controller, and no dispatcher has a scan or a command in progress, so that a change of
state lets no held access proceed. -/
def NoWaits (s : State) : Prop :=
  s.opl.waits = [] ∧ s.opl.lcw = [] ∧ s.opl.quiescing = false ∧ s.scanDue = [] ∧ s.ctxBusy = []

/-- Beside that, the exchange engines hold no command and no batch: a thaw finds nothing to go on with. -/
def NothingHeld (s : State) : Prop := NoWaits s ∧ s.xch = []

/-- A channel's digits are all valid: one wire high in each of the 32 (R26). -/
def digitsGood (ds : List (BitVec 4)) : Prop := ds.length = 32 ∧ ∀ d ∈ ds, d = 1 ∨ d = 2 ∨ d = 4 ∨ d = 8

/-! ### Register accesses -/

/-- Pages whose registers beyond CTRL, FREEZE and the interrupt words do nothing but hold their value. -/
def plainPages : List Nat := [cSYS, cAGE, cDSP, cHBM, cPRN, cSHD, cARB]

/-- The header registers that are no plain register. -/
def headerActs : List Nat := [hCTRL, hFREEZE, hIRQ_STAT, hIRQ_EN]

/-- No lease or window has passed whose end the timebase has yet to bring about (R442). -/
def OwnerCurrent (s : State) : Prop := s.clk.time ≤ s.own.deadline ∨ s.own.mode = .vacant

/-- A read by master `m` is served: its path is up, the address names a page, the page is served (R14, R436, R501). -/
def ReadReady (s : State) (m cls inst off : Nat) : Prop :=
  s.pathOk m = true ∧ regAddrOk cls inst off 4 = true ∧ s.readServed m cls = true ∧ OwnerCurrent s

/-- Registers of pages of other classes than these are unchanged. -/
def RegsBut (cs : List Nat) (s u : State) : Prop :=
  ∀ cls inst off, cls ∉ cs → inst < 256 → off < 4096 → rk cls inst off ∉ msgKeys → u.rd cls inst off = s.rd cls inst off

/-! ### The coherent link and HBM -/

/-- The bytes of HBM from an address on. -/
def hbmBytes (s : State) (a n : Nat) : Bytes := (List.range n).map fun i => hbmByte s (a + i)

/-- The sector of an address holds valid check symbols: it reads clean (R382). -/
def Sound (s : State) (a : Nat) : Prop := s.chkOf a = (0, 0, 0, 0)

/-- No error injection is armed on a stack (R549). -/
def InjOff (s : State) (n : Nat) : Prop := (s.rd cHBM n HBM.INJ_CTRL).getLsbD 31 = false

/-- A companion request for the line of an HBM address is served as it arrives: the link and the way to the stack are up, the stack
answers and is not frozen, no transaction on the line is active and nothing waits (R17, R379, R411, R458). -/
structure HomeReady (s : State) (a : Nat) : Prop where
  live  : s.oplLive = true
  quiet : NoWaits s
  addr  : a < hbmSize
  path  : s.pathOff rqOpl (stackOf a / 4) = none
  stack : s.stackOk (stackOf a) = true
  thaw  : s.hbmFrozen (stackOf a) = false
  idle  : s.lineActive (a / 128) = false

/-- A device requester can reach a sector at once: as `HomeReady`, and no mask keeps its grant away and the companion is not in
its line (R376, R416, R457). -/
structure SectorReady (s : State) (a req : Nat) : Prop where
  live  : s.live = true
  quiet : NoWaits s
  addr  : a < hbmSize
  align : a % 64 = 0
  path  : s.pathOff ⟨if req = 1 then 1 - stackOf a / 4 else if req = 2 ∨ req = 7 then 2 else stackOf a / 4, req⟩ (stackOf a / 4) = none
  stack : s.stackOk (stackOf a) = true
  thaw  : s.hbmFrozen (stackOf a) = false
  idle  : ∀ b ∈ s.opl.busy, b.1 ≠ a / 128
  turn  : s.arbMasked (128 + stackOf a) req = false

/-- An Ack and a Data message of the device (R405). -/
def ackMsg (txid rkind st status addr : Nat) : OutMsg := .oplis 0x20 txid rkind st status 7 addr false false 0 [] false false
def dataMsg (txid st addr : Nat) (d : Bytes) (plo phi : Bool) : OutMsg :=
  .oplis 0x30 txid 0 st 0 7 addr false false 0 (bpad d 128) plo phi

/-- The counters that a message exchange and an access to stack n move. -/
def memKeys (n : Nat) : List Nat :=
  keys64 cOPL 0 OPL.RX_MSG ++ msgKeys ++ keys64 cHBM n HBM.RD_SECT ++ keys64 cHBM n HBM.WR_SECT ++
    keys64 cARB (128 + n) ARB.GRANTS

/-- The check symbols a write leaves: the marker for poison, valid ones without (R387). -/
def chkFor (p : Bool) : Sym4 := if p then poisonRem else (0, 0, 0, 0)

/-! ### Instructions of a tile context -/

/-- Tile t issues instruction i of context c: the tile works, the context runs there with nothing asked of it and not in a WAITW, and
the word of i stands at its PC, where it can be read at once and clean (R447, R449). -/
structure Issues (s : State) (t c : Nat) (i : Instr) : Prop where
  on    : s.arrOn t = true
  runs  : s.runner t = some c ∧ (s.ctx c).state = .running ∧ (s.ctx c).tile = some t
  awake : (s.ctx c).waitw = none
  calm  : (s.ctx c).want = .none
  align : (s.ctx c).pc % 8 = 0
  inHbm : (s.ctx c).pc + 8 ≤ hbmSize
  path  : s.pathOff (rqTile (floeOf t)) (stackOf (s.ctx c).pc / 4) = none
  stack : s.stackOk (stackOf (s.ctx c).pc) = true
  thaw  : s.hbmFrozen (stackOf (s.ctx c).pc) = false
  lines : ∀ e ∈ s.opl.sf, e.1 = (s.ctx c).pc / 128 → e.2 = false
  busy  : ∀ b ∈ s.opl.busy, b.1 ≠ (s.ctx c).pc / 128
  ahead : ∀ x ∈ s.opl.waits, x.ahead (s.ctx c).pc 8 false = false
  sound : Sound s (s.ctx c).pc
  word  : ∃ w, encodeWord i = some w ∧ hbmBytes s (s.ctx c).pc 8 = toLE 8 w.toNat

/-- The instruction has retired: context c is `x` but for VFLAGS, to which `flags` are joined, the stream register that DINC and BINC
move, and PC, which is past the instruction; no other context, nothing of HBM, of the arrays, of ownership and of power has changed;
no vector instruction waits on its tile (R80, R87, R98, R111). -/
structure Retired (s u : State) (c : Nat) (f : VecFields) (x : Ctx) (flags : VF) : Prop where
  ctx    : u.ctx c = { f.inc { x with vflags := x.vflags ||| flags } with pc := (s.ctx c).pc + 8 }
  others : ∀ d, d ≠ c → u.ctx d = s.ctx d
  hbm    : u.hbm = s.hbm
  units  : u.tiles = (s.vecBusy ((s.ctx c).tile.getD 0) false).tiles ∧ u.own = s.own ∧ u.pwr = s.pwr ∧ u.opl = s.opl ∧ u.firn = s.firn ∧ u.clk = s.clk
  pages  : RegsBut [cHBM, cARB, cVEC, cTIM, cTILE, cERR] s u

/-- The vector registers of tile t after an operation that writes elements of register r where `act` holds, and nothing else. -/
structure ElemsWritten (s u : State) (t r : Nat) (act : Nat → Bool) (val : Nat → W32) (poi : Nat → Bool) : Prop where
  elem  : ∀ q k, q < 32 → k < 2048 → (u.vecOf t).elem q k = if q = r ∧ act k = true then val k else (s.vecOf t).elem q k
  pois  : ∀ q k, q < 32 → k < 2048 → (u.vecOf t).pois q k = if q = r ∧ act k = true then poi k else (s.vecOf t).pois q k
  masks : (u.vecOf t).m = (s.vecOf t).m
  tiles : ∀ j, j ≠ t → u.vecOf j = s.vecOf j

/-- The fault code of an instruction word's TYPE, reserved bits and RM, if it has one (R82, R548). -/
def wordFault (o : OpSpec) (f : VecFields) (width : Nat) : Option Nat := (o.check f).orElse fun _ => o.checkRm f width

/-- What an element-wise operation does: its tile and fields, the fault of its word, the result of element k for context c, and whether
an operand element of it is poisoned (R83, R92, R108). -/
structure ElFn where
  t   : Nat
  f   : VecFields
  bad : Option Nat
  g   : State → Nat → Nat → El
  p   : State → Nat → Bool

/-- An operation on elements of A, B and C. -/
def elOf (o : OpSpec) (g : ElOp) (t : Nat) (f : VecFields) : ElFn :=
  ⟨t, f, wordFault o f (tyWidth f.type.toNat),
    fun s c k => g f.type.toNat (f.rnd s t (s.ctx c) k) ((s.vecOf t).elem f.vs1.toNat k) (f.opB (s.vecOf t) (s.ctx c) k)
      ((s.vecOf t).elem f.vs3.toNat k),
    fun s k => (o.vs1 == .v && (s.vecOf t).pois f.vs1.toNat k) || (o.vs2 == .vOrS && f.poisB (s.vecOf t) k) ||
      (o.vs3 == .v && (s.vecOf t).pois f.vs3.toNat k)⟩

/-- A random shape of the element's draw. -/
def randOf (op : Nat) (vs2 vs3 : FieldUse) (ty : Nat) (g : Ctx → W32 → El) (t : Nat) (f : VecFields) : ElFn :=
  ⟨t, f, wordFault { op := op, vd := .v, vs2 := vs2, vs3 := vs3, types := [ty] } f 32,
    fun s c k => g (s.ctx c) (f.drawAt s t (s.ctx c) k), fun _ _ => false⟩

/-- The element-wise instructions (R83, R108). -/
def elFn (i : Instr) : Option ElFn :=
  match i with
  | .vAdd t f => some (elOf (specAB 0x20 tyInts) elAdd t f)
  | .vSub t f => some (elOf (specAB 0x21 tyInts) elSub t f)
  | .vMul t f => some (elOf (specAB 0x22 tyInts) elMul t f)
  | .vMulh t f => some (elOf (specAB 0x23 tyInts) elMulh t f)
  | .vMin t f => some (elOf (specAB 0x24 tyInts) elMin t f)
  | .vMax t f => some (elOf (specAB 0x25 tyInts) elMax t f)
  | .vSll t f => some (elOf (specAB 0x28 tyInts) elSll t f)
  | .vSrl t f => some (elOf (specAB 0x29 tyInts) elSrl t f)
  | .vSra t f => some (elOf (specAB 0x2A tyInts) elSra t f)
  | .vSrar t f => some (elOf (specAB 0x2B tyInts) elSrar t f)
  | .vSlls t f => some (elOf (specAB 0x2C tyInts) elSlls t f)
  | .vRotl t f => some (elOf (specAB 0x2D tyInts) elRotl t f)
  | .vAnd t f => some (elOf (specAB 0x30 tyAll) elAnd t f)
  | .vOr t f => some (elOf (specAB 0x31 tyAll) elOr t f)
  | .vXor t f => some (elOf (specAB 0x32 tyAll) elXor t f)
  | .vAndn t f => some (elOf (specAB 0x33 tyAll) elAndn t f)
  | .vFmin t f => some (elOf (specAB 0x44 tyFloats) elFmin t f)
  | .vFmax t f => some (elOf (specAB 0x45 tyFloats) elFmax t f)
  | .vAbs t f => some (elOf (specA 0x26 tyInts) elAbs t f)
  | .vNeg t f => some (elOf (specA 0x27 tyInts) elNeg t f)
  | .vNot t f => some (elOf (specA 0x34 tyAll) elNot t f)
  | .vMov t f => some (elOf (specA 0x35 tyAll) elMov t f)
  | .vFabs t f => some (elOf (specA 0x46 tyFloats) elFabs t f)
  | .vFneg t f => some (elOf (specA 0x47 tyFloats) elFneg t f)
  | .vExp2 t f => some (elOf (specA 0x60 [8]) (elSfu 0) t f)
  | .vLog2 t f => some (elOf (specA 0x61 [8]) (elSfu 1) t f)
  | .vRcp t f => some (elOf (specA 0x62 [8]) (elSfu 2) t f)
  | .vRsqrt t f => some (elOf (specA 0x63 [8]) (elSfu 3) t f)
  | .vFadd t f => some (elOf (specAB 0x40 tyFloats true) elFadd t f)
  | .vFsub t f => some (elOf (specAB 0x41 tyFloats true) elFsub t f)
  | .vFmul t f => some (elOf (specAB 0x42 tyFloats true) elFmul t f)
  | .vFma t f => some (elOf { specAB 0x43 tyFloats true with vs3 := .v } elFma t f)
  | .vCvt t f =>
    let o : OpSpec := { op := 0x68, vd := .v, vs1 := .v, vs3 := .ty, rm := true, types := tyAll }
    let e := elOf o (elCvt f.vs3.toNat) t f
    some { e with bad := e.bad.orElse fun _ => if tyAll.contains f.vs3.toNat then none else some 0x07 }
  | .vIdx t f =>
    some ⟨t, f, wordFault { op := 0x36, vd := .v, types := tyNone } f 32, fun _ _ k => (u32 k, 0), fun _ _ => false⟩
  | .vMsel t f =>
    some ⟨t, f, wordFault { op := 0x8D, vd := .v, vs1 := .v, vs2 := .m, vs3 := .v, types := tyAll } f 32,
      fun s _ k => (slotOf f.type.toNat (if (s.vecOf t).bit (mNum f.vs2) k then (s.vecOf t).elem f.vs1.toNat k
        else (s.vecOf t).elem f.vs3.toNat k).toNat, 0),
      fun s k => (s.vecOf t).pois f.vs1.toNat k || (s.vecOf t).pois f.vs3.toNat k⟩
  | .vRandu t f => some (randOf 0x90 .none .none 3 (fun _ w => (w, 0)) t f)
  | .vRandf t f => some (randOf 0x91 .none .none 8 (fun _ w => (rndF w, 0)) t f)
  | .vRandg t f => some (randOf 0x93 .none .none 8 (fun _ w => rndG w) t f)
  | .vRandn t f =>
    some (randOf 0x94 .s .s 8 (fun x w => rndN w (u32 (x.sreg (sNum f.vs2)).toNat) (u32 (x.sreg (sNum f.vs3)).toNat)) t f)
  | _ => none

/-- What an operation that writes mask bits does, as `ElFn`. -/
structure MaskFn where
  t   : Nat
  f   : VecFields
  bad : Option Nat
  g   : State → Nat → Nat → Bool × VF
  p   : State → Nat → Bool

/-- A compare, and mask logic. -/
def cmpOf (op : Nat) (g : CmpOp) (t : Nat) (f : VecFields) : MaskFn :=
  ⟨t, f, wordFault { op := op, vd := .m, vs1 := .v, vs2 := .vOrS, types := tyAll } f 32,
    fun s c k => g f.type.toNat ((s.vecOf t).elem f.vs1.toNat k) (f.opB (s.vecOf t) (s.ctx c) k),
    fun s k => (s.vecOf t).pois f.vs1.toNat k || f.poisB (s.vecOf t) k⟩
def mlogOf (op : Nat) (vs2 : FieldUse) (g : Bool → Bool → Bool) (t : Nat) (f : VecFields) : MaskFn :=
  ⟨t, f, wordFault { op := op, vd := .m, vs1 := .m, vs2 := vs2, types := tyNone } f 32,
    fun s _ k => (g ((s.vecOf t).bit (mNum f.vs1) k) ((s.vecOf t).bit (mNum f.vs2) k), 0), fun _ _ => false⟩

/-- The instructions that write mask bits (R83, R108). -/
def maskFn (i : Instr) : Option MaskFn :=
  match i with
  | .vCmpeq t f => some (cmpOf 0x80 cmpEq t f)
  | .vCmplt t f => some (cmpOf 0x81 cmpLt t f)
  | .vCmple t f => some (cmpOf 0x82 cmpLe t f)
  | .vCmpun t f => some (cmpOf 0x83 cmpUn t f)
  | .vMand t f => some (mlogOf 0x88 .m (· && ·) t f)
  | .vMor t f => some (mlogOf 0x89 .m (· || ·) t f)
  | .vMxor t f => some (mlogOf 0x8A .m (· != ·) t f)
  | .vMnot t f => some (mlogOf 0x8B .none (fun a _ => !a) t f)
  | .vRandb t f =>
    some ⟨t, f, wordFault { op := 0x92, vd := .m, vs2 := .s, types := tyNone } f 32,
      fun s c k => (decide ((f.drawAt s t (s.ctx c) k).toNat < ((s.ctx c).sreg (sNum f.vs2)).toNat), 0), fun _ _ => false⟩
  | _ => none

/-- The reductions (R99, R100). -/
def redFn (i : Instr) : Option (Nat × VecFields × OpSpec × RedOp) :=
  match i with
  | .vRsum t f => some (t, f, specA 0x70 tyRed, redSum)
  | .vRprod t f => some (t, f, specA 0x71 tyRed, redProd)
  | .vRmax t f => some (t, f, specA 0x72 tyRed, (redMinMax true))
  | .vRmin t f => some (t, f, specA 0x73 tyRed, (redMinMax false))
  | .vRmean t f => some (t, f, specA 0x74 tyFloats, redMean)
  | .vRargmax t f => some (t, f, specA 0x75 tyRed, (redArg true))
  | .vRargmin t f => some (t, f, specA 0x76 tyRed, (redArg false))
  | _ => none

/-- The flags of the active elements, joined. -/
def joinFlags (act : List Nat) (g : Nat → VF) : VF := act.foldl (fun a k => a ||| g k) 0

/-- The word of a tile store that holds a nibble address, as a number; a nibble of the stores by number. -/
def tsWordAt (s : State) (n : Nat) : Nat := leNat (getBytes s.ts.mem (n / 16 * 8) 8)
def tsNib (s : State) (n : Nat) : Nat := (mget (0 : BitVec 8) s.ts.mem (n / 2)).toNat / 16 ^ (n % 2) % 16

/-- No word of a tile's store has a bit error (R71). -/
def StoreSound (s : State) (t : Nat) : Prop := ∀ w, w * 8 / tsSize = t → s.tsErrOf w = 0

/-- The memory operations: tile, fields, addressing, whether it stores, and the fault of its word (R89, R90). -/
def memFn (i : Instr) : Option (Nat × VecFields × MemKind × Bool × Option Nat) :=
  match i with
  | .vLd t f => some (t, f, .unit, false, (specMem 0x10 .none false).checkMem f)
  | .vLds t f => some (t, f, .stride, false, (specMem 0x11 .s false).checkMem f)
  | .vLdx t f => some (t, f, .index, false, (specMem 0x12 .v false).checkMem f)
  | .vSt t f => some (t, f, .unit, true, (specMem 0x14 .none true).checkMem f)
  | .vSts t f => some (t, f, .stride, true, (specMem 0x15 .s true).checkMem f)
  | .vStx t f => some (t, f, .index, true, (specMem 0x16 .v true).checkMem f)
  | _ => none

/-- The nibble of the tile stores at which element k of a memory operation lies. -/
def elemNib (k : MemKind) (t : Nat) (f : VecFields) (x : Ctx) (v : VecSt) (i : Nat) : Nat :=
  2 * tsAddr t 0 + (memAddr k f x v f.vs3.toNat i).toNat

/-- The scalar operations: tile, fields and function (R447). -/
def scalarFn (i : Instr) : Option (Nat × VecFields × (W64 → W64 → W64)) :=
  match i with
  | .sli t f => some (t, f, fun _ b => b)
  | .sadd t f => some (t, f, (· + ·))
  | .ssub t f => some (t, f, (· - ·))
  | .smul t f => some (t, f, (· * ·))
  | .sand t f => some (t, f, (· &&& ·))
  | .sor t f => some (t, f, (· ||| ·))
  | .sxor t f => some (t, f, (· ^^^ ·))
  | .sshl t f => some (t, f, fun a b => a <<< (b.toNat % 64))
  | .sshr t f => some (t, f, fun a b => a >>> (b.toNat % 64))
  | _ => none

/-- Only context c has changed, to `x`, apart from counters of the fetch; what its tile holds stays, but for the mark of a vector
instruction that waits (R111, R447). -/
structure Advanced (s u : State) (c : Nat) (x : Ctx) : Prop where
  ctx    : u.ctx c = x
  others : ∀ d, d ≠ c → u.ctx d = s.ctx d
  hbm    : u.hbm = s.hbm
  units  : u.vec = s.vec ∧ (∀ j, u.tile j = { s.tile j with vbusy := (u.tile j).vbusy }) ∧ u.own = s.own ∧ u.pwr = s.pwr ∧ u.opl = s.opl ∧ u.firn = s.firn ∧ u.clk = s.clk
  pages  : RegsBut [cHBM, cARB] s u

/-! ### Units at memory -/

/-- All of HBM answers unit q: every stack answers and is thawed, no bridge on the way is off, no error injection is armed. -/
structure MemUp (s : State) (q : Rq) : Prop where
  ready  : ∀ n, n < 8 → s.stackOk n = true ∧ s.hbmFrozen n = false
  path   : ∀ f, s.pathOff q f = none
  plain  : ∀ n, n < 8 → InjOff s n

/-- Nothing holds an access to a run of HBM bytes back: the companion is not in its lines, for a write in any state, and no granule of
a write is held, nor does an access that came before wait there (R354, R376, R411, R416). -/
structure Clear (s : State) (a len : Nat) (wr : Bool) : Prop where
  inHbm : a + len ≤ hbmSize
  lines : ∀ e ∈ s.opl.sf, lineMeets e.1 a len = true → wr = false ∧ e.2 = false
  busy  : ∀ b ∈ s.opl.busy, lineMeets b.1 a len = false
  held  : wr = true → s.runHeld a len = false
  ahead : ∀ x ∈ s.opl.waits, x.ahead a len wr = false

/-- Every sector of a run of HBM bytes reads clean. -/
def SoundRun (s : State) (a len : Nat) : Prop := ∀ b, a ≤ b → b < a + len → Sound s b

/-- A unit's read of a run of HBM bytes returns them clean at once. -/
def Readable (s : State) (a len : Nat) : Prop := Clear s a len false ∧ SoundRun s a len

/-- HBM holds `d` at `a` and is otherwise as before. -/
def Stored (s u : State) (a : Nat) (d : Bytes) : Prop :=
  ∀ b, hbmByte u b = if a ≤ b ∧ b < a + d.length then d.getD (b - a) 0 else hbmByte s b

/-- What the scan of the context table makes of a record (R455). -/
def scanned (x : Ctx) : Ctx :=
  match x.state with
  | .running | .saving => { x with state := .faulted, exit := 0xFFFE }
  | .free => {}
  | _ => if x.usable then x else {}

/-- The words of an array descriptor at a tile-store offset. -/
def descAt (s : State) (t o k : Nat) : BitVec 32 := u32 (leNat ((List.range 4).map fun i => tsByte s t (o + 4 * k + i)))

/-- The array descriptor of an instruction can be read: aligned, inside the store, which is thawed and clean (R447, R490). -/
structure DescReady (s : State) (t c : Nat) (f : VecFields) (o : Nat) : Prop where
  off   : o = ((s.ctx c).sreg (sNum f.vs1)).toNat + f.imm.toNat
  align : o % 32 = 0
  size  : o + 32 ≤ tsSize
  tile  : t < 128
  thaw  : s.tsFrozen t = false
  sound : StoreSound s t
  clean : ∀ w, mget false s.ts.pois w = false

/-- What the array of tile t holds once drain d has entered: behind everything in it, or in the token inserted at the same moment
(R23, R65). -/
def entered (s : State) (t : Nat) (d : DrainReq) : List PipeItem :=
  match s.shareToken t with
  | some (l, ds, n) => l ++ [.drain (byTag d ds) false n]
  | none => (s.tile t).pipe ++ [.drain [d] false s.clk.time]

/-- Bytes of a tile's own store. -/
def tsBytes (s : State) (t o n : Nat) : Bytes := (List.range n).map fun i => tsByte s t (o + i)

/-! ### Keys and rings -/

/-- The four words of a page's seed registers, from the offset of SEED0. -/
def seedAt (s : State) (cls inst o : Nat) : Quad := (s.rd cls inst o, s.rd cls inst (o + 4), s.rd cls inst (o + 8), s.rd cls inst (o + 12))

/-- Unit `q` behind the ring of a page can take the descriptor `b` at its head: ring ready, memory up, the entry readable (R129). -/
structure HeadIs (s : State) (q : Rq) (cls inst : Nat) (b : Bytes) : Prop where
  ring  : s.ringReady cls inst = true
  up    : MemUp s q
  read  : Readable s (s.ringAddr cls inst (s.ringHead cls inst)) 128
  bytes : b = hbmBytes s (s.ringAddr cls inst (s.ringHead cls inst)) 128

/-- The entry of the ring's head has been taken. -/
def HeadGone (s u : State) (cls inst : Nat) : Prop := u.ringHead cls inst = (s.ringHead cls inst + 1) % 2 ^ s.ringLog cls inst

/-- A command of a ring completes (R129): its STATUS byte, and no other byte of HBM, is written in its descriptor at `off`; DONE_CNT rises,
LAST names it, and IRQ_STAT bit 0 is set where it asks. -/
structure RingDone (s u : State) (cls inst idx off st : Nat) (irq : Bool) : Prop where
  byte : Stored s u (s.ringAddr cls inst idx + off) [BitVec.ofNat 8 st]
  done : u.rd cls inst rDone = s.rd cls inst rDone + 1
  last : u.rd cls inst rLast = u32 (st * 2 ^ 24 + idx % 65536)
  tell : irq = true → Raises s u cls inst 1
  quiet : irq = false → u.rd cls inst hIRQ_STAT = s.rd cls inst hIRQ_STAT

/-- The STATUS byte of a descriptor can be written. -/
def DoneReady (s : State) (q : Rq) (cls inst idx off : Nat) : Prop :=
  MemUp s q ∧ Clear s (s.ringAddr cls inst idx + off) 1 true ∧ Sound s (s.ringAddr cls inst idx + off)

/-- Two runs of bytes share none. -/
def apart (a n b m : Nat) : Prop := a + n ≤ b ∨ b + m ≤ a

/-! ### Optimizer units -/

/-- Optimizer unit n is idle and takes the accepted command `d` of its ring's head: it holds under no WAIT, and every run of bytes that
the command uses lies in HBM, is the unit's, and reads clean (R129, R135, R138). -/
structure OptReady (s : State) (n : Nat) (d : OptDesc) : Prop where
  head : HeadIs s (rqOpt n) cOPT n (hbmBytes s (s.ringAddr cOPT n (s.ringHead cOPT n)) 128)
  desc : d = s.optDesc n (hbmBytes s (s.ringAddr cOPT n (s.ringHead cOPT n)) 128)
  idle : s.optOf n = { cur := none, held := none }
  good : d.bad = false
  go   : d.wait = true → s.redPast d.waitCh d.waitSeq = true
  runs : ∀ r ∈ d.runs, Clear s r.1 r.2.1 r.2.2.2 ∧ SoundRun s r.1 r.2.1

/-- The unit has run the command of its ring's head: the command has left the ring and waits for its completion with a STATUS; tile
stores, contexts, ownership, power and the registers of other pages are as before. -/
structure OptRan (s u : State) (n : Nat) (d : OptDesc) (st : Nat) : Prop where
  cur   : u.optOf n = { cur := some ⟨s.ringHead cOPT n, d.op, some st, d.irq⟩, held := none }
  head  : HeadGone s u cOPT n
  other : ∀ j, j ≠ n → u.optOf j = s.optOf j
  rest  : u.ts = s.ts ∧ u.ctxs = s.ctxs ∧ u.tiles = s.tiles ∧ u.own = s.own ∧ u.pwr = s.pwr ∧ u.clk = s.clk ∧ u.opl = s.opl
  pages : RegsBut [cOPT, cHBM, cARB, cERR, cFIRN] s u

/-- Element k of an array of class c at an address: its value (R121). -/
def elemAt (s : State) (cls a k : Nat) : W32 := classVal cls (hbmBytes s (a + classW cls * k) (classW cls))

/-- What UPDATE with an FP32 gradient and the divisor of its descriptor makes of element k under rules 0 to 3 (R130–R132, R134). -/
def optNew (s : State) (n : Nat) (d : OptDesc) (k : Nat) : ElemOut :=
  optElem d.par d.cls (fdiv32 fone d.divisor) (s.optRnd n d.cls d.stream d.step (d.idx + k)) (u32 (leNat (hbmBytes s (d.g + 4 * k) 4)), false)
    (elemAt s d.cls d.w k, false) (if 1 ≤ d.rule then elemAt s d.cls d.m k else 0, false) (if 2 ≤ d.rule then elemAt s d.cls d.v k else 0, false)

/-- The new stored bytes of array j (weights, first, second moment) of an element that was updated. -/
def optPart (o : ElemOut) (j : Nat) : Option Bytes :=
  match o with
  | .upd w m v => some (if j = 0 then w else if j = 1 then m else v)
  | _ => none

/-- Array j of an update: its address. -/
def optArr (d : OptDesc) (j : Nat) : Nat := if j = 0 then d.w else if j = 1 then d.m else d.v

/-- The accumulator block that ACCUM leaves for block i (R125). -/
def accumUnit (s : State) (n : Nat) (d : OptDesc) (i : Nat) : Bs16 :=
  let g := bs16Of (hbmBytes s (d.g + 68 * i) 68)
  if d.first then g
  else
    let r (k j : Nat) : Rnd := srOf (draw (s.keyOf cOPT n) d.stream (u64 (d.idx + 32 * i + j)) (u32 (2 * d.draw + k))).1
    bs16Add r 0 0 1 (bs16Of (hbmBytes s (d.m + 68 * i) 68)) g

/-! ### Pruner-codec -/

/-- Instance n of the pruner-codec is idle and takes the accepted command `d` of its ring's head (R171, R174). -/
structure PrnReady (s : State) (n : Nat) (d : PrnDesc) : Prop where
  head : HeadIs s (rqPrn n) cPRN n (hbmBytes s (s.ringAddr cPRN n (s.ringHead cPRN n)) 128)
  desc : d = prnDescOf (hbmBytes s (s.ringAddr cPRN n (s.ringHead cPRN n)) 128)
  idle : s.prnCur n = none
  good : s.prnBad d = false

/-- The instance has run the command of its ring's head. -/
structure PrnRan (s u : State) (n : Nat) (d : PrnDesc) (st : Nat) : Prop where
  cur   : u.prnCur n = some ⟨s.ringHead cPRN n, d.op, some st, d.irq⟩
  head  : HeadGone s u cPRN n
  other : ∀ j, j ≠ n → u.prnCur j = s.prnCur j
  rest  : u.ts = s.ts ∧ u.ctxs = s.ctxs ∧ u.tiles = s.tiles ∧ u.own = s.own ∧ u.pwr = s.pwr ∧ u.clk = s.clk ∧ u.opl = s.opl
  pages : RegsBut [cPRN, cHBM, cARB, cERR, cFIRN] s u

/-- A command's sources read clean, its destinations can be written and lie apart from the sources (R173). -/
structure Ranges (s : State) (srcs dsts : List (Nat × Nat)) : Prop where
  from' : ∀ r ∈ srcs, Readable s r.1 r.2
  into  : ∀ r ∈ dsts, Clear s r.1 r.2 true ∧ SoundRun s r.1 r.2
  sep   : ∀ a ∈ srcs, ∀ b ∈ dsts, overlaps a b = false

/-- A clean read of HBM bytes. -/
def cleanRd (s : State) (a n : Nat) : Rd := ⟨hbmBytes s a n, List.replicate n false, true⟩

/-- The scale rows of a source block of K indices: none outside the MX formats. -/
def scaleLen (d : PrnDesc) (k : Nat) : Nat := if mxCode d.src then k / 32 * 128 else 0

/-- Object j of PRUNE24: its KSPAN indices from 2 K_d j on, with the index plane of the object of before under REUSE_MASK (R151, R153). -/
def pruneAt (s : State) (d : PrnDesc) (j : Nat) : TObj :=
  let kd := codeK d.dst
  let span := min (2 * kd) (d.k - 2 * kd * j)
  let a := d.s1 + j * d.stride
  pruneObj d.dst span
    (if d.reuse then some (if hbmByte s a = 1 then some (hbmBytes s (a + bfield (hbmBytes s a 32) 12 4) (kd * 32)) else none) else none)
    (blockElems d.src (2 * kd * j) span (cleanRd s (d.s0 + blockBytes d.src (2 * kd * j)) (blockBytes d.src span))
      (cleanRd s d.s2 (scaleLen d d.k)))

/-- The index plane of the object of before j: none where it is not a 2:4 object (R153, R173). -/
def planeAt (s : State) (d : PrnDesc) (j : Nat) : Nat × Nat :=
  let a := d.s1 + j * d.stride
  if hbmByte s a = 1 then (a + bfield (hbmBytes s a 32) 12 4, codeK d.dst * 32) else (0, 0)

/-- Object j of ENCODE: its KSPAN indices from K_d j on (R155). -/
def encodeAt (s : State) (d : PrnDesc) (j : Nat) : TObj :=
  let kd := codeK d.src
  let k0 := kd * j
  let span := min kd (d.k - k0)
  let r := cleanRd s (d.s0 + blockBytes d.src k0) (blockBytes d.src span)
  let sl := scaleLen d span
  encodeObj d.src span (r.data, r.pois) (hbmBytes s (d.s2 + k0 / 32 * 128) sl, List.replicate sl false)
    (blockElems d.src k0 span r (cleanRd s d.s2 (scaleLen d d.k)))

/-- HBM holds an object at an address. -/
def ObjAt (u : State) (a : Nat) (o : TObj) : Prop := hbmBytes u a o.layout.2.2.2 = o.bytes.1

/-- Indices [lo, hi) of a stream of e-byte indices, with their positions. -/
def idxAt (s : State) (a e lo hi : Nat) : List MIdx :=
  (List.range (hi - lo)).map fun i => (leNat (hbmBytes s (a + (lo + i) * e) e), lo + i, false)

/-- Offset k of a row or segment table. -/
def offAt (s : State) (a k : Nat) : Nat := leNat (hbmBytes s (a + 8 * k) 8)

/-- What MERGE makes of segment k: records, misses, order error (R158, R160). -/
def mergeAt (s : State) (d : PrnDesc) (k : Nat) : List MRec × Nat × Bool :=
  let e := if d.idx64 then 8 else 4
  let la := idxAt s d.s0 e (offAt s d.s2 k) (offAt s d.s2 (k + 1))
  let lb := if d.segB then idxAt s d.s1 e (offAt s d.s3 k) (offAt s d.s3 (k + 1)) else idxAt s d.s1 e 0 d.k
  mergeWalk d.mmode (la.length + lb.length + 1) la lb none none

/-- The work records of the first k rows of SPLIT (R161). -/
def splitTo (s : State) (d : PrnDesc) : Nat → List Bytes
  | 0 => []
  | k + 1 => splitTo s d k ++ s.splitRow d k (offAt s d.s0 k) (offAt s d.s0 (k + 1) - offAt s d.s0 k) (splitTo s d k).length

/-- Work record j of a COMBINE: its SLOT, NSEG and whether it starts a split row (R161, R163). -/
def workRec (s : State) (d : PrnDesc) (j : Nat) : Nat × Nat × Bool :=
  let b := hbmBytes s (d.s0 + 32 * j) 32
  (bfield b 0x14 4, bfield b 0x1A 2, bfield b 0x18 2 == 0 && decide (1 < bfield b 0x1A 2))

/-- The slots of a record: first byte and length. -/
def slotsOf (s : State) (d : PrnDesc) (j : Nat) : Nat × Nat :=
  (d.s1 + (workRec s d j).1 * d.stride, ((workRec s d j).2.1 - 1) * d.stride + 4 * d.k)

/-! ### Messages to other ranks (R266–R272) -/

/-- The router takes a message of block `src` (8 the in-link adders, 9 and 10 the exchange engines): it does not discard it. -/
def Open (s : State) (src : Nat) (m : OutMsg) : Prop := ∀ p c b, s.wayOf src 6 (s.packetOf m s.fresh) ≠ .drop p c b

/-- The messages `l` of block `src` go out in order, when the router takes them. -/
def Sends (s u : State) (src : Nat) (l : List OutMsg) : Prop := (∀ m ∈ l, Open s src m) → u.outbox = s.outbox ++ l

/-- Beside a change, messages to other ranks have been handed to the router, and nothing else is different: packets at the egress of
links; for a discarded one counts, interrupts and records of the ports and bridges. -/
def MsgsOnly (s u : State) : Prop :=
  ({ u with outbox := s.outbox, links := s.links, fresh := s.fresh, regs := s.regs, err := s.err, notes := s.notes } : State) = s ∧
    RegsBut [cPORT, cTIM, cERR] s u

/-! ### Samplers -/

/-- Walk c runs on its sampler with nothing asked of it, and its descriptor `d` reads clean (R180, R199). -/
structure WalkReady (s : State) (c : Nat) (d : WalkDesc) : Prop where
  runs  : s.walkRuns c = true
  calm  : (s.ctx c).want = .none
  align : (s.ctx c).wdesc % 128 = 0
  up    : MemUp s (rqXch (ctxFloe c))
  read  : Readable s (s.ctx c).wdesc 128
  desc  : d = walkDescOf (hbmBytes s (s.ctx c).wdesc 128)

/-- A walk's record with its cursor set (R199). -/
def withCursor (x : Ctx) (hop nodes edges crecs : Nat) : Ctx :=
  ((((x.setS 0 (u64 hop)).setS 1 0).setS 2 (u64 nodes)).setS 3 (u64 edges)).setS 4 (u64 crecs)

/-- The seeds of a walk, each once, in the order of the list (R187). -/
def seedSet (s : State) (d : WalkDesc) : List Nat :=
  ((List.range d.numSeeds).map fun i => leNat (hbmBytes s (d.seeds + 8 * i) 8)).foldl (fun a v => if a.contains v then a else a ++ [v]) []

/-- The first of a node's edges, and the one past its last. -/
def rowLo (s : State) (g : Csr) (v : Nat) : Nat := leNat (hbmBytes s (g.rowptr + 8 * (v - g.base)) 8)
def rowHi (s : State) (g : Csr) (v : Nat) : Nat := leNat (hbmBytes s (g.rowptr + 8 * (v - g.base) + 8) 8)
/-- Bytes of a column index. -/
def idxW (g : Csr) : Nat := if g.idx64 then 8 else 4

/-- The expansion of a local node (R182, R183, R186). -/
def expCsr (s : State) (n : Nat) (g : Csr) (hop f thresh : Nat) (stream : W32) (v : Nat) : Expn :=
  let lo := rowLo s g v
  let d := rowHi s g v - lo
  let p := choosePos (drawBelow (s.keyOf cSMP n) stream hop v) d f thresh
  { node := v, degree := d, resv := p.2.2
    edges := p.1.map fun i => (lo + i, leNat (hbmBytes s (g.colidx + idxW g * lo + idxW g * i) (idxW g))) }

/-- The row of a local node is sound and can be read (R183). -/
structure RowReady (s : State) (n : Nat) (g : Csr) (hop f thresh : Nat) (stream : W32) (v : Nat) : Prop where
  ptr   : Readable s (g.rowptr + 8 * (v - g.base)) 16
  order : rowLo s g v ≤ rowHi s g v
  cols  : Readable s (g.colidx + idxW g * rowLo s g v) (idxW g * (rowHi s g v - rowLo s g v))
  ids   : ∀ e ∈ (expCsr s n g hop f thresh stream v).edges, e.2 < 2 ^ 40

/-- The expansion of a frontier node of a walk without remote parts: a local row, or a leaf (R184). -/
def expAt (s : State) (n : Nat) (d : WalkDesc) (h v : Nat) : Expn :=
  if d.isLocal v then expCsr s n d.csr h (d.fan h) d.thresh d.stream v
  else { node := v, degree := 0, edges := [], remote := true, leaf := true }

/-- Every node of a frontier is a leaf, or a local row that is sound and lies apart from what the walk writes at its start. -/
def FrontierReady (s : State) (n : Nat) (d : WalkDesc) (h : Nat) (l : List Nat) : Prop :=
  ∀ v ∈ l, (d.isLocal v = true ∨ d.remote = 0) ∧
    (d.isLocal v = true → RowReady s n d.csr h (d.fan h) d.thresh d.stream v ∧
      ∀ r ∈ [(d.ws, d.wsLen), (d.nodeOut, 8 * d.nodeCap), (d.jrnl, 64)],
        apart (d.rowptr + 8 * (v - d.rowBase)) 16 r.1 r.2 ∧
        apart (d.colidx + idxW d.csr * rowLo s d.csr v) (idxW d.csr * (rowHi s d.csr v - rowLo s d.csr v)) r.1 r.2)

/-- The node ids of the first k node records. -/
def nodeIds (s : State) (d : WalkDesc) (k : Nat) : List Nat := (List.range k).map fun i => leNat (hbmBytes s (d.nodeOut + 8 * i) 8) % 2 ^ 40

/-- The new nodes of a hop in ascending id, and the place of a node in a list (R189). -/
def freshOf (ids : List Nat) (es : List Expn) : List Nat :=
  (ascSet (es.flatMap fun e => e.edges.map (·.2))).filter fun v => !ids.contains v
def slotIn (l : List Nat) (v : Nat) : Nat := (l.findIdx? (· == v)).getD 0

/-- Edge records before a place in a list of expansions. -/
def edgesTo (es : List Expn) (k : Nat) : Nat := ((es.take k).map fun e => e.edges.length).foldl (· + ·) 0

/-- A word of a journal; centre record i, edge record i. -/
def jrnlWord (s : State) (d : WalkDesc) (o : Nat) : Nat := leNat (hbmBytes s (d.jrnl + o) 4)
def centreAt (s : State) (d : WalkDesc) (i : Nat) : Bytes := hbmBytes s (d.jrnl + 64 + 16 * i) 16
def edgeAt (s : State) (d : WalkDesc) (i : Nat) : Bytes := hbmBytes s (d.edgeOut + 16 * i) 16

/-- FP32 element k of row i of an array of a REPLAY. -/
def rowElem (s : State) (d : WalkDesc) (a i k : Nat) : W32 := u32 (leNat (hbmBytes s (a + i * d.rowStride + 4 * k) 4))

/-- The edges of a REPLAY in its order, descending centre and descending edge: source slot, destination slot, coefficient (R197). -/
def replayEdges (s : State) (d : WalkDesc) : List (Nat × Nat × W32) :=
  let first := jrnlWord s d (0x10 + 12 * (d.hops - 1))
  let count := jrnlWord s d (0x14 + 12 * (d.hops - 1))
  ((List.range count).reverse.map fun i => centreAt s d (first + i)).flatMap fun b =>
    ((List.range (bfield b 8 2)).reverse.map (bfield b 4 4 + ·)).map fun e =>
      (bfield b 0 4, bfield (edgeAt s d e) 4 4, if d.agg = 0 then fone else if d.agg = 1 then (invOfNat (bfield b 8 2)).getD 0
        else u32 (leNat (hbmBytes s (d.rowBase + 4 * e) 4)))

/-! ### Exchange engines -/

/-- Engine n takes the command `d`, at the head of its ring with the bytes `b` (R218). -/
structure XHead (s : State) (n : Nat) (b : Bytes) (d : XDesc) : Prop where
  head : HeadIs s (rqXch n) cXCH n b
  desc : d = xDescOf b
  room : (s.xchOf n).cmds.length < 8

/-- The command's table descriptor `td` and shard ranks read clean, the command is accepted, and every run that it names reads clean and
is the engine's (R205, R229). -/
structure XTable (s : State) (n : Nat) (d : XDesc) (td : Bytes) : Prop where
  read  : Readable s (s.tblAddr n d.table) 128
  bytes : td = hbmBytes s (s.tblAddr n d.table) 128
  good  : d.bad td ([0, 1].filter fun k => bit (s.slotReg d.table k) 31) = false
  few   : tShards td ≤ 65536
  ranks : Readable s (tRanks td) (2 * tShards td)
  runs  : ∀ r ∈ d.runs td, Clear s r.1 r.2.1 r.2.2.2 ∧ SoundRun s r.1 r.2.1

/-- The ranks of a table's shards, row id i of a command, its bag offsets. -/
def ranksAt (s : State) (td : Bytes) : List Nat := (List.range (tShards td)).map fun i => leNat (hbmBytes s (tRanks td + 2 * i) 2)
def idAt (s : State) (d : XDesc) (i : Nat) : Nat := leNat (hbmBytes s (d.ids + 8 * i) 8)
def bagsAt (s : State) (d : XDesc) : List Nat :=
  if d.pool = 0 then [] else (List.range (d.nbags + 1)).map fun i => leNat (hbmBytes s (d.bags + 8 * i) 8)

/-- The probe of a hot directory (R216). -/
def hotFind (s : State) (dir log g : Nat) : Nat → Nat → Option Nat
  | 0, _ => none
  | f + 1, h =>
    let e := leNat (hbmBytes s (dir + 8 * (h % 2 ^ log)) 8)
    if e / 2 ^ 63 % 2 = 0 then none else if e % 2 ^ 40 = g then some (e / 2 ^ 40 % 2 ^ 20) else hotFind s dir log g f (h + 1)

/-- Where row g lies: its owner, or a hot replica of the slot that serves (R206, R216). -/
def placeOf (s : State) (t : Nat) (td : Bytes) (ver g : Nat) : XRow :=
  match rowPlace td (ranksAt s td) g, s.slotOf t ver with
  | .bad, _ => .bad
  | p, none => p
  | p, some k =>
    if tHotLog td = 0 then p
    else match hotFind s (tHotDir td k) (tHotLog td) g (2 ^ tHotLog td) (hotHash (tHotLog td) g) with
      | some r => .hot r
      | none => p

/-- The hot directory of the slot that serves reads clean. -/
def HotReady (s : State) (t : Nat) (td : Bytes) (ver : Nat) : Prop :=
  ∀ k, s.slotOf t ver = some k → tHotLog td ≠ 0 → Readable s (tHotDir td k) (8 * 2 ^ tHotLog td)

/-- What is beside the exchange engine n and HBM is unchanged. -/
structure XchOnly (s u : State) (n : Nat) : Prop where
  other : ∀ j, j ≠ n → u.xchOf j = s.xchOf j
  rest  : u.ts = s.ts ∧ u.ctxs = s.ctxs ∧ u.walks = s.walks ∧ u.tiles = s.tiles ∧ u.vec = s.vec ∧ u.opt = s.opt ∧ u.own = s.own ∧
    u.pwr = s.pwr ∧ u.clk = s.clk
  pages : RegsBut [cXCH, cHBM, cARB, cERR, cFIRN, cPORT, cTIM] s u

/-- The message that carries a part of a command (R220, R222, R227). -/
def partMsg (n : Nat) (c : XchCmd) (p : XPart) : OutMsg :=
  if c.op = 1 then .xchRead n p.owner c.idx (xDescOf c.desc).table c.ver p.rows
  else if c.op = 3 then .xchRead n p.owner c.idx (xDescOf c.desc).table 65536 p.rows
  else if c.op = 2 then .xchUpdate n p.owner c.idx (xDescOf c.desc).table c.ver (xDescOf c.desc).step (xDescOf c.desc).batch (c.outFor p.owner)
  else .xchExpert n p.owner c.idx (xDescOf c.desc).step (c.op == 5) ((c.outFor p.owner).map (·.2))

/-- The part messages of a command go out, one for each part in order, when the router takes them (R220, R268). -/
def PartsSent (s u : State) (n : Nat) (c : XchCmd) : Prop :=
  Sends s u (9 + n) (c.parts.map (partMsg n c))

/-- An answer of engine n is the one message sent, when the router takes it. -/
def Answers (s u : State) (n : Nat) (m : OutMsg) : Prop := Sends s u (9 + n) [m]

/-- Bytes of an output row of a look-up. -/
def outLen (d : XDesc) (td : Bytes) : Nat := if d.bf16 then 2 * tDim td else 4 * tDim td

/-- An engine that works and has no batch waiting; the table is one it serves. -/
def ServesTable (s : State) (n t : Nat) : Prop := s.xchOn n = true ∧ t % 2 = n ∧ t < 256 ∧ (s.xchOf n).arrived = []

/-- Nothing waits in the engine: no batch, no READY and no share of a shift, no copy (R228, R241, R247). -/
def XchCalm (s : State) (n : Nat) : Prop :=
  (s.xchOf n).arrived = [] ∧ (s.xchOf n).ready = [] ∧ (s.xchOf n).held = [] ∧ s.copying n = none

/-- The part report of so many parts fits in the space (R226, R229). -/
def ReportFits (d : XDesc) (k : Nat) : Prop := inDevSpace d.parts (64 + alignUp (8 * k) 64 + (k + 7) / 8) = true

/-- The assignment records of a DISPATCH or RETURN, and the row of the expert map for an expert (R167, R227). -/
def assigns (s : State) (d : XDesc) : List Assign := (List.range d.count).map fun i => assignOf (hbmBytes s (d.ids + 16 * i) 16)
def expertsOf (s : State) (d : XDesc) : Nat :=
  max ((assigns s d).foldl (fun a x => max a (x.expert + 1)) 0) (min 65536 (Config.experts d.bags))
def ownerOf (s : State) (d : XDesc) (e : Nat) : Nat := leNat (hbmBytes s (d.bags + 4 * e + 2) 2)

/-- FP32 words of a row at an address. -/
def fpRow (s : State) (a dim : Nat) : List W32 := (List.range dim).map fun k => u32 (leNat (hbmBytes s (a + 4 * k) 4))

/-- The taken entries of a half of a ledger as they stand in memory, up to the first whose last byte is 0, and the step that the
half holds: that of its first entry (R224). -/
def halfAt (s : State) (n h : Nat) : List Bytes :=
  ((List.range (2 ^ s.ledgerLog n)).map fun i => hbmBytes s (s.ledgerBase n + (h * 2 ^ s.ledgerLog n + i) * 16) 16).takeWhile
    fun e => e.getLastD 0 != 0
def halfStep (s : State) (n h : Nat) : Option Nat := ((halfAt s n h).head?).map fun e => bfield e 0 4

/-- An entry of a ledger holds the key (R224). -/
def Ledgered (s : State) (n t step src batch : Nat) : Prop := ledgerEntry t step src batch ∈ halfAt s n 0 ++ halfAt s n 1

/-- Where the next entry of a step goes: its half, the place in it, and whether the half is taken anew, empty or from the older of
the two steps that the ledger holds; nowhere for a step older than both (R224). -/
def ledgerSpot (s : State) (n step : Nat) : Option (Nat × Nat × Bool) :=
  match halfStep s n 0, halfStep s n 1 with
  | none, none => some (0, 0, true)
  | some a, none => if a = step then some (0, (halfAt s n 0).length, false) else some (1, 0, true)
  | none, some b => if b = step then some (1, (halfAt s n 1).length, false) else some (0, 0, true)
  | some a, some b =>
    if a = step then some (0, (halfAt s n 0).length, false)
    else if b = step then some (1, (halfAt s n 1).length, false)
    else if step < min a b then none
    else if a ≤ b then some (0, 0, true) else some (1, 0, true)

/-- A batch for table t of version ver can be taken: the engine serves its source, the table, the ledger and the inbox can be reached
and read clean, a slot serves and this rank holds a shard (R223, R226). -/
structure BatchReady (s : State) (n src t ver k shard : Nat) (td : Bytes) : Prop where
  serves : ServesTable s n t ∧ s.serves n src = true
  up     : MemUp s (rqXch n)
  table  : Readable s (s.tblAddr n t) 128 ∧ td = hbmBytes s (s.tblAddr n t) 128
  ranks  : tShards td ≤ 65536 ∧ Readable s (tRanks td) (2 * tShards td)
  ledger : Clear s (s.ledgerRun n).1 (s.ledgerRun n).2 true ∧ SoundRun s (s.ledgerRun n).1 (s.ledgerRun n).2
  inbox  : Clear s (s.inboxRun n).1 (s.inboxRun n).2 true ∧ SoundRun s (s.inboxRun n).1 (s.inboxRun n).2
  apart  : apart (s.ledgerRun n).1 (s.ledgerRun n).2 (s.inboxRun n).1 (s.inboxRun n).2
  slot   : s.slotOf t ver = some k
  shard  : (ranksAt s td).findIdx? (· == s.myRank) = some shard

/-- What a chained UPDATE makes of a row of its stage (R209, R223). -/
def chainOut (s : State) (n : Nat) (td : Bytes) (g : XGroup) (shard row : Nat) : RowOut :=
  rowUpdate (tRule td) (tCode td) 0 (fdiv32 fone (tDivisor td)) (scaleLr (tLr td) (tUexp td)) (tEps td)
    ⟨fun j => s.optRnd n 0 (tStream td) g.step (globalRow td shard row * tDim td + j) 0,
      s.optRnd n 0 (tStream td) g.step (globalRow td shard row) 1⟩
    (hbmBytes s (tBase td g.slot + tRec td * row) (tRec td)) false (u32 (leNat (hbmBytes s (tAcc td g.slot + 4 * row) 4))) false
    ((List.range (tDim td)).map fun j => ((groupGrad g row).1.getD j 0, (groupGrad g row).2))

/-- The rows of a group in ascending number. -/
def groupRows (g : XGroup) : List Nat := ascSet (g.from'.flatMap fun e => e.2.map (·.1))

/-! ### Off-load and shifts -/

/-- Engine n, with no copy under way and no failure of the link to report, takes the accepted off-load or shift command `d` (R247). -/
structure OHead (s : State) (n op : Nat) (b : Bytes) (d : ODesc) : Prop where
  head : HeadIs s (rqXch n) cXCH n b
  desc : d = oDescOf b ∧ d.op = op
  room : (s.xchOf n).cmds.length < 8
  new  : ∀ c ∈ (s.xchOf n).cmds, c.idx ≠ s.ringHead cXCH n
  idle : s.copying n = none
  good : d.bad = false
  link : s.unitBusy (cpUnit n) = false ∧ s.opl.fails.contains (cpUnit n) = false

/-- A run of bytes can be read clean and written. -/
def Writable (s : State) (a len : Nat) : Prop := Clear s a len true ∧ SoundRun s a len

/-- Entry k of a directory (R245). -/
def entAt (s : State) (d : ODesc) (k : Nat) : OEnt := oEntOf (hbmBytes s (d.odir + 32 * k) 32)

/-- Only HBM and the engine's own state and registers have changed. -/
def OneEngine (s u : State) (n : Nat) : Prop :=
  (∀ j, j ≠ n → u.xchOf j = s.xchOf j) ∧ u.ts = s.ts ∧ u.ctxs = s.ctxs ∧ u.walks = s.walks ∧ u.opl = s.opl ∧ u.own = s.own ∧
    RegsBut [cXCH, cHBM, cARB, cFIRN, cPORT, cTIM, cERR] s u

/-! ### Links and the router -/

/-- LINK_STAT of a link: class, instance and offset of its key; STATE, WIDTH and ACTIVE as a word. -/
def linkKey (p : Nat) : Nat := rk (linkReg p).1 (linkReg p).2.1 ((linkReg p).2.2 + 4)
def linkIs (u : State) (p st width active : Nat) : Prop :=
  u.rd (linkReg p).1 (linkReg p).2.1 ((linkReg p).2.2 + 4) = u32 (st * 2 ^ 28 + width * 2 ^ 24 + active * 2 ^ 16)

/-- Only a torus port's own state and page, the error page and messages have changed. -/
structure PortOnly (s u : State) (p : Nat) : Prop where
  other : ∀ q, q ≠ p → u.link q = s.link q
  rest  : u.hbm = s.hbm ∧ u.ts = s.ts ∧ u.ctxs = s.ctxs ∧ u.opl = s.opl ∧ u.own = s.own ∧ u.pwr = s.pwr ∧ u.clk = s.clk ∧ u.firn = s.firn
  pages : ∀ cls inst off, (cls ≠ cPORT ∨ inst ≠ p) → cls ≠ cERR → inst < 256 → off < 4096 → rk cls inst off ∉ msgKeys → 
    u.rd cls inst off = s.rd cls inst off

/-- A flit that carries a valid CRC under a number (R263). -/
def sealed (b : Bytes) (seq : Option Nat) : Prop := b.length = 256 ∧ bfield b 0xFC 4 = flitCrc seq b

/-- The last message is a flit on link p with these bytes. -/
def FlitLast (u : State) (p : Nat) (b : Bytes) : Prop := u.outbox.getLast? = some (.flit p b)

/-- A DATA flit carries a flit of the retry buffer under a number. -/
def Carries (b : Bytes) (f : TxFlit) (seq : Nat) : Prop :=
  sealed b (some seq) ∧ flitKind b = 1 ∧ bfield b 1 1 = f.vc % 256 ∧ bfield b 2 1 = f.payload.length % 256 ∧
    bslice b 0xC f.payload.length = f.payload ∧ bfield b 3 1 % 8 = b2n f.head + 2 * b2n f.tail + 4 * b2n f.pois

/-- Steps round a ring of `len` places from one to another, the shorter way. -/
def ringDist (len a b : Nat) : Nat := min ((b + len - a) % len) ((a + len - b) % len)

/-! ### Reduction channels -/

/-- Operation SEQ of channel c has become `o`; nothing else has changed, but for messages handed to the router. -/
structure OpNow (s u : State) (c seq : Nat) (o : ChOp) : Prop where
  op    : u.opAt c seq = some o
  ops   : ∀ q, q ≠ seq → u.opAt c q = s.opAt c q
  seqs  : (u.redOf c).ops.map (·.seq) = (s.redOf c).ops.map (·.seq)
  chan  : (u.redOf c).held = (s.redOf c).held ∧ (u.redOf c).halted = (s.redOf c).halted
  chans : ∀ e, e ≠ c → u.redOf e = s.redOf e
  rest  : MsgsOnly { s with red := u.red } u

/-- SEQ of channel c is a reduction in progress with descriptor `d`. -/
structure InRed (s : State) (c seq : Nat) (o : ChOp) (d : RDesc) : Prop where
  live : s.live = true ∧ c < 64
  op   : s.opAt c seq = some o
  kind : o.op = 1 ∨ o.op = 2
  desc : d = rDescOf o.desc
  open' : o.status = none

/-- Nothing of an operation can go on before a message or a time (R291). -/
def Rests (c : Nat) (o : ChOp) : Prop := redNext c (rDescOf o.desc) o = none

/-- The kid of an operation that a rank is. -/
def KidIs (o : ChOp) (src : Nat) (k : RedKid) : Prop := o.kids.find? (fun x => x.rank == src) = some k

/-- No operation of channel c is in progress, no Calving runs, and the channel takes the descriptor `b` at its head, whose SEQ can be
written (R283, R284). -/
structure ChanTakes (s : State) (c : Nat) (b : Bytes) : Prop where
  chan  : c < 64
  run   : (s.redOf c).halted = false ∧ (s.redOf c).ops = [] ∧ (s.redOf c).held = [] ∧ s.calving = []
  head  : HeadIs s rqRed cRED c b
  seq   : Writable s (s.ringAddr cRED c (s.ringHead cRED c)) 128

/-- Channel c has taken its head descriptor: the operation is in progress under NEXT_SEQ, which has risen; the head has moved on. -/
structure ChanTook (s u : State) (c : Nat) (o : ChOp) : Prop where
  op    : (u.redOf c).ops = [o] ∧ o.seq = (s.rd cRED c RED.NEXT_SEQ).toNat ∧ o.idx = s.ringHead cRED c
  next  : u.rd cRED c RED.NEXT_SEQ = s.rd cRED c RED.NEXT_SEQ + 1
  head  : HeadGone s u cRED c
  chans : ∀ e, e ≠ c → u.redOf e = s.redOf e
  rest  : u.ts = s.ts ∧ u.ctxs = s.ctxs ∧ u.tiles = s.tiles ∧ u.own = s.own ∧ u.pwr = s.pwr ∧ u.clk = s.clk
  pages : ∀ cls inst off, (cls ≠ cRED ∨ inst ≠ c) → cls ∉ [cHBM, cARB, cERR, cFIRN, cCALV, cCVU, cPORT, cTIM] → inst < 256 → off < 4096 →
    rk cls inst off ∉ msgKeys →
    u.rd cls inst off = s.rd cls inst off

/-- The 32-bit word i of a run of HBM as a signed number. -/
def intAt (s : State) (a i : Nat) : Int := sext 32 (leNat (hbmBytes s (a + 4 * i) 4))

/-! ### Calving -/

/-- Runs of bytes of which no two meet. -/
def Spread (rs : List (Nat × Nat)) : Prop := rs.Pairwise fun a b => apart a.1 a.2 b.1 b.2

/-- SEQ of channel c is a CALVE or LAND that has started and has no decision (R318). -/
structure InCalv (s : State) (c seq : Nat) (o : ChOp) : Prop where
  live : s.live = true ∧ c < 64
  op   : s.opAt c seq = some o
  move : o.isMove = true
  run  : o.phase = .calving ∧ o.status = none ∧ o.cal.decided = none

/-- Its copy phase goes on, and no child has reported a failure. -/
structure Copying (o : ChOp) : Prop where
  go   : o.cal.fail = none ∧ o.cal.doneSent = false
  kids : ∀ k ∈ o.kids, ∀ r, k.report ≠ some (false, r)

/-- Nothing is left to copy at this rank. -/
def CopyOver (o : ChOp) : Prop := o.cal.out = [] ∧ o.cal.unacked = [] ∧ o.cal.held = [] ∧ o.cal.expect = []

/-- Channel c takes the Calving descriptor `b` with its plan of one entry `e` and, for a LAND, the source map `m` (R314, R326). -/
structure CalvTakes (s : State) (c : Nat) (b e : Bytes) (m : List Bytes) (d : CDesc) : Prop where
  takes : ChanTakes s c b
  desc  : d = cDescOf b ∧ d.nbuf = 1
  good  : s.calvBad d = false
  plan  : Readable s d.plan 128 ∧ e = hbmBytes s d.plan 128
  map   : d.op = 0x11 → Readable s d.aux (32 * (oldOf e).oldRanks.length) ∧
            m = (List.range (oldOf e).oldRanks.length).map fun i => hbmBytes s (d.aux + 32 * i) 32
  nomap : d.op ≠ 0x11 → m = []
  away  : apart (s.ringAddr cRED c (s.ringHead cRED c)) 128 d.plan 128
  hdr   : Writable s d.hdr 128

/-- The outcome of a Calving: its record at HDR with the decision and reason, counted and raised (R331, R333). -/
structure Outcome (s u : State) (hdr seq : Nat) (commit : Bool) (reason : Nat) : Prop where
  rec'  : leNat (hbmBytes u hdr 4) = seq % 2 ^ 32
  dec   : leNat (hbmBytes u (hdr + 6) 1) = if commit then 1 else 2
  why   : leNat (hbmBytes u (hdr + 7) 1) = reason % 256
  count : Counts s u cCALV 0 (if commit then CALV.COMMIT_CNT else CALV.ABORT_CNT) 1
  tell  : Raises s u cCALV 0 (if commit then 1 else 2)

/-- A gather record that says all is well (R328). -/
def goodRec (epoch rank upd chk : Nat) : Bytes := gatherRec epoch rank 1 upd chk

/-! ### Firn -/

/-- A write of GO to slot `k` by the owner `m` starts the accepted command of `op` whose descriptor at `a` is `b` (R370, R371, R523). -/
structure FirnGo (s : State) (m : Nat) (k : Bool) (a : Nat) (b : Bytes) (op : Nat) : Prop where
  write : OwnerReady s m cFIRN 0 (slotOff k)
  ready : s.pageOn cFIRN 0 = true ∧ s.memReady = true
  free  : s.firnCmd k = none
  desc  : a = s.rd64 cFIRN 0 (slotOff k - 8) % 2 ^ 48 / 256 * 256
  up    : MemUp s (rqFirn 0)
  read  : Writable s a 256 ∧ b = hbmBytes s a 256
  good  : s.firnBad k b = false ∧ bfield b 0 1 = op

/-- The command of slot `k` has ended with STATUS `st`: the slot is free, its register and the descriptor at `a` tell (R370). -/
structure SlotDone (s u : State) (k : Bool) (a op st : Nat) : Prop where
  slot : u.firnCmd k = none
  reg  : u.rd cFIRN 0 (slotOff k) = u32 (st * 65536 + op)
  byte : hbmByte u (a + 2) = BitVec.ofNat 8 st

/-- A byte lies outside a run. -/
def Out (a : Nat) (r : Nat × Nat) : Prop := a < r.1 ∨ r.1 + r.2 ≤ a

/-- The records of granule g, read clean in epoch `ep` (R343–R348). -/
def granRecs (s : State) (g ep : Nat) : List ChunkRec :=
  (List.range 16).map fun i => chunkRec (g * 65536 + 4096 * i) ep (hbmBytes s (g * 65536 + 4096 * i) 4096) false

/-- The granules of a served restore's records check, each in its place (R345, R346). -/
def GoodGran (g : Nat) (recs : List ChunkRec) : Prop := recs.length = 16 ∧ (granContents g recs).all (·.isSome) = true

/-- The records of an image as R364 takes them: they check, lie in the set and carry no poison; each chunk comes once. -/
structure GoodImage (m : Bytes) (recs : List ChunkRec) : Prop where
  num   : recs.length = bfield m 0x28 8
  each' : ∀ r ∈ recs, (recContent r).isSome = true ∧ r.addr % 4096 = 0 ∧ r.pois = false ∧ r.vepoch < 2 ^ 64 ∧ r.code < 3 ∧ r.payload.length ≤ 4096 ∧
            ∃ e ∈ manRanges m, e.1 / 65536 ≤ r.addr / 65536 ∧ r.addr / 65536 < e.1 / 65536 + e.2
  once  : (recs.map (·.addr)).Nodup
  root  : rootOf (fun k => ((recs.find? fun r => r.addr / 4096 == k).map (·.check)).getD 0) (granList (manRanges m)) = manRoot m

/-! ### Reset, boot and the security controller -/

/-- The registers after a reset: those that R517 keeps are as before, every other one is at its reset value, but for `ks` (R517). -/
def RegsAfterReset (ks : List Nat) (s u : State) : Prop :=
  ∀ cls inst off, inst < 256 → off < 4096 → rk cls inst off ∉ ks →
    u.rd cls inst off = if rk cls inst off ∈ keptRegs then s.rd cls inst off else regReset cls off

/-- What else a reset leaves: no owner, no context, no error queued, bring-up from the start; the log, the fuses, the history, the wires
of power and heat are kept (R517). -/
structure AfterReset (s u : State) : Prop where
  own   : u.own = {} ∧ u.ctxs = [] ∧ u.sec = {} ∧ u.red = [] ∧ u.links = [] ∧ u.firn = {}
  err   : u.err.queues = [] ∧ u.err.log = s.err.log ∧ u.err.first = s.err.first ∧ u.err.fatal = s.err.fatal
  kept  : u.age.hist = s.age.hist ∧ u.pwr.alert = s.pwr.alert
  fuses : s.sec.cmd = none → u.fuses = s.fuses
  dead  : u.pins.twinAliveOut = false

/-- A command of the security controller that starts: row, OP, ARG, and the STATUS that its start decides (R506, R509, R512, R514). -/
def secStarts (s : State) (i : Instr) (m op arg st : Nat) : Prop :=
  (i = .attest m ∧ op = 1 ∧ arg = 0 ∧ st = 0) ∨
  (∃ k, i = .arbCommit m k ∧ k < 64 ∧ op = 2 ∧ arg = k ∧
    st = if k = s.sec.runIdx ∧ arbValue (s.arbFuse k) < s.sec.runSvn then 0 else 0x0B) ∨
  (∃ k, i = .extend m k ∧ 2 ≤ k ∧ k ≤ 7 ∧ op = 3 ∧ arg = k ∧ st = 0) ∨
  (∃ k, i = .dbgReq m k ∧ k < 64 ∧ op = 4 ∧ arg = k ∧ st = if s.fuses.dbgDisable then 0x09 else 0) ∨
  (i = .dbgToken m ∧ op = 5 ∧ arg = 0 ∧ st = 0)

/-- The controller's command is over with a STATUS: idle, CMD_STAT and IRQ_STAT tell (R514, R515). -/
structure SecDone (s u : State) (op st irq : Nat) : Prop where
  idle : u.sec.cmd = none
  stat : u.rd cSEC 0 SEC.CMD_STAT = u32 (st * 65536 + op)
  tell : Raises s u cSEC 0 irq
  rec' : st ≠ 0 → s.errQ (pageId cSEC 0) = [] → ∃ r, u.errQ (pageId cSEC 0) = [r] ∧ r.sev = 2 ∧ r.cause = 0x01 ∧ r.info = u32 st

/-! ### Words of the context instructions -/

/-- The OPs that R83 and R447 give an instruction; every other OP is reserved. -/
def opsOfTheTable : List Nat :=
  (List.range' 0x01 6) ++ [0x10, 0x11, 0x12, 0x14, 0x15, 0x16] ++
    (List.range' 0x20 14) ++ (List.range' 0x30 7) ++ (List.range' 0x40 8) ++ (List.range' 0x60 4) ++ [0x68] ++ (List.range' 0x70 7) ++
    (List.range' 0x80 4) ++ (List.range' 0x88 6) ++ (List.range' 0x90 5) ++ (List.range' 0xA0 4) ++ (List.range' 0xB0 3) ++
    (List.range' 0xC0 11) ++ (List.range' 0xE0 7)

end Sys2Proof.Safety
end

