-- ==== Sys2Proof/Certificates/Slice0/Obligations.lean ====
section
/-! DEFINITION. The statements: what the commands of every family do, the states in which they do it, and what they leave alone.
Hypotheses speak of the state and the operands alone; the predicates they use are in `Safety.lean`. -/
section Statements
open Sys2Proof Sys2Proof.Machine Sys2Proof.Safety

/-- A step performs the command at the front of the queue on the state with the rest of the queue -/
def Obligations.StepTakesFrontCommand : Prop :=
  (∀ (c : Instr) (rest : List Instr) (s : State), s.pending = c :: rest → step s = exec c { s with pending := rest }) ∧
  (∀ s : State, s.pending = [] → ∃ u, step s = .next u ∧ u = s.tick)

/-- After reset the owner state is VACANT, the timebase counts from 0, and memory is in canonical form -/
def Obligations.ResetLeavesThePagesAndOwnership : Prop :=
  State.reset.own.mode = .vacant ∧ State.reset.own.valid = false ∧ State.reset.clk.time = 0 ∧ State.reset.clk.running = true ∧
    State.reset.err.queues = [] ∧ State.reset.pending = [] ∧ HbmWf State.reset ∧ TsWf State.reset ∧ RegsWf State.reset

/-- A register write of a master that does not own the device changes nothing but the drop counters -/
def Obligations.NonOwnerWriteIsDropped : Prop :=
  ∀ (i : Instr) (s : State) (m cls inst off : Nat), masterWrite i = some (m, cls, inst, off) → m < 3 →
    Reaches s m cls inst off → s.isOwner m = false → s.clk.time ≤ s.own.deadline →
    ∃ u, exec i s = .next u ∧ Counts s u cOWN 0 (OWN.DROP_CNT + 4 * m) 1 ∧
      u.rd64 cOWN 0 OWN.LAST_DROP_ADDR = regAddr cls inst off ∧ u.rd cOWN 0 OWN.LAST_DROP_INFO = u32 (m * 65536 + 1) ∧
      Raises s u cOWN 0 8 ∧ Acks u m cls inst off (if m = 2 then 0 else 3) ∧
      OnlyRegsN (dropKeys m) (answering s m) u

/-- CLAIM_NONCE keeps a master's nonce; CLAIM opens an election in VACANT and is entered in ELECTING -/
def Obligations.ClaimOpensAndEntersElections : Prop :=
  (∀ (s : State) (m : Nat) (v : BitVec 32), Reaches s m cOWN 0 OWN.CLAIM_NONCE →
    ∃ u, exec (.claimNonce m v) s = .next u ∧ mget 0 u.own.nonces m = v ∧
      (∀ j, j ≠ m → mget 0 u.own.nonces j = mget 0 s.own.nonces j) ∧
      u = ({ answering s m with own := { s.own with nonces := u.own.nonces } }).send (.wack m (regAddr cOWN 0 OWN.CLAIM_NONCE) 0)) ∧
  (∀ (s : State) (m : Nat) (prio : BitVec 32) (nonce : Option (BitVec 32)), Reaches s m cOWN 0 OWN.CLAIM →
    s.own.mode = .vacant →
    ∃ u, exec (.claim m prio nonce) s = .next u ∧ u.own.mode = .electing ∧ u.own.valid = false ∧
      u.own.deadline = s.clk.time + s.rdf cOWN 0 OWN.CLAIM_WIN 0 24 ∧
      (∀ j, mget none u.own.claims j =
        if j = m then some ⟨BitVec.ofNat 8 prio.toNat, nonce.getD (mget 0 s.own.nonces m)⟩ else none) ∧
      Acks u m cOWN 0 OWN.CLAIM 0 ∧ OnlyRegs [] { answering s m with own := u.own } u) ∧
  (∀ (s : State) (m : Nat) (prio : BitVec 32) (nonce : Option (BitVec 32)), Reaches s m cOWN 0 OWN.CLAIM →
    s.own.mode = .electing → s.clk.time ≤ s.own.deadline →
    ∃ u, exec (.claim m prio nonce) s = .next u ∧ u.own.mode = .electing ∧ u.own.deadline = s.own.deadline ∧
      (∀ j, mget none u.own.claims j =
        if j = m then some ⟨BitVec.ofNat 8 prio.toNat, nonce.getD (mget 0 s.own.nonces m)⟩ else mget none s.own.claims j) ∧
      Acks u m cOWN 0 OWN.CLAIM 0 ∧ OnlyRegs [] { answering s m with own := u.own } u)

/-- When the window closes the lowest claim becomes owner with a fresh lease; a lease that passes vacates ownership and is recorded -/
def Obligations.ElectionsCloseAndLeasesExpire : Prop :=
  (∀ (s : State), Awake s → s.own.mode = .electing → s.own.deadline ≤ s.clk.time →
    (∃ m c, m < 3 ∧ mget none s.own.claims m = some c) →
    ∃ u w c, exec .electionClose s = .next u ∧ w < 3 ∧ mget none s.own.claims w = some c ∧
      (∀ j d, j < 3 → mget none s.own.claims j = some d → j ≠ w →
        c.prio.toNat < d.prio.toNat ∨ (c.prio = d.prio ∧ (c.nonce.toNat < d.nonce.toNat ∨ (c.nonce = d.nonce ∧ w < j)))) ∧
      u.own.mode = .owned ∧ u.own.owner = w ∧ u.own.claim = c ∧ u.own.valid = true ∧ u.own.claims = [] ∧
      u.own.deadline = s.clk.time + s.leaseCounts ∧ Counts s u cOWN 0 OWN.ELECT_CNT 1 ∧ Raises s u cOWN 0 1 ∧
      OnlyRegsN [rk cOWN 0 OWN.ELECT_CNT, rk cOWN 0 hIRQ_STAT] { s with own := u.own } u) ∧
  (∀ (s : State), Awake s → s.own.mode = .owned → s.own.deadline ≤ s.clk.time → s.errQ (pageId cOWN 0) = [] →
    ∃ u r, exec .leaseExpire s = .next u ∧ u.own.mode = .vacant ∧ u.own.valid = false ∧
      Counts s u cOWN 0 OWN.EXPIRE_CNT 1 ∧ Raises s u cOWN 0 4 ∧
      u.errQ (pageId cOWN 0) = [r] ∧ r.sev = 0 ∧ r.cause = 0x0D ∧ r.src = pageId cOWN 0 ∧ r.time = s.time64 ∧ r.nested = false ∧
      u.hbm = s.hbm ∧ u.ts = s.ts ∧ u.ctxs = s.ctxs ∧ u.tiles = s.tiles ∧ u.vec = s.vec ∧ u.pending = s.pending ∧
      (∀ cls inst off, cls ≠ cOWN → cls ≠ cERR → inst < 256 → off < 4096 → rk cls inst off ∉ msgKeys → u.rd cls inst off = s.rd cls inst off))

/-- RENEW, RELEASE and the end of a handover move the owner state as R442 and R443 say -/
def Obligations.LeaseRenewalReleaseAndHandover : Prop :=
  (∀ (s : State) (m : Nat) (v : BitVec 32), OwnerReady s m cOWN 0 OWN.RENEW → v.getLsbD 0 = true →
    ∃ u, exec (.renew m v) s = .next u ∧ u = ({ answering s m with own := { s.own with deadline := s.clk.time + s.leaseCounts } }).send
      (.wack m (regAddr cOWN 0 OWN.RENEW) 0)) ∧
  (∀ (s : State) (m : Nat) (v : BitVec 32), OwnerReady s m cOWN 0 OWN.RELEASE →
    ∃ u, exec (.ownRelease m v) s = .next u ∧ u.own.valid = false ∧
      (v.getLsbD 2 = false → u.own.mode = .vacant) ∧
      (v.getLsbD 2 = true → u.own.mode = .handover ∧ u.own.succ = v.toNat % 4 ∧
        u.own.deadline = s.clk.time + s.rdf cOWN 0 OWN.HANDOVER_TMO 0 24) ∧
      Raises s u cOWN 0 2 ∧ Acks u m cOWN 0 OWN.RELEASE 0 ∧ OnlyRegsN [rk cOWN 0 hIRQ_STAT] { answering s m with own := u.own } u) ∧
  (∀ (s : State), Awake s → s.own.mode = .handover → s.own.deadline ≤ s.clk.time →
    exec .handoverTmoExpire s = .next { s with own := { s.own with mode := .vacant } }) ∧
  (∀ (s : State) (m : Nat) (prio : BitVec 32) (nonce : Option (BitVec 32)), Reaches s m cOWN 0 OWN.CLAIM →
    s.own.mode = .handover → s.own.succ = m → s.clk.time ≤ s.own.deadline →
    ∃ u, exec (.claim m prio nonce) s = .next u ∧ u.own.mode = .owned ∧ u.own.owner = m ∧ u.own.valid = true ∧
      u.own.deadline = s.clk.time + s.leaseCounts ∧ Acks u m cOWN 0 OWN.CLAIM 0) ∧
  (∀ (s : State) (m : Nat) (prio : BitVec 32), m < 3 → Reaches s m cOWN 0 OWN.CLAIM → s.own.mode = .handover → s.own.succ ≠ m →
    s.clk.time ≤ s.own.deadline →
    ∃ u, exec (.claim m prio none) s = .next u ∧ Counts s u cOWN 0 (OWN.DROP_CNT + 4 * m) 1 ∧
      Acks u m cOWN 0 OWN.CLAIM (if m = 2 then 0 else 3) ∧ OnlyRegsN (dropKeys m) (answering s m) u) ∧
  (∀ (s : State) (m : Nat) (v : BitVec 32), Reaches s m cOWN 0 OWN.CLAIM_NONCE → s.own.mode = .handover →
    ∃ u, exec (.claimNonce m v) s = .next u ∧ mget 0 u.own.nonces m = v ∧
      u = ({ answering s m with own := { s.own with nonces := u.own.nonces } }).send (.wack m (regAddr cOWN 0 OWN.CLAIM_NONCE) 0)) ∧
  (∀ (i : Instr) (s : State) (m cls inst off : Nat), masterWrite i = some (m, cls, inst, off) → m < 3 →
    Reaches s m cls inst off → s.own.mode = .handover → s.clk.time ≤ s.own.deadline →
    ∃ u, exec i s = .next u ∧ Counts s u cOWN 0 (OWN.DROP_CNT + 4 * m) 1 ∧ OnlyRegsN (dropKeys m) (answering s m) u) ∧
  (∀ (s : State) (m cls inst off : Nat) (v : BitVec 64), m < 3 → Reaches s m cls inst off → s.own.mode = .handover →
    s.clk.time ≤ s.own.deadline → s.lockHit cls inst (off, u32 v.toNat) = false →
    ¬ (cls = cOWN ∧ (off = OWN.CLAIM ∨ off = OWN.CLAIM_NONCE)) → ¬ (cls = cAGE ∧ off = hCTRL) →
    ∃ u, exec (.registerWrite m (regAddr cls inst off) 4 v) s = .next u ∧ Counts s u cOWN 0 (OWN.DROP_CNT + 4 * m) 1 ∧
      OnlyRegsN (dropKeys m) (answering s m) u)

/-- Every ownership command keeps the owner state lawful: VALID exactly in OWNED, an owner below 3, claims only in ELECTING -/
def Obligations.OwnershipRowsKeepTheOwnerState : Prop :=
  OwnInv State.reset ∧
  (∀ (s : State) (i : Instr) (rest : List Instr), s.pending = i :: rest → ownershipRow i = true → OwnInv s →
    ∃ u, step s = .next u ∧ OwnInv u)

/-- A timer starts from its load value, stops where it stands, and at zero sets its bit and reloads or stops -/
def Obligations.TimersStartStopAndExpire : Prop :=
  (∀ (s : State) (m n : Nat) (v : BitVec 32), n < 16 → OwnerReady s m cTIM 0 (TIM.GPT_TCTRL + 16 * n) →
    ∃ u, exec (.gptTctrlWrite m n v) s = .next u ∧ u.rd cTIM 0 (TIM.GPT_TCTRL + 16 * n) = u32 (v.toNat % 4) ∧
      (v.getLsbD 0 = true → u.gptRemain n = max 1 ((s.rd cTIM 0 (TIM.GPT_LOAD_LO + 16 * n)).toNat +
        (s.rd cTIM 0 (TIM.GPT_LOAD_HI + 16 * n)).toNat % 65536 * 4294967296)) ∧
      (v.getLsbD 0 = false → u.gptRemain n = s.gptRemain n) ∧ (∀ j, j ≠ n → u.gpt j = s.gpt j) ∧ u.clk.time = s.clk.time ∧
      Acks u m cTIM 0 (TIM.GPT_TCTRL + 16 * n) 0 ∧ OnlyRegs [rk cTIM 0 (TIM.GPT_TCTRL + 16 * n)] { answering s m with clk := u.clk } u) ∧
  (∀ (s : State) (n : Nat), n < 16 → Awake s → s.rdb cTIM 0 (TIM.GPT_TCTRL + 16 * n) 0 = true → (s.gpt n).due ≤ s.clk.time →
    ∃ u, exec (.gptExpire n) s = .next u ∧ Raises s u cTIM 0 (2 ^ n) ∧
      (s.rdb cTIM 0 (TIM.GPT_TCTRL + 16 * n) 1 = true → u.rd cTIM 0 (TIM.GPT_TCTRL + 16 * n) = s.rd cTIM 0 (TIM.GPT_TCTRL + 16 * n) ∧
        (u.gpt n).due = (s.gpt n).due + s.gptLoad n) ∧
      (s.rdb cTIM 0 (TIM.GPT_TCTRL + 16 * n) 1 = false → u.rdb cTIM 0 (TIM.GPT_TCTRL + 16 * n) 0 = false ∧ u.gptRemain n = 0) ∧
      (∀ j, j ≠ n → u.gpt j = s.gpt j) ∧
      OnlyRegsN [rk cTIM 0 (TIM.GPT_TCTRL + 16 * n), rk cTIM 0 hIRQ_STAT] { s with clk := u.clk } u) ∧
  (∀ (s : State) (m n off : Nat) (v : BitVec 64), n < 16 → (off = TIM.GPT_LOAD_LO + 16 * n ∨ off = TIM.GPT_LOAD_HI + 16 * n) →
    OwnerReady s m cTIM 0 off →
    ∃ u, exec (.registerWrite m (regAddr cTIM 0 off) 4 v) s = .next u ∧
      u.rd cTIM 0 off = written cTIM off (s.rd cTIM 0 off) (u32 v.toNat) ∧ u.clk = s.clk ∧
      Acks u m cTIM 0 off 0 ∧ OnlyRegs [rk cTIM 0 off] (answering s m) u) ∧
  (∀ (s : State) (n : Nat), s.gptLoad n = max 1 ((s.rd cTIM 0 (TIM.GPT_LOAD_LO + 16 * n)).toNat +
    (s.rd cTIM 0 (TIM.GPT_LOAD_HI + 16 * n)).toNat % 65536 * 4294967296))

/-- RATE takes the ring handshakes of a window that ends; CLR_HS clears the four throughput counters alone -/
def Obligations.RateMonitorAndHandshakeCounters : Prop :=
  (∀ (s : State) (a b : Nat), Awake s → s.clk.running = true → s.clk.time % 1000 = 0 → s.clk.time ≠ 0 →
    a < 65536 → b < 65536 →
    ∃ u, exec (.rateWindowEnd a b) s = .next u ∧ u.rd cTIM 0 TIM.RATE_A = u32 a ∧ u.rd cTIM 0 TIM.RATE_B = u32 b ∧
      OnlyRegs [rk cTIM 0 TIM.RATE_A, rk cTIM 0 TIM.RATE_B] s u) ∧
  (∀ (s : State) (m : Nat), s.peek m cTIM 0 TIM.RATE_A = (if s.railLow 0 then 0 else s.rd cTIM 0 TIM.RATE_A) ∧
    s.peek m cTIM 0 TIM.RATE_B = (if s.railLow 16 then 0 else s.rd cTIM 0 TIM.RATE_B)) ∧
  (∀ (s : State) (m : Nat), OwnerReady s m cTIM 0 hCTRL →
    ∃ u, exec (.clrHs m) s = .next u ∧ u.rd64 cTIM 0 TIM.ARRAY_HS_A = 0 ∧ u.rd64 cTIM 0 TIM.ARRAY_HS_B = 0 ∧
      u.rd64 cTIM 0 TIM.VEC_HS_A = 0 ∧ u.rd64 cTIM 0 TIM.VEC_HS_B = 0 ∧ Acks u m cTIM 0 hCTRL 0 ∧
      OnlyRegs ([TIM.ARRAY_HS_A, TIM.ARRAY_HS_B, TIM.VEC_HS_A, TIM.VEC_HS_B].flatMap fun o => [rk cTIM 0 o, rk cTIM 0 (o + 4)]) (answering s m) u)

/-- REFCLK loss, a bridge stall and a thermal trip are Fatal: recorded, and the device halts with every link down -/
def Obligations.FatalErrorsHaltTheDevice : Prop :=
  (∀ (s : State), Awake s → s.clk.running = true → s.errQ (pageId cTIM 0) = [] →
    ∃ u, exec .refclkLost s = .next u ∧ HaltedBy u cTIM 0 0x11 ∧ u.clk.running = false ∧ u.clk.time = s.clk.time ∧
      u.hbm = s.hbm ∧ u.ts = s.ts ∧ u.ctxs = s.ctxs ∧ u.own = s.own ∧ u.pending = s.pending) ∧
  (∀ (s : State) (b ch ev since : Nat) (dir : Bool), s.live = true → b < 4 → s.pdStat (bridgeDomain b) = true →
    s.chanWait (chanKey b ch dir) = some ⟨ev, since⟩ → since + s.rdf cTIM 0 TIM.BRIDGE_WDOG 0 24 < s.clk.time →
    s.errQ (pageId cTIM 0) = [] →
    ∃ u, exec (.bridgeStall b ch dir ev) s = .next u ∧ HaltedBy u cTIM 0 0x10 ∧ u.bridgeStalled b = true ∧ u.clk = s.clk ∧
      u.hbm = s.hbm ∧ u.ts = s.ts ∧ u.ctxs = s.ctxs ∧ u.own = s.own ∧ u.pending = s.pending) ∧
  (∀ (s : State) (tj : Temps), Awake s → s.pins.thermtripN = true → 115 ≤ hottest tj → s.errQ (pageId cPWR 0) = [] →
    ∃ u, exec (.thermtrip tj) s = .next u ∧ HaltedBy u cPWR 0 0x12 ∧ u.pins.thermtripN = false ∧ u.clk = s.clk ∧
      u.hbm = s.hbm ∧ u.ts = s.ts ∧ u.ctxs = s.ctxs ∧ u.own = s.own ∧ u.pending = s.pending)

/-- A bridge channel delivers the word its digits spell, poisons the flit of a code error, waits on an empty digit, returns it while off -/
def Obligations.BridgeMovesOneWord : Prop :=
  (∀ (s : State) (b ch : Nat) (dir : Bool) (ds after : List (BitVec 4)) (flit : Nat), s.live = true → b < 4 → ch < bridgeChannels b →
    s.pdStat (bridgeDomain b) = true → (s.chanWait (chanKey b ch dir)).any (·.ev == 4) = false → digitsGood ds →
    (∀ d ∈ after, d = 0) →
    ∃ w : BitVec 64, (∀ k, k < 32 → (1 : BitVec 4) <<< (w.toNat / 4 ^ k % 4) = ds.getD k 0) ∧
      exec (.bridgeWordTransfer b ch dir ds after flit) s =
        .next (({ s with clk := { s.clk with chans := mset none s.clk.chans (chanKey b ch dir) none } }).send
          (.bridgeWord b ch dir w flit false))) ∧
  (∀ (s : State) (b ch : Nat) (dir : Bool) (ds after : List (BitVec 4)) (flit : Nat), s.live = true → b < 4 → ch < bridgeChannels b →
    s.pdStat (bridgeDomain b) = true → (s.chanWait (chanKey b ch dir)).any (·.ev == 4) = false → ds.length = 32 →
    (∀ d ∈ ds, d ≠ 0) → ¬ digitsGood ds →
    ∃ u w, exec (.bridgeWordTransfer b ch dir ds after flit) s = .next u ∧ Raises s u cTIM 0 0x20000 ∧
      u.outbox.getLast? = some (.bridgeWord b ch dir w flit true) ∧ u.hbm = s.hbm ∧ u.ts = s.ts ∧ u.ctxs = s.ctxs) ∧
  (∀ (s : State) (b ch : Nat) (dir : Bool) (ds after : List (BitVec 4)) (flit : Nat), s.live = true → b < 4 → ch < bridgeChannels b →
    s.pdStat (bridgeDomain b) = true → s.chanWait (chanKey b ch dir) = none → ds.length = 32 → (∃ d ∈ ds, d = 0) →
    exec (.bridgeWordTransfer b ch dir ds after flit) s =
      .next { s with clk := { s.clk with chans := mset none s.clk.chans (chanKey b ch dir) (some ⟨2, s.clk.time⟩) } }) ∧
  (∀ (s : State) (b ch : Nat) (dir : Bool) (ds after : List (BitVec 4)) (flit : Nat), s.live = true → b < 4 → ch < bridgeChannels b →
    s.pdStat (bridgeDomain b) = true → (s.chanWait (chanKey b ch dir)).any (·.ev == 4) = false → digitsGood ds →
    (∃ d ∈ after, d ≠ 0) →
    ∃ u, exec (.bridgeWordTransfer b ch dir ds after flit) s = .next u ∧
      u.chanWait (chanKey b ch dir) = some ⟨4, s.clk.time⟩ ∧
      (∀ (es fs : List (BitVec 4)) (g : Nat), es.length = 32 → (∃ e ∈ es, e ≠ 0) →
        exec (.bridgeWordTransfer b ch dir es fs g) u = .next u)) ∧
  (∀ (s : State) (b ch : Nat) (dir : Bool) (ds after : List (BitVec 4)) (flit : Nat), s.live = true → b < 4 → ch < bridgeChannels b →
    s.pdStat (bridgeDomain b) = false → ds.length = 32 →
    ∃ u, exec (.bridgeWordTransfer b ch dir ds after flit) s = .next u ∧ Raises s u cTIM 0 0x20000 ∧
      u.outbox.getLast? = some (.bridgeBack b ch dir flit 4) ∧
      (∀ w p, OutMsg.bridgeWord b ch dir w flit p ∈ u.outbox → OutMsg.bridgeWord b ch dir w flit p ∈ s.outbox))

/-- POP takes the oldest record of the selected page, CLR_FIRST empties its latch, CLR_LOG empties the log -/
def Obligations.ErrorQueuesPopAndClear : Prop :=
  (∀ (s : State) (m : Nat), OwnerReady s m cERR 0 ERR.POP → selValid (s.rd cERR 0 ERR.SEL) = true →
    ∃ u, exec (.pop m) s = .next u ∧
      (∀ p, u.errQ p = if p = selPage (s.rd cERR 0 ERR.SEL) then (s.errQ p).tail else s.errQ p) ∧
      Acks u m cERR 0 ERR.POP 0 ∧ OnlyRegs [] { answering s m with err := { s.err with queues := u.err.queues } } u) ∧
  (∀ (s : State) (m : Nat), OwnerReady s m cERR 0 ERR.CLR_FIRST → selValid (s.rd cERR 0 ERR.SEL) = true →
    ∃ u, exec (.clrFirst m) s = .next u ∧
      (∀ p, mget none u.err.first p = if p = selPage (s.rd cERR 0 ERR.SEL) then none else mget none s.err.first p) ∧
      Acks u m cERR 0 ERR.CLR_FIRST 0 ∧ OnlyRegs [] { answering s m with err := { s.err with first := u.err.first } } u) ∧
  (∀ (s : State) (m : Nat), OwnerReady s m cERR 0 hCTRL → s.err.queues.any (fun e => !e.2.isEmpty) = false →
    ∃ u, exec (.clrLog m) s = .next u ∧ u.err = { s.err with log := [], logCnt := 0, fatal := none } ∧
      u.rd cERR 0 ERR.LOG_LOST = 0 ∧ u.rd cERR 0 ERR.LOG_WR = 0 ∧ Acks u m cERR 0 hCTRL 0 ∧
      OnlyRegs [rk cERR 0 ERR.LOG_LOST, rk cERR 0 ERR.LOG_WR] { answering s m with err := u.err } u) ∧
  (∀ (s : State) (m : Nat), OwnerReady s m cERR 0 hCTRL → s.err.queues.any (fun e => !e.2.isEmpty) = true →
    (s.errQ (pageId cERR 0)).length < 8 →
    ∃ u r, exec (.clrLog m) s = .next u ∧ u.errQ (pageId cERR 0) = s.errQ (pageId cERR 0) ++ [r] ∧ r.sev = 2 ∧ r.cause = 0x01 ∧
      r.addr = none ∧ u.err.fatal = s.err.fatal ∧ (∀ p, p ≠ pageId cERR 0 → u.errQ p = s.errQ p))

/-- A PD_ON bit set starts a wake, the lowest waiting domain's switch closes, it is ready after its time, and an off request opens it -/
def Obligations.DomainsSwitchOnAndOff : Prop :=
  (∀ (s : State) (m w b : Nat), w < 3 → b < 32 → OwnerReady s m cPWR 0 (PWR.PD_ON0 + 4 * w) → s.bringupOver = true →
    s.pdst (32 * w + b) = {} → s.pdOn (32 * w + b) = false →
    (32 * w + b < 64 → s.fuses.tilePairs.getLsbD (32 * w + b) = true) → s.eStored [32 * w + b] ≤ s.eLimit →
    ∃ u, exec (.pdOnWrite m w (s.rd cPWR 0 (PWR.PD_ON0 + 4 * w) ||| u32 (2 ^ b))) s = .next u ∧
      u.pdst (32 * w + b) = { phase := .wakeWait } ∧ (∀ d, d ≠ 32 * w + b → u.pdst d = s.pdst d) ∧
      u.rd cPWR 0 (PWR.PD_ON0 + 4 * w) = s.rd cPWR 0 (PWR.PD_ON0 + 4 * w) ||| u32 (2 ^ b) ∧
      OnlyRegs [rk cPWR 0 (PWR.PD_ON0 + 4 * w)] { answering s m with pwr := u.pwr } u) ∧
  (∀ (s : State) (pd : Nat), s.wakeReady = true → s.firstWake = some pd →
    ∃ u, exec (.pdWake pd) s = .next u ∧ (u.pdst pd).phase = .settling s.clk.time ∧ u.pwr.lastWake = some s.clk.time ∧
      (∀ d, d ≠ pd → u.pdst d = s.pdst d) ∧ u.hbm = s.hbm) ∧
  (∀ (s : State) (pd : Nat), pd < 92 → pd ≠ 86 → s.pdSettled pd = true → (s.pdst pd).queue = [] → NoWaits s →
    ∃ u, exec (.pdWakeReady pd) s = .next u ∧ (u.pdst pd).phase = .on ∧ Counts s u cPWR 0 PWR.WAKE_CNT 1 ∧
      (∀ d, d ≠ pd → (u.pdst d).phase = (s.pdst d).phase) ∧ u.hbm.mem = s.hbm.mem) ∧
  (∀ (s : State) (pd : Nat), pd < 96 → s.live = true → s.pdst pd = { phase := .offWait } → s.pdDrained pd = true →
    (pd = 80 → s.linkUpP 8 = false ∧ s.linkUpP 9 = false) → (pd = 81 → s.linkUpP 10 = false) →
    ∃ u, exec (.pdSwitchOff pd) s = .next u ∧ (u.pdst pd).phase = .off ∧
      (∀ d, d ≠ pd → (u.pdst d).phase = (s.pdst d).phase) ∧ u.hbm.mem = s.hbm.mem)

/-- The governor reports current and charge, begins and ends sheds, notes sag and over-declaration; the thermal cap comes and goes -/
def Obligations.GovernorMeasuresShedsAndSags : Prop :=
  (∀ (s : State) (iA iB vA vB : Nat) (held : Bool), Awake s → s.clk.running = true → s.clk.time % 10 = 0 → iA < 4096 → iB < 4096 →
    ∃ u, exec (.govWindow iA iB vA vB held) s = .next u ∧ u.rd cPWR 0 PWR.I_MEAS_A = u32 iA ∧ u.rd cPWR 0 PWR.I_MEAS_B = u32 iB ∧
      u.pwr.chargeA = s.pwr.chargeA + iA ∧ u.pwr.chargeB = s.pwr.chargeB + iB ∧ u.pwr.pd = s.pwr.pd ∧ u.err = s.err ∧
      (held = true → u.pwr.capped = true ∧ u.rd64 cPWR 0 PWR.THROTTLE = (s.rd64 cPWR 0 PWR.THROTTLE + 1) % 2 ^ 64)) ∧
  (∀ (s : State), Awake s → s.pwr.alert = false → s.shed = false →
    ∃ u, exec .govAlertAssert s = .next u ∧ u.shed = true ∧ u.pins.govAlertN = false ∧ Counts s u cPWR 0 PWR.SHED_CNT 1 ∧
      Raises s u cPWR 0 2 ∧
      OnlyRegsN [rk cPWR 0 PWR.SHED_CNT, rk cPWR 0 hIRQ_STAT] { s with pwr := { s.pwr with alert := true }, pins := u.pins } u) ∧
  (∀ (s : State), Awake s → s.pwr.alert = true → s.rdb cPWR 0 hCTRL 2 = false →
    ∃ u, exec .govAlertDeassert s = .next u ∧ u.shed = false ∧ u.pins.govAlertN = true ∧ Raises s u cPWR 0 4 ∧
      OnlyRegsN [rk cPWR 0 hIRQ_STAT] { s with pwr := { s.pwr with alert := false }, pins := u.pins } u) ∧
  (∀ (s : State) (m : Nat), OwnerReady s m cPWR 0 hCTRL → s.shed = false →
    ∃ u, exec (.shedForceWrite m true) s = .next u ∧ u.shed = true ∧ Raises s u cPWR 0 2 ∧
      u.rd cPWR 0 PWR.SHED_CNT = s.rd cPWR 0 PWR.SHED_CNT ∧ Acks u m cPWR 0 hCTRL 0 ∧
      OnlyRegsN [rk cPWR 0 hCTRL, rk cPWR 0 hIRQ_STAT] (answering s m) u) ∧
  (∀ (s : State) (vA vB : Nat), Awake s → s.pwr.sag = false → (vA < 650 ∨ vB < 650) →
    ∃ u, exec (.sag vA vB) s = .next u ∧ u.pwr.sag = true ∧ Counts s u cPWR 0 PWR.SAG_CNT 1 ∧ Raises s u cPWR 0 16 ∧ u.err = s.err ∧
      OnlyRegsN [rk cPWR 0 PWR.V_MEAS, rk cPWR 0 PWR.SAG_CNT, rk cPWR 0 hIRQ_STAT] { s with pwr := { s.pwr with sag := true } } u) ∧
  (∀ (s : State) (vA vB : Nat), Awake s → s.pwr.overDecl = false →
    (s.rdf cPWR 0 PWR.VDECL 0 10 + 10 < vA ∨ s.rdf cPWR 0 PWR.VDECL 16 10 + 10 < vB) → s.errQ (pageId cPWR 0) = [] →
    ∃ u r, exec (.overDecl vA vB) s = .next u ∧ u.pwr = { s.pwr with overDecl := true } ∧ u.errQ (pageId cPWR 0) = [r] ∧
      r.sev = 0 ∧ r.cause = 0x0D) ∧
  (∀ (s : State) (tj : Temps), Awake s → s.pwr.therm = false → min 105 (s.rdf cPWR 0 PWR.THERM_CFG 8 8) ≤ hottest tj →
    ∃ u, exec (.thermThrottle tj) s = .next u ∧ u.pwr = { s.pwr with therm := true } ∧ Raises s u cPWR 0 8 ∧
      u.rdf cPWR 0 PWR.TJ 0 8 = min 255 ((tj.pairs.take 32).foldl max 0) ∧
      OnlyRegsN [rk cPWR 0 PWR.TJ, rk cPWR 0 PWR.TJ_PEAK, rk cPWR 0 hIRQ_STAT] { s with pwr := u.pwr } u) ∧
  (∀ (s : State) (tj : Temps), Awake s → s.pwr.therm = true → hottest tj ≤ s.tRelease →
    ∃ u, exec (.thermRelease tj) s = .next u ∧ u.pwr = { s.pwr with therm := false } ∧
      u.rdf cPWR 0 PWR.TJ 0 8 = min 255 ((tj.pairs.take 32).foldl max 0) ∧
      OnlyRegs [rk cPWR 0 PWR.TJ, rk cPWR 0 PWR.TJ_PEAK] { s with pwr := u.pwr } u)

/-- A sample enters the ageing history, which keeps the last 4,096; CLR_HIST empties it for the owner alone -/
def Obligations.AgeingSamplesEnterTheHistory : Prop :=
  (∀ (s : State) (inp : AgeInputs), Awake s → s.rdb cAGE 0 hCTRL 0 = true →
    s.age.last + max 1 (s.rdf cAGE 0 AGE.AGE_PERIOD 0 16) * 100000000 ≤ s.clk.time →
    ∃ u a, exec (.ageSample inp) s = .next u ∧ a.poh = s.poh ∧
      u.age.hist = (s.age.hist ++ [a]).drop ((s.age.hist ++ [a]).length - 4096) ∧ u.age.last = s.clk.time ∧ u.age.shown = true ∧
      u.hbm = s.hbm ∧ u.ts = s.ts ∧ u.ctxs = s.ctxs ∧ u.pending = s.pending) ∧
  (∀ (s : State) (m : Nat) (inp : AgeInputs), OwnerReady s m cAGE 0 hCTRL →
    ∃ u a, exec (.sampleNow m inp) s = .next u ∧ a.poh = s.poh ∧
      u.age.hist = (s.age.hist ++ [a]).drop ((s.age.hist ++ [a]).length - 4096) ∧ u.age.last = s.clk.time ∧
      Acks u m cAGE 0 hCTRL 0 ∧ u.hbm = s.hbm ∧ u.ts = s.ts ∧ u.ctxs = s.ctxs ∧ u.pending = s.pending) ∧
  (∀ (s : State) (m : Nat), OwnerReady s m cAGE 0 hCTRL →
    s.age.asked = false →
    exec (.clrHist m) s = .next (({ answering s m with age := { s.age with hist := [] } }).send (.wack m (regAddr cAGE 0 hCTRL) 0))) ∧
  (∀ (s : State) (m : Nat), m < 3 → Reaches s m cAGE 0 hCTRL → s.isOwner m = false → s.errQ (pageId cAGE 0) = [] →
    ∃ u r, exec (.clrHist m) s = .next u ∧ u.age = s.age ∧ u.errQ (pageId cAGE 0) = [r] ∧ r.sev = 2 ∧ r.cause = 0x01 ∧
      Counts s u cOWN 0 (OWN.DROP_CNT + 4 * m) 1)

/-- A compared sample leaves the queue, adds to the bins and to its layer's trip counter, and a layer trips at COUNT -/
def Obligations.ShadowCheckerCountsAndClears : Prop :=
  (∀ (s : State) (n : Nat) (q : ShdSample) (rest : List ShdSample), s.live = true → n < 2 → (s.shdOf n).queue = q :: rest →
    q.layer < 256 →
    ∃ u, exec (.shdSampleCompare n) s = .next u ∧ (u.shdOf n).queue = rest ∧
      u.rd64 cSHD n SHD.SAMPLES = (s.rd64 cSHD n SHD.SAMPLES + 1) % 2 ^ 64 ∧
      (∀ l b, l ≠ q.layer → b < 16 → mget 0 (u.shdOf n).hist (l * 16 + b) = mget 0 (s.shdOf n).hist (l * 16 + b)) ∧
      mget 0 (u.shdOf n).trips q.layer = mget 0 (s.shdOf n).trips q.layer +
        (((List.range 128).map fun c => errBin q.floor (q.d.getD c 0) (q.item.refCol c)).filter fun b => decide (q.bin ≤ b)).length ∧
      (∀ l, l ≠ q.layer → mget 0 (u.shdOf n).trips l = mget 0 (s.shdOf n).trips l) ∧
      (q.count ≤ mget 0 (u.shdOf n).trips q.layer → mget false (u.shdOf n).tripped q.layer = true) ∧
      (q.count ≤ mget 0 (u.shdOf n).trips q.layer → mget false (s.shdOf n).tripped q.layer = false →
        s.rdb cSHD n SHD.TRIP_LAYER 8 = false → u.rd cSHD n SHD.TRIP_LAYER = u32 (256 + q.layer) ∧ Raises s u cSHD n 1)) ∧
  (∀ (s : State) (m n : Nat), n < 2 → OwnerReady s m cSHD n hCTRL →
    ∃ u, exec (.shdClr m n) s = .next u ∧ u.shdOf n = { s.shdOf n with hist := [], trips := [], tripped := [] } ∧
      u.rd64 cSHD n SHD.SAMPLES = 0 ∧ u.rd cSHD n SHD.SKIP_CNT = 0 ∧ u.rd cSHD n SHD.TRIP_LAYER = 0 ∧
      (∀ j, j ≠ n → u.shdOf j = s.shdOf j) ∧ Acks u m cSHD n hCTRL 0) ∧
  (∀ (s : State) (m n : Nat), n < 2 → OwnerReady s m cSHD n hCTRL → s.rdb cSHD n hCTRL 0 = false →
    ∃ u, exec (.shdEnSet m n) s = .next u ∧ u.rdb cSHD n hCTRL 0 = true ∧ u.shdOf n = { s.shdOf n with issued := [] } ∧
      (∀ j, j ≠ n → u.shdOf j = s.shdOf j) ∧ Acks u m cSHD n hCTRL 0 ∧ OnlyRegs [rk cSHD n hCTRL] { answering s m with shd := u.shd } u)

/-- A master's write changes the register as its access code says; another master's is dropped, a bad address is answered 1 -/
def Obligations.RegisterWriteFollowsItsAccessCode : Prop :=
  (∀ (s : State) (m cls inst off : Nat) (v : BitVec 64), cls ∈ plainPages → off ∉ headerActs → OwnerReady s m cls inst off →
    ∃ u, exec (.registerWrite m (regAddr cls inst off) 4 v) s = .next u ∧
      u.rd cls inst off = written cls off (s.rd cls inst off) (u32 v.toNat) ∧ Acks u m cls inst off 0 ∧
      OnlyRegs [rk cls inst off] (answering s m) u) ∧
  (∀ (s : State) (m cls inst off : Nat) (v : BitVec 64), cls ∈ plainPages → off ∉ headerActs → off + 4 ∉ headerActs →
    OwnerReady s m cls inst off → off % 8 = 0 →
    ∃ u, exec (.registerWrite m (regAddr cls inst off) 8 v) s = .next u ∧
      u.rd cls inst off = written cls off (s.rd cls inst off) (u32 v.toNat) ∧
      u.rd cls inst (off + 4) = written cls (off + 4) (s.rd cls inst (off + 4)) (u32 (v.toNat / 4294967296)) ∧
      Acks u m cls inst off 0 ∧ OnlyRegs [rk cls inst off, rk cls inst (off + 4)] (answering s m) u) ∧
  (∀ (s : State) (m cls inst off : Nat) (v : BitVec 64), (off = hIRQ_STAT ∨ off = hIRQ_EN) → OwnerReady s m cls inst off →
    ∃ u, exec (.registerWrite m (regAddr cls inst off) 4 v) s = .next u ∧
      u.rd cls inst off = written cls off (s.rd cls inst off) (u32 v.toNat) ∧ Acks u m cls inst off 0 ∧
      OnlyRegsN [rk cls inst off] (answering s m) u) ∧
  (∀ (s : State) (m cls inst off : Nat) (v : BitVec 64), m < 3 → Reaches s m cls inst off → s.isOwner m = false → OwnerCurrent s →
    s.lockHit cls inst (off, u32 v.toNat) = false → ¬ (cls = cOWN ∧ (off = OWN.CLAIM ∨ off = OWN.CLAIM_NONCE)) →
    ¬ (cls = cAGE ∧ off = hCTRL) →
    ∃ u, exec (.registerWrite m (regAddr cls inst off) 4 v) s = .next u ∧ Counts s u cOWN 0 (OWN.DROP_CNT + 4 * m) 1 ∧
      u.rd64 cOWN 0 OWN.LAST_DROP_ADDR = regAddr cls inst off ∧ Raises s u cOWN 0 8 ∧
      Acks u m cls inst off (if m = 2 then 0 else 3) ∧
      OnlyRegsN (dropKeys m) (answering s m) u) ∧
  (∀ (s : State) (m addr width : Nat) (v : BitVec 64), m < 3 → s.pathOk m = true → accessOk addr width = false →
    ∃ u, exec (.registerWrite m addr width v) s = .next u ∧ OutMsg.wack m addr 1 ∈ u.outbox ∧ u.hbm = s.hbm ∧ u.ts = s.ts ∧
      u.own = s.own ∧ u.ctxs = s.ctxs ∧ u.pwr = s.pwr ∧ RegsBut [cOPL, cSYS, cERR] s u)

/-- A _LO read latches its _HI word for that master alone; a _HI read returns it; an 8-byte read leaves the shadows -/
def Obligations.ReadsLatchTheHighWord : Prop :=
  (∀ (s : State) (m cls inst off : Nat), ReadReady s m cls inst off → isLo cls off = true →
    ∃ u, exec (.loReadLatch m (regAddr cls inst off)) s = .next u ∧
      u.outbox = s.outbox ++ [.rdata m (regAddr cls inst off) 4 (u64 (s.peek m cls inst off).toNat)] ∧
      (∀ k, mget none u.shadows k = if k = shadowKey m cls inst off then some (s.peek m cls inst (off + 4)) else mget none s.shadows k) ∧
      ({ u with shadows := s.shadows, outbox := s.outbox } : State) = answering s m) ∧
  (∀ (s : State) (m cls inst off : Nat), ReadReady s m cls inst off → isLo cls off = false → 4 ≤ off → isLo cls (off - 4) = true →
    ∃ u, exec (.loReadLatch m (regAddr cls inst off)) s = .next u ∧
      u.outbox = s.outbox ++ [.rdata m (regAddr cls inst off) 4
        (u64 ((mget none s.shadows (shadowKey m cls inst (off - 4))).getD (s.peek m cls inst off)).toNat)] ∧
      ({ u with outbox := s.outbox } : State) = answering s m) ∧
  (∀ (s : State) (m cls inst off : Nat), ReadReady s m cls inst off → isLo cls off = false → (4 ≤ off → isLo cls (off - 4) = false) →
    ∃ u, exec (.loReadLatch m (regAddr cls inst off)) s = .next u ∧
      u.outbox = s.outbox ++ [.rdata m (regAddr cls inst off) 4 (u64 (s.peek m cls inst off).toNat)] ∧
      ((∃ r, regRow cls off = some r ∧ r.acc = .rc) → s.isOwner m = true → s.disabledPage cls inst = false → u.rd cls inst off = 0) ∧
      (s.isOwner m = false → u.rd cls inst off = s.rd cls inst off) ∧ OnlyRegs [rk cls inst off] (answering s m) u) ∧
  (∀ (s : State) (cls inst off : Nat), ReadReady s 1 cls inst off → off % 8 = 0 →
    ∃ u, exec (.mgmtAccess (regAddr cls inst off) 8 none) s = .next u ∧
      u.outbox = s.outbox ++ [.rdata 1 (regAddr cls inst off) 8
        (u64 ((s.peek 1 cls inst off).toNat + (s.peek 1 cls inst (off + 4)).toNat * 4294967296))] ∧ u.shadows = s.shadows ∧
      OnlyRegs [rk cls inst off, rk cls inst (off + 4)] (answering s 1) u)

/-- With MGMT_EN clear every management access is answered with an error and counted; with it set it is master 1's access -/
def Obligations.ManagementChannelIsAMaster : Prop :=
  (∀ (s : State) (addr width : Nat) (wr : Option (BitVec 64)), s.mirUp = true → s.rdb cMIR 0 hCTRL 2 = false →
    ∃ u, exec (.mgmtAccess addr width wr) s = .next u ∧ Counts s u cMIR 0 MIR.MGMT_DROP_CNT 1 ∧
      u.outbox = s.outbox ++ [.wack 1 addr 1] ∧ OnlyRegs [rk cMIR 0 MIR.MGMT_DROP_CNT] (answering s 1) u) ∧
  (∀ (s : State) (cls inst off : Nat) (v : BitVec 64), cls ∈ plainPages → off ∉ headerActs → OwnerReady s 1 cls inst off →
    ∃ u, exec (.mgmtAccess (regAddr cls inst off) 4 (some v)) s = .next u ∧
      u.rd cls inst off = written cls off (s.rd cls inst off) (u32 v.toNat) ∧ Acks u 1 cls inst off 0 ∧ OnlyRegs [rk cls inst off] (answering s 1) u) ∧
  (∀ (s : State) (cls inst off : Nat), ReadReady s 1 cls inst off → isLo cls off = false → (4 ≤ off → isLo cls (off - 4) = false) →
    ∃ u, exec (.mgmtAccess (regAddr cls inst off) 4 none) s = .next u ∧
      u.outbox = s.outbox ++ [.rdata 1 (regAddr cls inst off) 4 (u64 (s.peek 1 cls inst off).toNat)])

/-- CLR_CNT clears a page's counters and nothing else; FREEZE is one register of the ARB page and the page that owns the group -/
def Obligations.CountersClearAndGroupsFreeze : Prop :=
  (∀ (s : State) (m cls inst : Nat), OwnerReady s m cls inst hCTRL → (clrBit cls).isSome = true → cls ≠ cERR →
    ∃ u, exec (.clrCnt m cls inst) s = .next u ∧
      (∀ o ∈ rcOffs cls, u.rd cls inst o = 0) ∧ (∀ o ∈ clr64 cls, u.rd64 cls inst o = 0) ∧
      (cls = cPWR → u.rd cPWR 0 PWR.TJ_PEAK = s.rd cPWR 0 PWR.TJ) ∧ u.rd cls inst hERR_COUNT = s.rd cls inst hERR_COUNT ∧
      Acks u m cls inst hCTRL 0 ∧
      OnlyRegs ((rcOffs cls).map (rk cls inst) ++ (clr64 cls).flatMap (fun o => [rk cls inst o, rk cls inst (o + 4)]) ++
        (if cls = cPWR then [rk cPWR 0 PWR.TJ_PEAK] else [])) (answering s m) u) ∧
  (∀ (s : State) (m : Nat), OwnerReady s m cERR 0 hCTRL →
    ∃ u, exec (.clrCnt m cERR 0) s = .next u ∧ (∀ cls inst, inst < 256 → u.rd cls inst hERR_COUNT = regReset cls hERR_COUNT) ∧
      (∀ cls inst off, inst < 256 → off < 4096 → off ≠ hERR_COUNT → u.rd cls inst off = s.rd cls inst off) ∧
      Acks u m cERR 0 hCTRL 0 ∧ ({ u with regs := s.regs, outbox := s.outbox } : State) = answering s m) ∧
  (∀ (s : State) (m cls inst : Nat) (f : Bool) (c i : Nat), OwnerReady s m cls inst hFREEZE → freezePage cls inst = (c, i) →
    (regRow c hFREEZE).isSome = true → (f = true ∨ c ≠ cRED ∧ (c ∈ [cXCH, cSMP, cTILE, cHBM, cOPL] → NothingHeld s)) →
    ∃ u, exec (.freezeWrite m cls inst f) s = .next u ∧ u.rdb c i hFREEZE 0 = f ∧ Acks u m cls inst hFREEZE 0 ∧
      OnlyRegs [rk c i hFREEZE] (answering s m) u)

/-- Rd_Uncached answers the bytes; Wr_Full and Wr_Partial store exactly the enabled bytes of the line, with the poison sent -/
def Obligations.CompanionReadsAndWritesHbm : Prop :=
  (∀ (s : State) (addr size txid : Nat), HomeReady s addr → 2 ≤ size → size ≤ 7 → addr % 2 ^ size = 0 → Sound s addr →
    Sound s (addr + 2 ^ size - 1) →
    ∃ u, exec (.rdUncached addr size txid) s = .next u ∧
      u.outbox = s.outbox ++ [dataMsg txid 0 addr (hbmBytes s addr (2 ^ size)) false false] ∧
      OnlyRegs (memKeys (stackOf addr)) s u) ∧
  (∀ (i : Instr) (s : State) (addr txid : Nat) (mask : BitVec 128) (data : Bytes) (plo phi : Bool),
    (i = .wrFull addr txid data plo phi ∧ mask = BitVec.allOnes 128 ∨ i = .wrPartial addr txid mask data plo phi) →
    HomeReady s addr → addr % 128 = 0 → s.sfGet (addr / 128) ≠ some true → s.firnHeld (addr / 65536) = false →
    Sound s addr → Sound s (addr + 64) → InjOff s (stackOf addr) →
    ∃ u, exec i s = .next u ∧
      (∀ b, hbmByte u b = if addr ≤ b ∧ b < addr + 128 ∧ mask.getLsbD (b - addr) = true then data.getD (b - addr) 0 else hbmByte s b) ∧
      u.chkOf addr = chkFor (plo && mask.extractLsb' 0 64 != 0) ∧ u.chkOf (addr + 64) = chkFor (phi && mask.extractLsb' 64 64 != 0) ∧
      (∀ b, b / 128 ≠ addr / 128 → u.chkOf b = s.chkOf b) ∧
      (∀ l, u.sfGet l = if l = addr / 128 then none else s.sfGet l) ∧
      u.outbox.getLast? = some (ackMsg txid 0 0 0 addr) ∧
      u.ts = s.ts ∧ u.ctxs = s.ctxs ∧ u.tiles = s.tiles ∧ u.own = s.own ∧ u.pwr = s.pwr ∧
      RegsBut [cOPL, cHBM, cARB, cERR, cFIRN] s u)

/-- Rd_Shared and Rd_Own grant S and M and enter the filter; the completion Ack ends the grant; Evict frees, writing dirty data -/
def Obligations.CompanionTakesAndReturnsLines : Prop :=
  (∀ (i : Instr) (own : Bool) (s : State) (addr txid : Nat),
    (i = .rdShared addr txid ∧ own = false ∨ i = .rdOwn addr txid ∧ own = true) → HomeReady s addr → addr % 128 = 0 →
    s.inCohWin addr = true → s.sfGet (addr / 128) ≠ some true → s.sfVictim (addr / 128) = none → Sound s addr → Sound s (addr + 64) →
    ∃ u, exec i s = .next u ∧
      u.outbox = s.outbox ++ [dataMsg txid (if own then 2 else 1) addr (hbmBytes s addr 128) false false] ∧
      (∀ l, u.sfGet l = if l = addr / 128 then some own else s.sfGet l) ∧ u.opl.busy = s.opl.busy ++ [(addr / 128, txid)] ∧
      u.hbm = s.hbm ∧ OnlyRegs (memKeys (stackOf addr)) { s with opl := u.opl } u) ∧
  (∀ (i : Instr) (s : State) (addr txid : Nat), (i = .rdShared addr txid ∨ i = .rdOwn addr txid) → HomeReady s addr → addr % 128 = 0 →
    (s.inCohWin addr = false ∨ s.sfGet (addr / 128) = some true) →
    ∃ u, exec i s = .next u ∧ u.outbox.getLast? = some (ackMsg txid 0 0 2 addr) ∧ u.opl = s.opl ∧ u.hbm = s.hbm ∧
      Counts s u cOPL 0 OPL.PROTO_ERR_CNT 1) ∧
  (∀ (s : State) (txid st status : Nat) (evp : Bool), s.oplLive = true → NoWaits s → (∃ l, (l, txid) ∈ s.opl.busy) →
    ∃ u, exec (.oplisAck txid 2 st status evp) s = .next u ∧
      u.opl = { s.opl with busy := s.opl.busy.filter (fun b => b.2 != txid) } ∧
      OnlyRegs (keys64 cOPL 0 OPL.RX_MSG) { s with opl := u.opl } u) ∧
  (∀ (s : State) (addr txid : Nat) (data : Bytes), HomeReady s addr → addr % 128 = 0 → s.inCohWin addr = true →
    ∃ u, exec (.evict addr txid false data false false) s = .next u ∧ (∀ l, u.sfGet l = if l = addr / 128 then none else s.sfGet l) ∧
      u.hbm = s.hbm ∧ u.outbox = s.outbox ++ [ackMsg txid 0 0 0 addr] ∧ OnlyRegs (memKeys (stackOf addr)) { s with opl := u.opl } u) ∧
  (∀ (s : State) (addr txid : Nat) (data : Bytes) (plo phi : Bool), HomeReady s addr → addr % 128 = 0 → s.inCohWin addr = true →
    s.sfGet (addr / 128) = some true → s.firnHeld (addr / 65536) = false → InjOff s (stackOf addr) →
    ∃ u, exec (.evict addr txid true data plo phi) s = .next u ∧
      (∀ b, hbmByte u b = if addr ≤ b ∧ b < addr + 128 then data.getD (b - addr) 0 else hbmByte s b) ∧
      u.chkOf addr = chkFor plo ∧ u.chkOf (addr + 64) = chkFor phi ∧
      (∀ l, u.sfGet l = if l = addr / 128 then none else s.sfGet l) ∧ u.outbox.getLast? = some (ackMsg txid 0 0 0 addr) ∧
      u.ts = s.ts ∧ u.ctxs = s.ctxs ∧ RegsBut [cOPL, cHBM, cARB, cERR, cFIRN] s u)

/-- The line cache serves hits, asks for lines it lacks, installs what comes, and answers the companion's snoops -/
def Obligations.LineCacheServesUnitsAndSnoops : Prop :=
  (∀ (s : State) (addr unit ca : Nat) (stream : Bool) (e : LcLine), s.live = true → inCompRange addr = true → NoWaits s →
    s.winLookup addr = some (ca, true) → s.oplLive = true → s.rdbufGet unit ca = none → s.lcGet (ca / 128) = some e →
    ca % 128 = addr % 128 →
    ∃ u, exec (.lineCacheAccess addr unit stream none) s = .next u ∧
      u.outbox = s.outbox ++ [.lcData addr unit (bslice e.data (addr % 128) (128 - addr % 128)) (decide (addr % 128 < 64) && e.plo) e.phi false] ∧
      u.lcGet (ca / 128) = some { e with fill := false } ∧ (∀ l, l ≠ ca / 128 → u.lcGet l = s.lcGet l) ∧
      OnlyRegs (keys64 cOPL 0 OPL.LC_HIT) { s with opl := u.opl } u) ∧
  (∀ (s : State) (addr unit ca id : Nat) (stream : Bool), s.live = true → inCompRange addr = true → NoWaits s →
    s.winLookup addr = some (ca, true) → s.oplLive = true → s.rdbufGet unit ca = none → s.lcGet (ca / 128) = none →
    s.txnOn (ca / 128) = false → s.lcRoom (ca / 128) = (true, s) → s.rdb cOPL 0 hFREEZE 0 = false → freeId s.opl.txns 2048 = some id →
    ∃ u, exec (.lineCacheAccess addr unit stream none) s = .next u ∧
      u.outbox = s.outbox ++ [.oplis 0x01 id 0 0 0 7 (ca / 128 * 128) false false 0 [] false false] ∧
      u.txnOn (ca / 128) = true ∧ u.opl.lcw = [⟨addr, unit, stream, none⟩] ∧ u.opl.lc = s.opl.lc ∧
      OnlyRegs (keys64 cOPL 0 OPL.LC_MISS ++ msgKeys) { s with opl := u.opl } u) ∧
  (∀ (s : State) (txid st : Nat) (data : Bytes) (plo phi : Bool) (x : DevTxn), s.oplLive = true → NoWaits s →
    s.txn txid = some x → x.dead = false → x.kind = .rdShared → (st = 1 ∨ st = 2) →
    ∃ u, exec (.oplisData txid 0 st 0 false data plo phi) s = .next u ∧ u.txn txid = none ∧
      u.lcGet (x.caddr / 128) = some ⟨x.caddr / 128, st == 2, false, bpad data 128, plo, phi, true⟩ ∧
      (∀ l, l ≠ x.caddr / 128 → u.lcGet l = s.lcGet l) ∧ u.outbox = s.outbox ++ [ackMsg txid 2 st 0 x.caddr] ∧ u.hbm = s.hbm) ∧
  (∀ (s : State) (txid st : Nat) (data : Bytes) (plo phi : Bool) (x : DevTxn), s.oplLive = true → NoWaits s →
    s.txn txid = some x → x.dead = false → x.kind = .rdUncached →
    ∃ u, exec (.oplisData txid 0 st 0 false data plo phi) s = .next u ∧ u.txn txid = none ∧
      u.opl.rdbuf = s.opl.rdbuf ++ [⟨x.unit, x.caddr, bpad data x.size, plo, phi, true⟩] ∧ u.opl.lc = s.opl.lc ∧ u.hbm = s.hbm) ∧
  (∀ (i : Instr) (inv : Bool) (s : State) (addr txid : Nat), (i = .snpInv addr txid ∧ inv = true ∨ i = .snpShare addr txid ∧ inv = false) →
    s.oplLive = true → NoWaits s →
    (∀ k x, (k, some x) ∈ s.opl.txns → x.kind = .evict → x.dead = false → x.caddr / 128 ≠ addr / 128) →
    (s.lcGet (addr / 128) = none → ∃ u, exec i s = .next u ∧ u.outbox = s.outbox ++ [ackMsg txid 1 0 0 addr] ∧
      OnlyRegs (keys64 cOPL 0 OPL.RX_MSG ++ msgKeys) s u) ∧
    (∀ e, s.lcGet (addr / 128) = some e → e.m = true → e.dirty = true → ∃ u, exec i s = .next u ∧
      u.outbox = s.outbox ++ [.oplis 0x30 txid 1 (if inv then 0 else 1) 0 7 addr true false 0 e.data e.plo e.phi] ∧
      u.lcGet (addr / 128) = (if inv then none else some { e with m := false, dirty := false }) ∧
      (∀ l, l ≠ addr / 128 → u.lcGet l = s.lcGet l) ∧ u.hbm = s.hbm))

/-- A Doorbell writes its register; QUIESCE empties cache and filter; lost answers fail their request or resolve their snoop -/
def Obligations.DoorbellsQuiesceAndTimeouts : Prop :=
  (∀ (s : State) (cls inst off txid : Nat) (v : BitVec 32), s.oplLive = true → NoWaits s → cls ∈ plainPages → off ∉ headerActs →
    OwnerReady s 0 cls inst off → (regRow cls off).isSome = true →
    ∃ u, exec (.doorbell (regAddr cls inst off) txid v) s = .next u ∧ u.rd cls inst off = written cls off (s.rd cls inst off) v ∧
      u.outbox = s.outbox ++ [ackMsg txid 0 0 0 (regAddr cls inst off)] ∧
      OnlyRegs (rk cls inst off :: (keys64 cOPL 0 OPL.RX_MSG ++ msgKeys)) s u) ∧
  (∀ (s : State) (m : Nat), OwnerReady s m cOPL 0 hCTRL → s.on 81 = true →
    ∃ u, exec (.quiesce m) s = .next u ∧ u.opl.quiescing = true ∧ Acks u m cOPL 0 hCTRL 0 ∧ u.hbm = s.hbm ∧
      (∀ e ∈ s.opl.sf, s.lineActive e.1 = true ∨ (∃ k x, mget none u.opl.snps k = some x ∧ x.line = e.1 ∧ x.dead = false) ∨
        freeId u.opl.snps 256 = none) ∧
      (s.opl.sf = [] → s.opl.lc = [] → OnlyRegs [] { answering s m with opl := { s.opl with quiescing := true } } u)) ∧
  (∀ (s : State), s.on 81 = true → s.opl.quiescing = true → s.oplEmpty = true → s.opl.waits = [] → s.opl.lcw = [] →
    ∃ u, exec .quiesceDone s = .next u ∧ u.opl = { s.opl with quiescing := false, quiesced := true } ∧ Raises s u cOPL 0 64 ∧
      OnlyRegsN [rk cOPL 0 hIRQ_STAT] { s with opl := u.opl } u) ∧
  (∀ (s : State) (txid : Nat) (x : DevTxn), s.on 81 = true → NoWaits s → s.txn txid = some x → x.dead = false → x.due ≤ s.clk.time →
    ∃ u, exec (.txnTmoExpire txid) s = .next u ∧ u.txn txid = some { x with dead := true } ∧ Counts s u cOPL 0 OPL.TXN_TMO_CNT 1 ∧
      Raises s u cOPL 0 32 ∧ (∀ j, j ≠ txid → u.txn j = s.txn j) ∧
      (x.kind = .rdShared ∨ x.kind = .rdOwn ∨ x.kind = .rdUncached →
        u.opl.rdbuf = s.opl.rdbuf ++ [⟨x.unit, x.caddr, [], false, false, false⟩] ∧ u.opl.fails = s.opl.fails) ∧
      (x.kind = .wrFull ∨ x.kind = .wrPartial → u.opl.fails = s.opl.fails ++ [x.unit] ∧ u.opl.rdbuf = s.opl.rdbuf) ∧ u.hbm = s.hbm) ∧
  (∀ (s : State) (txid : Nat) (x : DevSnp), s.on 81 = true → NoWaits s → mget none s.opl.snps txid = some x → x.dead = false →
    x.due ≤ s.clk.time → x.line * 128 < hbmSize → s.pathOff rqOpl (stackOf (x.line * 128) / 4) = none →
    s.stackOk (stackOf (x.line * 128)) = true → InjOff s (stackOf (x.line * 128)) →
    ∃ u, exec (.snpTmoExpire txid) s = .next u ∧ mget none u.opl.snps txid = some { x with dead := true } ∧
      Counts s u cOPL 0 OPL.SNP_TMO_CNT 1 ∧ Raises s u cOPL 0 16 ∧ (∀ l, u.sfGet l = if l = x.line then none else s.sfGet l) ∧
      (∀ b, hbmByte u b = hbmByte s b) ∧
      (s.sfGet x.line = some true → u.chkOf (x.line * 128) = poisonRem ∧ u.chkOf (x.line * 128 + 64) = poisonRem) ∧
      (s.sfGet x.line ≠ some true → u.hbm = s.hbm)) ∧
  (∀ (s : State), s.oplUp = true → NoWaits s → (∀ n, n < 8 → InjOff s n) →
    ∃ u, exec .oplisLinkDown s = .next u ∧ u.oplUp = false ∧ u.opl.sf = [] ∧ u.opl.lc = [] ∧ u.opl.snps = [] ∧ u.opl.busy = [] ∧
      (∀ id y, u.txn id = some y → y.dead = true) ∧ u.rdb cOPL 0 hIRQ_STAT 1 = true ∧ (∀ b, hbmByte u b = hbmByte s b) ∧
      u.ts = s.ts ∧ u.ctxs = s.ctxs ∧ u.own = s.own)

/-- A sector read returns the last write and the poison it carried; a write stores the enabled bytes and no others -/
def Obligations.HbmServesSectors : Prop :=
  (∀ (s : State) (a req : Nat), SectorReady s a req → s.sfGet (a / 128) ≠ some true → Sound s a →
    ∃ u, exec (.hbmRead a req {} {}) s = .next u ∧ u.outbox = s.outbox ++ [.hbmData a req 0 (hbmBytes s a 64) false] ∧
      OnlyRegs (memKeys (stackOf a)) s u) ∧
  (∀ (s : State) (a req : Nat), SectorReady s a req → s.sfGet (a / 128) ≠ some true → s.chkOf a = poisonRem →
    ∃ u, exec (.hbmRead a req {} {}) s = .next u ∧ u.outbox = s.outbox ++ [.hbmData a req 0 (hbmBytes s a 64) true] ∧
      Counts s u cHBM (stackOf a) HBM.POISON_RD_CNT 1 ∧
      OnlyRegs (rk cHBM (stackOf a) HBM.POISON_RD_CNT :: memKeys (stackOf a)) s u) ∧
  (∀ (s : State) (a req : Nat) (mask : BitVec 64) (data : Bytes) (pois : Bool), SectorReady s a req → s.sfGet (a / 128) = none →
    s.firnHeld (a / 65536) = false → InjOff s (stackOf a) → (mask = BitVec.allOnes 64 ∨ Sound s a) →
    ∃ u, exec (.hbmWrite a req mask data pois {} {}) s = .next u ∧
      (∀ b, hbmByte u b = if a ≤ b ∧ b < a + 64 ∧ mask.getLsbD (b - a) = true then data.getD (b - a) 0 else hbmByte s b) ∧
      u.chkOf a = chkFor pois ∧ (∀ b, b / 64 ≠ a / 64 → u.chkOf b = s.chkOf b) ∧ u.outbox = s.outbox ++ [.hbmAck a req 0] ∧
      u.opl = s.opl ∧ u.ts = s.ts ∧ u.ctxs = s.ctxs ∧ u.err = s.err ∧ RegsBut [cHBM, cARB, cFIRN] s u) ∧
  (∀ (s : State) (a req : Nat) (mask : BitVec 64) (data : Bytes) (pois : Bool), s.live = true → (hbmSize ≤ a ∨ a % 64 ≠ 0) →
    exec (.hbmRead a req {} {}) s = .next (s.send (.hbmData a req 1 [] false)) ∧
    exec (.hbmWrite a req mask data pois {} {}) s = .next (s.send (.hbmAck a req 1)))

/-- INIT zeroes one stack, the patrol scrub steps through it, and a check-value scan reports the CRC of its bytes -/
def Obligations.StacksInitialiseScrubAndScan : Prop :=
  (∀ (s : State) (m n : Nat), OwnerReady s m cHBM n hCTRL → s.bringupOver = true → s.pageOn cHBM n = true → s.firnEn = false →
    s.rdb cHBM n hSTAT 4 = false →
    ∃ u, exec (.init m n) s = .next u ∧ u.rdb cHBM n hSTAT 4 = true ∧ u.rdb cHBM n hSTAT 3 = false ∧ u.rd cHBM n HBM.INIT_POS = 0 ∧
      Acks u m cHBM n hCTRL 0 ∧
      OnlyRegs [rk cHBM n hSTAT, rk cHBM n HBM.INIT_POS] { answering s m with hbm := { s.hbm with initAt := u.hbm.initAt } } u) ∧
  (∀ (s : State) (n : Nat), n < 8 → s.on (64 + n) = true → s.rdb cHBM n hSTAT 4 = true →
    ∃ u, exec (.initDone n) s = .next u ∧ (∀ a, hbmByte u a = if stackOf a = n then 0 else hbmByte s a) ∧
      (∀ a, u.chkOf a = if stackOf a = n then (0, 0, 0, 0) else s.chkOf a) ∧ u.rdb cHBM n hSTAT 3 = true ∧ u.rdb cHBM n hSTAT 4 = false ∧
      Raises s u cHBM n 32 ∧ OnlyRegsN [rk cHBM n hSTAT, rk cHBM n HBM.INIT_POS, rk cHBM n hIRQ_STAT] { s with hbm := u.hbm } u) ∧
  (∀ (s : State) (m n : Nat) (en : Bool), OwnerReady s m cHBM n hCTRL →
    ∃ u, exec (.scrubEnWrite m n en) s = .next u ∧ u.rdb cHBM n hCTRL 2 = en ∧
      mget 0 u.hbm.scrubDue n = (if en && !s.rdb cHBM n hCTRL 2 then s.clk.time + s.scrubStep n else mget 0 s.hbm.scrubDue n) ∧
      u.hbm.mem = s.hbm.mem ∧ Acks u m cHBM n hCTRL 0 ∧ OnlyRegs [rk cHBM n hCTRL] { answering s m with hbm := u.hbm } u) ∧
  (∀ (s : State) (n k : Nat), s.scrubOn n = true → mget 0 s.hbm.scrubDue n ≤ s.clk.time →
    (∀ pc, pc < 64 → Sound s (sectorAddr n pc (s.rdf cHBM n HBM.SCRUB_POS 0 24))) →
    ∃ u, exec (.scrubStepExpire n [] k) s = .next u ∧ Counts s u cHBM n HBM.ODECC_CNT k ∧
      u.rd cHBM n HBM.SCRUB_POS = u32 ((s.rdf cHBM n HBM.SCRUB_POS 0 24 + 1) % 0x1000000) ∧
      mget 0 u.hbm.scrubDue n = s.clk.time + s.scrubStep n ∧ u.hbm.mem = s.hbm.mem ∧ u.hbm.chk = s.hbm.chk ∧
      (s.rdf cHBM n HBM.SCRUB_POS 0 24 = 0xFFFFFF → u.rd cHBM n HBM.SCRUB_PASS = s.rd cHBM n HBM.SCRUB_PASS + 1 ∧ Raises s u cHBM n 1) ∧
      (s.rdf cHBM n HBM.SCRUB_POS 0 24 ≠ 0xFFFFFF → u.rd cHBM n HBM.SCRUB_PASS = s.rd cHBM n HBM.SCRUB_PASS) ∧
      RegsBut [cHBM, cARB] s u) ∧
  (∀ (s : State) (m n : Nat), OwnerReady s m cCVU n hCTRL → s.pageOn cCVU n = true →
    ((s.scanOf n = none ∧ s.calvUse n = false ∧ s.cvuBad n = false →
      ∃ u, exec (.cvuGo m n) s = .next u ∧ u.scanOf n = some ⟨s.rd64 cCVU n CVU.SCAN_ADDR, s.rd64 cCVU n CVU.SCAN_LEN, s.clk.time⟩ ∧
        u.rd cCVU n CVU.RESULT_STAT = 0 ∧ u.rd64 cCVU n CVU.BYTES = 0 ∧ (∀ j, j ≠ n → u.scanOf j = s.scanOf j) ∧ Acks u m cCVU n hCTRL 0) ∧
     (s.scanOf n ≠ none ∨ s.calvUse n = true ∨ s.cvuBad n = true →
      ∃ u, exec (.cvuGo m n) s = .next u ∧ Counts s u cCVU n CVU.DESC_ERR_CNT 1 ∧ Raises s u cCVU n 4 ∧ u.hbm = s.hbm ∧
        OnlyRegsN [rk cCVU n CVU.DESC_ERR_CNT, rk cCVU n hIRQ_STAT] (answering s m) u) ∧
     (∀ x, s.scanOf n = some x →
      ∃ u, exec (.cvuAbort m n) s = .next u ∧ u.scanOf n = none ∧ u.rd cCVU n CVU.RESULT_STAT = 0x20000000 ∧
        u.rd64 cCVU n CVU.BYTES ≤ x.len ∧ Raises s u cCVU n 1 ∧ u.hbm.mem = s.hbm.mem ∧ Acks u m cCVU n hCTRL 0))) ∧
  (∀ (s : State) (n : Nat) (x : ScanSt), s.scanOf n = some x → s.on (90 + n / 2) = true → x.addr + x.len ≤ hbmSize →
    (∀ a, x.addr ≤ a → a < x.addr + x.len → Sound s a) →
    (∀ j, j < 8 → s.stackOk j = true ∧ s.hbmFrozen j = false) → (∀ f, s.pathOff (rqScan n) f = none) → s.opl.sf = [] → s.opl.busy = [] → s.opl.waits = [] →
    ∃ u, exec (.cvuScanDone n) s = .next u ∧ u.scanOf n = none ∧
      u.rd64 cCVU n CVU.RESULT = s.cvuCrc n (hbmBytes s x.addr x.len) % 2 ^ 64 ∧
      u.rd cCVU n CVU.RESULT_STAT = 0x80000000 ∧ Counts s u cCVU n CVU.SCAN_CNT 1 ∧ Raises s u cCVU n 1 ∧ u.hbm.mem = s.hbm.mem)

/-- An element-wise instruction writes the result of every active element to VD, with its poison, and nothing else of the vectors -/
def Obligations.ElementWiseInstructions : Prop :=
  ∀ (i : Instr) (e : ElFn) (s : State) (c : Nat), elFn i = some e → Issues s e.t c i → (s.ctx c).vlen ≤ 2048 → e.bad = none →
    ∃ u, exec i s = .next u ∧
      ElemsWritten s u e.t e.f.vd.toNat (e.f.active (s.vecOf e.t) (s.ctx c).vlen) (fun k => (e.g s c k).1) (e.p s) ∧
      Retired s u c e.f (s.ctx c) (joinFlags (e.f.actives (s.vecOf e.t) (s.ctx c).vlen) (fun k => (e.g s c k).2) |||
        flagIf ((e.f.actives (s.vecOf e.t) (s.ctx c).vlen).any (e.p s)) vfPoison) ∧
      Counts s u cVEC e.t VEC.SAT_CNT
        ((e.f.actives (s.vecOf e.t) (s.ctx c).vlen).filter fun k => (e.g s c k).2.getLsbD 0).length ∧ u.ts = s.ts

/-- Integer elements: exact then clamped with SAT, the upper half of the product, shifts by counts up to and beyond the width -/
def Obligations.IntegerElementsAreExactThenClamped : Prop :=
  ∀ (ty : Nat) (r : Rnd) (a b c : BitVec 32), ty ∈ tyInts →
    (∀ (e : El) (z : Int), (e, z) ∈ [(elAdd ty r a b c, tyInt ty a + tyInt ty b), (elSub ty r a b c, tyInt ty a - tyInt ty b),
        (elMul ty r a b c, tyInt ty a * tyInt ty b), (elAbs ty r a b c, ((tyInt ty a).natAbs : Int)), (elNeg ty r a b c, -tyInt ty a)] →
      tyInt ty e.1 = max (tyLo ty) (min (tyHi ty) z) ∧ (e.2 = if tyLo ty ≤ z ∧ z ≤ tyHi ty then 0 else vfSat)) ∧
    (tyInt ty (elMulh ty r a b c).1 = tyInt ty a * tyInt ty b / 2 ^ tyWidth ty ∧ (elMulh ty r a b c).2 = 0) ∧
    tyInt ty (elMin ty r a b c).1 = min (tyInt ty a) (tyInt ty b) ∧ tyInt ty (elMax ty r a b c).1 = max (tyInt ty a) (tyInt ty b) ∧
    (tyWidth ty ≤ b.toNat → (elSll ty r a b c).1 = 0 ∧ (elSrl ty r a b c).1 = 0 ∧
      tyInt ty (elSra ty r a b c).1 = (if tyInt ty a < 0 then -1 else 0) ∧ (elSrar ty r a b c).1 = 0) ∧
    (b.toNat < tyWidth ty → tyInt ty (elSra ty r a b c).1 = tyInt ty a / 2 ^ b.toNat ∧
      tyBits ty (elSll ty r a b c).1 = tyBits ty a * 2 ^ b.toNat % 2 ^ tyWidth ty ∧
      tyBits ty (elSrl ty r a b c).1 = tyBits ty a / 2 ^ b.toNat) ∧
    (0 < b.toNat → b.toNat < tyWidth ty → tyInt ty (elSrar ty r a b c).1 = (tyInt ty a + 2 ^ (b.toNat - 1)) / 2 ^ b.toNat)

/-- Compares, mask logic and RANDB write the active bits of the destination mask alone; MPOP counts into a scalar -/
def Obligations.MaskWritersAndPopulation : Prop :=
  (∀ (i : Instr) (e : MaskFn) (s : State) (c : Nat), maskFn i = some e → Issues s e.t c i → (s.ctx c).vlen ≤ 2048 → e.bad = none →
    ∃ u, exec i s = .next u ∧
      (∀ q k, q < 8 → k < 2048 → (u.vecOf e.t).bit q k =
        if q = mNum e.f.vd ∧ e.f.active (s.vecOf e.t) (s.ctx c).vlen k = true then (e.g s c k).1 && !e.p s k else (s.vecOf e.t).bit q k) ∧
      (u.vecOf e.t).v = (s.vecOf e.t).v ∧ (u.vecOf e.t).p = (s.vecOf e.t).p ∧ (∀ j, j ≠ e.t → u.vecOf j = s.vecOf j) ∧
      Retired s u c e.f (s.ctx c) (joinFlags (e.f.actives (s.vecOf e.t) (s.ctx c).vlen) (fun k => (e.g s c k).2) |||
        flagIf ((e.f.actives (s.vecOf e.t) (s.ctx c).vlen).any (e.p s)) vfPoison) ∧ u.ts = s.ts) ∧
  (∀ (s : State) (t c : Nat) (f : VecFields), Issues s t c (.vMpop t f) → wordFault { op := 0x8C, vd := .s, vs1 := .m, types := tyNone } f 32 = none →
    ∃ u, exec (.vMpop t f) s = .next u ∧ u.vec = s.vec ∧ u.ts = s.ts ∧
      Retired s u c f ((s.ctx c).setS (sNum f.vd)
        (u64 ((f.actives (s.vecOf t) (s.ctx c).vlen).filter fun k => (s.vecOf t).bit (mNum f.vs1) k).length)) 0)

/-- A reduction writes its result to element 0 of VD, and to element 1 for an index, over the active elements alone -/
def Obligations.ReductionsWriteTheirElements : Prop :=
  (∀ (i : Instr) (t : Nat) (f : VecFields) (o : OpSpec) (op : RedOp) (s : State) (c : Nat),
    i ∈ [.vRsum t f, .vRprod t f, .vRmax t f, .vRmin t f, .vRmean t f, .vRargmax t f, .vRargmin t f] → redFn i = some (t, f, o, op) → Issues s t c i →
    (s.ctx c).vlen ≤ 2048 → wordFault o f 32 = none →
    ∃ u, exec i s = .next u ∧ ∃ r,
      r = op f.type.toNat (s.ctx c).vlen (fun k => if f.active (s.vecOf t) (s.ctx c).vlen k = true then some ((s.vecOf t).elem f.vs1.toNat k) else none)
        (f.actives (s.vecOf t) (s.ctx c).vlen).length ∧
      ElemsWritten s u t f.vd.toNat (fun k => k == 0 || (k == 1 && r.e1.isSome)) (fun k => if k = 0 then r.e0 else r.e1.getD 0)
        (fun _ => (f.actives (s.vecOf t) (s.ctx c).vlen).any fun k => (s.vecOf t).pois f.vs1.toNat k) ∧
      Retired s u c f (s.ctx c) (r.flags ||| flagIf ((f.actives (s.vecOf t) (s.ctx c).vlen).any fun k => (s.vecOf t).pois f.vs1.toNat k) vfPoison) ∧
      u.ts = s.ts) ∧
  (∀ (ty n : Nat), (redSum ty n (fun _ => none) 0).e0 = 0 ∧ (redSum ty n (fun _ => none) 0).flags = vfEmpty ∧
    (tyFloat ty = false → (redProd ty n (fun _ => none) 0).e0 = 1) ∧
    (redMinMax true 8 n (fun _ => none) 0).e0 = 0xFF800000 ∧ (redMinMax false 8 n (fun _ => none) 0).e0 = 0x7F800000 ∧
    (redArg true ty n (fun _ => none) 0).e0 = 0xFFFFFFFF ∧ (redArg true ty n (fun _ => none) 0).flags = vfEmpty) ∧
  (∀ (ty : Nat) (a b : BitVec 32), ty ∈ [0, 1, 2] →
    tyInt ty (redSum ty 2 (fun k => some (if k = 0 then a else b)) 2).e0 = max (tyLo ty) (min (tyHi ty) (tyInt ty a + tyInt ty b)) ∧
    (redArg true ty 2 (fun k => some (if k = 0 then a else b)) 2).e0 = (if tyInt ty a < tyInt ty b then 1 else 0))

/-- SETVL, SETRS, GETRS, VGETF, VCLRF and VFENCE move the context's own registers and no vector element -/
def Obligations.VectorControlInstructions : Prop :=
  ∀ (s : State) (t c : Nat) (f : VecFields),
    (Issues s t c (.vSetvl t f) → wordFault (specCtl 0x01 .s .s .none .none) f 32 = none → ∃ u, exec (.vSetvl t f) s = .next u ∧ u.vec = s.vec ∧ u.ts = s.ts ∧
      Retired s u c f ({ s.ctx c with vlen := min ((s.ctx c).sreg (sNum f.vs1)).toNat 2048 }.setS (sNum f.vd)
        (u64 (min ((s.ctx c).sreg (sNum f.vs1)).toNat 2048))) 0) ∧
    (Issues s t c (.vSetrs t f) → wordFault (specCtl 0x02 .none .s .s .s) f 32 = none → ∃ u, exec (.vSetrs t f) s = .next u ∧ u.vec = s.vec ∧ u.ts = s.ts ∧
      Retired s u c f ((s.ctx c).setRs f.rs.toNat { stream := u32 ((s.ctx c).sreg (sNum f.vs1)).toNat, base := (s.ctx c).sreg (sNum f.vs2)
                                                    draw := u32 ((s.ctx c).sreg (sNum f.vs3)).toNat }) 0) ∧
    (Issues s t c (.vGetrs t f) → wordFault (specCtl 0x03 .s .none .none .none) f 32 = none → ∃ u, exec (.vGetrs t f) s = .next u ∧ u.vec = s.vec ∧ u.ts = s.ts ∧
      Retired s u c f ((s.ctx c).setS (sNum f.vd) ((s.ctx c).rs f.rs.toNat).base) 0) ∧
    (Issues s t c (.vGetf t f) → wordFault (specCtl 0x04 .s .none .none .none) f 32 = none → ∃ u, exec (.vGetf t f) s = .next u ∧ u.vec = s.vec ∧ u.ts = s.ts ∧
      Retired s u c f ((s.ctx c).setS (sNum f.vd) ((s.ctx c).vflags.setWidth 64)) 0) ∧
    (Issues s t c (.vClrf t f) → wordFault { specCtl 0x05 .none .none .none .none with imm := 6 } f 32 = none → ∃ u, exec (.vClrf t f) s = .next u ∧ u.vec = s.vec ∧
      u.ts = s.ts ∧ Retired s u c f { s.ctx c with vflags := (s.ctx c).vflags &&& ~~~ BitVec.ofNat 6 f.imm.toNat } 0) ∧
    (Issues s t c (.vFence t f) → wordFault { specCtl 0x06 .none .none .none .none with rs := false } f 32 = none → s.drainsOf t c = false →
      ∃ u, exec (.vFence t f) s = .next u ∧ u.vec = s.vec ∧ u.ts = s.ts ∧ Retired s u c f (s.ctx c) 0)

/-- Loads widen the stored bits of active elements; stores write the narrowed bits of active elements and no other nibble -/
def Obligations.VectorLoadsAndStores : Prop :=
  (∀ (i : Instr) (t : Nat) (f : VecFields) (md : MemKind) (s : State) (c : Nat), memFn i = some (t, f, md, false, none) → Issues s t c i → (∀ e ∈ s.prn, e.2.cur = none) →
    (s.ctx c).vlen ≤ 2048 → memFault md f (s.ctx c) (s.vecOf t) f.vs3.toNat (f.actives (s.vecOf t) (s.ctx c).vlen) = none →
    s.tsFrozen t = false → StoreSound s t →
    ∃ u, exec i s = .next u ∧
      ElemsWritten s u t f.vd.toNat (f.active (s.vecOf t) (s.ctx c).vlen)
        (fun k => loadEl f.type.toNat f.vs3.toNat (tsWordAt s (elemNib md t f (s.ctx c) (s.vecOf t) k) /
          16 ^ (elemNib md t f (s.ctx c) (s.vecOf t) k % 16) % 2 ^ mfBits f.vs3.toNat))
        (fun k => mget false s.ts.pois (elemNib md t f (s.ctx c) (s.vecOf t) k / 16)) ∧
      Retired s u c f (s.ctx c) (flagIf ((f.actives (s.vecOf t) (s.ctx c).vlen).any fun k =>
        mget false s.ts.pois (elemNib md t f (s.ctx c) (s.vecOf t) k / 16)) vfPoison) ∧ u.ts = s.ts) ∧
  (∀ (i : Instr) (t : Nat) (f : VecFields) (md : MemKind) (s : State) (c : Nat), memFn i = some (t, f, md, true, none) → Issues s t c i →
    (s.ctx c).vlen ≤ 2048 → memFault md f (s.ctx c) (s.vecOf t) f.vs3.toNat (f.actives (s.vecOf t) (s.ctx c).vlen) = none →
    s.tsFrozen t = false → StoreSound s t →
    ∃ u fl, exec i s = .next u ∧ u.vec = s.vec ∧ Retired s u c f (s.ctx c) fl ∧
      (∀ n, tsNib u n =
        match (f.actives (s.vecOf t) (s.ctx c).vlen).reverse.find? (fun k => elemNib md t f (s.ctx c) (s.vecOf t) k ≤ n &&
          n < elemNib md t f (s.ctx c) (s.vecOf t) k + mfNibs f.vs3.toNat) with
        | some k => (storeEl f.type.toNat f.vs3.toNat (f.rnd s t (s.ctx c) k) ((s.vecOf t).elem f.vd.toNat k)).1 /
            16 ^ (n - elemNib md t f (s.ctx c) (s.vecOf t) k) % 16
        | none => tsNib s n))

/-- Scalar operations write s[VD] alone; SLD and SST move 8 bytes between a scalar and the tile's own store -/
def Obligations.ScalarInstructionsAndTileStore : Prop :=
  (∀ (i : Instr) (t : Nat) (f : VecFields) (g : BitVec 64 → BitVec 64 → BitVec 64) (s : State) (c : Nat), scalarFn i = some (t, f, g) →
    Issues s t c i →
    ∃ u, exec i s = .next u ∧ u.ts = s.ts ∧
      Advanced s u c { (s.ctx c).setS (sNum f.vd) (g ((s.ctx c).sreg (sNum f.vs1))
        (if f.scal = 1 then (s.ctx c).sreg (sNum f.vs2) else f.imm.signExtend 64)) with pc := (s.ctx c).pc + 8 }) ∧
  (∀ (s : State) (t c o : Nat) (f : VecFields), o = ((s.ctx c).sreg (sNum f.vs1)).toNat + f.imm.toNat → o % 8 = 0 →
    o + 8 ≤ tsSize → t < 128 → s.tsFrozen t = false → StoreSound s t →
    (Issues s t c (.sld t f) → mget false s.ts.pois (tsAddr t o / 8) = false →
      ∃ u, exec (.sld t f) s = .next u ∧ u.ts = s.ts ∧
        (∀ k, k < 8 → ((u.ctx c).sreg (sNum f.vd)).extractLsb' (8 * k) 8 = tsByte s t (o + k)) ∧
        (∀ n, n ≠ sNum f.vd → (u.ctx c).sreg n = (s.ctx c).sreg n) ∧ (u.ctx c).pc = (s.ctx c).pc + 8 ∧ u.vec = s.vec ∧ u.hbm = s.hbm ∧
        (∀ d, d ≠ c → u.ctx d = s.ctx d)) ∧
    (Issues s t c (.sst t f) → ∃ u, exec (.sst t f) s = .next u ∧
      (∀ b, mget (0 : BitVec 8) u.ts.mem b = if tsAddr t o ≤ b ∧ b < tsAddr t o + 8 then
        ((s.ctx c).sreg (sNum f.vd)).extractLsb' (8 * (b - tsAddr t o)) 8 else mget 0 s.ts.mem b) ∧
      mget false u.ts.pois (tsAddr t o / 8) = false ∧ Advanced s u c { s.ctx c with pc := (s.ctx c).pc + 8 }))

/-- Branches set PC; SETLAYER, YIELD, END and SPAWN change the state of contexts as their rules say -/
def Obligations.BranchesAndContextControl : Prop :=
  (∀ (s : State) (t c : Nat) (f : VecFields),
    (Issues s t c (.brz t f) → ∃ u, exec (.brz t f) s = .next u ∧ u.ts = s.ts ∧ Advanced s u c
      { s.ctx c with pc := if (s.ctx c).sreg (sNum f.vs1) = 0 then (BitVec.ofNat 64 (s.ctx c).pc + 8 * f.imm.signExtend 64).toNat else (s.ctx c).pc + 8 }) ∧
    (Issues s t c (.brnz t f) → ∃ u, exec (.brnz t f) s = .next u ∧ u.ts = s.ts ∧ Advanced s u c
      { s.ctx c with pc := if (s.ctx c).sreg (sNum f.vs1) ≠ 0 then (BitVec.ofNat 64 (s.ctx c).pc + 8 * f.imm.signExtend 64).toNat else (s.ctx c).pc + 8 }) ∧
    (Issues s t c (.setlayer t f) → ∃ u, exec (.setlayer t f) s = .next u ∧ u.ts = s.ts ∧
      Advanced s u c { s.ctx c with layer := f.imm.toNat % 256, pc := (s.ctx c).pc + 8 }) ∧
    (Issues s t c (.yield t f) → s.holds c = false → s.walkOf c = none → ∃ u, exec (.yield t f) s = .next u ∧ u.ts = s.ts ∧
      Advanced s u c { s.ctx c with state := .saving, want := .save, pc := (s.ctx c).pc + 8 })) ∧
  (∀ (s : State) (t c : Nat) (f : VecFields), Issues s t c (.ctxEnd t f) → s.holds c = false → MemUp s (rqTile (ctxFloe c)) →
    Clear s (s.recAddr c) 256 true →
    ∃ u, exec (.ctxEnd t f) s = .next u ∧ (u.ctx c).state = .done ∧ (u.ctx c).exit = f.imm.toNat % 65536 ∧ (u.ctx c).pc = (s.ctx c).pc + 8 ∧
      (u.ctx c).tile = none ∧ (u.ctx c).dma0.active = false ∧ (u.ctx c).dma1.active = false ∧ (u.ctx c).s = (s.ctx c).s ∧
      Stored s u (s.recAddr c) (u.ctx c).bytes ∧ u.vecOf t = {} ∧ (∀ j, j ≠ t → u.vecOf j = s.vecOf j) ∧
      (∀ d, d ≠ c → u.ctx d = s.ctx d) ∧ u.ts = s.ts ∧ u.tiles = (s.vecBusy t false).tiles ∧ RegsBut [cHBM, cARB, cCTX, cDSP, cFIRN] s u) ∧
  (∀ (s : State) (t c d : Nat) (f : VecFields), Issues s t c (.spawn t f) →
    d = ctxFloe c * 32768 + ((s.ctx c).sreg (sNum f.vs1)).toNat % 32768 → MemUp s (rqTile (ctxFloe c)) → Readable s (s.recAddr d) 256 →
    (((s.ctx d).state ≠ .ready ∧ (s.ctx d).state ≠ .running ∧ (s.ctx d).state ≠ .saving ∧
        (ctxOfBytes (hbmBytes s (s.recAddr d) 256)).usable = true) →
      ∃ u, exec (.spawn t f) s = .next u ∧ u.ctx d = { ctxOfBytes (hbmBytes s (s.recAddr d) 256) with state := .ready } ∧
        u.ctx c = { s.ctx c with pc := (s.ctx c).pc + 8 } ∧ (∀ e, e ≠ c → e ≠ d → u.ctx e = s.ctx e) ∧ u.hbm = s.hbm ∧ u.vec = s.vec) ∧
    (((s.ctx d).state = .ready ∨ (s.ctx d).state = .running ∨ (s.ctx d).state = .saving) →
      ∃ u, exec (.spawn t f) s = .next u ∧ u.ctx c = { s.ctx c with pc := (s.ctx c).pc + 8 } ∧ (∀ e, e ≠ c → u.ctx e = s.ctx e) ∧
        Counts s u cCTX (ctxFloe c) CTX.REFUSE_CNT 1 ∧ Raises s u cCTX (ctxFloe c) 4 ∧ u.hbm = s.hbm ∧ u.vec = s.vec))

/-- DMAIN and DMAOUT start a cursor, DMA_DONE moves exactly its bytes, DMAWAIT and WAITW go on when they may and wait otherwise -/
def Obligations.DmaAndWaits : Prop :=
  (∀ (i : Instr) (out : Bool) (s : State) (t c h o l : Nat) (f : VecFields), (i = .dmain t f ∧ out = false ∨ i = .dmaout t f ∧ out = true) →
    Issues s t c i → h = ((s.ctx c).sreg (sNum f.vs1)).toNat → o = ((s.ctx c).sreg (sNum f.vs2)).toNat → l = ((s.ctx c).sreg (sNum f.vs3)).toNat →
    ((s.ctx c).dma (f.imm.toNat % 2)).active = false → h % 64 = 0 → o % 64 = 0 → l % 64 = 0 → o + l ≤ tsSize → h < 2 ^ 48 →
    ∃ u, exec i s = .next u ∧ u.ts = s.ts ∧ Advanced s u c
      { (s.ctx c).setDma (f.imm.toNat % 2) { active := decide (l ≠ 0), out := out, haddr := h, toff := o, left := l } with pc := (s.ctx c).pc + 8 }) ∧
  (∀ (s : State) (t c : Nat) (f : VecFields), Issues s t c (.dmawait t f) →
    (((f.imm.getLsbD 1 = true ∨ f.imm.getLsbD 0 = false → (s.ctx c).dma0.active = false) ∧
      (f.imm.getLsbD 1 = true ∨ f.imm.getLsbD 0 = true → (s.ctx c).dma1.active = false)) →
      ∃ u, exec (.dmawait t f) s = .next u ∧ u.ts = s.ts ∧ Advanced s u c { s.ctx c with pc := (s.ctx c).pc + 8 }) ∧
    ((s.ctx c).dma0.active = true → f.imm.getLsbD 0 = false → exec (.dmawait t f) s = .next (s.vecBusy t false))) ∧
  (∀ (s : State) (t c cur : Nat) (d : DmaCur), s.runner t = some c → s.arrOn t = true → cur < 2 → (s.ctx c).dma cur = d →
    d.active = true → s.tsFrozen t = false → StoreSound s t → (∀ w, mget false s.ts.pois w = false) → MemUp s (rqTile (floeOf t)) →
    d.haddr % 64 = 0 → d.left % 64 = 0 → d.toff % 64 = 0 → d.toff + d.left ≤ tsSize → Clear s d.haddr d.left d.out →
    (d.out = false → SoundRun s d.haddr d.left) → Clear s (s.recAddr c) 256 true →
    ∃ u, exec (.dmaDone t cur) s = .next u ∧
      u.ctx c = (s.ctx c).setDma cur { d with active := false, haddr := d.haddr + d.left, toff := d.toff + d.left, left := 0 } ∧
      (∀ e, e ≠ c → u.ctx e = s.ctx e) ∧
      (d.out = true → Stored s u d.haddr (tsBytes s t d.toff d.left) ∧ u.ts.mem = s.ts.mem) ∧
      (d.out = false → u.hbm = s.hbm ∧ ∀ b, mget (0 : BitVec 8) u.ts.mem b =
        if tsAddr t d.toff ≤ b ∧ b < tsAddr t d.toff + d.left then hbmByte s (d.haddr + (b - tsAddr t d.toff)) else mget 0 s.ts.mem b)) ∧
  (∀ (s : State) (t c a v w : Nat) (f : VecFields), Issues s t c (.waitw t f) → a = ((s.ctx c).sreg (sNum f.vs1)).toNat →
    v = ((s.ctx c).sreg (sNum f.vs2)).toNat % 4294967296 → a % 4 = 0 → MemUp s (rqTile (floeOf t)) → Readable s a 4 →
    w = leNat (hbmBytes s a 4) →
    (0 ≤ (BitVec.ofNat 32 w - BitVec.ofNat 32 v).toInt →
      ∃ u, exec (.waitw t f) s = .next u ∧ u.ts = s.ts ∧ Advanced s u c { s.ctx c with pc := (s.ctx c).pc + 8 }) ∧
    ((BitVec.ofNat 32 w - BitVec.ofNat 32 v).toInt < 0 →
      ∃ u, exec (.waitw t f) s = .next u ∧ u.ts = s.ts ∧ Advanced s u c { s.ctx c with waitw := some (a, v) })) ∧
  (∀ (s : State) (t c a v : Nat) (f : VecFields), Issues s t c (.waitw t f) → a = ((s.ctx c).sreg (sNum f.vs1)).toNat →
    v = ((s.ctx c).sreg (sNum f.vs2)).toNat % 4294967296 → a % 4 = 0 → accessOk a 4 = true →
    ∃ u s1, exec (.waitw t f) s = .next u ∧ OnlyRegs (memKeys (stackOf (s.ctx c).pc)) s s1 ∧
      Advanced s u c (if 0 ≤ (s1.peek 0 (regOf a).1 (regOf a).2.1 (regOf a).2.2 - BitVec.ofNat 32 v).toInt
        then { s.ctx c with pc := (s.ctx c).pc + 8 } else { s.ctx c with waitw := some (a, v) })) ∧
  (∀ (s : State) (t c a v : Nat), s.arrOn t = true → s.runner t = some c → (s.ctx c).want = .none → (s.ctx c).waitw = some (a, v) →
    a % 4 = 0 → MemUp s (rqTile (floeOf t)) → Readable s a 4 →
    (0 ≤ (BitVec.ofNat 32 (leNat (hbmBytes s a 4)) - BitVec.ofNat 32 v).toInt →
      ∃ u, exec (.waitwReread t) s = .next u ∧ u.ts = s.ts ∧ Advanced s u c { s.ctx c with waitw := none, pc := (s.ctx c).pc + 8 }) ∧
    ((BitVec.ofNat 32 (leNat (hbmBytes s a 4)) - BitVec.ofNat 32 v).toInt < 0 →
      ∃ u, exec (.waitwReread t) s = .next u ∧ OnlyRegs (memKeys (stackOf a)) s u))

/-- WLOAD, MMA and DRAIN enter the array of their tile under its holder; RELEASE clears weights and accumulators -/
def Obligations.ArrayInstructionsEnterTheArray : Prop :=
  (∀ (s : State) (t c o off : Nat) (f : VecFields), Issues s t c (.wload t f) → DescReady s t c f o → (s.tile t).loading = none →
    (s.tile t).leaving = false → (∀ e ∈ s.prn, e.2.cur = none) → off = (descAt s t o 0).toNat → off % 64 = 0 → codeFamily ((descAt s t o 1).toNat % 16) ∈ [some 0, some 2] →
    (descAt s t o 1).toNat / 16 % 2 = 0 →
    off + elemBytes ((descAt s t o 1).toNat % 16) (codeK ((descAt s t o 1).toNat % 16) * 128) ≤ tsSize →
    ∃ u w, exec (.wload t f) s = .next u ∧ (u.tile t).loading = some w ∧ w.fmt = (descAt s t o 1).toNat % 16 ∧ w.sparse = false ∧
      w.w = tsBytes s t off (elemBytes w.fmt (codeK w.fmt * 128)) ∧ w.pois = false ∧
      (u.tile t).holder = some ((s.tile t).holder.getD c) ∧ (u.tile t).pipe = (s.tile t).pipe ∧ (u.tile t).acc = (s.tile t).acc ∧
      (∀ j, j ≠ t → u.tile j = s.tile j) ∧ u.ctx c = { s.ctx c with pc := (s.ctx c).pc + 8 } ∧ u.ts = s.ts ∧ u.hbm = s.hbm) ∧
  (∀ (s : State) (t c o : Nat) (f : VecFields) (r : MmaReq) (w : WTile), Issues s t c (.mma t f) → DescReady s t c f o → (s.tile t).loading = none →
    (s.tile t).leaving = false → r = { off := (descAt s t o 0).toNat, stride := (descAt s t o 1).toNat, fmt := fld (descAt s t o 2) 0 4, m := fld (descAt s t o 3) 0 10, row := fld (descAt s t o 4) 0 9, add := (descAt s t o 5).getLsbD 0, swap := (descAt s t o 5).getLsbD 1, scl := (descAt s t o 6).toNat, sclStride := (descAt s t o 7).toNat } →
    (if r.swap then (s.tile t).shadow else (s.tile t).active) = some w → (s.tile t).mmaBad r w = false → w.pois = false →
    ∃ u l, exec (.mma t f) s = .next u ∧ (u.tile t).pipe = (s.tile t).pipe ++ l ∧ l.length = r.m ∧
      (∀ i, i < r.m → ∃ v, l[i]? = some (.vec v) ∧ v.row = r.row + i ∧ v.add = r.add ∧ v.wt = w ∧ v.afmt = r.fmt ∧
        v.a = tsBytes s t (r.off + i * r.stride) (elemBytes r.fmt (prodK w.fmt r.fmt w.sparse))) ∧
      (u.tile t).active = (if r.swap then some w else (s.tile t).active) ∧ (u.tile t).shadow = (if r.swap then none else (s.tile t).shadow) ∧
      (u.tile t).holder = some ((s.tile t).holder.getD c) ∧ (u.tile t).acc = (s.tile t).acc ∧ (∀ j, j ≠ t → u.tile j = s.tile j) ∧
      u.ctx c = { s.ctx c with pc := (s.ctx c).pc + 8 } ∧ u.ts = s.ts ∧ u.hbm = s.hbm) ∧
  (∀ (s : State) (t c o : Nat) (f : VecFields) (d : DrainReq), Issues s t c (.drain t f) → DescReady s t c f o →
    d = drainOf (descAt s t o 0) (descAt s t o 1) (descAt s t o 2) (descAt s t o 3) (descAt s t o 4) (descAt s t o 5) (descAt s t o 6)
      (descAt s t o 7) (.store (some c)) → (s.tile t).drainBad d = false →
    ∃ u, exec (.drain t f) s = .next u ∧ u.tile t = { s.tile t with pipe := entered s t d, vbusy := false } ∧
      (∀ j, j ≠ t → u.tile j = s.tile j) ∧ u.ctx c = { s.ctx c with pc := (s.ctx c).pc + 8 } ∧ u.ts = s.ts ∧ u.hbm = s.hbm) ∧
  (∀ (s : State) (t c : Nat) (f : VecFields), Issues s t c (.release t f) → (s.tile t).holder = some c → (s.tile t).pipe = [] → (s.tile t).loading = none →
    (s.tile t).leaving = false →
    ∃ u, exec (.release t f) s = .next u ∧
      u.tile t = { s.tile t with acc := [], active := none, shadow := none, holder := none, since := 0, vbusy := false } ∧
      (∀ j, j ≠ t → u.tile j = s.tile j) ∧ u.ctx c = { s.ctx c with pc := (s.ctx c).pc + 8 } ∧ u.ts = s.ts ∧ u.hbm = s.hbm)

/-- Weights become shadow, vectors enter their row, drains write out and complete, and tile-store accesses move their bytes -/
def Obligations.ArrayEventsCompleteTheirWork : Prop :=
  (∀ (s : State) (t : Nat) (w : WTile), s.arrOn t = true → (s.tile t).loading = some w →
    exec (.wloadDone t) s = .next (s.setTile t { s.tile t with shadow := some w, loading := none })) ∧
  (∀ (s : State) (t : Nat) (v : VecItem) (rest : List PipeItem), s.arrOn t = true → (s.tile t).pipe = .vec v :: rest → v.add = false →
    (s.tile t).leaving = false →
    ∃ u, exec (.mmaVectorAccumulate t) s = .next u ∧ (u.tile t).pipe = rest ∧
      (u.tile t).accRow v.row = { vals := v.out.1, int := v.isInt, sat := decide (v.out.2 ≠ 0), pois := v.pois || v.wt.pois } ∧
      (∀ r, r ≠ v.row → (u.tile t).accRow r = (s.tile t).accRow r) ∧ (∀ j, j ≠ t → u.tile j = s.tile j) ∧ u.ts = s.ts ∧ u.hbm = s.hbm ∧
      Counts s u cTILE t TILE.SAT_CNT v.out.2) ∧
  (∀ (s : State) (t : Nat) (d : DrainReq) (rest : List PipeItem) (k : Option Nat) (n : Nat), s.arrOn t = true →
    (s.tile t).pipe = .drain [d] false n :: rest → s.tsFrozen t = false → d.dest = .store k → d.mode = 0 → (d.fmt = 0 ∨ d.fmt = 5) →
    0 < d.count → d.dst % 64 = 0 → d.stride % 64 = 0 → 512 ≤ d.stride → d.dst + (d.count - 1) * d.stride + 512 ≤ tsSize →
    ∃ u, exec (.drainReadout t) s = .next u ∧ u.tile t = { s.tile t with pipe := .drain [d] true n :: rest } ∧
      (∀ j i, j < d.count → i < 512 → tsByte u t (d.dst + j * d.stride + i) =
        (((s.tile t).accRow (d.start + j)).val (i / 4)).extractLsb' (8 * (i % 4)) 8) ∧
      (∀ a, (∀ j, j < d.count → ¬ (tsAddr t d.dst + j * d.stride ≤ a ∧ a < tsAddr t d.dst + j * d.stride + 512)) →
        mget (0 : BitVec 8) u.ts.mem a = mget 0 s.ts.mem a) ∧ u.hbm = s.hbm ∧ u.ctxs = s.ctxs) ∧
  (∀ (i : Instr) (s : State) (t : Nat) (d : DrainReq) (rest : List PipeItem) (k : Option Nat) (n : Nat), (i = .drainComplete t ∨ i = .emptyTokenExit t) →
    s.arrOn t = true → (s.tile t).pipe = .drain [d] true n :: rest → (s.tile t).leaving = false →
    d.dest = .store k → d.tag < 16 →
    ∃ u, exec i s = .next u ∧ u.tile t = { s.tile t with pipe := rest } ∧ s.rdf cTILE t TILE.DRAIN_STAT 8 8 = u.rdf cTILE t TILE.DRAIN_STAT 8 8 ∧
      u.rdf cTILE t TILE.DRAIN_STAT 0 4 = d.tag ∧ (u.rd cTILE t TILE.DRAIN_DONE_MAP).getLsbD d.tag = true ∧ Raises s u cTILE t 1 ∧
      OnlyRegsN [rk cTILE t TILE.DRAIN_STAT, rk cTILE t TILE.DRAIN_DONE_MAP, rk cTILE t hIRQ_STAT] { s with tiles := u.tiles } u) ∧
  (∀ (s : State) (m t : Nat) (v : BitVec 32) (d : DrainReq), OwnerReady s m cTILE t TILE.DRAIN_CTRL → s.pageOn cTILE t = true →
    d = drainOf v (s.rd cTILE t TILE.DRAIN_DST) (s.rd cTILE t TILE.DRAIN_DSTRIDE) (s.rd cTILE t TILE.DRAIN_OUT)
      (s.rd cTILE t TILE.DRAIN_STREAM) (s.rd cTILE t TILE.DRAIN_BASE_LO) (s.rd cTILE t TILE.DRAIN_BASE_HI) (s.rd cTILE t TILE.DRAIN_RSTRIDE)
      (.store none) → (s.tile t).drainBad d = false → ((s.tile t).holder = none ∨ d.mode = 0) →
    ∃ u, exec (.drainCtrlGo m t v) s = .next u ∧ (u.tile t).pipe = entered s t d ∧
      (∀ j, j ≠ t → u.tile j = s.tile j) ∧ Acks u m cTILE t TILE.DRAIN_CTRL 0 ∧
      OnlyRegs [rk cTILE t TILE.DRAIN_CTRL] { answering s m with tiles := u.tiles, fresh := u.fresh } u) ∧
  (∀ (s : State) (m addr len t r n : Nat), s.live = true → accWinRows addr len = some (t, r, n) → s.tileEnabled t = true → s.on (t / 2) = true →
    ∃ u d, exec (.accWindowRead m addr len) s = .next u ∧ (u.tile t).pipe = entered s t d ∧ d.tag = 15 ∧ d.mode = 0 ∧
      d.start = r ∧ d.count = n ∧ d.dest = .window m addr len none ∧ u = { s with tiles := u.tiles, fresh := s.fresh + 1 }) ∧
  (∀ (s : State) (t off req : Nat) (w : LineWrite), s.arrOn t = true → off % 64 = 0 → off < tsSize → s.tsFrozen t = false →
    w.mask = BitVec.allOnes 64 →
    ∃ u, exec (.tsAccess t off req (some w) []) s = .next u ∧
      (∀ a, mget (0 : BitVec 8) u.ts.mem a = if tsAddr t off ≤ a ∧ a < tsAddr t off + 64 then w.data.getD (a - tsAddr t off) 0 else mget 0 s.ts.mem a) ∧
      (∀ i, i < 8 → mget false u.ts.pois (tsAddr t off / 8 + i) = w.pois.getLsbD i ∧ u.tsErrOf (tsAddr t off / 8 + i) = 0) ∧
      OnlyRegs (keys64 cARB t ARB.GRANTS) { s with ts := u.ts } u) ∧
  (∀ (s : State) (t off req : Nat), s.arrOn t = true → off % 64 = 0 → off < tsSize → s.tsFrozen t = false → StoreSound s t →
    (∀ w, mget false s.ts.pois w = false) →
    ∃ u, exec (.tsAccess t off req none []) s = .next u ∧ u.outbox = s.outbox ++ [.tsData t off req (tsBytes s t off 64) 0] ∧
      OnlyRegs (keys64 cARB t ARB.GRANTS) s u) ∧
  (∀ (s : State) (t c : Nat), s.arrOn t = true → (s.tile t).holder = some c → s.rdf cDSP (floeOf t) DSP.HOLD_LIMIT 0 24 ≠ 0 →
    (s.tile t).since + s.rdf cDSP (floeOf t) DSP.HOLD_LIMIT 0 24 ≤ s.clk.time → (s.ctx c).tile = some t → (s.tile t).pipe = [] →
    (s.tile t).leaving = false → MemUp s (rqTile (ctxFloe c)) → Clear s (s.recAddr c) 256 true →
    ∃ u, exec (.arrayHoldLimit t) s = .next u ∧ (u.tile t).holder = none ∧ (u.tile t).acc = [] ∧ (u.tile t).active = none ∧
      (u.ctx c).state = .faulted ∧ (u.ctx c).exit = 0x15 ∧ Counts s u cDSP (floeOf t) DSP.HOLD_REL_CNT 1 ∧
      (∀ d, d ≠ c → u.ctx d = s.ctx d) ∧ (∀ j, j ≠ t → u.tile j = s.tile j))

/-- START, PARK, KILL, the table scan, HOLD, dispatch, the quantum and the save move contexts between their states -/
def Obligations.ContextsStartParkEndAndRun : Prop :=
  (∀ (i : Instr) (k : Nat) (s : State) (m fl c : Nat), fl < 2 → c < 32768 →
    (i = .start m fl c ∧ k = 1 ∨ i = .park m fl c ∧ k = 2 ∨ i = .kill m fl c ∧ k = 3) →
    OwnerReady s m cCTX fl CTX.CMD → s.pageOn cCTX fl = true → s.rdb cCTX fl hCTRL 0 = true → MemUp s (rqTile fl) →
    s.ctxBusyOf fl = none → mget false s.scanDue fl = false →
    Clear s (s.recAddr (fl * 32768 + c)) 256 true →
    ((k = 1 → ((s.ctx (fl * 32768 + c)).state ≠ .ready ∧ (s.ctx (fl * 32768 + c)).state ≠ .running ∧ (s.ctx (fl * 32768 + c)).state ≠ .saving) →
        SoundRun s (s.recAddr (fl * 32768 + c)) 256 → (ctxOfBytes (hbmBytes s (s.recAddr (fl * 32768 + c)) 256)).usable = true →
        ∃ u, exec i s = .next u ∧
          u.ctx (fl * 32768 + c) = { ctxOfBytes (hbmBytes s (s.recAddr (fl * 32768 + c)) 256) with state := .ready } ∧
          u.rd cCTX fl CTX.CMD_STAT = u32 c ∧ (∀ d, d ≠ fl * 32768 + c → u.ctx d = s.ctx d) ∧ u.hbm = s.hbm ∧ Acks u m cCTX fl CTX.CMD 0) ∧
     (k = 2 → (s.ctx (fl * 32768 + c)).state = .ready →
        ∃ u, exec i s = .next u ∧ u.ctx (fl * 32768 + c) = { s.ctx (fl * 32768 + c) with state := .parked } ∧
          u.rd cCTX fl CTX.CMD_STAT = u32 c ∧ (∀ d, d ≠ fl * 32768 + c → u.ctx d = s.ctx d) ∧ u.hbm = s.hbm ∧ Acks u m cCTX fl CTX.CMD 0) ∧
     (k = 3 → ((s.ctx (fl * 32768 + c)).state = .ready ∨ (s.ctx (fl * 32768 + c)).state = .parked) → (s.ctx (fl * 32768 + c)).tile = none →
        ∃ u, exec i s = .next u ∧ (u.ctx (fl * 32768 + c)).state = .done ∧ (u.ctx (fl * 32768 + c)).exit = 0xFFFF ∧
          Stored s u (s.recAddr (fl * 32768 + c)) (u.ctx (fl * 32768 + c)).bytes ∧ u.rd cCTX fl CTX.CMD_STAT = u32 c ∧
          (∀ d, d ≠ fl * 32768 + c → u.ctx d = s.ctx d) ∧ Acks u m cCTX fl CTX.CMD 0))) ∧
  (∀ (s : State) (m fl : Nat), OwnerReady s m cCTX fl hCTRL → s.bringupOver = true → s.rdb cCTX fl hCTRL 0 = false → s.pageOn cCTX fl = true →
    MemUp s (rqTile fl) → Clear s (s.recAddr (fl * 32768)) (256 * 32768) true → SoundRun s (s.recAddr (fl * 32768)) (256 * 32768) →
    ∃ u, exec (.ctxCtrlEn m fl) s = .next u ∧ u.rdb cCTX fl hCTRL 0 = true ∧
      (∀ i, i < 32768 → u.ctx (fl * 32768 + i) = scanned (ctxOfBytes (hbmBytes s (s.recAddr (fl * 32768 + i)) 256))) ∧
      (∀ d, d / 32768 ≠ fl → u.ctx d = s.ctx d) ∧ Acks u m cCTX fl hCTRL 0) ∧
  (∀ (s : State) (m fl : Nat) (h : Bool), OwnerReady s m cDSP fl hCTRL → s.anyRunning fl = false →
    ∃ u, exec (.dspHoldWrite m fl h) s = .next u ∧ u.rdb cDSP fl hCTRL 2 = h ∧ u.quiet fl = h ∧ u.ctxs = s.ctxs ∧
      (h = true → s.quiet fl = false → Raises s u cDSP fl 1) ∧ Acks u m cDSP fl hCTRL 0 ∧
      OnlyRegsN [rk cDSP fl hCTRL, rk cDSP fl hIRQ_STAT] (answering s m) u) ∧
  (∀ (s : State) (fl c t : Nat) (x : Ctx), fl < 2 → s.on (92 + fl) = true → s.rdb cDSP fl hCTRL 0 = true → s.rdb cDSP fl hCTRL 2 = false →
    s.ctxBusyOf fl = none → mget false s.scanDue fl = false → s.nextPlaced fl = some (c, t) → (t < 128 → s.tsFrozen t = false) → c / 32768 = fl → MemUp s (rqTile fl) → Readable s (s.recAddr c) 256 →
    x = ctxOfBytes (hbmBytes s (s.recAddr c) 256) → x.usable = true → (s.ctx c).kind = x.kind → (s.ctx c).flags = x.flags →
    (s.ctx c).save = x.save → (s.ctx c).tsLen = x.tsLen → (x.kind = 0 → x.flags % 2 = 0 → Readable s x.save (saveBytes + 64 * x.tsLen)) →
    ∃ u, exec (.contextDispatch fl) s = .next u ∧ u.ctx c = { x with state := .running, tile := some t, since := s.clk.time } ∧
      (∀ d, d ≠ c → u.ctx d = s.ctx d) ∧ (x.kind = 1 → u.vec = s.vec ∧ u.ts = s.ts) ∧
      (x.kind = 0 → x.flags % 2 = 1 → u.vecOf t = {} ∧ u.ts = s.ts) ∧
      (x.kind = 0 → x.flags % 2 = 0 → u.vecOf t = vecOfSave (hbmBytes s x.save (saveBytes + 64 * x.tsLen))
          (List.replicate (saveBytes + 64 * x.tsLen) false) ∧
        ∀ b, mget (0 : BitVec 8) u.ts.mem b = if tsAddr t (64 * x.tsOff) ≤ b ∧ b < tsAddr t (64 * x.tsOff) + 64 * x.tsLen then
          hbmByte s (x.save + saveBytes + (b - tsAddr t (64 * x.tsOff))) else mget 0 s.ts.mem b) ∧
      (∀ j, j ≠ t → u.vecOf j = s.vecOf j) ∧ u.hbm = s.hbm ∧ RegsBut [cHBM, cARB, cCTX, cDSP] s u) ∧
  (∀ (s : State) (c : Nat), (s.ctx c).state = .running → (s.ctx c).want = .none → (s.ctx c).waitw = none → s.holds c = false →
    s.walkOf c = none → s.on (92 + ctxFloe c) = true → s.rdb cDSP (ctxFloe c) hCTRL 0 = true →
    (s.ctx c).since + s.rdf cDSP (ctxFloe c) DSP.QUANTUM 0 24 ≤ s.clk.time →
    (s.readyOrder (ctxFloe c)).any (fun e => decide (e.2.prio ≤ (s.ctx c).prio) && e.2.kind == (s.ctx c).kind) = true →
    exec (.quantumExpire c) s = .next ((s.setCtx c { s.ctx c with want := .quantum }).setCtx c { s.ctx c with want := .quantum, state := .saving })) ∧
  (∀ (s : State) (c : Nat) (st : CtxState), (s.ctx c).state = .saving →
    ((s.ctx c).want = .park ∧ st = .parked ∨ ((s.ctx c).want = .save ∨ (s.ctx c).want = .quantum) ∧ st = .ready) → s.holds c = false →
    s.on (92 + ctxFloe c) = true → MemUp s (rqTile (ctxFloe c)) → Clear s (s.recAddr c) 256 true →
    ((s.ctx c).kind = 1 → (∃ n, (s.ctx c).tile = some (128 + n)) →
      ∃ u, exec (.contextSave c) s = .next u ∧
        u.ctx c = { s.ctx c with flags := (s.ctx c).flags / 2 * 2, state := st, tile := none, want := .none, waitw := none } ∧
        Stored s u (s.recAddr c) (u.ctx c).bytes ∧ (∀ d, d ≠ c → u.ctx d = s.ctx d) ∧ u.ts = s.ts) ∧
    (∀ t, (s.ctx c).kind = 0 → (s.ctx c).tile = some t → t < 128 → s.tsFrozen t = false → StoreSound s t → (s.ctx c).save % 64 = 0 →
      64 * ((s.ctx c).tsOff + (s.ctx c).tsLen) ≤ tsSize → Clear s (s.ctx c).save (saveBytes + 64 * (s.ctx c).tsLen) true →
      ((s.ctx c).save + saveBytes + 64 * (s.ctx c).tsLen ≤ s.recAddr c ∨ s.recAddr c + 256 ≤ (s.ctx c).save) →
      ∃ u, exec (.contextSave c) s = .next u ∧
        u.ctx c = { s.ctx c with flags := (s.ctx c).flags / 2 * 2, state := st, tile := none, want := .none, waitw := none } ∧
        hbmBytes u (s.recAddr c) 256 = (u.ctx c).bytes ∧
        hbmBytes u (s.ctx c).save (saveBytes + 64 * (s.ctx c).tsLen) =
          (s.vecOf t).saveArea ++ tsBytes s t (64 * (s.ctx c).tsOff) (64 * (s.ctx c).tsLen) ∧
        (∀ b, ¬ (s.recAddr c ≤ b ∧ b < s.recAddr c + 256) →
          ¬ ((s.ctx c).save ≤ b ∧ b < (s.ctx c).save + saveBytes + 64 * (s.ctx c).tsLen) → hbmByte u b = hbmByte s b) ∧
        u.vecOf t = {} ∧ (∀ d, d ≠ c → u.ctx d = s.ctx d) ∧ u.ts.mem = s.ts.mem))

/-- SEED3 starts a derivation, KEY_DERIVED puts the key in force, the known-answer test reports its lanes, CQ_TAIL is stored -/
def Obligations.SeedsKeysAndKnownAnswers : Prop :=
  (∀ (s : State) (m cls inst o b : Nat) (v : BitVec 32), seedOff cls = some (o, b) → OwnerReady s m cls inst (o + 12) →
    ∃ u, exec (.seed3Write m cls inst v) s = .next u ∧ u.rd cls inst (o + 12) = v ∧ u.rdb cls inst hSTAT b = false ∧
      mget none u.keyNext (rk cls inst 0) = some (seedAt u cls inst o) ∧ u.keyOf cls inst = s.keyOf cls inst ∧
      Acks u m cls inst (o + 12) 0 ∧ OnlyRegs [rk cls inst (o + 12), rk cls inst hSTAT] { answering s m with keyNext := u.keyNext } u) ∧
  (∀ (s : State) (cls inst o b : Nat) (q : Quad), seedOff cls = some (o, b) → s.pageOn cls inst = true →
    mget none s.keyNext (rk cls inst 0) = some q →
    ∃ u, exec (.keyDerived cls inst) s = .next u ∧
      u.keyOf cls inst = mix10 q (0xFFFFFFFF, 0xFFFFFFFF, 0xFFFFFFFF, 0xFFFFFFFF) ∧ u.rdb cls inst hSTAT b = true ∧
      mget none u.keyNext (rk cls inst 0) = none ∧
      OnlyRegs [rk cls inst hSTAT] { s with keyNext := u.keyNext, keySeed := u.keySeed } u) ∧
  (∀ (s : State) (m t : Nat), OwnerReady s m cVEC t hCTRL → s.bringupOver = true → s.pageOn cVEC t = true → (s.tile t).vbusy = false →
    ∃ u, exec (.katGo m t) s = .next u ∧ u.tile t = { s.tile t with kat := true } ∧ (∀ j, j ≠ t → u.tile j = s.tile j) ∧
      Acks u m cVEC t hCTRL 0 ∧ OnlyRegs [] { answering s m with tiles := u.tiles } u) ∧
  (∀ (s : State) (t : Nat) (bad : List Nat), s.arrOn t = true → (s.tile t).kat = true →
    ∃ u, exec (.katComplete t bad) s = .next u ∧ u.tile t = { s.tile t with kat := false } ∧ u.rdb cVEC t hSTAT 2 = true ∧
      ((∀ l ∈ bad, s.lanes ≤ l) → u.rdb cVEC t hSTAT 3 = true ∧ Raises s u cVEC t 1 ∧ u.err = s.err ∧
        OnlyRegsN [rk cVEC t hSTAT, rk cVEC t hIRQ_STAT] { s with tiles := u.tiles } u) ∧
      ((∃ l ∈ bad, l < s.lanes) → u.rdb cVEC t hSTAT 3 = false ∧ Raises s u cVEC t 17 ∧
        (s.errQ (pageId cVEC t) = [] → ∃ r, u.errQ (pageId cVEC t) = [r] ∧ r.sev = 2 ∧ r.cause = 0x09))) ∧
  (∀ (s : State) (m cls inst : Nat) (v : BitVec 32), cls ∈ [cOPT, cPRN, cXCH, cRED] → OwnerReady s m cls inst rTail →
    ∃ u, exec (.cqTailWrite m cls inst v) s = .next u ∧ u.rd cls inst rTail = v &&& 0xFFFF ∧ Acks u m cls inst rTail 0 ∧
      OnlyRegs [rk cls inst rTail] (answering s m) u)

/-- UPDATE, ACCUM, ACCUM32, COPY and ZERO write what their rules give and no other byte; WAIT holds, refusals stop, completion reports -/
def Obligations.OptimizerCommandsRunAndComplete : Prop :=
  (∀ (s : State) (n : Nat) (d : OptDesc), OptReady s n d → d.op = 1 → d.rule ≤ 3 → d.gfp32 = true → d.divMode = 1 → d.wcopy = false →
    d.cls = 0 →
    ((f32 d.divisor).isZero = true →
      ∃ u, exec (.update n) s = .next u ∧ OptRan s u n d 1 ∧ u.hbm = s.hbm ∧ Counts s u cOPT n OPT.SKIP_CNT 1 ∧ Raises s u cOPT n 2) ∧
    ((f32 d.divisor).isZero = false → s.rdb cOPT n hCTRL 1 = false →
      (∀ i j, i < j → j ≤ min d.rule 2 → apart (optArr d i) (2 * d.n) (optArr d j) (2 * d.n)) →
      ∃ u, exec (.update n) s = .next u ∧
        OptRan s u n d (if ∃ k, k < d.n ∧ optPart (optNew s n d k) 0 = none then 2 else 0) ∧
        (∀ j k, j ≤ min d.rule 2 → k < d.n → hbmBytes u (optArr d j + 2 * k) 2 =
          (optPart (optNew s n d k) j).getD (hbmBytes s (optArr d j + 2 * k) 2)) ∧
        (∀ b, (∀ j, j ≤ min d.rule 2 → b < optArr d j ∨ optArr d j + 2 * d.n ≤ b) → hbmByte u b = hbmByte s b))) ∧
  (∀ (s : State) (n : Nat) (d : OptDesc), OptReady s n d → d.op = 2 →
    ∃ u, exec (.accum n) s = .next u ∧ OptRan s u n d 0 ∧
      Stored s u d.m ((List.range (d.n / 32)).flatMap fun i => (accumUnit s n d i).bytes)) ∧
  (∀ (s : State) (n : Nat) (d : OptDesc) (gs : List (W32 × Bool)), OptReady s n d → d.op = 3 → apart d.m (4 * d.n) d.w 4 →
    gs = gradElems false d.n ⟨hbmBytes s d.g (68 * (d.n / 32)), List.replicate (68 * (d.n / 32)) false, true⟩ →
    ∃ u, exec (.accum32 n) s = .next u ∧ OptRan s u n d 0 ∧
      (∀ k, k < d.n → hbmBytes u (d.m + 4 * k) 4 = toLE 4 (if d.first then (gs.getD k (0, false)).1
        else fadd32 (u32 (leNat (hbmBytes s (d.m + 4 * k) 4))) (gs.getD k (0, false)).1).toNat) ∧
      hbmBytes u d.w 4 = toLE 4 ((if d.first then 0 else leNat (hbmBytes s d.w 4)) + leNat (hbmBytes s (d.hdr + 8) 4)) ∧
      (∀ b, (b < d.m ∨ d.m + 4 * d.n ≤ b) → (b < d.w ∨ d.w + 4 ≤ b) → hbmByte u b = hbmByte s b)) ∧
  (∀ (s : State) (n : Nat) (d : OptDesc) (f : Fmt), OptReady s n d → d.op = 4 → d.rule ≤ 3 → d.mx = false → codeFmt d.wfmt = some f →
    ∃ u, exec (.copy n) s = .next u ∧ OptRan s u n d 0 ∧
      Stored s u d.wc ((List.range d.n).flatMap fun k =>
        toLE (codeBits d.wfmt / 8) (f.cvt .rne (f32 (elemAt s d.cls d.w k)) (fmtFP32.neg (elemAt s d.cls d.w k).toNat)).1)) ∧
  (∀ (s : State) (n : Nat) (d : OptDesc), OptReady s n d → d.op = 5 →
    ∃ u, exec (.zero n) s = .next u ∧ OptRan s u n d 0 ∧
      (∀ b, (∃ r ∈ d.runs, r.1 ≤ b ∧ b < r.1 + r.2.1) → hbmByte u b = 0) ∧
      (∀ b, (∀ r ∈ d.runs, b < r.1 ∨ r.1 + r.2.1 ≤ b) → hbmByte u b = hbmByte s b)) ∧
  (∀ (i : Instr) (s : State) (n : Nat) (b : Bytes) (d : OptDesc),
    (i = .update n ∧ d.op = 1 ∨ i = .accum n ∧ d.op = 2 ∨ i = .accum32 n ∧ d.op = 3 ∨ i = .copy n ∧ d.op = 4 ∨ i = .zero n ∧ d.op = 5) →
    HeadIs s (rqOpt n) cOPT n b → d = s.optDesc n b → s.optOf n = { cur := none, held := none } →
    (d.bad = true → ∃ u, exec i s = .next u ∧ OptRan s u n d 0x10 ∧ u.hbm = s.hbm ∧ Counts s u cOPT n OPT.DESC_ERR_CNT 1 ∧
      Raises s u cOPT n 16) ∧
    (d.bad = false → d.wait = true → s.redPast d.waitCh d.waitSeq = false →
      ∃ u, exec i s = .next u ∧ u.optOf n = { cur := none, held := some (s.ringHead cOPT n, b) } ∧ u.ringHead cOPT n = s.ringHead cOPT n ∧ u.hbm = s.hbm ∧
        RegsBut [cHBM, cARB] s u)) ∧
  (∀ (s : State) (n : Nat) (b : Bytes) (d : OptDesc), s.optOf n = { cur := none, held := some (s.ringHead cOPT n, b) } →
    d = s.optDesc n b → d.op = 5 → s.ringOn cOPT n = true → MemUp s (rqOpt n) →
    (d.wait = true → s.redPast d.waitCh d.waitSeq = true) → (∀ r ∈ d.runs, Clear s r.1 r.2.1 r.2.2.2 ∧ SoundRun s r.1 r.2.1) →
    ∃ u, exec (.optWaitRelease n) s = .next u ∧ OptRan s u n d 0 ∧
      (∀ b, (∃ r ∈ d.runs, r.1 ≤ b ∧ b < r.1 + r.2.1) → hbmByte u b = 0)) ∧
  (∀ (s : State) (n : Nat) (c : RingCmd), s.pageOn cOPT n = true → n < 2 → (s.optOf n).cur = some c →
    DoneReady s (rqOpt n) cOPT n c.idx 7 →
    ∃ u, exec (.optCmdComplete n) s = .next u ∧ RingDone s u cOPT n c.idx 7 (c.status.getD 0) c.irq ∧ (u.optOf n).cur = none ∧
      u.ts = s.ts ∧ u.ctxs = s.ctxs ∧ RegsBut [cOPT, cHBM, cARB, cFIRN] s u)

/-- PRUNE24 and ENCODE write the objects of their block, DECODE writes the dense rows of an object, and no other byte -/
def Obligations.PrunerAndCodecWriteTheirObjects : Prop :=
  (∀ (s : State) (n nobj : Nat) (d : PrnDesc), PrnReady s n d → d.op = 1 → nobj = (d.k + 2 * codeK d.dst - 1) / (2 * codeK d.dst) →
    (∀ j, j < nobj → (pruneAt s d j).layout.2.2.2 ≤ d.stride) →
    (d.reuse = true → ∀ j, j < nobj → hbmByte s (d.s1 + j * d.stride) ∈ [(0 : BitVec 8), 1, 2, 0x10, 0x12] ∧
      (hbmByte s (d.s1 + j * d.stride) = 1 → Readable s (d.s1 + j * d.stride + bfield (hbmBytes s (d.s1 + j * d.stride) 32) 12 4) (codeK d.dst * 32))) →
    Ranges s ([(d.s0, blockBytes d.src d.k), (d.s2, scaleLen d d.k)] ++
        (if d.reuse then (List.range nobj).flatMap fun j => [(d.s1 + j * d.stride, 64), planeAt s d j] else []))
      ((List.range nobj).map fun j => (d.d0 + j * d.stride, (pruneAt s d j).layout.2.2.2)) →
    ∃ u, exec (.prune24 n) s = .next u ∧ PrnRan s u n d 0 ∧ (∀ j, j < nobj → ObjAt u (d.d0 + j * d.stride) (pruneAt s d j)) ∧
      (∀ b, (∀ j, j < nobj → b < d.d0 + j * d.stride ∨ d.d0 + j * d.stride + (pruneAt s d j).layout.2.2.2 ≤ b) → hbmByte u b = hbmByte s b)) ∧
  (∀ (s : State) (n nobj : Nat) (d : PrnDesc), PrnReady s n d → d.op = 2 → nobj = (d.k + codeK d.src - 1) / codeK d.src →
    (∀ j, j < nobj → (encodeAt s d j).layout.2.2.2 ≤ d.stride) →
    Ranges s [(d.s0, blockBytes d.src d.k), (d.s2, scaleLen d d.k)]
      ((List.range nobj).map fun j => (d.d0 + j * d.stride, (encodeAt s d j).layout.2.2.2)) →
    ∃ u, exec (.encodeTiles n) s = .next u ∧ PrnRan s u n d 0 ∧ (∀ j, j < nobj → ObjAt u (d.d0 + j * d.stride) (encodeAt s d j)) ∧
      (∀ b, (∀ j, j < nobj → b < d.d0 + j * d.stride ∨ d.d0 + j * d.stride + (encodeAt s d j).layout.2.2.2 ≤ b) → hbmByte u b = hbmByte s b)) ∧
  (∀ (s : State) (n tag fmt kspan po io : Nat) (d : PrnDesc), PrnReady s n d → d.op = 3 → d.count = 1 →
    tag = bfield (hbmBytes s d.s0 32) 0 1 → fmt = bfield (hbmBytes s d.s0 32) 1 1 → kspan = bfield (hbmBytes s d.s0 32) 2 2 →
    po = d.s0 + bfield (hbmBytes s d.s0 32) 4 4 → io = d.s0 + bfield (hbmBytes s d.s0 32) 12 4 → arrFmt fmt = true →
    ((tag = 0 ∨ tag = 0x10 ∨ tag = 0x12) →
      Ranges s [(d.s0, 32), (po, elemBytes fmt (kspan * 128))] [(d.d0, elemBytes fmt (kspan * 128))] →
      ∃ u, exec (.decodeTiles n) s = .next u ∧ PrnRan s u n d 0 ∧ Stored s u d.d0 (hbmBytes s po (elemBytes fmt (kspan * 128)))) ∧
    (∀ len, tag = 2 → len = (((List.range (kspan * 128)).filter (mapBit (hbmBytes s io (kspan * 16)))).length * codeBits fmt + 7) / 8 →
      Ranges s [(d.s0, 32), (po, len), (io, kspan * 16)] [(d.d0, (kspan * 128 * codeBits fmt + 7) / 8)] →
      ∃ u, exec (.decodeTiles n) s = .next u ∧ PrnRan s u n d 0 ∧
        Stored s u d.d0 (packAll (codeBits fmt) ((List.range (kspan * 128)).map fun i =>
          if mapBit (hbmBytes s io (kspan * 16)) i then
            packGet (hbmBytes s po len) (codeBits fmt) ((List.range i).filter (mapBit (hbmBytes s io (kspan * 16)))).length
          else 0))) ∧
    (∀ ib pay, tag = 1 → pay = hbmBytes s po (elemBytes fmt (codeK fmt * 128)) → ib = hbmBytes s io (codeK fmt * 32) → kspan ≤ 2 * codeK fmt →
      Ranges s [(d.s0, 32), (po, elemBytes fmt (codeK fmt * 128)), (io, codeK fmt * 32)] [(d.d0, (kspan * 128 * codeBits fmt + 7) / 8)] →
      ∃ u, exec (.decodeTiles n) s = .next u ∧ PrnRan s u n d 0 ∧
        Stored s u d.d0 (packAll (codeBits fmt) ((List.range (kspan * 128)).map fun i =>
          let k := i / 128
          let c := i % 128
          let q := (ib.getD (k / 8 * 128 + c) 0).toNat / 16 ^ (k / 4 % 2)
          if q % 4 = k % 4 then packGet pay (codeBits fmt) (k / 4 * 2 * 128 + c)
          else if q / 4 % 4 = k % 4 then packGet pay (codeBits fmt) ((k / 4 * 2 + 1) * 128 + c) else 0)))) ∧
  (∀ (i : Instr) (s : State) (n op : Nat) (b : Bytes) (d : PrnDesc),
    (i, op) ∈ [(.prune24 n, 1), (.encodeTiles n, 2), (.decodeTiles n, 3), (.merge n, 4), (.split n, 5), (.combine n, 6)] → d.op = op →
    HeadIs s (rqPrn n) cPRN n b → d = prnDescOf b → s.prnCur n = none → s.prnBad d = true →
    ∃ u, exec i s = .next u ∧ PrnRan s u n d 0x10 ∧ u.hbm = s.hbm ∧ Counts s u cPRN n PRN.DESC_ERR_CNT 1 ∧ Raises s u cPRN n 16) ∧
  (∀ (s : State) (n : Nat) (c : RingCmd), s.pageOn cPRN n = true → n < 2 → s.prnCur n = some c → DoneReady s (rqPrn n) cPRN n c.idx 3 →
    ∃ u, exec (.prnCmdComplete n) s = .next u ∧ RingDone s u cPRN n c.idx 3 (c.status.getD 0) c.irq ∧ u.prnCur n = none ∧
      u.ts = s.ts ∧ u.ctxs = s.ctxs ∧ RegsBut [cPRN, cHBM, cARB, cFIRN] s u)

/-- MERGE writes the matches of its segments in order, SPLIT the work records of its rows, COMBINE the reduced slots -/
def Obligations.MergeSplitAndCombine : Prop :=
  (∀ (s : State) (n e nrec : Nat) (d : PrnDesc), PrnReady s n d → d.op = 4 → e = (if d.idx64 then 8 else 4) →
    nrec = ((List.range d.count).map fun k => (mergeAt s d k).1.length).foldl (· + ·) 0 → (∀ k, k < d.count → (mergeAt s d k).2.2 = false) →
    (∀ k, k < d.count → offAt s d.s2 k ≤ offAt s d.s2 (k + 1) ∧ (d.segB = true → offAt s d.s3 k ≤ offAt s d.s3 (k + 1))) →
    Ranges s [(d.s0, e * offAt s d.s2 d.count), (d.s1, e * (if d.segB then offAt s d.s3 d.count else d.k)), (d.s2, 8 * (d.count + 1)),
      (d.s3, if d.segB then 8 * (d.count + 1) else 0)] [(d.d0, 8 * nrec), (d.d1, 4 * d.count)] →
    apart d.d0 (8 * nrec) d.d1 (4 * d.count) →
    ∃ u, exec (.merge n) s = .next u ∧ PrnRan s u n d (if ∃ k, k < d.count ∧ (mergeAt s d k).2.1 ≠ 0 then 6 else 0) ∧
      hbmBytes u d.d0 (8 * nrec) = ((List.range d.count).flatMap fun k => (mergeAt s d k).1).flatMap (fun r => posBytes r.1 ++ posBytes r.2.1) ∧
      (∀ k, k < d.count → hbmBytes u (d.d1 + 4 * k) 4 = toLE 4 (mergeAt s d k).1.length) ∧
      (∀ b, (b < d.d0 ∨ d.d0 + 8 * nrec ≤ b) → (b < d.d1 ∨ d.d1 + 4 * d.count ≤ b) → hbmByte u b = hbmByte s b)) ∧
  (∀ (a b : List Nat) (ia ib : Nat), a.Pairwise (· < ·) → b.Pairwise (· < ·) →
    ∃ r, mergeWalk 0 (a.length + b.length + 1) ((indexed a).map fun x => (x.1, ia + x.2, false)) ((indexed b).map fun x => (x.1, ib + x.2, false))
        none none = (r, 0, false) ∧
      r = (List.range a.length).filterMap fun i => ((List.range b.length).find? fun j => a[i]? == b[j]?).map fun j => (some (ia + i), some (ib + j), false)) ∧
  (∀ (s : State) (n : Nat) (d : PrnDesc), PrnReady s n d → d.op = 5 →
    Ranges s [(d.s0, 8 * (d.count + 1))] [(d.d0, 32 * (splitTo s d d.count).length)] →
    ∃ u, exec (.split n) s = .next u ∧ PrnRan s u n d 0 ∧ Stored s u d.d0 (splitTo s d d.count).flatten) ∧
  (∀ (s : State) (n : Nat) (d : PrnDesc), PrnReady s n d → d.op = 6 → Readable s d.s0 (32 * d.count) →
    (∀ j, j < d.count → (workRec s d j).2.2 = true →
      Clear s (slotsOf s d j).1 (slotsOf s d j).2 true ∧ SoundRun s (slotsOf s d j).1 (slotsOf s d j).2 ∧
      apart d.s0 (32 * d.count) (slotsOf s d j).1 (4 * d.k) ∧
      (∀ i, i < j → (workRec s d i).2.2 = true → apart (slotsOf s d i).1 (slotsOf s d i).2 (slotsOf s d j).1 (slotsOf s d j).2)) →
    ∃ u, exec (.combine n) s = .next u ∧ PrnRan s u n d 0 ∧
      (∀ j i, j < d.count → (workRec s d j).2.2 = true → i < d.k → some (u32 (leNat (hbmBytes u ((slotsOf s d j).1 + 4 * i) 4))) =
        treeRed (if d.mmode = 0 then fadd32 else fmaxmin32 (d.mmode == 1)) (workRec s d j).2.1
          fun k => some (u32 (leNat (hbmBytes s ((slotsOf s d j).1 + k * d.stride + 4 * i) 4)))) ∧
      (∀ b, (∀ j, j < d.count → (workRec s d j).2.2 = true → b < (slotsOf s d j).1 ∨ (slotsOf s d j).1 + 4 * d.k ≤ b) → hbmByte u b = hbmByte s b))

/-- SAMPLE expands its frontier by the draws of R186, the hop is written, remote batches are answered, REPLAY adds in order, the walk ends -/
def Obligations.SamplerWalksDrawWriteAndReplay : Prop :=
  (∀ (dr : Nat → Nat → Nat) (d f t : Nat), (∀ m i, 0 < m → dr m i < m) →
    (choosePos dr d f t).1.Pairwise (· < ·) ∧ (choosePos dr d f t).1.length = min d f ∧ ∀ p ∈ (choosePos dr d f t).1, p < d) ∧
  (∀ (s : State) (c : Nat) (d : WalkDesc), WalkReady s c d → s.walkStarts c = true → s.walkOf c = none → ((s.ctx c).sreg 0).toNat = 0 → d.op = 1 →
    d.badSample (s.ctx c).wdesc = false → (∀ i, i < d.numSeeds → leNat (hbmBytes s (d.seeds + 8 * i) 8) < 2 ^ 40) →
    (∀ r ∈ d.startRuns, Clear s r.1 r.2.1 r.2.2 ∧ SoundRun s r.1 r.2.1) → Clear s d.edgeOut (16 * d.edgeCap) false →
    FrontierReady s (ctxFloe c) d 1 (seedSet s d) →
    ∃ u, exec (.sample c) s = .next u ∧ u.ctx c = withCursor (s.ctx c) 1 (seedSet s d).length 0 0 ∧
      u.walkOf c = some { hop := 1, exps := (ascSet (seedSet s d)).map (expAt s (ctxFloe c) d 1), parts := [], fin := none } ∧
      hbmBytes u d.nodeOut (8 * (seedSet s d).length) =
        (seedSet s d).flatMap (fun v => toLE 8 (nodeRec v 0 (!d.isLocal v) false false false)) ∧
      hbmBytes u d.jrnl 64 = toLE 4 0 ++ toLE 4 (seedSet s d).length ++ List.replicate 56 0 ∧
      (∀ b, (b < d.ws ∨ d.ws + d.wsLen ≤ b) → (b < d.nodeOut ∨ d.nodeOut + 8 * d.nodeCap ≤ b) → (b < d.jrnl ∨ d.jrnl + 64 ≤ b) →
        hbmByte u b = hbmByte s b) ∧
      (∀ e, e ≠ c → u.ctx e = s.ctx e ∧ u.walkOf e = s.walkOf e) ∧ u.ts = s.ts ∧ u.vec = s.vec ∧ RegsBut [cSMP, cHBM, cARB, cFIRN] s u) ∧
  (∀ (s : State) (c nodes edges crecs : Nat) (d : WalkDesc) (w : WalkSt) (es : List Expn) (fr : List Nat), WalkReady s c d →
    s.walkOf c = some w → w.fin = none → (∀ p ∈ w.parts, p.status ≠ none) → 1 ≤ w.hop → w.hop ≤ 4 →
    nodes = ((s.ctx c).sreg 2).toNat → edges = ((s.ctx c).sreg 3).toNat → crecs = ((s.ctx c).sreg 4).toNat → es = sortExps w.exps →
    fr = freshOf (nodeIds s d nodes) es → nodes + fr.length ≤ d.nodeCap → edges + edgesTo es es.length ≤ d.edgeCap →
    (∀ r ∈ d.hopRuns (s.ctx c).wdesc crecs w, Clear s r.1 r.2.1 r.2.2 ∧ SoundRun s r.1 r.2.1) → es.length ≤ w.exps.length →
    apart d.nodeOut (8 * d.nodeCap) d.edgeOut (16 * d.edgeCap) →
    apart d.nodeOut (8 * d.nodeCap) d.jrnl (64 + 16 * (crecs + es.length)) →
    apart d.edgeOut (16 * d.edgeCap) d.jrnl (64 + 16 * (crecs + es.length)) →
    ∃ u, exec (.sampleHopWrite c) s = .next u ∧ u.walkOf c = none ∧
      u.ctx c = withCursor (s.ctx c) (w.hop + 1) (nodes + fr.length) (edges + edgesTo es es.length) (crecs + es.length) ∧
      hbmBytes u (d.nodeOut + 8 * nodes) (8 * fr.length) = fr.flatMap (fun v => toLE 8 (nodeRec v w.hop (!d.isLocal v) false false false)) ∧
      hbmBytes u (d.edgeOut + 16 * edges) (16 * edgesTo es es.length) = es.flatMap (fun e => e.edges.flatMap fun p =>
        toLE 4 (slotIn (nodeIds s d nodes ++ fr) e.node) ++ toLE 4 (slotIn (nodeIds s d nodes ++ fr) p.2) ++ toLE 8 (p.1 % 2 ^ 40)) ∧
      (∀ i e, es[i]? = some e → hbmBytes u (d.jrnl + 64 + 16 * (crecs + i)) 16 =
        toLE 4 (slotIn (nodeIds s d nodes ++ fr) e.node) ++ toLE 4 (edges + edgesTo es i) ++ toLE 2 e.edges.length ++ toLE 2 e.flags ++
          toLE 4 (min 0xFFFFFFFF e.degree)) ∧
      hbmByte u d.jrnl = BitVec.ofNat 8 w.hop ∧ hbmBytes u (d.jrnl + 4) 8 = toLE 4 (nodes + fr.length) ++ toLE 4 (edges + edgesTo es es.length) ∧
      hbmBytes u (d.jrnl + 0x10 + 12 * (w.hop - 1)) 12 = toLE 4 crecs ++ toLE 4 es.length ++ toLE 4 nodes ∧
      (∀ b, (b < d.nodeOut ∨ d.nodeOut + 8 * d.nodeCap ≤ b) → (b < d.edgeOut ∨ d.edgeOut + 16 * d.edgeCap ≤ b) →
        (b < d.jrnl ∨ d.jrnl + 64 + 16 * (crecs + es.length) ≤ b) → hbmByte u b = hbmByte s b) ∧
      (∀ e, e ≠ c → u.ctx e = s.ctx e ∧ u.walkOf e = s.walkOf e) ∧ RegsBut [cSMP, cHBM, cARB, cFIRN] s u) ∧
  (∀ (s : State) (n : Nat) (b : RemoteBatch) (g : Csr), n < 2 → s.pageOn cSMP n = true → s.rdb cSMP n hFREEZE 0 = false →
    (s.xchOf n).arrived = [] → g = ⟨b.rowptr, b.colidx, b.rowBase, b.numRows, b.idx64⟩ →
    (s.rdb cSMP n hCTRL 1 = false → ∃ u, exec (.remoteExpansionServe n b) s = .next u ∧ (∀ j, u.xchOf j = s.xchOf j) ∧
      u = { s.inject (9 + n) (.xchExpanded n b.src b.tag (b.nodes.map fun v => ⟨v, 0, [], true, false⟩)) with xch := u.xch }) ∧
    (s.rdb cSMP n hCTRL 1 = true → MemUp s (rqXch n) →
      (∀ v ∈ b.nodes, g.base ≤ v → v < g.base + g.rows → RowReady s n g b.hop b.fanout b.thresh b.stream v) →
      ∃ u m, exec (.remoteExpansionServe n b) s = .next u ∧
        m = .xchExpanded n b.src b.tag (b.nodes.map fun v =>
          if g.base ≤ v ∧ v < g.base + g.rows then
            (let e := expCsr s n g b.hop b.fanout b.thresh b.stream v; ⟨v, e.degree, e.edges, false, false⟩)
          else ⟨v, 0, [], true, false⟩) ∧ (Open s (9 + n) m → u.outbox.getLast? = some m) ∧
        u.hbm = s.hbm ∧ u.ctxs = s.ctxs ∧ u.walks = s.walks ∧ Counts s u cSMP n SMP.REMOTE_SRV_CNT b.nodes.length ∧
        (∀ j, u.xchOf j = s.xchOf j) ∧ RegsBut [cSMP, cHBM, cARB, cPORT, cTIM, cERR] s u)) ∧
  (∀ (s : State) (c nodes edges first count : Nat) (d : WalkDesc), WalkReady s c d → s.walkStarts c = true → s.walkOf c = none → d.op = 2 → d.badReplay = false →
    nodes = jrnlWord s d 4 → edges = jrnlWord s d 8 → first = jrnlWord s d (0x10 + 12 * (d.hops - 1)) →
    count = jrnlWord s d (0x14 + 12 * (d.hops - 1)) → d.hops ≤ (hbmByte s d.jrnl).toNat →
    Readable s d.jrnl (64 + 16 * (first + count)) → Readable s d.edgeOut (16 * edges) → Readable s d.rowptr (nodes * d.rowStride) →
    Clear s d.colidx (nodes * d.rowStride) true → SoundRun s d.colidx (nodes * d.rowStride) → (d.agg = 2 → Readable s d.rowBase (4 * edges)) →
    apart d.rowptr (nodes * d.rowStride) d.colidx (nodes * d.rowStride) →
    (∀ i, i < count → bfield (centreAt s d (first + i)) 0 4 < nodes ∧ bfield (centreAt s d (first + i)) 4 4 + bfield (centreAt s d (first + i)) 8 2 ≤ edges) →
    (∀ x ∈ replayEdges s d, x.1 < nodes ∧ x.2.1 < nodes) →
    ∃ u, exec (.replay c) s = .next u ∧ u.walkOf c = some { hop := 0, exps := [], parts := [], fin := some 0 } ∧ u.ctx c = s.ctx c ∧
      (∀ i k, i < nodes → k < d.dim → rowElem u d d.colidx i k =
        ((replayEdges s d).filter fun x => x.2.1 == i).foldl (fun a x => fadd32 a (fmul32 x.2.2 (rowElem s d d.rowptr x.1 k)))
          (if d.acc then rowElem s d d.colidx i k else 0)) ∧
      (∀ b, (∀ i, i < nodes → b < d.colidx + i * d.rowStride ∨ d.colidx + i * d.rowStride + 4 * d.dim ≤ b) → hbmByte u b = hbmByte s b) ∧
      (∀ e, e ≠ c → u.ctx e = s.ctx e ∧ u.walkOf e = s.walkOf e) ∧ RegsBut [cSMP, cHBM, cARB, cFIRN] s u) ∧
  (∀ (s : State) (c st : Nat) (d : WalkDesc) (w : WalkSt), WalkReady s c d → s.walkOf c = some w → w.fin = some st →
    Clear s (s.ctx c).wdesc 128 true → Clear s (s.recAddr c) 256 true → MemUp s (rqTile (ctxFloe c)) →
    apart (s.recAddr c) 256 (s.ctx c).wdesc 128 →
    (d.op = 1 → st ≠ 0x10 → Readable s (d.jrnl + 64) (16 * ((s.ctx c).sreg 4).toNat) ∧ Clear s d.jrnl 64 true ∧ SoundRun s d.jrnl 64 ∧
      apart d.jrnl 64 (s.recAddr c) 256 ∧ apart d.jrnl 64 (s.ctx c).wdesc 128) →
    ∃ u, exec (.walkEnd c) s = .next u ∧ (u.ctx c).state = .done ∧ (u.ctx c).exit = st ∧ (u.ctx c).tile = none ∧ u.walkOf c = none ∧
      hbmByte u ((s.ctx c).wdesc + 3) = BitVec.ofNat 8 st ∧ (d.op = 1 → st ≠ 0x10 → hbmByte u (d.jrnl + 1) = BitVec.ofNat 8 st) ∧
      hbmBytes u (s.recAddr c) 256 = (u.ctx c).bytes ∧
      (∀ b, b ≠ (s.ctx c).wdesc + 3 → (b ≠ d.jrnl + 1 ∨ d.op ≠ 1 ∨ st = 0x10) → (b < s.recAddr c ∨ s.recAddr c + 256 ≤ b) → hbmByte u b = hbmByte s b) ∧
      u.rd cSMP (ctxFloe c) SMP.WALKS_DONE = s.rd cSMP (ctxFloe c) SMP.WALKS_DONE + 1 ∧
      u.rd cSMP (ctxFloe c) SMP.LAST = u32 (st * 2 ^ 24 + ctxLocal c) ∧ (∀ e, e ≠ c → u.ctx e = s.ctx e ∧ u.walkOf e = s.walkOf e) ∧
      u.ts = s.ts ∧ (∀ t, t < 128 → u.vecOf t = s.vecOf t))

/-- LOOKUP and GATHER split rows by owner, owners serve records, answers fill output rows, parts time out, commands complete -/
def Obligations.LookupsGoToOwnersAndBack : Prop :=
  (∀ (s : State) (n ver : Nat) (b td : Bytes) (d : XDesc) (rows : List XRow), XHead s n b d → d.op = 1 → XTable s n d td →
    ver = s.curVer n d.table → HotReady s d.table td ver → rows = ((List.range d.count).map fun i => placeOf s d.table td ver (idAt s d i % 2 ^ 40)) →
    (∀ r k, .hot r ∈ rows → s.slotOf d.table ver = some k → Readable s (tHotRep td k + tRec td * r) (tRec td)) →
    (∀ r ∈ (d.runs td).tail, apart d.ws d.wsLen r.1 r.2.1) → .bad ∉ rows → ReportFits d (partsOf (s.partDue n) rows).length →
    ∃ u c, exec (.lookup n) s = .next u ∧ (u.xchOf n).cmds = (s.xchOf n).cmds ++ [c] ∧ c.idx = s.ringHead cXCH n ∧ c.op = 1 ∧ c.desc = b ∧
      c.tdesc = td ∧ c.ver = ver ∧ c.rows = rows ∧ c.bags = bagsAt s d ∧ c.parts = partsOf (s.partDue n) rows ∧ c.status = none ∧
      c.pois = false ∧ PartsSent s u n c ∧ HeadGone s u cXCH n ∧
      (∀ r k, .hot r ∈ rows → s.slotOf d.table ver = some k →
        c.rowVal (.hot r) = some (rowDecode (tCode td) (tDim td) (hbmBytes s (tHotRep td k + tRec td * r) (tRec td))).1) ∧
      (∀ i r l, d.pool = 0 → rows[i]? = some (.hot r) → c.rowVal (.hot r) = some l →
        hbmBytes u (d.data + d.stride * i) (outLen d td) = outRow d.bf16 l) ∧
      (∀ a, (a < d.ws ∨ d.ws + d.wsLen ≤ a) →
        (∀ i r, d.pool = 0 → rows[i]? = some (.hot r) → a < d.data + d.stride * i ∨ d.data + d.stride * i + outLen d td ≤ a) →
        hbmByte u a = hbmByte s a) ∧ XchOnly s u n) ∧
  (∀ (s : State) (n : Nat) (b td : Bytes) (d : XDesc) (rows : List XRow), XHead s n b d → d.op = 3 → XTable s n d td →
    rows = ((List.range d.count).map fun i => if (ranksAt s td).contains (idAt s d i / 2 ^ 48 % 65536)
      then .at (idAt s d i / 2 ^ 48 % 65536) (idAt s d i % 2 ^ 40) else .bad) → .bad ∉ rows →
    ReportFits d (partsOf (s.partDue n) rows).length →
    ∃ u c, exec (.gather n) s = .next u ∧ (u.xchOf n).cmds = (s.xchOf n).cmds ++ [c] ∧ c.idx = s.ringHead cXCH n ∧ c.op = 3 ∧ c.desc = b ∧
      c.tdesc = td ∧ c.rows = rows ∧ c.parts = partsOf (s.partDue n) rows ∧ c.status = none ∧ c.pois = false ∧
      PartsSent s u n c ∧ HeadGone s u cXCH n ∧
      (∀ a, (a < d.ws ∨ d.ws + d.wsLen ≤ a) → hbmByte u a = hbmByte s a) ∧ XchOnly s u n) ∧
  (∀ (s : State) (n src t ver tag : Nat) (rows : List Nat) (td : Bytes), ServesTable s n t → MemUp s (rqXch n) →
    Readable s (s.tblAddr n t) 128 → td = hbmBytes s (s.tblAddr n t) 128 → tShards td ≤ 65536 → Readable s (tRanks td) (2 * tShards td) →
    (s.serves n src = false → ∃ u, exec (.lookupBatchServe n src t ver tag rows) s = .next u ∧
      Answers s u n (.xchRows n src t tag 4 []) ∧ u.hbm = s.hbm ∧ (∀ j, u.xchOf j = s.xchOf j) ∧ XchOnly s u n) ∧
    (s.serves n src = true → s.slotOf t (if ver = 65536 then s.curVer n t else ver) = none →
      ∃ u, exec (.lookupBatchServe n src t ver tag rows) s = .next u ∧ Answers s u n (.xchRows n src t tag 2 []) ∧ u.hbm = s.hbm ∧
        (∀ j, u.xchOf j = s.xchOf j) ∧ XchOnly s u n) ∧
    (∀ k shard, s.serves n src = true → s.slotOf t (if ver = 65536 then s.curVer n t else ver) = some k →
      (ranksAt s td).findIdx? (· == s.myRank) = some shard →
      (∀ g ∈ rows, globalRow td shard g < tRows td ∧ Readable s (tBase td k + tRec td * g) (tRec td)) →
      ∃ u, exec (.lookupBatchServe n src t ver tag rows) s = .next u ∧ u.hbm = s.hbm ∧ XchOnly s u n ∧ (∀ j, u.xchOf j = s.xchOf j) ∧
        Answers s u n (.xchRows n src t tag 0 (rows.map fun g => (hbmBytes s (tBase td k + tRec td * g) (tRec td), false))))) ∧
  (∀ (s : State) (n ring owner st : Nat) (recs : List Bytes) (c : XchCmd) (p : XPart) (d : XDesc), n < 2 → s.pageOn cXCH n = true →
    s.cmdAt n ring = some c → c.openPart owner = some p → (c.op = 1 ∨ c.op = 3) → d = xDescOf c.desc →
    (statusFails st = true → ∃ u, exec (.lookupAnswer n ring owner st recs []) s = .next u ∧
      u.cmdAt n ring = some (c.setPart owner fun p => { p with status := some st }) ∧ Counts s u cXCH n XCH.PART_FAIL_CNT 1 ∧ u.hbm = s.hbm ∧
      XchOnly s u n) ∧
    (statusFails st = false → MemUp s (rqXch n) → recs.length = p.rows.length → p.rows.Nodup → (∀ v ∈ c.vals, v.1.1 ≠ owner) → c.rows.length = d.count →
      (d.pool = 0 → Clear s d.data (d.stride * d.count) true ∧ SoundRun s d.data (d.stride * d.count) ∧ outLen d c.tdesc ≤ d.stride) →
      ∃ u, exec (.lookupAnswer n ring owner st recs []) s = .next u ∧
        u.cmdAt n ring = some { c.setPart owner (fun p => { p with status := some 0 }) with
          vals := c.vals ++ (p.rows.zip recs).map fun e => ((owner, e.1), some (rowDecode (tCode c.tdesc) (tDim c.tdesc) e.2).1) } ∧
        (∀ (i j g : Nat) (rec : Bytes), d.pool = 0 → c.rows[i]? = some (.at owner g) → p.rows[j]? = some g → recs[j]? = some rec →
          hbmBytes u (d.data + d.stride * i) (outLen d c.tdesc) = outRow d.bf16 (rowDecode (tCode c.tdesc) (tDim c.tdesc) rec).1) ∧
        (∀ a, (d.pool = 0 → ∀ i g, c.rows[i]? = some (.at owner g) → g ∈ p.rows →
          a < d.data + d.stride * i ∨ d.data + d.stride * i + outLen d c.tdesc ≤ a) → hbmByte u a = hbmByte s a) ∧ XchOnly s u n)) ∧
  (∀ (s : State) (n ring owner st : Nat) (c : XchCmd) (p : XPart), n < 2 → s.pageOn cXCH n = true → s.cmdAt n ring = some c →
    c.openPart owner = some p → c.op ≤ 5 →
    (p.due ≤ s.clk.time → p.sends ≤ s.retries n →
      ∃ u, exec (.partDeadlineExpire n (.ring ring) owner) s = .next u ∧ Counts s u cXCH n XCH.RETRY_CNT 1 ∧
        u.cmdAt n ring = some (c.setPart owner fun p => p.again (s.partDue n)) ∧
        Answers s u n (partMsg n (c.setPart owner fun p => p.again (s.partDue n)) p) ∧ u.hbm = s.hbm ∧ XchOnly s u n) ∧
    (p.due ≤ s.clk.time → s.retries n < p.sends →
      ∃ u, exec (.partDeadlineExpire n (.ring ring) owner) s = .next u ∧ Counts s u cXCH n XCH.PART_FAIL_CNT 1 ∧
        u.cmdAt n ring = some (c.setPart owner fun p => { p with status := some 1 }) ∧ u.hbm = s.hbm ∧ XchOnly s u n) ∧
    (st < 256 → (statusFails st = true ∨ c.op = 2 ∨ c.op = 4) →
      ∃ u, exec (.partAnswer n (.ring ring) owner st []) s = .next u ∧
        u.cmdAt n ring = some (c.setPart owner fun p => { p with status := some st }) ∧ u.hbm = s.hbm ∧ XchOnly s u n)) ∧
  (∀ (s : State) (n c owner st : Nat) (nodes : List ExpNode) (w : WalkSt) (p : XPart) (d : WalkDesc), n < 2 → s.pageOn cXCH n = true →
    s.walkOf c = some w → w.parts.find? (fun p => p.owner == owner && p.status.isNone) = some p → ctxFloe c = n →
    MemUp s (rqXch n) → Readable s (s.ctx c).wdesc 128 → d = walkDescOf (hbmBytes s (s.ctx c).wdesc 128) →
    (p.due ≤ s.clk.time → s.retries n < p.sends →
      ∃ u, exec (.partDeadlineExpire n (.walk c) owner) s = .next u ∧ u.walkOf c = some (w.settle owner 1 (failedNodes p)) ∧ u.hbm = s.hbm) ∧
    (st < 256 → statusFails st = false →
      ∃ u, exec (.partAnswer n (.walk c) owner st nodes) s = .next u ∧ u.hbm = s.hbm ∧
        u.walkOf c = some (w.settle owner st (answered (d.fan w.hop) d.thresh p nodes)))) ∧
  (∀ (s : State) (m n t k : Nat) (v : BitVec 32), t < 256 → k < 2 → n = t % 2 → OwnerReady s m cXCH n (XCH.SLOT + 8 * t + 4 * k) →
    (bit v 31 = true → bit (s.slotReg t k) 31 = false → bit (s.slotReg t k) 30 = false →
      (bit (s.slotReg t (1 - k)) 31 = false ∨ fld (s.slotReg t (1 - k)) 0 16 ≠ fld v 0 16) →
      ∃ u, exec (.slotWrite m n t k v) s = .next u ∧ u.slotReg t k = u32 (2 ^ 31 + fld v 0 16) ∧
        Acks u m cXCH n (XCH.SLOT + 8 * t + 4 * k) 0 ∧ OnlyRegs [rk cXCH n (XCH.SLOT + 8 * t + 4 * k)] (answering s m) u) ∧
    (bit v 31 = false → bit (s.slotReg t k) 31 = true →
      ∃ u, exec (.slotWrite m n t k v) s = .next u ∧
        u.slotReg t k = (if s.slotPins t k = 0 then u32 (fld (s.slotReg t k) 0 16) else s.slotReg t k ||| 0x40000000) ∧
        Acks u m cXCH n (XCH.SLOT + 8 * t + 4 * k) 0 ∧ OnlyRegs [rk cXCH n (XCH.SLOT + 8 * t + 4 * k)] (answering s m) u)) ∧
  (∀ (s : State) (n : Nat) (c : XchCmd) (rest : List XchCmd), n < 2 → s.pageOn cXCH n = true → (s.xchOf n).cmds = c :: rest → c.ready s.myRank = true →
    XchCalm s n →
    MemUp s (rqXch n) → (∀ r ∈ s.doneRuns n c, Clear s r.1 r.2.1 r.2.2 ∧ SoundRun s r.1 r.2.1) →
    (c.status = none → c.op = 2 → apart (s.ringAddr cXCH n c.idx) 128 (xDescOf c.desc).parts (partReport c.parts).length) →
    (c.status ≠ none ∨ c.op = 2 ∨ 0x10 ≤ c.op) →
    ∃ u, exec (.xchCmdComplete n) s = .next u ∧ (u.xchOf n).cmds = rest ∧ hbmByte u (s.ringAddr cXCH n c.idx + 3) = BitVec.ofNat 8 c.final ∧
      u.rd cXCH n rDone = s.rd cXCH n rDone + 1 ∧ u.rd cXCH n rLast = u32 (c.final * 2 ^ 24 + c.idx % 65536) ∧
      (c.irq = true → u.rdb cXCH n hIRQ_STAT 0 = true) ∧
      (c.status = none → c.op = 2 → hbmBytes u (xDescOf c.desc).parts (partReport c.parts).length = partReport c.parts) ∧
      (∀ a, a ≠ s.ringAddr cXCH n c.idx + 3 → ((xDescOf c.desc).parts ≤ a → a < (xDescOf c.desc).parts + (partReport c.parts).length →
        c.status ≠ none ∨ c.op ≠ 2) → hbmByte u a = hbmByte s a) ∧ XchOnly s u n)

/-- SCATTER sends row sums, a batch is accepted once and pins its slot, a group updates its rows once; DISPATCH and RETURN carry rows -/
def Obligations.ScattersApplyOnceAndExpertsTravel : Prop :=
  (∀ (s : State) (n : Nat) (b td : Bytes) (d : XDesc) (rows : List XRow) (sums : List ((Nat × Nat) × List W32 × Bool)), XHead s n b d →
    d.op = 2 → XTable s n d td → ReportFits d (ascSet (ranksAt s td)).length → HotReady s d.table td (s.curVer n d.table) →
    rows = ((List.range d.count).map fun i => placeOf s d.table td (s.curVer n d.table) (idAt s d i % 2 ^ 40)) → .bad ∉ rows →
    sums = scatterSums d (bagsAt s d) rows ((List.range d.outs).map fun i => (fpRow s (d.data + d.stride * i) (tDim td), false)) →
    ∃ u c, exec (.scatter n) s = .next u ∧ (u.xchOf n).cmds = (s.xchOf n).cmds ++ [c] ∧ c.idx = s.ringHead cXCH n ∧ c.op = 2 ∧ c.desc = b ∧
      c.ver = s.curVer n d.table ∧ c.status = none ∧ c.parts.map (·.owner) = ascSet (ranksAt s td) ∧
      (∀ o g l p, (g, l, p) ∈ c.outFor o ↔ o ∈ ranksAt s td ∧ (sums.find? fun e => e.1 == (o, g)) = some ((o, g), l, p)) ∧
      (∀ p ∈ c.parts, p.rows = (c.outFor p.owner).map (·.1) ∧ p.status = none) ∧
      PartsSent s u n c ∧ HeadGone s u cXCH n ∧
      (∀ a, (a < d.ws ∨ d.ws + d.wsLen ≤ a) → (a < d.hotGrad ∨ d.hotGrad + tHot td * ((tDim td + 31) / 32) * 68 ≤ a) →
        hbmByte u a = hbmByte s a) ∧ XchOnly s u n) ∧
  (∀ (s : State) (n src t ver step batch k shard : Nat) (rows : List (Nat × List (BitVec 32) × Bool)) (td : Bytes),
    BatchReady s n src t ver k shard td → (∀ r ∈ rows, globalRow td shard r.1 < tRows td) →
    (Ledgered s n t step src batch →
      ∃ u, exec (.scatterBatchAccept n src t ver step batch rows) s = .next u ∧ Answers s u n (.xchAck n src t step batch 5) ∧
        Counts s u cXCH n XCH.DUP_IGNORED_CNT 1 ∧ (∀ j, u.xchOf j = s.xchOf j) ∧ u.hbm = s.hbm ∧ XchOnly s u n) ∧
    (¬ Ledgered s n t step src batch → ledgerSpot s n step = none →
      ∃ u, exec (.scatterBatchAccept n src t ver step batch rows) s = .next u ∧ Answers s u n (.xchAck n src t step batch 6) ∧
        (∀ j, u.xchOf j = s.xchOf j) ∧ u.hbm = s.hbm ∧ XchOnly s u n) ∧
    (∀ half cnt, ¬ Ledgered s n t step src batch → ledgerSpot s n step = some (half, cnt, false) → 2 ^ s.ledgerLog n ≤ cnt →
      ∃ u, exec (.scatterBatchAccept n src t ver step batch rows) s = .next u ∧ Answers s u n (.xchAck n src t step batch 7) ∧
        Counts s u cXCH n XCH.LEDGER_FULL_CNT 1 ∧ (∀ j, u.xchOf j = s.xchOf j) ∧ u.hbm = s.hbm ∧ XchOnly s u n) ∧
    (∀ half cnt new, ¬ Ledgered s n t step src batch → ledgerSpot s n step = some (half, cnt, new) → cnt < 2 ^ s.ledgerLog n →
      ∃ u, exec (.scatterBatchAccept n src t ver step batch rows) s = .next u ∧ Answers s u n (.xchAck n src t step batch 0) ∧
        (new = true → ∀ a, s.ledgerBase n + half * 2 ^ s.ledgerLog n * 16 + 16 ≤ a →
          a < s.ledgerBase n + (half + 1) * 2 ^ s.ledgerLog n * 16 → hbmByte u a = 0) ∧
        hbmBytes u (s.ledgerBase n + (half * 2 ^ s.ledgerLog n + cnt) * 16) 16 = ledgerEntry t step src batch ∧
        (new = false → (u.xchOf n).groups = (s.joinGroup n t step batch k src rows |>.xchOf n).groups) ∧
        ((∀ g ∈ (s.xchOf n).groups, g.table = t → g.step = step → g.batch ≠ batch) → u.slotPins t k = s.slotPins t k + 1) ∧
        (u.xchOf n).cmds = (s.xchOf n).cmds ∧
        (∀ a, (a < s.ledgerBase n + (half * 2 ^ s.ledgerLog n + cnt) * 16 ∨ s.ledgerBase n + (half * 2 ^ s.ledgerLog n + cnt) * 16 + 16 ≤ a) →
          (new = true → a < s.ledgerBase n + half * 2 ^ s.ledgerLog n * 16 ∨ s.ledgerBase n + (half + 1) * 2 ^ s.ledgerLog n * 16 ≤ a) →
          (a < (s.inboxRun n).1 ∨ (s.inboxRun n).1 + (s.inboxRun n).2 ≤ a) → hbmByte u a = hbmByte s a) ∧ XchOnly s u n)) ∧
  (∀ (s : State) (n t step batch : Nat), n < 2 → s.pageOn cXCH n = true →
    ∃ u, exec (.applyWaitExpire n t step batch) s = .next u ∧ (u.xchOf n).groups = (s.xchOf n).groups.map (fun g =>
        if g.table = t ∧ g.step = step ∧ g.batch = batch ∧ g.late = false ∧ g.due ≤ s.clk.time then { g with expired := true } else g) ∧
      u = { s with xch := u.xch } ∧ ∀ j, j ≠ n → u.xchOf j = s.xchOf j) ∧
  (∀ (s : State) (n t step batch shard : Nat) (td : Bytes) (g : XGroup), s.xchOn n = true → s.pageOn cOPT n = true → MemUp s (rqXch n) →
    Readable s (s.tblAddr n t) 128 → td = hbmBytes s (s.tblAddr n t) 128 → tShards td ≤ 65536 → Readable s (tRanks td) (2 * tShards td) →
    s.readyGroup n t step batch (ascSet (ranksAt s td)) = some g → (ranksAt s td).findIdx? (· == s.myRank) = some shard →
    (∀ r ∈ applyRuns td g, Clear s r.1 r.2.1 r.2.2 ∧ SoundRun s r.1 r.2.1) → (f32 (tDivisor td)).isZero = false → s.rdb cOPT n hCTRL 1 = false →
    (∀ r q, r ∈ groupRows g → q ∈ groupRows g → apart (tBase td g.slot + tRec td * r) (tRec td) (tAcc td g.slot + 4 * q) 4) →
    (∀ st : Nat × Nat, st = (s.rd64 cXCH n XCH.STAGE_BASE_LO % 2 ^ 48 / 65536 * 65536, (groupRows g).length * (tRec td + 4 + 4 * tDim td)) →
      Clear s st.1 st.2 true ∧ SoundRun s st.1 st.2 ∧ ∀ r ∈ applyRuns td g, apart st.1 st.2 r.1 r.2.1) →
    ∃ u, exec (.scatterApply n t step batch) s = .next u ∧ g ∉ (u.xchOf n).groups ∧ (∀ h, h ≠ g → (h ∈ (u.xchOf n).groups ↔ h ∈ (s.xchOf n).groups)) ∧
      (g.late = false → (u.xchOf n).applied = (s.xchOf n).applied ++ [(g.table, g.step, g.batch)]) ∧
      (g.late = true → Counts s u cXCH n XCH.LATE_APPLY_CNT 1 ∧ (u.xchOf n).applied = (s.xchOf n).applied) ∧
      (∀ r ∈ groupRows g, hbmBytes u (tBase td g.slot + tRec td * r) (tRec td) =
        (chainOut s n td g shard r).bytes.getD (hbmBytes s (tBase td g.slot + tRec td * r) (tRec td))) ∧
      (∀ r ∈ groupRows g, ∀ a, (chainOut s n td g shard r).acc = some a → hbmBytes u (tAcc td g.slot + 4 * r) 4 = toLE 4 a.toNat) ∧
      (∀ a, (∀ r ∈ applyRuns td g, a < r.1 ∨ r.1 + r.2.1 ≤ a) → (a < s.rd64 cXCH n XCH.STAGE_BASE_LO % 2 ^ 48 / 65536 * 65536 ∨
          s.rd64 cXCH n XCH.STAGE_BASE_LO % 2 ^ 48 / 65536 * 65536 + (groupRows g).length * (tRec td + 4 + 4 * tDim td) ≤ a) →
        hbmByte u a = hbmByte s a) ∧ u.ts = s.ts ∧ u.ctxs = s.ctxs ∧ RegsBut [cXCH, cOPT, cHBM, cARB, cERR, cFIRN] s u) ∧
  (∀ (s : State) (n : Nat) (b : Bytes) (d : XDesc) (as : List Assign), XHead s n b d → d.op = 4 → d.bad [] [] = false → as = assigns s d →
    (∀ r ∈ d.runs [], Clear s r.1 r.2.1 r.2.2.2 ∧ SoundRun s r.1 r.2.1) → Readable s d.bags (4 * expertsOf s d) →
    (∀ i, i < d.count → Readable s (d.data + d.stride * i) (4 * d.dimx) ∧ apart (d.data + d.stride * i) (4 * d.dimx) d.ids (16 * d.count)) →
    apart d.ws d.wsLen d.ids (16 * d.count) →
    ∃ u c, exec (.dispatch n) s = .next u ∧ (u.xchOf n).cmds = (s.xchOf n).cmds ++ [c] ∧ c.idx = s.ringHead cXCH n ∧ c.op = 4 ∧ c.desc = b ∧
      c.status = none ∧ c.parts.map (·.owner) = ascSet ((List.range (expertsOf s d)).map (ownerOf s d)) ∧
      (∀ p ∈ c.parts, p.rows = expertOrder as ((((indexed as).filter (acceptedRec (indexed as) d.nbags)).filter
          fun e => ownerOf s d e.1.expert == p.owner).map (·.2)) ∧ p.status = none ∧
        (c.outFor p.owner).map (·.1) = p.rows) ∧
      (u.xchOf n).disp = (s.xchOf n).disp.filter (·.step != d.step) ++ [⟨d.step, c.parts.map fun p => (p.owner, p.rows)⟩] ∧
      PartsSent s u n c ∧
      (∀ i a, as[i]? = some a → hbmByte u (d.ids + 16 * i + 0xB) =
        BitVec.ofNat 8 (a.flags / 2 * 2 + b2n (!acceptedRec (indexed as) d.nbags (a, i)))) ∧
      (∀ x, (∀ i, i < d.count → x ≠ d.ids + 16 * i + 0xB) → (x < d.ws ∨ d.ws + d.wsLen ≤ x) → hbmByte u x = hbmByte s x) ∧ XchOnly s u n) ∧
  (∀ (s : State) (n : Nat) (b : Bytes) (d : XDesc), XHead s n b d → d.op = 5 → d.bad [] [] = false →
    (∀ r ∈ d.runs [], Clear s r.1 r.2.1 r.2.2.2 ∧ SoundRun s r.1 r.2.1) → (s.xchOf n).disp.find? (·.step == d.step) = none →
    ∃ u c, exec (.xchReturn n) s = .next u ∧ (u.xchOf n).cmds = (s.xchOf n).cmds ++ [c] ∧ c.idx = s.ringHead cXCH n ∧ c.op = 5 ∧ c.desc = b ∧
      c.parts = [] ∧ u.outbox = s.outbox ∧ (∀ a, (a < d.ws ∨ d.ws + d.wsLen ≤ a) → hbmByte u a = hbmByte s a) ∧ XchOnly s u n) ∧
  (∀ (s : State) (n : Nat) (b : Bytes) (d : XDesc) (src cnt : Nat) (recs : List Nat), XHead s n b d → d.op = 5 → d.bad [] [] = false →
    (∀ r ∈ d.runs [], Clear s r.1 r.2.1 r.2.2.2 ∧ SoundRun s r.1 r.2.1) → (s.xchOf n).disp.find? (·.step == d.step) = some ⟨d.step, [(src, recs)]⟩ →
    cnt = leNat (hbmBytes s d.recv 4) → inDevSpace d.recv (64 + recvPitch d.dimx * cnt) = true → (∀ j, j < cnt → Readable s (d.recv + 64 + recvPitch d.dimx * j) (4 * d.dimx)) →
    ∃ u c, exec (.xchReturn n) s = .next u ∧ (u.xchOf n).cmds = (s.xchOf n).cmds ++ [c] ∧ c.parts = [⟨src, recs, 1, s.partDue n, none⟩] ∧
      Answers s u n (.xchExpert n src (s.ringHead cXCH n) d.step true
        ((List.range cnt).map fun j => (fpRow s (d.recv + 64 + recvPitch d.dimx * j) d.dimx, false)))) ∧
  (∀ (s : State) (n src step : Nat) (ret : Bool) (rows : List (List (BitVec 32) × Bool)) (c : XchCmd) (d : XDesc), s.xchOn n = true →
    (s.xchOf n).arrived = [] → (s.xchOf n).cmds = [c] → d = xDescOf c.desc → d.step = step → c.op = (if ret then 5 else 4) → c.status = none →
    (ret = true → ∃ p ∈ c.parts, p.owner = src) → (∀ r ∈ c.recvd, r.1 ≠ src) →
    (ret = false → ∃ u, exec (.expertBatchReceive n src step ret rows false) s = .next u ∧
      (u.xchOf n).cmds = [{ c with recvd := c.recvd ++ [(src, some rows)] }] ∧ Answers s u n (.xchAck n src 0 step 0 0) ∧
      u.hbm = s.hbm ∧ XchOnly s u n) ∧
    (∀ p, ret = true → c.openPart src = some p → MemUp s (rqXch n) → Clear s d.data (d.stride * d.count) true → SoundRun s d.data (d.stride * d.count) →
      (∀ x ∈ rows, x.2 = false ∧ x.1.length = d.dimx) → 4 * d.dimx ≤ d.stride → p.rows.Nodup → (∀ i ∈ p.rows, i < d.count) →
      ∃ u, exec (.expertBatchReceive n src step ret rows false) s = .next u ∧
        (u.xchOf n).cmds = [{ c.setPart src (fun p => { p with status := some 0 }) with recvd := c.recvd ++ [(src, some rows)] }] ∧
        (∀ (j i : Nat) (l : List W32), p.rows[j]? = some i → rows[j]? = some (l, false) → fpRow u (d.data + d.stride * i) d.dimx = l) ∧
        (∀ a, (∀ i ∈ p.rows, a < d.data + d.stride * i ∨ d.data + d.stride * i + 4 * d.dimx ≤ a) → hbmByte u a = hbmByte s a) ∧ XchOnly s u n))

/-- OFFLOAD copies away and marks AWAY, PREFETCH brings back, DROP frees; a shift readies, sends, fills and acknowledges -/
def Obligations.OffloadCopiesAndShiftsTravel : Prop :=
  (∀ (s : State) (n : Nat) (b : Bytes) (d : ODesc), OHead s n 0x10 b d → d.target = 0 → Readable s d.src d.len → Writable s d.dst d.len →
    Writable s (d.odir + 32 * d.entry) 32 → (entAt s d d.entry).state = 0 → (entAt s d d.entry).resv = false →
    apart (d.odir + 32 * d.entry) 32 d.src d.len → apart (d.odir + 32 * d.entry) 32 d.dst d.len →
    ∃ u, exec (.offload n) s = .next u ∧ hbmBytes u d.dst d.len = hbmBytes s d.src d.len ∧
      hbmBytes u (d.odir + 32 * d.entry) 32 = (⟨2, 0, d.layer, d.buf, d.src, d.dst, d.len, false⟩ : OEnt).bytes ∧
      (∀ a, (a < d.dst ∨ d.dst + d.len ≤ a) → (a < d.odir + 32 * d.entry ∨ d.odir + 32 * d.entry + 32 ≤ a) → hbmByte u a = hbmByte s a) ∧
      (u.xchOf n).cmds = (s.xchOf n).cmds ++ [{ idx := s.ringHead cXCH n, op := 0x10, irq := d.irq, desc := b, status := some 0 }] ∧
      HeadGone s u cXCH n ∧ OneEngine s u n) ∧
  (∀ (s : State) (n : Nat) (b : Bytes) (d : ODesc) (es : List OEnt), OHead s n 0x11 b d → Writable s d.odir (32 * d.olen) →
    es = (List.range d.olen).map (entAt s d) → (∀ e ∈ es, e.resv = true → e.state = 0) →
    (dirMatch es d.layer [2] = [] → ∃ u, exec (.prefetch n) s = .next u ∧ u.hbm = s.hbm ∧ OneEngine s u n ∧ HeadGone s u cXCH n ∧
      (u.xchOf n).cmds = (s.xchOf n).cmds ++ [{ idx := s.ringHead cXCH n, op := 0x11, irq := d.irq, desc := b, status := some 0 }]) ∧
    (∀ k e, dirMatch es d.layer [2] = [k] → e = entAt s d k → e.target = 0 → e.len % 64 = 0 → e.away % 64 = 0 → Readable s e.away e.len →
      Writable s e.home e.len → apart e.home e.len e.away e.len → apart e.home e.len d.odir (32 * d.olen) → apart e.away e.len d.odir (32 * d.olen) →
      ∃ u, exec (.prefetch n) s = .next u ∧ hbmBytes u e.home e.len = hbmBytes s e.away e.len ∧
        hbmByte u (d.odir + 32 * k) = (if d.keep then 2 else 0) ∧
        (∀ a, (a < e.home ∨ e.home + e.len ≤ a) → a ≠ d.odir + 32 * k → hbmByte u a = hbmByte s a) ∧
        (u.xchOf n).cmds = (s.xchOf n).cmds ++ [{ idx := s.ringHead cXCH n, op := 0x11, irq := d.irq, desc := b, status := some 0 }] ∧
        HeadGone s u cXCH n ∧ OneEngine s u n)) ∧
  (∀ (s : State) (n : Nat) (b : Bytes) (d : ODesc) (es : List OEnt), OHead s n 0x12 b d → Writable s d.odir (32 * d.olen) →
    es = (List.range d.olen).map (entAt s d) → (∀ e ∈ es, e.resv = true → e.state = 0) →
    ∃ u, exec (.drop n) s = .next u ∧ (∀ k ∈ dirMatch es d.layer [2, 4], hbmByte u (d.odir + 32 * k) = 0) ∧
      (∀ a, (∀ k ∈ dirMatch es d.layer [2, 4], a ≠ d.odir + 32 * k) → hbmByte u a = hbmByte s a) ∧
      (u.xchOf n).cmds = (s.xchOf n).cmds ++ [{ idx := s.ringHead cXCH n, op := 0x12, irq := d.irq, desc := b, status := some 0 }] ∧
      HeadGone s u cXCH n ∧ OneEngine s u n) ∧
  (∀ (s : State) (n : Nat) (b : Bytes) (d : ODesc), OHead s n 0x18 b d → (s.xchOf n).cmds = [] →
    (s.axisLen 2 = 1 → Readable s d.src d.len → Writable s d.dst d.len →
      ∃ u, exec (.kvShift n) s = .next u ∧ Stored s u d.dst (hbmBytes s d.src d.len) ∧ HeadGone s u cXCH n ∧ OneEngine s u n ∧
        (u.xchOf n).cmds = [{ idx := s.ringHead cXCH n, op := 0x18, irq := d.irq, desc := b, status := some 0 }]) ∧
    (s.axisLen 2 ≠ 1 → (∀ r ∈ (s.xchOf n).ready, d.isFor r.1 r.2.1 = false) → (∀ r ∈ (s.xchOf n).held, d.isFor r.1 r.2.1 = false) →
      ∃ u, exec (.kvShift n) s = .next u ∧ Answers s u n (.kvReady n (s.kvRank d.dir false) d.dir d.round d.len) ∧ u.hbm = s.hbm ∧ HeadGone s u cXCH n ∧
        OneEngine s u n ∧ (u.xchOf n).cmds = [{ idx := s.ringHead cXCH n, op := 0x18, irq := d.irq, desc := b }])) ∧
  (∀ (s : State) (n dir round len : Nat), n < 2 → s.pageOn cXCH n = true →
    ((s.xchOf n).cmds = [] → ∃ u, exec (.kvReady n dir round len) s = .next u ∧
      u.xchOf n = { s.xchOf n with ready := (s.xchOf n).ready.filter (fun e => (e.1, e.2.1) != (dir, round)) ++ [(dir, round, len)] } ∧ u = { s with xch := u.xch } ∧ OneEngine s u n) ∧
    (∀ c d, (s.xchOf n).cmds = [c] → d = oDescOf c.desc → c.op = 0x18 → c.status = none → c.kv.fail = false → c.kv.sent = false →
      d.dir = dir → d.round = round → d.len = len → s.rdb cXCH n hFREEZE 0 = false → (∀ h ∈ (s.xchOf n).held, d.isFor h.1 h.2.1 = false) →
      MemUp s (rqXch n) → Readable s d.src d.len →
      ∃ u, exec (.kvReady n dir round len) s = .next u ∧ u.hbm = s.hbm ∧ OneEngine s u n ∧
        Answers s u n (.kvData n (s.kvRank dir true) dir round (hbmBytes s d.src d.len) (List.replicate (d.len / 64) false)) ∧
        (u.xchOf n).cmds = [{ c with kv := { c.kv with ready := some len, sent := true, due := s.partDue n, sends := c.kv.sends + 1 } }] ∧
        (u.xchOf n).ready = (s.xchOf n).ready.filter (fun e => (e.1, e.2.1) != (dir, round)))) ∧
  (∀ (s : State) (n dir round : Nat) (data : Bytes) (pois : List Bool), n < 2 → s.pageOn cXCH n = true → s.rdb cXCH n hFREEZE 0 = false →
    ((dir, round) ∈ (s.xchOf n).last →
      exec (.kvShiftData n dir round data pois) s = .next (s.inject (9 + n) (.kvAck n (s.kvRank dir false) dir round))) ∧
    ((dir, round) ∉ (s.xchOf n).last → (s.xchOf n).cmds = [] → ∃ u, exec (.kvShiftData n dir round data pois) s = .next u ∧
      u.xchOf n = { s.xchOf n with held := (s.xchOf n).held.filter (fun e => (e.1, e.2.1) != (dir, round)) ++ [(dir, round, data, pois)] } ∧
      u = { s with xch := u.xch }) ∧
    (∀ c d, (dir, round) ∉ (s.xchOf n).last → (s.xchOf n).cmds = [c] → d = oDescOf c.desc → c.op = 0x18 → c.status = none → c.kv.fail = false →
      c.kv.got = false → d.dir = dir → d.round = round → data.length = d.len → pois = List.replicate (d.len / 64) false →
      (∀ r ∈ (s.xchOf n).ready, d.isFor r.1 r.2.1 = false) → MemUp s (rqXch n) → Writable s d.dst d.len →
      ∃ u, exec (.kvShiftData n dir round data pois) s = .next u ∧ Stored s u d.dst data ∧
        Answers s u n (.kvAck n (s.kvRank dir false) dir round) ∧ (u.xchOf n).cmds = [{ c with kv := { c.kv with got := true } }] ∧
        (u.xchOf n).last = (s.xchOf n).last.filter (·.1 != dir) ++ [(dir, round)] ∧ OneEngine s u n)) ∧
  (∀ (s : State) (n dir round : Nat) (c : XchCmd), n < 2 → s.pageOn cXCH n = true → (s.xchOf n).cmds = [c] → c.op = 0x18 →
    (oDescOf c.desc).isFor dir round = true → c.kv.sent = true → c.kv.acked = false →
    exec (.kvShiftAck n dir round) s =
      .next (s.setXch n { s.xchOf n with cmds := [{ c with kv := { c.kv with acked := true } }] }))

/-- A link trains with a fitting partner on its widest good group, degrades, retrains, goes down; GEOM and EN change as R275 says -/
def Obligations.LinksTrainDegradeAndRetrain : Prop :=
  (∀ p both cap w l, pickGroup p both cap = some (w, l) → (w, l) ∈ laneGroups p ∧ w ≤ cap ∧ both &&& l = l ∧
    ∀ g ∈ laneGroups p, g.1 ≤ cap → both &&& g.2 = g.2 → g.1 ≤ w) ∧
  (∀ (s : State) (p : Nat) (peer : PeerInfo), p < 8 → s.linkReady p = true → s.linkUpP p = false →
    ∃ u, exec (.linkTrain p peer) s = .next u ∧ u.rd cPORT p PORT.PEER = u32 (65536 + peer.rank % 65536) ∧
      (u.link p).lock = BitVec.ofNat 8 (s.laneEn p) ∧ PortOnly s u p ∧
      (s.peerFits p peer = true → linkIs u p 1 0 0 ∧ u.outbox = s.outbox ++ [.train p (s.linkMe p), .lanes p (u.ownLanes p)] ∧ OnlyRegs [linkKey p, rk cPORT p PORT.PEER] { s with links := u.links } u) ∧
      (s.peerFits p peer = false → linkIs u p 4 0 0 ∧ Raises s u cPORT p 2 ∧
        (s.errQ (pageId cPORT p) = [] → ∃ r, u.errQ (pageId cPORT p) = [r] ∧ r.sev = 2 ∧ r.cause = 0x07))) ∧
  (∀ (s : State) (p : Nat) (good : BitVec 8), p < 8 → s.linkReady p = true → s.linkState p = 1 → (s.link p).lock ≠ 0 →
    (∀ w l, pickGroup p (s.ownLanes p &&& good.toNat) 8 = some (w, l) →
      ∃ u, exec (.linkUp p good) s = .next u ∧ linkIs u p 2 w l ∧ Raises s u cPORT p 1 ∧ PortOnly s u p ∧
        u.link p = { lock := (s.link p).lock, win := (s.link p).win, inq := (s.link p).inq, egress := (s.link p).egress, credit := [32, 32, 512, 512, 512, 512] } ∧
        OnlyRegsN [linkKey p, rk cPORT p hIRQ_STAT] { s with links := u.links } u) ∧
    (pickGroup p (s.ownLanes p &&& good.toNat) 8 = none →
      ∃ u, exec (.linkUp p good) s = .next u ∧ linkIs u p 5 0 0 ∧ Raises s u cPORT p 2 ∧ PortOnly s u p ∧ u.links = s.links)) ∧
  (∀ (s : State) (p : Nat) (uncorr corr : List Nat) (lock : BitVec 8) (eyes : List (Nat × Nat)), p < 8 → s.linkReady p = true →
    s.clk.running = true → s.clk.time % 100000 = 0 →
    s.laneMissing (s.setLink p { s.link p with lock := lock, win := uncorr.take 8 }) p = false →
    ∃ u, exec (.fecWindowEnd p uncorr corr lock eyes) s = .next u ∧ u.link p = { s.link p with lock := lock, win := uncorr.take 8 } ∧
      Counts s u cPORT p PORT.FEC_UNCORR_CNT ((uncorr.take 8).foldl (· + ·) 0) ∧
      u.rd64 cPORT p PORT.FEC_CORR = (s.rd64 cPORT p PORT.FEC_CORR + (corr.take 8).foldl (· + ·) 0) % 2 ^ 64 ∧
      (∀ k, k < 8 → u.rd cPORT p (PORT.LANE_STAT + 4 * k) = u32 (min 255 (eyes.getD k (0, 0)).1 * 65536 + min 255 (eyes.getD k (0, 0)).2 * 256)) ∧
      u.rd cPORT p PORT.LINK_STAT = s.rd cPORT p PORT.LINK_STAT ∧ PortOnly s u p) ∧
  (∀ (s : State) (p lane : Nat), p < 8 → lane < 8 → s.linkReady p = true → s.linkState p = 2 →
    (Nat.testBit (s.ownLanes p) lane = false →
      ∃ u, exec (.laneFault p lane) s = .next u ∧ u.link p = { s.link p with lock := (s.link p).lock &&& ~~~ BitVec.ofNat 8 (2 ^ lane) } ∧
        OnlyRegs [] { s with links := u.links } u ∧ PortOnly s u p) ∧
    (Nat.testBit (s.ownLanes p) lane = true → s.autoDegrade p = true →
      ∃ u, exec (.laneFault p lane) s = .next u ∧ linkIs u p 3 (s.linkWidth p) (s.linkActive p) ∧ (u.link p).full = false ∧
        (u.link p).lock = (s.link p).lock &&& ~~~ BitVec.ofNat 8 (2 ^ lane) ∧ u.outbox = s.outbox ++ [.lanes p (u.ownLanes p)] ∧ OnlyRegs [linkKey p] { s with links := u.links } u ∧ PortOnly s u p) ∧
    (Nat.testBit (s.ownLanes p) lane = true → s.autoDegrade p = false →
      ∃ u, exec (.laneFault p lane) s = .next u ∧ linkIs u p 0 0 0 ∧ u.rd cPORT p PORT.PEER = 0 ∧ u.hbm = s.hbm ∧ u.ctxs = s.ctxs)) ∧
  (∀ (s : State) (m p : Nat), p < 8 → OwnerReady s m cPORT p PORT.LINK_CTRL → s.linkReady p = true → s.linkState p = 2 →
    ∃ u, exec (.retrain m p) s = .next u ∧ linkIs u p 3 (s.linkWidth p) (s.linkActive p) ∧ (u.link p).full = true ∧
      (u.link p).lock = (s.link p).lock ||| BitVec.ofNat 8 (s.laneEn p) ∧ (u.link p).retry = (s.link p).retry ∧
      Acks u m cPORT p PORT.LINK_CTRL 0 ∧ OnlyRegs [linkKey p] { answering s m with links := u.links } u ∧ PortOnly (answering s m) u p) ∧
  (∀ (s : State) (p : Nat) (good : BitVec 8) (ok : Bool), p < 8 → s.linkReady p = true → s.linkState p = 3 →
    (∀ w l, ok = true → pickGroup p (s.ownLanes p &&& good.toNat) (if (s.link p).full then 8 else s.linkWidth p) = some (w, l) →
      ∃ u, exec (.degradeRetrainDone p good ok) s = .next u ∧ linkIs u p 2 w l ∧ Counts s u cPORT p PORT.DEGRADE_CNT 1 ∧
        (u.link p).retry = (s.link p).retry ∧ (u.link p).replay = (if (s.link p).retry.isEmpty then none else some 0) ∧
        (u.link p).full = false ∧ (w < s.linkWidth p → Raises s u cPORT p 4) ∧ PortOnly s u p ∧
        (s.errQ (pageId cPORT p) = [] → ∃ r, u.errQ (pageId cPORT p) = [r] ∧ r.sev = 0 ∧ r.cause = 0x08)) ∧
    (ok = false → ∃ u, exec (.degradeRetrainDone p good ok) s = .next u ∧ linkIs u p 5 0 0 ∧ u.hbm = s.hbm ∧ u.ctxs = s.ctxs)) ∧
  (∀ (s : State) (m p : Nat) (en : Bool), p < 8 → OwnerReady s m cPORT p hCTRL → s.linkEn p = !en → s.on (72 + p) = true →
    ∃ u, exec (.portCtrlEn m p en) s = .next u ∧ u.rdb cPORT p hCTRL 0 = en ∧ Acks u m cPORT p hCTRL 0 ∧
      (en = true → s.linkUpP p = false → linkIs u p 1 0 0 ∧ (u.link p).lock = 0 ∧ PortOnly (answering s m) u p) ∧
      (en = false → linkIs u p 0 0 0 ∧ u.linkUpP p = false) ∧ u.hbm = s.hbm ∧ u.ctxs = s.ctxs) ∧
  (∀ (s : State) (m p : Nat) (v : BitVec 32), p < 8 → OwnerReady s m cPORT p PORT.GEOM →
    ((∀ q, q < 8 → s.drained cPORT q = true) →
      ∃ u, exec (.geomWrite m p v) s = .next u ∧ u.rd cPORT (p / 2 * 2) PORT.GEOM = v &&& 0x3F3F ∧ u.rd cPORT (p / 2 * 2 + 1) PORT.GEOM = v &&& 0x3F3F ∧
        Acks u m cPORT p PORT.GEOM 0 ∧ OnlyRegs [rk cPORT (p / 2 * 2) PORT.GEOM, rk cPORT (p / 2 * 2 + 1) PORT.GEOM] (answering s m) u) ∧
    ((∃ q, q < 8 ∧ s.drained cPORT q = false) →
      ∃ u, exec (.geomWrite m p v) s = .next u ∧ (∀ q, q < 8 → u.rd cPORT q PORT.GEOM = s.rd cPORT q PORT.GEOM) ∧
        (s.errQ (pageId cPORT p) = [] → ∃ r, u.errQ (pageId cPORT p) = [r] ∧ r.sev = 2 ∧ r.cause = 0x01))) ∧
  (∀ (s : State), (s.live = false → exec .twinAliveFall s = .next { s with pins := { s.pins with twinAliveIn := false } }) ∧
    (s.live = true → s.pins.twinAliveIn = false → exec .twinAliveFall s = .next s)) ∧
  (∀ (s : State), s.live = true → s.pins.twinAliveIn = true →
    ∃ u, exec .twinAliveFall s = .next u ∧ u.pins.twinAliveIn = false ∧ u.rdb cMIR 0 hIRQ_STAT 3 = true ∧ u.hbm = s.hbm ∧ u.ts = s.ts ∧
      u.ctxs = s.ctxs ∧ u.links = s.links)

/-- Flits leave sealed and numbered, replay from the oldest, pass only in order; packets are routed or discarded; Oplis slots stream -/
def Obligations.FlitsRetryAndPacketsRoute : Prop :=
  (∀ (s : State) (p : Nat), p < 8 → s.linkReady p = true → s.linkState p = 2 →
    (∀ i f, (s.link p).replay = some i → (s.link p).retry[i]? = some f → f.payload.length ≤ 240 →
      ∃ u b, exec (.flitSend p) s = .next u ∧ FlitLast u p b ∧ Carries b f ((s.link p).seqAt i) ∧ (u.link p).retry = (s.link p).retry ∧
        (u.link p).replay = (if i + 1 < (s.link p).retry.length then some (i + 1) else none) ∧ OnlyRegs [] { s with links := u.links } u ∧ PortOnly s u p) ∧
    (∀ v e f, (s.link p).replay = none → (s.link p).retry.length < 512 → s.pickVc p = some v → s.vcPacket p v = some e → v < 6 → e.src ≠ p → e.src < 11 →
      f = (⟨v, e.sent == 0, decide (e.bytes.length ≤ 240 * e.sent + 240), e.pois, (e.bytes.drop (240 * e.sent)).take 240⟩ : TxFlit) →
      (s.link p).txNext < 65536 →
      ∃ u b, exec (.flitSend p) s = .next u ∧ FlitLast u p b ∧ Carries b f (s.link p).txNext ∧ (u.link p).retry = (s.link p).retry ++ [f] ∧
        (u.link p).txNext = ((s.link p).txNext + 1) % 65536 ∧ (u.link p).credit.getD v 0 = (s.link p).credit.getD v 0 - 1 ∧
        (∀ x, x ≠ v → (u.link p).credit.getD x 0 = (s.link p).credit.getD x 0) ∧
        u.rd64 cPORT p PORT.TX_FLITS = (s.rd64 cPORT p PORT.TX_FLITS + 1) % 2 ^ 64 ∧
        u.rd64 cARB (136 + p) ARB.GRANTS = (s.rd64 cARB (136 + p) ARB.GRANTS + b2n (e.sent == 0)) % 2 ^ 64 ∧
        OnlyRegsN (rk cARB (136 + p) hIRQ_STAT :: rk cARB (136 + p) (ARB.FORCED_CNT + 4 * e.src) :: keys64 cPORT p PORT.TX_FLITS ++ keys64 cARB (136 + p) ARB.GRANTS)
          { s with links := u.links } u) ∧
    ((s.link p).replay = none → ((s.link p).retry.length = 512 ∨ s.pickVc p = none) →
      ∃ u b, exec (.flitSend p) s = .next u ∧ FlitLast u p b ∧ sealed b none ∧ flitKind b = 0 ∧ (u.link p).retry = (s.link p).retry ∧
        (u.link p).egress = (s.link p).egress ∧ OnlyRegs [] { s with links := u.links } u ∧ PortOnly s u p)) ∧
  (∀ (s : State) (p : Nat) (b : Bytes) (bad : Bool), p < 8 → s.linkReady p = true → s.linkState p = 2 →
    ((s.link p).flitOk p b bad = true → flitKind b = 1 →
      ∃ u, exec (.flitReceive p b bad) s = .next u ∧ (u.link p).rxNext = ((s.link p).rxNext + 1) % 65536 ∧ (u.link p).nakked = false ∧
        (u.link p).inq = takePayload (bfield b 1 1 % 8) (bit (bslice b 3 1)[0]! 0) (bit (bslice b 3 1)[0]! 1) (bit (bslice b 3 1)[0]! 2)
          (bslice b 0xC (min 240 (bfield b 2 1))) (s.link p).inq ∧
        u.rd64 cPORT p PORT.RX_FLITS = (s.rd64 cPORT p PORT.RX_FLITS + 1) % 2 ^ 64 ∧ PortOnly s u p) ∧
    ((s.link p).flitOk p b bad = false →
      ∃ u, exec (.flitReceive p b bad) s = .next u ∧ Counts s u cPORT p PORT.CRC_ERR_CNT 1 ∧ (u.link p).rxNext = (s.link p).rxNext ∧
        (u.link p).inq = (s.link p).inq ∧ (u.link p).retry = (s.link p).retry ∧ (u.link p).nakked = true ∧
        ((s.link p).nakked = true → u.outbox = s.outbox) ∧
        ((s.link p).nakked = false → ∃ f, u.outbox = s.outbox ++ [.flit p f] ∧ sealed f none ∧ flitKind f = 2 ∧
          bfield f 4 2 = (s.link p).rxNext % 65536) ∧ PortOnly s u p)) ∧
  (∀ (s : State) (p n : Nat) (l : LinkSt), p < 8 → s.linkReady p = true → s.linkState p = 2 → l = s.link p → l.retry.length ≤ 512 →
    n < l.retry.length → (n = 0 → l.replays < s.retryMax p) → 0 < s.retryMax p →
    ∃ u, exec (.nakReceive p ((l.seqAt 0 + n) % 65536)) s = .next u ∧ (u.link p).retry = l.retry.drop n ∧ (u.link p).replay = some 0 ∧
      (u.link p).replays = (if n = 0 then l.replays else 0) + 1 ∧ (u.link p).txNext = l.txNext ∧ (u.link p).inq = l.inq ∧
      Counts s u cPORT p PORT.REPLAY_CNT 1 ∧ OnlyRegs [rk cPORT p PORT.REPLAY_CNT] { s with links := u.links } u ∧ PortOnly s u p) ∧
  (∀ (s : State) (p : Nat) (l : LinkSt), p < 8 → s.linkReady p = true → s.linkState p = 2 → l = s.link p → l.retry ≠ [] → l.ackDue ≤ s.clk.time →
    (l.replays < s.retryMax p → ∃ u, exec (.retryTmoExpire p) s = .next u ∧
      u.link p = { l with replay := some 0, replays := l.replays + 1, ackDue := s.clk.time + s.retryTmo p } ∧
      Counts s u cPORT p PORT.REPLAY_CNT 1 ∧ OnlyRegs [rk cPORT p PORT.REPLAY_CNT] { s with links := u.links } u ∧ PortOnly s u p) ∧
    (s.retryMax p ≤ l.replays → ∃ u, exec (.retryTmoExpire p) s = .next u ∧ linkIs u p 3 (s.linkWidth p) (s.linkActive p) ∧
      (u.link p).full = true ∧ (u.link p).retry = l.retry ∧ OnlyRegs [linkKey p] { s with links := u.links } u ∧ PortOnly s u p)) ∧
  (∀ len me dst a p w, me < len → dst < len → me ≠ dst → axisHop len me dst a = .port p w →
    (p = 2 * a ∨ p = 2 * a + 1) ∧
    ringDist len (if p = 2 * a then (me + 1) % len else (me + len - 1) % len) dst + 1 = ringDist len me dst ∧
    (w = true ↔ (p = 2 * a ∧ me + 1 = len) ∨ (p = 2 * a + 1 ∧ me = 0))) ∧
  (∀ (s : State) (src vc : Nat) (k : Packet), s.live = true → src < 8 → s.on (72 + src) = true → vc < 6 → s.headBlocked src vc = false →
    ((s.link src).inq.find? fun x => x.vc == vc) = none →
    (s.badHeader k = true → ∃ u, exec (.packetRoute src vc k) s = .next u ∧ Counts s u cPORT src PORT.DISCARD_CNT 1 ∧ Raises s u cPORT src 16 ∧
      u.links = s.links ∧ PortOnly s u src) ∧
    (s.badHeader k = false → s.nextHop k = .here → (∀ b ∈ s.bridgesHere src k.ep, s.pdStat (bridgeDomain b) = true) →
      exec (.packetRoute src vc k) s = .next (s.send (.deliver src k.ep k.src k.tag k.body k.pois))) ∧
    (∀ p w, s.badHeader k = false → s.nextHop k = .port p w → s.portTakes p = true →
      (∀ b ∈ s.bridgesTo src p, s.pdStat (bridgeDomain b) = true) →
      ∃ u, exec (.packetRoute src vc k) s = .next u ∧ (u.link p).egress = (s.link p).egress ++
          [⟨src, vc, hopVc src vc k.cls p w, pktBytes k, k.pois, 0, 0⟩] ∧ u = { s with links := u.links } ∧ (∀ q, q ≠ p → u.link q = s.link q))) ∧
  (∀ (s : State) (src : Nat) (m : OutMsg), (s.wayOf src 6 (s.packetOf m s.fresh) = .here → s.inject src m = s.send m) ∧
    (∀ p c b, p < 8 → s.wayOf src 6 (s.packetOf m s.fresh) = .drop p c b → (s.inject src m).links = s.links ∧
      (s.inject src m).rdb cPORT p hIRQ_STAT 4 = true) ∧
    (∀ p vc, s.wayOf src 6 (s.packetOf m s.fresh) = .out p vc → (s.inject src m).outbox = s.outbox ++ [m] ∧ (s.inject src m).regs = s.regs ∧
      (∀ q, q ≠ p → (s.inject src m).link q = s.link q) ∧ ∃ l, ((s.inject src m).link p).egress = (s.link p).egress ++
        ⟨src, 6, vc, pktBytes (s.packetOf m s.fresh), m.pois, 0, 0⟩ :: l ∧ (m.long = false → l = []))) ∧
  (∀ (m : OutMsg) (k v : Nat) (b : Bytes), m.oplBytes k = some (v, b) → v < 4 ∧ 16 ≤ b.length ∧ b.length ≤ 160 ∧ b.length % 16 = 0) ∧
  (∀ (s : State) (v : Nat) (f : TxFlit), s.linkReady 10 = true → s.linkState 10 = 2 → (s.link 10).replay = none →
    (s.link 10).retry.length < 512 → s.pickVn = some v → (s.link 10).txNext < 65536 →
    f = (⟨v, false, false, false, ((s.oplStream v).drop ((s.link 10).outAt.getD v 0)).take 240⟩ : TxFlit) →
    ∃ u b, exec (.flitSend 10) s = .next u ∧ FlitLast u 10 b ∧ Carries b f (s.link 10).txNext ∧ (u.link 10).retry = (s.link 10).retry ++ [f] ∧
      f.payload ≠ [] ∧ (u.link 10).outAt.getD v 0 = (s.link 10).outAt.getD v 0 + f.payload.length ∧
      (u.link 10).credit.getD v 0 = (s.link 10).credit.getD v 0 - 1 ∧ (∀ x, x ≠ v → (u.link 10).credit.getD x 0 = (s.link 10).credit.getD x 0) ∧
      (∀ q, q ≠ 10 → u.link q = s.link q) ∧ OnlyRegs [] { s with links := u.links } u)

/-- REDUCE and BARRIER take their SEQ and start with JOIN and READY, or complete alone; a bad descriptor is refused; a gate holds -/
def Obligations.ReductionsStartAtTheirHead : Prop :=
  (∀ (s : State) (c : Nat) (b : Bytes) (d : RDesc) (i : Instr) (t : List RedKid × Option (Nat × Nat × Nat)), ChanTakes s c b → d = rDescOf b →
    s.redBad d = false → d.gateEn = false → t = s.treeOf d.stages 0 0 →
    ((i = .reduce c ∧ d.op = 1 ∧ d.dtype = 1 ∧ Readable s d.src d.bytes ∧ apart (s.ringAddr cRED c (s.ringHead cRED c)) 128 d.src d.bytes) ∨
      (i = .barrier c ∧ d.op = 2)) →
    ((t.1 ≠ [] ∨ t.2 ≠ none) →
      ∃ u o, exec i s = .next u ∧ ChanTook s u c o ∧ o.op = d.op ∧ o.desc = b ∧ o.phase = .data ∧ o.status = none ∧ o.kids = t.1 ∧
        o.parent = t.2.map (·.1) ∧ o.part.map = [s.redPlace d] ∧ o.t0 = s.clk.time ∧
        Sends s u 8 (((t.2.map (·.1)).toList.map fun p => .redJoin c p (s.rd cRED c RED.NEXT_SEQ).toNat d.digest) ++
          t.1.map fun k => .redReady c k.rank (s.rd cRED c RED.NEXT_SEQ).toNat d.digest) ∧
        Stored s u (s.ringAddr cRED c (s.ringHead cRED c) + 8) (toLE 4 (s.rd cRED c RED.NEXT_SEQ).toNat)) ∧
    (t = ([], none) → s.memberCount d.stages = 1 → d.mapw = false → Writable s d.hdr 128 → (d.count ≠ 0 → Writable s d.dst d.bytes) →
      apart (s.ringAddr cRED c (s.ringHead cRED c)) 128 d.hdr 128 → (d.count ≠ 0 → apart (s.ringAddr cRED c (s.ringHead cRED c)) 128 d.dst d.bytes) →
      (d.count ≠ 0 → apart d.hdr 128 d.dst d.bytes) →
      ∃ u o h, exec i s = .next u ∧ ChanTook s u c o ∧ o.status = some 0 ∧ h = hbmBytes u d.hdr 128 ∧ u.outbox = s.outbox ∧
        (d.count ≠ 0 → hbmBytes u d.dst d.bytes = hbmBytes s d.src d.bytes) ∧
        bfield h 0 4 = (s.rd cRED c RED.NEXT_SEQ).toNat ∧ bfield h 4 1 = c ∧ bfield h 8 4 = 1 ∧ bfield h 0xC 4 = 1 ∧
        bfield h 0x40 4 = 0 ∧ bfield h 0x44 4 = 0 ∧ bfield h 0x48 4 = 0 ∧ bfield h 0x50 8 = s.clk.time % 2 ^ 64 ∧
        (∀ a, (a < d.hdr ∨ d.hdr + 128 ≤ a) → (d.count = 0 ∨ a < d.dst ∨ d.dst + d.bytes ≤ a) →
          (a < s.ringAddr cRED c (s.ringHead cRED c) + 8 ∨ s.ringAddr cRED c (s.ringHead cRED c) + 12 ≤ a) → hbmByte u a = hbmByte s a))) ∧
  (∀ (s : State) (c : Nat) (b : Bytes) (d : RDesc) (i : Instr), ChanTakes s c b → d = rDescOf b → s.redBad d = true →
    ((i = .reduce c ∧ d.op = 1) ∨ (i = .barrier c ∧ d.op = 2)) →
    ∃ u o, exec i s = .next u ∧ ChanTook s u c o ∧ o.status = some 0x10 ∧ Counts s u cRED c RED.DESC_ERR_CNT 1 ∧ Raises s u cRED c 64 ∧
      Stored s u (s.ringAddr cRED c (s.ringHead cRED c) + 8) (toLE 4 (s.rd cRED c RED.NEXT_SEQ).toNat) ∧
      (s.errQ (pageId cRED c) = [] → ∃ r, u.errQ (pageId cRED c) = [r] ∧ r.sev = 2 ∧ r.cause = 0x01)) ∧
  (∀ (s : State) (c seq : Nat) (o : ChOp) (d : RDesc), InRed s c seq o d → (s.redOf c).ops = [o] → s.calving = [] → (s.redOf c).halted = false →
    s.rdb cRED c hFREEZE 0 = false → o.op = 2 → o.phase = .wait → d.count = 0 → d.gateEn = true →
    (s.clk.time < o.gateDue → exec (.gatePoll c) s = .next s) ∧
    (o.gateDue ≤ s.clk.time → MemUp s rqRed → Readable s d.gate 4 →
      ((leNat (hbmBytes s d.gate 4) + 2 ^ 32 - d.gval) % 2 ^ 32 < 2 ^ 31 → o.hdr = [] → o.dropped = false → o.done = 0 → o.ready = false →
        (o.kids ≠ [] ∨ o.parent.isSome = true) → (∀ k ∈ o.kids, k.part = none ∧ k.dropped = false) →
        ∃ u o', exec (.gatePoll c) s = .next u ∧ u.opAt c seq = some o' ∧ o'.phase = .data ∧ o'.t0 = s.clk.time ∧ o'.kids = o.kids ∧
          Sends s u 8 ((o.parent.toList.map fun p => .redJoin c p seq d.digest) ++ o.kids.map fun k => .redReady c k.rank seq d.digest) ∧
          u.hbm = s.hbm ∧ u.ts = s.ts ∧ u.ctxs = s.ctxs ∧ RegsBut [cHBM, cARB, cPORT, cTIM, cERR] s u) ∧
      (2 ^ 31 ≤ (leNat (hbmBytes s d.gate 4) + 2 ^ 32 - d.gval) % 2 ^ 32 →
        ∃ u, exec (.gatePoll c) s = .next u ∧ u.opAt c seq = some { o with gateDue := s.clk.time + max 1 (s.rdf cRED c RED.GATE_POLL 0 16) } ∧
          u.outbox = s.outbox ∧ u.hbm = s.hbm ∧ u.ts = s.ts ∧ u.ctxs = s.ctxs ∧ RegsBut [cHBM, cARB] s u)))

/-- JOIN, READY, DROP, AGREE, DATA, results and ACK of a reduction take effect on its operation; early ones are kept -/
def Obligations.ReductionMessagesMoveTheirOperation : Prop :=
  (∀ (s : State) (c src seq g : Nat), s.live = true → c < 64 → s.opAt c seq = none → s.seqAhead c seq = true →
    (∀ i m, (i, m) ∈ [(Instr.join c src seq g, RedMsg.join src g), (.redReady c src seq g, .ready src g), (.redDrop c src seq g 0, .drop src g 0)] →
      exec i s = .next (s.setRed c { s.redOf c with held := (s.redOf c).held ++ [(seq, m)] }))) ∧
  (∀ (s : State) (c src seq : Nat) (o : ChOp) (d : RDesc) (k : RedKid), InRed s c seq o d → KidIs o src k →
    (Rests c (o.setKid { k with joined := true }) →
      ∃ u, exec (.join c src seq d.digest) s = .next u ∧ OpNow s u c seq (o.setKid { k with joined := true }) ∧ u.outbox = s.outbox) ∧
    (o.phase = .down → d.count = 0 → k.resSent = false → k.orphan = false → k.acked = false →
      (∀ x ∈ o.kids, x.rank ≠ src → x.joined = true → x.resSent = true ∨ x.orphan = true) →
      ∃ u, exec (.join c src seq d.digest) s = .next u ∧ OpNow s u c seq (o.setKid { k with joined := true, resSent := true }) ∧
        Sends s u 8 [.redResult c src seq d.digest 0 [] (some (o.hdr, o.pres))]) ∧
    (o.phase = .down → d.agrees = false → k.resSent = true →
      (∀ x ∈ o.kids, x.rank ≠ src → x.orphan = true ∨ (x.joined = true ∧ x.resSent = true ∧ x.acked = true)) → k.joined = true →
      ∃ u, exec (.redAck c src seq d.digest) s = .next u ∧ u.outbox = s.outbox ∧
        OpNow s u c seq { o.setKid { k with acked := true } with status := some (if o.pois then 3 else if bfield o.hdr 8 4 = 0 then 2
          else if bfield o.hdr 8 4 < bfield o.hdr 0xC 4 then 1 else 0) })) ∧
  (∀ (s : State) (c src seq : Nat) (o : ChOp) (d : RDesc), InRed s c seq o d →
    (Rests c { o with ready := true } →
      ∃ u, exec (.redReady c src seq d.digest) s = .next u ∧ OpNow s u c seq { o with ready := true } ∧ u.outbox = s.outbox) ∧
    (∀ p, o.phase = .data → d.count = 0 → o.done = o.kids.length → o.parent = some p → o.hdr = [] → o.dropped = false →
      ∃ u st lv, exec (.redReady c src seq d.digest) s = .next u ∧ OpNow s u c seq { o with ready := true, phase := .up } ∧
        Sends s u 8 [.redData c p seq d.digest st lv 0 [] (some o.part)]) ∧
    (∀ lv, (o.phase = .agree ∨ o.phase = .data) → o.hdr = [] → (d.agrees = true → o.ea = none) →
      ∃ u, exec (.redDrop c src seq d.digest lv) s = .next u ∧ OpNow s u c seq { o with dropped := true, phase := .up } ∧ u.outbox = s.outbox)) ∧
  (∀ (s : State) (c src seq p : Nat) (o : ChOp) (d : RDesc) (k : RedKid) (q : RedPartial) (l : List Int), InRed s c seq o d → KidIs o src k →
    o.kids = [k] → o.phase = .agree → k.exps = none → k.dropped = false → o.ea = none → o.done = 0 → o.hdr = [] → o.dropped = false →
    o.parent = some p → o.aSent = false → o.ready = true →
    ∃ u, exec (.agree c src seq d.digest q l) s = .next u ∧
      Sends s u 8 [.redAgree c p seq d.digest (joinPart o.apart q) (maxExps o.mexp l)] ∧
      OpNow s u c seq { o with kids := [{ k with exps := some l, apart := q }], done := 1, mexp := maxExps o.mexp l,
                               apart := joinPart o.apart q, aSent := true }) ∧
  (∀ a b : List Int, a.length = b.length → ∀ i : Nat, i < a.length → (maxExps a b).getD i 0 = max (a.getD i 0) (b.getD i 0)) ∧
  (∀ (s : State) (c src seq : Nat) (o : ChOp) (d : RDesc) (l : List Int), InRed s c seq o d → d.agrees = true → o.phase = .agree → o.ea = none →
    o.parent = some src → o.hdr = [] → o.dropped = false → o.ready = false → (∀ k ∈ o.kids, k.joined = false ∧ k.dropped = false ∧ k.part = none) →
    (d.exp ≠ 0 → MemUp s rqRed ∧ Writable s d.exp d.count ∧ l.length = d.count) →
    ∃ u, exec (.agreeRes c src seq d.digest l) s = .next u ∧ u.opAt c seq = some { o with ea := some l, phase := .data, tPhase := s.clk.time, done := 0 } ∧
      u.outbox = s.outbox ∧ (d.exp = 0 → u.hbm = s.hbm) ∧ (d.exp ≠ 0 → Stored s u d.exp (l.map fun e => BitVec.ofNat 8 (ofInt 8 e)))) ∧
  (∀ (s : State) (c src seq : Nat) (o : ChOp) (d : RDesc) (k : RedKid) (us : List (Bytes × Bool)), InRed s c seq o d → KidIs o src k →
    k.part = none → k.dropped = false →
    (Rests c (o.setKid { k with units := k.units ++ us }) →
      ∃ u, exec (.redData c src seq d.digest k.stage k.glevel k.units.length us none) s = .next u ∧ u.outbox = s.outbox ∧
        OpNow s u c seq (o.setKid { k with units := k.units ++ us })) ∧
    (∀ (up : Nat) (q : RedPartial) (own : Nat) (vs : List (Bytes × Bool)) (cl : Nat → Int), o.phase = .data → d.dtype = 1 → d.count ≠ 0 →
      o.empty = false → o.hdr = [] → o.dropped = false → q.map ≠ [] → o.ea = none → o.kids.length = o.done + 1 → o.kids[o.done]? = some k →
      o.parent = some up → o.ready = false → own = (if o.inDst then d.dst else d.src) → vs = k.units ++ us → vs.length = d.count →
      (∀ v ∈ vs, v.1.length = 4 ∧ v.2 = false) → cl = (fun i => intAt s own i + sext 32 (leNat (vs.getD i ([], false)).1)) →
      MemUp s rqRed → Readable s d.src d.bytes → Writable s d.dst d.bytes →
      ∃ u o', exec (.redData c src seq d.digest k.stage k.glevel k.units.length us (some q)) s = .next u ∧ u.opAt c seq = some o' ∧
        o'.phase = .data ∧ o'.done = o.done + 1 ∧ o'.inDst = true ∧ o'.part.map = ascSet (o.part.map ++ q.map) ∧
        (∀ i, i < d.count → intAt u d.dst i = clampI (-(2 ^ 31)) (2 ^ 31 - 1) (cl i)) ∧
        (∀ a, (a < d.dst ∨ d.dst + d.bytes ≤ a) → hbmByte u a = hbmByte s a) ∧
        Counts s u cRED c RED.SAT_CNT ((List.range d.count).filter fun i => decide (cl i < -(2 ^ 31) ∨ 2 ^ 31 - 1 < cl i)).length)) ∧
  (∀ (s : State) (c src seq : Nat) (o : ChOp) (d : RDesc) (us : List (Bytes × Bool)) (h : Bytes) (pres : List Nat), InRed s c seq o d →
    o.kids = [] → o.parent = some src → o.phase = .up → o.hdr = [] → o.res = [] → d.mapw = false → h.length = 128 → us.length = d.count →
    (∀ v ∈ us, v.1.length = d.unit ∧ v.2 = false) → MemUp s rqRed → Writable s d.hdr 128 → (d.count ≠ 0 → Writable s d.dst d.bytes) →
    (d.count ≠ 0 → apart d.hdr 128 d.dst d.bytes) →
    ∃ u o', exec (.result c src seq d.digest 0 us (some (h, pres))) s = .next u ∧ u.opAt c seq = some o' ∧ o'.phase = .down ∧ o'.hdr = h ∧
      o'.status = some (if o.pois then 3 else if bfield h 8 4 = 0 then 2 else if bfield h 8 4 < bfield h 0xC 4 then 1 else 0) ∧
      Sends s u 8 [.redAck c src seq d.digest] ∧ (d.count ≠ 0 → hbmBytes u d.dst d.bytes = us.flatMap (·.1)) ∧
      hbmBytes u d.hdr 0x50 = h.take 0x50 ∧ leNat (hbmBytes u (d.hdr + 0x50) 8) = o.t0 % 2 ^ 64 ∧
      leNat (hbmBytes u (d.hdr + 0x58) 8) = s.clk.time % 2 ^ 64)

/-- A late subtree is dropped and counted, a child without ACK orphaned, a lost result fails; completion and RESET -/
def Obligations.ReductionsTimeOutCompleteAndReset : Prop :=
  (∀ (s : State) (c seq lv : Nat) (o : ChOp) (d : RDesc) (k : RedKid), InRed s c seq o d → (s.redOf c).ops = [o] → o.kids = [k] → k.glevel = lv →
    k.dropped = false → k.part = none → k.stage = 0 → o.phase = .data → d.agrees = false → o.done = 0 → o.hdr = [] → o.dropped = false →
    o.parent ≠ none → o.ready = false →
    (s.clk.time < o.tPhase + s.rdf cRED c RED.DEADLINE 0 24 + lv * s.rdf cRED c RED.LEVEL_SLACK 0 24 → exec (.levelDeadlineExpire c lv) s = .next s) ∧
    (o.tPhase + s.rdf cRED c RED.DEADLINE 0 24 + lv * s.rdf cRED c RED.LEVEL_SLACK 0 24 ≤ s.clk.time →
      ∃ u o' late, exec (.levelDeadlineExpire c lv) s = .next u ∧
        late = (membersOf (s.axisLen (d.ax 0)) d.mem0).filter (fun i => decide (k.start + 2 ^ k.level ≤ i ∧ i < k.start + 2 ^ (k.level + 1))) ∧
        u.opAt c seq = some o' ∧ o' = { o with kids := [{ k with dropped := true }], done := 1, part := o'.part, apart := o'.apart } ∧
        o'.part = { o.part with late0 := o.part.late0 ||| coordMap late } ∧ Counts s u cRED c RED.LATE_CNT late.length ∧
        Sends s u 8 [.redDrop c k.rank seq d.digest lv] ∧ u.hbm = s.hbm ∧ u.ts = s.ts ∧ u.ctxs = s.ctxs ∧
        RegsBut [cRED, cPORT, cTIM, cERR] s u)) ∧
  (∀ (s : State) (c seq : Nat) (o : ChOp) (d : RDesc) (k : RedKid), InRed s c seq o d → (s.redOf c).ops = [o] → o.kids = [k] → o.phase = .down →
    k.joined = false → k.orphan = false →
    (s.clk.time < o.tRes + s.rdf cRED c RED.RESULT_TMO 0 24 → exec (.resultTmoExpire c) s = .next s) ∧
    (o.tRes + s.rdf cRED c RED.RESULT_TMO 0 24 ≤ s.clk.time →
      ∃ u, exec (.resultTmoExpire c) s = .next u ∧ u.opAt c seq = some { o with kids := [{ k with orphan := true }], status := some (s.redStatus o) } ∧
        Counts s u cRED c RED.ORPHAN_CNT 1 ∧ u.hbm = s.hbm ∧ RegsBut [cRED, cERR] s u ∧
        (s.errQ (pageId cRED c) = [] → ∃ r, u.errQ (pageId cRED c) = [r] ∧ r.sev = 2 ∧ r.cause = 0x06))) ∧
  (∀ (s : State) (c seq : Nat) (o : ChOp) (d : RDesc), InRed s c seq o d → (s.redOf c).ops = [o] → (o.phase = .data ∨ o.phase = .up) →
    (s.clk.time < s.resultDue c o → exec (.resultTmoExpire c) s = .next s) ∧
    (s.resultDue c o ≤ s.clk.time → (d.count ≠ 0 → MemUp s rqRed ∧ Writable s d.dst d.bytes) →
      ∃ u, exec (.resultTmoExpire c) s = .next u ∧ u.opAt c seq = some { o with status := some 8, phase := .down } ∧ (u.redOf c).halted = true ∧
        Raises s u cRED c 32 ∧ (∀ a, (d.count = 0 ∨ a < d.dst ∨ d.dst + d.bytes ≤ a) → hbmByte u a = hbmByte s a) ∧
        (s.errQ (pageId cRED c) = [] → ∃ r, u.errQ (pageId cRED c) = [r] ∧ r.sev = 2 ∧ r.cause = 0x06))) ∧
  (∀ (s : State) (c st : Nat) (o : ChOp), s.live = true → c < 64 → (s.redOf c).ops = [o] → o.status = some st → s.calving = [] → s.doubt = [] →
    o.op < 0x10 → s.ringReady cRED c = false → DoneReady s rqRed cRED c o.idx 4 → st < 256 →
    ∃ u, exec (.redOpComplete c) s = .next u ∧ (u.redOf c).ops = [] ∧ (∀ e, e ≠ c → u.redOf e = s.redOf e) ∧
      Stored s u (s.ringAddr cRED c o.idx + 4) [BitVec.ofNat 8 st] ∧ u.rd cRED c rDone = s.rd cRED c rDone + 1 ∧
      u.rd cRED c rLast = u32 (st * 2 ^ 24 + o.idx % 65536) ∧ Raises s u cRED c (b2n o.irq + o.redIrqs st) ∧ u.ts = s.ts ∧ u.ctxs = s.ctxs) ∧
  (∀ (s : State) (c : Nat) (b : Bytes), ChanTakes s c b → s.live = true → s.doubt = [] → bfield b 0 1 ∉ [1, 2, 0x10, 0x11, 0x12, 0x13] →
    ∃ u o, exec (.redOpComplete c) s = .next u ∧ ChanTook s u c o ∧ o.status = some 0x10 ∧ Counts s u cRED c RED.DESC_ERR_CNT 1 ∧
      Raises s u cRED c 64 ∧ (s.errQ (pageId cRED c) = [] → ∃ r, u.errQ (pageId cRED c) = [r] ∧ r.sev = 2 ∧ r.cause = 0x01)) ∧
  (∀ (s : State) (m c : Nat), c < 64 → OwnerReady s m cRED c hCTRL →
    ((s.drained cRED c = true ∨ (s.redOf c).halted = true) →
      ∃ u, exec (.redReset m c) s = .next u ∧ u.redOf c = {} ∧ (∀ e, e ≠ c → u.redOf e = s.redOf e) ∧ Acks u m cRED c hCTRL 0 ∧
        (∀ r ∈ [RED.CQ_HEAD, RED.CQ_TAIL, RED.DONE_CNT, RED.NEXT_SEQ], u.rd cRED c r = 0) ∧
        OnlyRegs ([RED.CQ_HEAD, RED.CQ_TAIL, RED.DONE_CNT, RED.NEXT_SEQ].map (rk cRED c) ++ (List.range 4).map fun n => rk cCVU n hSTAT)
          { answering s m with red := u.red } u) ∧
    (s.drained cRED c = false → (s.redOf c).halted = false →
      ∃ u, exec (.redReset m c) s = .next u ∧ u.red = s.red ∧ Acks u m cRED c hCTRL 0 ∧
        (s.errQ (pageId cRED c) = [] → ∃ r, u.errQ (pageId cRED c) = [r] ∧ r.sev = 2 ∧ r.cause = 0x01)))

/-- CALVE and LAND copy runs and commit; chunks, COPY_DONE, decisions, ACKs and the fence take effect as R318 says -/
def Obligations.CalvingsCopyAgreeAndDecide : Prop :=
  (∀ (l : Layout) (k i : Nat), l.ext.getD k 1 ≠ 0 → l.parts k ≠ 0 → i < l.ext.getD k 1 →
    ∃ c, c < l.parts k ∧ ∀ p, p < l.parts k → ((l.range k p).1 ≤ i ∧ i < (l.range k p).1 + (l.range k p).2 ↔ p = c)) ∧
  (∀ (b : List (Nat × Nat)) (j : Nat), j < boxUnits b → unitOff b (unitIdx b j) = some j) ∧
  (∀ (s : State) (c : Nat) (b e : Bytes) (m : List Bytes) (d : CDesc) (x : CalCtx) (i : Instr) (a p n : Nat), CalvTakes s c b e m d →
    ((i = .calve c ∧ d.op = 0x10) ∨ (i = .land c ∧ d.op = 0x11)) → x = s.calCtx d (m.map mapEntOf) → s.moveBad d [e] (m.map mapEntOf) = false →
    s.treeOf d.stages 0 0 = ([], none) → s.firn.phase ≠ .cutWait → (newOf e).shdr = 0 → x.orphans [e] = false →
    x.outs [e] = [⟨0, s.myRank, 0, [(a, n)], none⟩] → x.expects [e] = [(0, s.myRank, 0, n)] →
    (∀ v : CalIn, v.entry = 0 → v.src = s.myRank → v.off = 0 → x.places [e] v = [(p, n, false)]) →
    s.fenced [(a, n)] = false → s.fenced [(p, n)] = false → Readable s a n → Writable s p n → n ≠ 0 →
    Spread [(s.ringAddr cRED c (s.ringHead cRED c), 128), (a, n), (p, n), (d.hdr, 128)] →
    ∃ u o, exec i s = .next u ∧ ChanTook s u c o ∧ o.status = some 0 ∧ hbmBytes u p n = hbmBytes s a n ∧ hbmBytes u a n = hbmBytes s a n ∧
      Outcome s u d.hdr (s.rd cRED c RED.NEXT_SEQ).toNat true 0 ∧ u.rd cCALV 0 CALV.LAST_DEC_SEQ = s.rd cRED c RED.NEXT_SEQ ∧
      u.rd cCALV 0 CALV.LAST_DECISION = u32 (2 ^ 30 + c * 2 ^ 24)) ∧
  (∀ (s : State) (c seq src entry off p n : Nat) (data : Bytes) (o : ChOp), InCalv s c seq o → Copying o → o.cal.out = [] → data.length = n → n ≠ 0 →
    s.myRank ≠ src → (s.opCtx o).places o.cal.plan ⟨entry, src, off, data, List.replicate n false, none, none⟩ = [(p, n, false)] →
    (∃ z ∈ o.cal.expect, ¬ (z.1 = entry ∧ z.2.1 = src ∧ z.2.2.1 = off)) → o.cal.expect.contains (entry, src, off, n) = true →
    (o.cal.held = [] → s.fenced [(p, n)] = false → MemUp s rqRed → Writable s p n →
      ∃ u, exec (.calvChunk c src seq o.calDigest entry off data (List.replicate n false) none) s = .next u ∧ Stored s u p data ∧
        u.opAt c seq = some { o with cal := { o.cal with expect := o.cal.expect.filter (fun z => !(z.1 == entry && z.2.1 == src && z.2.2.1 == off)), bytesIn := o.cal.bytesIn + n } } ∧
        Sends s u 8 [.calvReceipt c src seq o.calDigest entry off] ∧
        u.rd64 cCALV 0 CALV.BYTES_IN = (s.rd64 cCALV 0 CALV.BYTES_IN + n) % 2 ^ 64) ∧
    (o.cal.held = [] → s.fenced [(p, n)] = true →
      ∃ u, exec (.calvChunk c src seq o.calDigest entry off data (List.replicate n false) none) s = .next u ∧ u.hbm = s.hbm ∧ u.outbox = s.outbox ∧
        u.opAt c seq = some { o with cal := { o.cal with held := [⟨entry, src, off, data, List.replicate n false, some s.clk.time, none⟩] } } ∧
        Counts s u cCALV 0 CALV.FENCE_WAIT_CNT 1 ∧ OnlyRegs [rk cCALV 0 CALV.FENCE_WAIT_CNT] { s with red := u.red } u) ∧
    (∀ t, o.cal.held = [⟨entry, src, off, data, List.replicate n false, some t, none⟩] → (s.redOf c).ops = [o] → s.doubt = [] →
      s.fenced [(p, n)] = false → MemUp s rqRed → Writable s p n →
      ∃ u, exec (.fenceRelease c) s = .next u ∧ Stored s u p data ∧ Sends s u 8 [.calvReceipt c src seq o.calDigest entry off] ∧
        u.opAt c seq = some { o with cal := { o.cal with held := [], expect := o.cal.expect.filter (fun z => !(z.1 == entry && z.2.1 == src && z.2.2.1 == off)), bytesIn := o.cal.bytesIn + n } })) ∧
  (∀ (s : State) (c seq src p r : Nat) (ok : Bool) (o : ChOp) (k : RedKid), InCalv s c seq o → Copying o → CopyOver o → o.kids = [k] → k.rank = src →
    k.report = none → o.parent = some p →
    ∃ u, exec (.copyDone c src seq o.calDigest ok r) s = .next u ∧ Sends s u 8 [.calvCopyDone c p seq o.calDigest ok (if ok then 0 else r)] ∧
      OpNow s u c seq { o with kids := [{ k with report := some (ok, r) }], cal := { o.cal with doneSent := true, fail := if ok then none else some r } }) ∧
  (∀ (s : State) (c src seq p r : Nat) (commit : Bool) (o : ChOp) (e : Bytes) (d : CDesc), InCalv s c seq o → o.kids = [] → o.parent = some p →
    o.cal.plan = [e] → d = cDescOf o.desc → MemUp s rqRed → Writable s d.hdr 128 →
    (commit = true → (∀ t ∈ o.cal.staged, Readable s t.2.1 t.2.2 ∧ Writable s t.1 t.2.2 ∧ t.2.2 ≠ 0) ∧
      ((newOf e).shdr ≠ 0 → Writable s (newOf e).shdr 2) ∧
      Spread ((d.hdr, 128) :: (if (newOf e).shdr = 0 then [] else [((newOf e).shdr, 2)]) ++ o.cal.staged.flatMap fun t => [(t.2.1, t.2.2), (t.1, t.2.2)])) →
    ∃ u o', exec (.calvDecision c src seq o.calDigest r commit) s = .next u ∧ u.opAt c seq = some o' ∧ o'.phase = .down ∧
      o'.status = some (if commit then b2n o.pois else 9) ∧ o'.cal.staged = [] ∧ Outcome s u d.hdr seq commit r ∧
      (commit = true → ∀ t ∈ o.cal.staged, hbmBytes u t.1 t.2.2 = hbmBytes s t.2.1 t.2.2) ∧
      (commit = true → (newOf e).shdr ≠ 0 → leNat (hbmBytes u (newOf e).shdr 2) = (newOf e).epoch) ∧
      (∀ a, (a < d.hdr ∨ d.hdr + 128 ≤ a) → (commit = false ∨ ((∀ t ∈ o.cal.staged, a < t.1 ∨ t.1 + t.2.2 ≤ a) ∧
        ((newOf e).shdr = 0 ∨ a < (newOf e).shdr ∨ (newOf e).shdr + 2 ≤ a))) → hbmByte u a = hbmByte s a) ∧
      (Open s 8 (.calvAck c p seq o.calDigest) → u.outbox.getLast? = some (.calvAck c p seq o.calDigest))) ∧
  (∀ (s : State) (c seq src entry off : Nat) (o : ChOp), InCalv s c seq o → Copying o → o.cal.out = [] → o.cal.held = [] → o.cal.expect ≠ [] →
    ∃ u, exec (.calvAck c src seq o.calDigest (some (entry, off))) s = .next u ∧ u.outbox = s.outbox ∧
      OpNow s u c seq { o with cal := { o.cal with unacked := o.cal.unacked.filter (· ≠ (entry, src, off)) } }) ∧
  (∀ (s : State) (c seq src : Nat) (o : ChOp) (k : RedKid), s.live = true → c < 64 → s.opAt c seq = some o → o.isMove = true → o.phase = .down →
    o.status = none → KidIs o src k → (∀ x ∈ o.kids, x.rank ≠ src → x.acked = true ∨ x.orphan = true) →
    ∃ u, exec (.calvAck c src seq o.calDigest none) s = .next u ∧ u.outbox = s.outbox ∧
      OpNow s u c seq { o.setKid { k with acked := true } with status := some (if o.cal.decided.any (·.1) then b2n o.pois else 9) })

/-- The time limits of a Calving, GATHER and REGATHER with their records, missing shards, and RESOLVE at a rank in doubt -/
def Obligations.CalvingsTimeOutGatherAndResolve : Prop :=
  (∀ (s : State) (c seq p : Nat) (o : ChOp), InCalv s c seq o → (s.redOf c).ops = [o] →
    (s.clk.time < o.t0 + s.rdf cCALV 0 CALV.COPY_TMO 0 24 → exec (.copyTmoExpire c) s = .next s) ∧
    (o.t0 + s.rdf cCALV 0 CALV.COPY_TMO 0 24 ≤ s.clk.time → Copying o → ¬ CopyOver o → o.parent = some p →
      ∃ u, exec (.copyTmoExpire c) s = .next u ∧ Sends s u 8 [.calvCopyDone c p seq o.calDigest false 2] ∧
        OpNow s u c seq { o with kids := o.kids.map (fun k => if k.report.isNone then { k with report := some (false, 2) } else k), cal := { o.cal with fail := some 2, out := [], held := [], doneSent := true } }) ∧
    ((∀ k ∈ o.cal.out, ∀ t, k.held = some t → s.clk.time < t + s.rdf cCALV 0 CALV.FENCE_TMO 0 24) →
      (∀ k ∈ o.cal.held, ∀ t, k.held = some t → s.clk.time < t + s.rdf cCALV 0 CALV.FENCE_TMO 0 24) → exec (.fenceTmoExpire c) s = .next s) ∧
    ((∀ k ∈ o.cal.out, s.fenced k.segs = false) → (∀ k ∈ o.cal.held, s.fenced (fenceRuns (s.chunkPlaces o k)) = false) →
      exec (.fenceTmoExpire c) s = .next s) ∧
    (∀ k t, (k ∈ o.cal.out ∧ k.held = some t) → s.fenced k.segs = true → t + s.rdf cCALV 0 CALV.FENCE_TMO 0 24 ≤ s.clk.time → Copying o → o.parent = some p →
      ∃ u, exec (.fenceTmoExpire c) s = .next u ∧ Sends s u 8 [.calvCopyDone c p seq o.calDigest false 1] ∧
        OpNow s u c seq { o with cal := { o.cal with fail := some 1, out := [], held := [], doneSent := true } }) ∧
    (o.cal.doneSent = true → s.clk.time < o.t0 + s.rdf cCALV 0 CALV.DECIDE_TMO 0 24 → exec (.decideTmoExpire c) s = .next s) ∧
    (o.cal.doneSent = true → o.cal.fail = none → o.t0 + s.rdf cCALV 0 CALV.DECIDE_TMO 0 24 ≤ s.clk.time →
      ∃ u, exec (.decideTmoExpire c) s = .next u ∧ u.opAt c seq = some { o with phase := .down, status := some 8 } ∧ (u.redOf c).halted = true ∧
        u.doubt = s.doubt ++ [⟨c, o⟩] ∧ Counts s u cCALV 0 CALV.INDOUBT_CNT 1 ∧ Raises s u cCALV 0 16 ∧ Raises s u cRED c 32 ∧ u.hbm = s.hbm ∧
        (s.errQ (pageId cRED c) = [] → ∃ r, u.errQ (pageId cRED c) = [r] ∧ r.sev = 2 ∧ r.cause = 0x0B))) ∧
  (∀ (s : State) (c v n upd : Nat) (b e : Bytes) (d : CDesc) (x : CalCtx) (l : Layout) (cs : List Nat) (i : Instr) (r : Bytes), CalvTakes s c b e [] d →
    ((i = .calvGather c ∧ d.op = 0x12) ∨ (i = .regather c ∧ d.op = 0x13 ∧ hbmBytes s d.aux 32 = r)) → x = s.calCtx d [] → l = oldOf e →
    s.gatherBad d [e] = false → x.mem = [(s.myRank, s.myPos)] → l.shards = [cs] → x.myShard l = 0 →
    x.shardSrc l ((List.range l.ndim).map (l.partOf s.myPos)) = some s.myRank → n = l.bytes s.myPos → l.dstRuns d.dst (l.shardBox cs) = [(d.dst, n)] →
    n ≠ 0 → Readable s l.base n → l.shdr ≠ 0 → Readable s l.shdr 32 → leNat (hbmBytes s l.shdr 2) = l.epoch → upd = leNat (hbmBytes s (l.shdr + 8) 8) →
    v = s.gatherCvu → s.on (90 + v / 2) = true → s.scanOf v = none → Writable s d.dst n → Writable s d.aux 32 →
    r = goodRec l.epoch s.myRank upd (s.cvuCrc v (hbmBytes s l.base n)) → s.cvuCrc v (hbmBytes s l.base n) < 2 ^ 64 → s.myRank < 65536 →
    Spread [(s.ringAddr cRED c (s.ringHead cRED c), 128), (l.base, n), (l.shdr, 32), (d.dst, n), (d.aux, 32), (d.hdr, 128), (d.plan, 128)] →
    ∃ u o, exec i s = .next u ∧ ChanTook s u c o ∧ o.status = some 0 ∧ hbmBytes u d.dst n = hbmBytes s l.base n ∧ hbmBytes u d.aux 32 = r ∧
      leNat (hbmBytes u d.hdr 4) = (s.rd cRED c RED.NEXT_SEQ).toNat) ∧
  (∀ (s : State) (c seq j : Nat) (o : ChOp) (l : Layout) (cs : List Nat) (d : CDesc) (runs : List (Nat × Nat)), s.live = true → c < 64 →
    s.opAt c seq = some o → (s.redOf c).ops = [o] → o.op = 0x12 → o.phase = .calving → o.status = none →
    (s.clk.time < o.t0 + s.rdf cRED c RED.DEADLINE 0 24 → exec (.gatherShardDeadline c) s = .next s) ∧
    (o.t0 + s.rdf cRED c RED.DEADLINE 0 24 ≤ s.clk.time → d = cDescOf o.desc → l = oldOf (o.cal.plan.headD []) → j < l.shards.length →
      cs = l.shards.getD j [] → (∀ i, i < l.shards.length → (i ∈ o.cal.done ↔ i ≠ j)) → o.cal.done.length + 1 = l.shards.length → o.cal.held = [] →
      o.cal.fail = none → o.cal.cvu = none → o.pois = false → runs = l.dstRuns d.dst (l.shardBox cs) → MemUp s rqRed →
      (∀ r ∈ runs, Writable s r.1 r.2 ∧ apart r.1 r.2 (d.aux + 32 * j) 32 ∧ apart r.1 r.2 d.hdr 128) → Writable s (d.aux + 32 * j) 32 →
      Writable s d.hdr 128 → apart (d.aux + 32 * j) 32 d.hdr 128 →
      ∃ u o', exec (.gatherShardDeadline c) s = .next u ∧ u.opAt c seq = some o' ∧ o'.status = some 2 ∧
        (∀ r ∈ runs, ∀ a, r.1 ≤ a → a < r.1 + r.2 → hbmByte u a = 0) ∧ leNat (hbmBytes u (d.aux + 32 * j + 4) 4) = 8 ∧
        (∀ a, (∀ r ∈ runs, a < r.1 ∨ r.1 + r.2 ≤ a) → (a < d.aux + 32 * j ∨ d.aux + 32 * j + 32 ≤ a) → (a < d.hdr ∨ d.hdr + 128 ≤ a) →
          hbmByte u a = hbmByte s a) ∧
        Counts s u cCALV 0 CALV.MISSING_CNT 1 ∧ Raises s u cCALV 0 4 ∧
        (s.errQ (pageId cRED c) = [] → ∃ r, u.errQ (pageId cRED c) = [r] ∧ r.sev = 2 ∧ r.cause = 0x0B))) ∧
  (∀ (s : State) (m : Nat) (commit : Bool) (i : Instr), i = (if commit then .resolveCommit m else .resolveAbort m) → OwnerReady s m cCALV 0 CALV.RESOLVE →
    (s.doubt = [] → ∃ u, exec i s = .next u ∧ u.doubt = [] ∧ u.hbm = s.hbm ∧ u.red = s.red ∧ Acks u m cCALV 0 CALV.RESOLVE 0 ∧
      (s.errQ (pageId cCALV 0) = [] → ∃ r, u.errQ (pageId cCALV 0) = [r] ∧ r.sev = 2 ∧ r.cause = 0x01)) ∧
    (∀ x, s.doubt = [x] → x.op.cal.decided = none → x.op.cal.staged = [] → (∀ e ∈ x.op.cal.plan, (newOf e).shdr = 0) → MemUp s rqRed →
      Writable s (cDescOf x.op.desc).hdr 128 →
      ∃ u, exec i s = .next u ∧ u.doubt = [] ∧ u.red = s.red ∧ Outcome s u (cDescOf x.op.desc).hdr x.op.seq commit (if commit then 0 else 5) ∧
        (∀ a, (a < (cDescOf x.op.desc).hdr ∨ (cDescOf x.op.desc).hdr + 128 ≤ a) → hbmByte u a = hbmByte s a) ∧
        Acks u m cCALV 0 CALV.RESOLVE 0))

/-- PSET, SEAL, RESYNC, the RESTOREs, ROLLBACK, EXPORT and RELEASE do their work from the slot, and end with STATUS -/
def Obligations.FirnCommandsRunFromTheirSlots : Prop :=
  (∀ (s : State) (m a : Nat) (b : Bytes) (l : List (Nat × Nat)), FirnGo s m false a b 3 → Readable s (bfield b 0x10 8) (16 * bfield b 0x30 4) →
    l = rangesOf (bfield b 0x30 4) (hbmBytes s (bfield b 0x10 8) (16 * bfield b 0x30 4)) → s.psetBad l = false →
    ∃ u, exec (.pset m) s = .next u ∧ SlotDone s u false a 3 0 ∧ (∀ x, x ≠ a + 2 → hbmByte u x = hbmByte s x) ∧
      (s.firn.everEn = true → u.firn.psetNext = some l ∧ u.firn.pset = s.firn.pset) ∧
      (s.firn.everEn = false → u.firn.pset = l ∧ u.firn.psetNext = s.firn.psetNext) ∧ Acks u m cFIRN 0 (slotOff false) 0) ∧
  (∀ (s : State) (m a : Nat) (b : Bytes), FirnGo s m false a b 1 → s.fstat 7 = false →
    ∃ u, exec (.seal m) s = .next u ∧ u.firn = { s.firn with phase := .gates, slotA := some { desc := a, bytes := b, due := s.clk.time } } ∧
      u.hbm = s.hbm ∧ u.fstat 2 = false ∧ Acks u m cFIRN 0 (slotOff false) 0 ∧ RegsBut [cFIRN, cHBM, cARB] s u) ∧
  (∀ (s : State) (m a : Nat) (b : Bytes), FirnGo s m false a b 2 →
    ∃ u, exec (.resync m) s = .next u ∧ SlotDone s u false a 2 0 ∧ u.fstat 7 = false ∧ (∀ x, x ≠ a + 2 → hbmByte u x = hbmByte s x) ∧
      (∀ g, g ≠ (a + 2) / 65536 → mget false u.firn.cur g = (decide (g ∈ granList s.firn.pset) || mget false s.firn.cur g))) ∧
  (∀ (s : State) (m a : Nat) (b : Bytes), FirnGo s m false a b 5 → srcOf b = 0 → s.mirUp = true →
    (rollOf b = false → Readable s (bfield b 0x28 8) 1312 →
      ∃ u, exec (.restoreTwin m) s = .next u ∧ u.firn = { s.firn with slotA := some { desc := a, bytes := b, due := s.clk.time }, rest := { key := hbmBytes s (bfield b 0x28 8) 1312 } } ∧
        u.outbox = s.outbox ++ [.firnRqRestore 0 (bfield b 0x20 8) [], .wack m (regAddr cFIRN 0 (slotOff false)) 0] ∧ u.hbm = s.hbm) ∧
    (rollOf b = true → (bfield b 0x20 8 = 0 ∨ bfield b 0x20 8 = s.epochSealed) →
      ∃ u w, exec (.rollback m) s = .next u ∧ u.hbm = s.hbm ∧ u.firn.slotA = some { desc := a, bytes := b, due := s.clk.time } ∧
        u.outbox = s.outbox ++ [.firnRqRestore 1 s.epochSealed w, .wack m (regAddr cFIRN 0 (slotOff false)) 0] ∧
        (∀ g, g ∈ w ↔ ((g, true) ∈ s.firn.cur ∧ s.protectedGran g = true) ∨ (∃ x, (g, some x) ∈ s.firn.sent) ∨
          (s.fstat 7 = true ∧ ∃ e ∈ s.firn.prog, e.1 / 16 = g)))) ∧
  (∀ (s : State) (m a base : Nat) (b man : Bytes) (recs : List ChunkRec) (img : Bytes), FirnGo s m false a b 5 → srcOf b = 1 → rollOf b = false →
    Readable s (bfield b 0x28 8) 1312 → base = bfield b 0x10 8 → img = man ++ recs.flatMap recRaw → Readable s base img.length →
    hbmBytes s base img.length = img → (s.setFirn fun f => { f with rest := { key := hbmBytes s (bfield b 0x28 8) 1312 } }).manOk b man = true →
    GoodImage man recs → (∀ r ∈ recs, Writable s r.addr 4096 ∧ apart r.addr 4096 base img.length ∧ apart r.addr 4096 a 256) →
    apart a 256 base img.length → (∀ n, MemUp s (rqFirn n)) → s.firn.phase = .idle →
    ∃ u, exec (.restoreCompanion m) s = .next u ∧ SlotDone s u false a 5 0 ∧ u.epochSealed = manEpoch man ∧
      u.epochCur = (manEpoch man + 1) % 2 ^ 64 ∧ u.firn.pset = manRanges man ∧
      (∀ r ∈ recs, ∀ i, i < 4096 → hbmByte u (r.addr + i) = ((recContent r).getD []).getD i 0)) ∧
  (∀ (s : State) (m a addr : Nat) (b man : Bytes) (img : List ChunkRec), FirnGo s m false a b 5 → srcOf b = 2 → rollOf b = false →
    man = s.firn.kManifest → man ≠ [] → (bfield b 0x20 8 = 0 ∨ bfield b 0x20 8 = s.keepSealed) → localLen man ≤ bfield b 0x18 8 →
    rangesOk 0 (manRanges man) = true → img = s.firn.image → (∀ r ∈ img, r.pois = false ∧ (recContent r).isSome = true) → addr = bfield b 0x10 8 →
    Writable s addr (localLen man) → apart addr (localLen man) a 256 → (∀ n, MemUp s (rqFirn n)) → s.firnFailed = false → s.unitBusy firnUnit = false →
    ∃ u, exec (.restoreOwnStore m) s = .next u ∧ SlotDone s u false a 5 0 ∧
      (∀ r ∈ img, ∀ i, i < 4096 → hbmByte u (addr + (r.addr - ((manRanges man).head?.map (·.1)).getD 0) + i) = ((recContent r).getD []).getD i 0) ∧
      (∀ x, Out x (addr, localLen man) → x ≠ a + 2 → hbmByte u x = hbmByte s x)) ∧
  (∀ (s : State) (m a addr : Nat) (b img : Bytes), FirnGo s m true a b 4 → s.firn.kManifest ≠ [] → img = s.firn.kManifest ++ s.firn.image.flatMap recRaw →
    img.length ≤ bfield b 0x18 8 → addr = bfield b 0x10 8 → Writable s addr img.length → apart addr img.length a 256 → s.firnFailed = false →
    s.unitBusy firnUnit = false → (∀ r ∈ s.firn.image, r.pois = false) → s.firn.kWait = none →
    ∃ u, exec (.firnExport m) s = .next u ∧ SlotDone s u true a 4 0 ∧ hbmBytes u addr img.length = img ∧
      leNat (hbmBytes u (a + 0x38) 8) = img.length ∧
      (∀ x, Out x (addr, img.length) → x ≠ a + 2 → Out x (a + 0x38, 8) → hbmByte u x = hbmByte s x)) ∧
  (∀ (s : State) (m a : Nat) (b : Bytes), FirnGo s m true a b 6 →
    (s.kstate = 2 → ∃ u, exec (.firnRelease m) s = .next u ∧ SlotDone s u true a 6 0 ∧ u.kstate = 0 ∧ u.keepSealed = 0 ∧ u.firn.kChunks = [] ∧
      u.firn.kManifest = [] ∧ (∀ x, Out x s.mirStore → x ≠ a + 2 → hbmByte u x = hbmByte s x)) ∧
    (s.kstate < 2 → ∃ u, exec (.firnRelease m) s = .next u ∧ SlotDone s u true a 6 0 ∧ u.kstate = s.kstate ∧ u.firn.kChunks = s.firn.kChunks ∧
      (∀ x, x ≠ a + 2 → hbmByte u x = hbmByte s x))) ∧
  (∀ (s : State) (k : Bool) (x : FirnCmd) (st : Nat), s.firnOn 0 = true → s.firnCmd k = some x → x.status = some st → bfield x.bytes 0 1 ≠ 4 →
    s.firn.kWait = none → s.firn.refused = [] → MemUp s (rqFirn 0) → Writable s x.desc 256 →
    ∃ u, exec (.firnCmdEnd k) s = .next u ∧ SlotDone s u k x.desc (bfield x.bytes 0 1) st ∧ (∀ y, y ≠ x.desc + 2 → hbmByte u y = hbmByte s y) ∧
      (bfield x.bytes 1 1 / 128 % 2 = 1 → Raises s u cFIRN 0 (if k then 4 else 2)) ∧
      (bfield x.bytes 1 1 / 128 % 2 = 0 → u.rd cFIRN 0 hIRQ_STAT = s.rd cFIRN 0 hIRQ_STAT))

/-- The stream, its answers, the cut and manifest of a seal, the keeper's store and what it serves to its twin -/
def Obligations.FirnStreamsSealsAndServes : Prop :=
  (∀ (s : State) (n g : Nat), n < 2 → s.firnOn n = true → s.firnEn = true → s.fstat 1 = true → s.mirUp = true →
    (s.firn.phase = .idle ∨ s.firn.phase = .gates ∨ s.firn.phase = .cutWait) → s.rdb cFIRN n hFREEZE 0 = false →
    s.fstat 7 = false → s.rateOk n = true → MemUp s (rqFirn n) → Readable s (g * 65536) 65536 →
    nextFrom (mget 0 s.firn.next n) (((s.firn.cur.filter fun e => e.2 && e.1 % 2 == n).map (·.1)).filter fun g =>
      s.protectedGran g && (mget none s.firn.sent g).isNone) = some g →
    ∃ u, exec (.firnScanGranule n) s = .next u ∧ u.outbox = s.outbox ++ [.firnChunks n s.epochCur g (granRecs s g s.epochCur)] ∧
      mget false u.firn.cur g = false ∧ (∀ h, h ≠ g → mget false u.firn.cur h = mget false s.firn.cur h) ∧
      mget none u.firn.sent g = some ⟨s.epochCur, granRecs s g s.epochCur⟩ ∧ (∀ x, Out x s.workArea → hbmByte u x = hbmByte s x) ∧
      u.ts = s.ts ∧ u.ctxs = s.ctxs ∧ RegsBut [cFIRN, cHBM, cARB] s u) ∧
  (∀ (s : State) (kh hh : Bytes) (es ec gr hp fs : Nat), s.mirUp = true → s.firnEn = true → s.afterCut = false → kh.length = 32 → hh.length = 32 →
    (s.keepEn = true → s.kstate = 0 →
      ∃ u, exec (.hello kh es ec gr 0 hh hp fs true) s = .next u ∧ u.kstate = 1 ∧ u.keepSealed = 0 ∧ u.firn.kKey = kh ∧ u.firn.kChunks = [] ∧
        u.fstat 1 = true ∧ u.fstat 8 = false ∧ u.fstat 7 = false ∧ u.firn.sent = [] ∧ u.firn.prog = [] ∧
        (∀ g, mget false u.firn.cur g = (decide (g ∈ granList s.firn.pset) || mget false s.firn.cur g)) ∧ u.hbm = s.hbm ∧
        RegsBut [cFIRN] s u) ∧
    (s.keepEn = false → hh = s.idKeyHash → hp = s.epochSealed → s.firn.sent = [] →
      ∃ u, exec (.hello kh es ec gr 1 hh hp fs true) s = .next u ∧ u.fstat 1 = true ∧ u.fstat 8 = false ∧ u.outbox = s.outbox ∧
        u.firn = { s.firn with hello := some ⟨kh, es, ec, 1, hh, hp, true⟩ } ∧ u.hbm = s.hbm) ∧
    (∀ ks, s.keepEn = false → ∃ u, exec (.hello kh es ec gr ks hh hp fs false) s = .next u ∧ u.fstat 1 = false ∧ u.fstat 8 = true ∧
      u.outbox = s.outbox ∧ u.hbm = s.hbm)) ∧
  (∀ (s : State) (ep g : Nat) (recs : List ChunkRec), s.mirUp = true → s.firnOn (g % 2) = true →
    (s.keeps = false → ∃ u, exec (.chunks ep g recs) s = .next u ∧ u.outbox = s.outbox ++ [.firnGack g 3] ∧ u.firn = s.firn ∧
      OnlyRegs (keys64 cFIRN (g % 2) FIRN.RECV_BYTES) { s with links := u.links, fresh := u.fresh } u) ∧
    (s.keeps = true → GoodGran g recs → mget false s.firn.kBad g = false →
      storeBytes (s.keepGran g recs (granContents g recs)).firn.kChunks ≤ s.mirStore.2 →
      ∃ u, exec (.chunks ep g recs) s = .next u ∧ u.outbox = s.outbox ++ [.firnGack g 0] ∧ u.firn.kEpochCur = ep ∧
        (∀ i r, i < 16 → recs[i]? = some r → (u.firn.kChunk (16 * g + i)).prog = some ⟨⟨r.vepoch, r.check, r.pois⟩,
            (codeOn (s.firn.kChunk (16 * g + i)).fold.base ((recContent r).getD [])).1, (codeOn (s.firn.kChunk (16 * g + i)).fold.base ((recContent r).getD [])).2⟩ ∧
          (u.firn.kChunk (16 * g + i)).sealed = (s.firn.kChunk (16 * g + i)).fold.sealed ∧ (u.firn.kChunk (16 * g + i)).delta = none) ∧
        (∀ k, k / 16 ≠ g → u.firn.kChunk k = s.firn.kChunk k) ∧ (∀ x, Out x s.mirStore → hbmByte u x = hbmByte s x)) ∧
    (s.keeps = true → recs.length = 16 → (granContents g recs).any (·.isNone) = true →
      ∃ u, exec (.chunks ep g recs) s = .next u ∧ u.outbox.getLast? = some (.firnGack g 1) ∧ u.firn.kChunks = s.firn.kChunks ∧
        Counts s u cFIRN (g % 2) FIRN.CHECK_ERR_CNT ((granContents g recs).filter (·.isNone)).length ∧ Raises s u cFIRN (g % 2) 32 ∧ u.hbm = s.hbm)) ∧
  (∀ (s : State) (g : Nat) (x : SentGran), s.mirUp = true → mget none s.firn.sent g = some x →
    (∃ u, exec (.gack g 0) s = .next u ∧ mget none u.firn.sent g = none ∧ u.firn.cur = s.firn.cur ∧ u.outbox = s.outbox ∧
      u.rd64 cFIRN (g % 2) FIRN.SENT_GRAN = (s.rd64 cFIRN (g % 2) FIRN.SENT_GRAN + 1) % 2 ^ 64 ∧
      OnlyRegs (keys64 cFIRN (g % 2) FIRN.SENT_GRAN) { s with firn := u.firn } u) ∧
    (s.firn.phase ≠ .flush →
      ∃ u, exec (.gack g 1) s = .next u ∧ mget none u.firn.sent g = none ∧ mget false u.firn.cur g = true ∧
        (∀ h, h ≠ g → mget false u.firn.cur h = mget false s.firn.cur h) ∧ Counts s u cFIRN (g % 2) FIRN.RESEND_CNT 1 ∧
        OnlyRegs [rk cFIRN (g % 2) FIRN.RESEND_CNT] { s with firn := u.firn } u)) ∧
  (∀ (s : State) (x : FirnCmd) (a v : Nat), s.firnOn 0 = true → s.firn.slotA = some x → s.firn.phase = .gates → x.due ≤ s.clk.time →
    bfield x.bytes 3 1 = 1 → gateOf x.bytes 0 = (a, v) → MemUp s (rqFirn 0) → Readable s a 4 →
    (gateOpen (leNat (hbmBytes s a 4)) v = false →
      ∃ u, exec .sealCut s = .next u ∧ u.hbm = s.hbm ∧
        u.firn = { s.firn with slotA := some { x with due := s.clk.time + max 1 (s.rdf cFIRN 0 FIRN.GATE_POLL 0 16), tries := 1 } }) ∧
    (gateOpen (leNat (hbmBytes s a 4)) v = true → s.cutFree x = true → s.fstat 8 = false →
      ∃ u, exec .sealCut s = .next u ∧ u.firn.phase = .flush ∧ u.firn.sealEpoch = s.epochCur ∧ u.epochCur = (s.epochCur + 1) % 2 ^ 64 ∧
        u.rd64 cFIRN 0 FIRN.CUT_TIME = s.clk.time % 2 ^ 64 ∧ u.firn.sealing = (s.firn.cur.filter fun e => e.2 && s.protectedGran e.1) ∧
        u.firn.pset = s.firn.psetNext.getD s.firn.pset ∧ u.firn.psetSeal = s.firn.pset ∧ u.firn.slotA = some x ∧ u.fstat 2 = true ∧
        Raises s u cFIRN 0 1 ∧ u.hbm = s.hbm)) ∧
  (∀ (s : State), s.firnOn 0 = true → s.firn.phase = .flush → (∀ e ∈ s.firn.sealing, e.2 = false) →
    (∀ e ∈ s.firn.sent, ∀ x, e.2 = some x → x.epoch ≠ s.firn.sealEpoch) → s.sec.cmd.any (·.op == 1) = false → s.fstat 1 = true → s.mirUp = true →
    granList s.firn.psetSeal ≠ [] → s.firn.psetSeal.length ≤ 256 → s.firn.sealEpoch < 2 ^ 64 →
    ∃ u m, exec .sealFlushDone s = .next u ∧ u.firn.phase = .manifest ∧ u.firn.sealMan = m ∧ u.outbox = s.outbox ++ [.firnManifest m] ∧
      m.length = manLen s.firn.psetSeal.length ∧ manEpoch m = s.firn.sealEpoch ∧ bfield m 0x10 8 = s.epochSealed ∧ manN m = s.firn.psetSeal.length ∧
      manRoot m = rootOf (fun k => ((s.firn.valOf k).map (·.check)).getD 0) (granList s.firn.psetSeal) ∧
      manSig m = bpad (mldsaSign s.fuses.idSeed (manBody m) (State.entropy 8 s).1) 2420 ∧ (∀ x, Out x s.workArea → hbmByte u x = hbmByte s x)) ∧
  (∀ (s : State) (m : Bytes) (gs : List Nat) (root : Bytes), s.mirUp = true → s.firnOn 0 = true → s.keepEn = true → s.kstate = 1 → s.exporting = false →
    gs = granList (manRanges m) → root = rootOf (fun k => ((s.firn.kChunk k).newest.map (·.v.check)).getD 0) gs →
    (root = manRoot m →
      ∃ u, exec (.manifest m) s = .next u ∧ u.outbox = s.outbox ++ [.firnSealed (manEpoch m) 0] ∧ u.keepSealed = manEpoch m ∧
        u.firn.kManifest = m ∧ u.firn.kKey = bslice m 0x60 32 ∧ (∀ e ∈ u.firn.kChunks, e.2.prog = none ∧ e.1 / 16 ∈ gs) ∧ u.kstate = 1) ∧
    (root ≠ manRoot m →
      ∃ u, exec (.manifest m) s = .next u ∧ u.outbox = s.outbox ++ [.firnSealed (manEpoch m) 1] ∧ u.keepSealed = s.keepSealed ∧
        u.firn.kManifest = s.firn.kManifest ∧ u.firn.kChunks = dropProg s.firn.kChunks)) ∧
  (∀ (s : State) (x : FirnCmd), s.mirUp = true → s.firn.phase = .manifest → s.firn.slotA = some x → x.status = none → bfield x.bytes 0 1 = 1 →
    MemUp s (rqFirn 0) → Writable s x.desc 256 → apart x.desc 256 s.workArea.1 s.workArea.2 → s.firn.sealEpoch < 2 ^ 64 →
    bfield s.firn.sealMan 5 1 % 2 = 0 →
    ∃ u, exec (.sealed s.firn.sealEpoch 0) s = .next u ∧ SlotDone s u false x.desc 1 0 ∧ u.epochSealed = s.firn.sealEpoch ∧ u.firn.phase = .idle ∧
      u.firn.sealed = mergeVals s.firn.sealed s.firn.prog ∧ u.firn.prog = [] ∧ u.firn.sealRoot = manRoot s.firn.sealMan) ∧
  (∀ (s : State) (addr : Nat), s.firnOn (addr / 65536 % 2) = true → (s.firn.kChunk (addr / 4096)).delta ≠ none →
    ∃ u, exec (.keeperFold addr) s = .next u ∧ u.firn.kChunk (addr / 4096) = (s.firn.kChunk (addr / 4096)).fold ∧
      (u.firn.kChunk (addr / 4096)).delta = none ∧
      (∀ k, k ≠ addr / 4096 → u.firn.kChunk k = s.firn.kChunk k) ∧ u.outbox = s.outbox ∧ u.regs = s.regs ∧
      (∀ x, Out x s.mirStore → hbmByte u x = hbmByte s x)) ∧
  (∀ (s : State) (ep : Nat) (w : List Nat), s.mirUp = true → s.firnOn 0 = true →
    (s.serveEn = false → exec (.rqRestore 0 ep w) s = .next (s.firnSend 0 (.firnRManifest []))) ∧
    (s.serveEn = true → s.firn.kManifest ≠ [] → (s.kstate = 2 ∨ (s.kstate = 1 ∧ ∃ h, s.firn.hello = some h ∧ h.keyHash = s.firn.kKey)) → (ep = 0 ∨ ep = s.keepSealed) →
      ∃ u, exec (.rqRestore 0 ep w) s = .next u ∧ u.kstate = 3 ∧ u.firn = { s.firn with kReturn := s.kstate, kRoll := false } ∧
        u.outbox = s.outbox ++ .firnRManifest s.firn.kManifest ::
          (granList (manRanges s.firn.kManifest)).map (fun g => .firnRChunks g (s.firn.sealedRecs g)) ∧
        OnlyRegs [rk cFIRN 0 hSTAT] { s with firn := u.firn, links := u.links, fresh := u.fresh } u)) ∧
  (∀ (s : State) (g : Nat), s.mirUp = true → s.firnOn (g % 2) = true →
    (s.kstate = 3 → exec (.rResend g) s = .next (s.firnSend (g % 2) (.firnRChunks g (s.firn.sealedRecs g)))) ∧
    (s.kstate ≠ 3 → exec (.rResend g) s = .next (s.firnSend 0 (.firnRManifest [])))) ∧
  (∀ (s : State) (x : FirnCmd) (m : Bytes), s.served = some x → s.mirUp = true → s.firn.rest.queue = [] →
    (s.firn.rest.manifest = none → m ≠ [] → (rollOf x.bytes = true → s.firn.rest.want ≠ []) →
      (rollOf x.bytes = false → s.manOk x.bytes m = true ∧ s.firn.rest.got.length < bfield m 0x28 8) →
      exec (.rManifest m) s = .next (s.setFirn fun f => { f with rest := { f.rest with manifest := some m } })) ∧
    (∀ g recs, s.firn.rest.manifest = some m → g ∈ granList (manRanges m) → GoodGran g recs → (∀ r ∈ recs, r.pois = false) →
      (rollOf x.bytes = true → ∃ h ∈ s.firn.rest.want, h ≠ g) → (rollOf x.bytes = false → s.firn.rest.got.length + 16 < bfield m 0x28 8) →
      mget 0 s.firn.rest.tries g = 0 → MemUp s (rqFirn (g % 2)) → Writable s (g * 65536) 65536 →
      ∃ u, exec (.rChunks g recs) s = .next u ∧ u.outbox = s.outbox ∧ u.firn.rest.want = s.firn.rest.want.filter (· != g) ∧
        (∀ i r, i < 16 → recs[i]? = some r → ∀ j, j < 4096 → hbmByte u (g * 65536 + 4096 * i + j) = ((recContent r).getD []).getD j 0) ∧
        (∀ b, Out b (g * 65536, 65536) → hbmByte u b = hbmByte s b))) ∧
  (∀ (s : State) (ep st : Nat), s.mirUp = true → s.kstate = 3 → s.firn.kReturn < 4 →
    ((st = 0 ∨ st = 3) → ∃ u, exec (.restored ep st) s = .next u ∧ u.kstate = (if s.firn.kRoll then s.firn.kReturn else 1) ∧
      u.firn = { s.firn with kChunks := dropProg s.firn.kChunks, kKey := if s.firn.kRoll then s.firn.kKey else (s.firn.hello.map (·.keyHash)).getD s.firn.kKey } ∧ OnlyRegs [rk cFIRN 0 hSTAT] { s with firn := u.firn } u) ∧
    (st ≠ 0 → st ≠ 3 → ∃ u, exec (.restored ep st) s = .next u ∧ u.kstate = s.firn.kReturn ∧ OnlyRegs [rk cFIRN 0 hSTAT] s u)) ∧
  (∀ (s : State) (t : Nat), s.firn.mirDown = some t → s.firnOn 0 = true → s.mirUp = false → s.served = none → s.firn.kReturn < 4 →
    (s.afterCut = false → s.kstate = 3 → t + s.rdf cFIRN 0 FIRN.MIRROR_TMO 0 24 ≤ s.clk.time →
      ∃ u, exec .mirrorTmoExpire s = .next u ∧ u.kstate = s.firn.kReturn ∧ OnlyRegs [rk cFIRN 0 hSTAT] s u) ∧
    (∀ x, s.firn.phase = .flush → s.kstate ≠ 3 → max t (s.rd64 cFIRN 0 FIRN.CUT_TIME) + s.rdf cFIRN 0 FIRN.MIRROR_TMO 0 24 ≤ s.clk.time →
      s.firn.slotA = some x → x.status = none → bfield x.bytes 0 1 = 1 → MemUp s (rqFirn 0) → Writable s x.desc 256 → NoWaits s →
      ∃ u, exec .mirrorTmoExpire s = .next u ∧ SlotDone s u false x.desc 1 8 ∧ u.firn.phase = .idle ∧ u.firn.sealing = [] ∧
        Counts s u cFIRN 0 FIRN.SEAL_FAIL_CNT 1 ∧ (∀ e ∈ s.firn.sealing, e.2 = true → mget false u.firn.cur e.1 = true) ∧
        (s.errQ (pageId cFIRN 0) = [] → ∃ r, u.errQ (pageId cFIRN 0) = [r] ∧ r.sev = 2 ∧ r.cause = 0x0C)))

/-- Resets clear all but what R517 keeps; VAON, power loss and bleed; secure boot; the stages of bring-up -/
def Obligations.ResetBootAndBringupProceed : Prop :=
  (∀ (s : State) (tj : Temps), s.life.vaon = true → s.pins.resetN = true → s.life.inReset = false →
    ∃ u, exec (.resetNAssert tj) s = .next u ∧ u.life.inReset = true ∧ u.life.pin = true ∧ u.life.halted = false ∧ u.pins.resetN = false ∧
      RegsAfterReset [] s u ∧ AfterReset s u ∧ u.pins.thermtripN = (s.pins.thermtripN || decide (hottest tj ≤ 105))) ∧
  (∀ (s : State), s.life.vaon = true → s.pins.resetN = false →
    (s.life.inReset = true → s.pins.thermtripN = true → s.pwr.bleeding = false →
      ∃ u, exec .resetNRelease s = .next u ∧ u.life = { vaon := true } ∧ u.clk = {} ∧ u.pins = { s.pins with resetN := true, pwrgood := true } ∧
        u.rd cERR 0 ERR.BOOT_CNT = s.rd cERR 0 ERR.BOOT_CNT + 1 ∧
        u.rd cSYS 0 SYS.RESET_CAUSE = u32 (b2n s.life.cold + 2 * b2n s.life.pin + 4 * b2n s.life.warm + 8 * b2n s.life.hadHalt + 16 * b2n s.life.loss) ∧
        OnlyRegs [rk cERR 0 ERR.BOOT_CNT, rk cSYS 0 SYS.RESET_CAUSE] { s with life := u.life, clk := u.clk, pins := u.pins } u) ∧
    ((s.pins.thermtripN = false ∨ s.pwr.bleeding = true) →
      exec .resetNRelease s = .next { s with pins := { s.pins with resetN := true, pwrgood := true } })) ∧
  (∀ (s : State) (m : Nat), OwnerReady s m cSYS 0 hCTRL →
    ∃ u, exec (.warmReset m) s = .next u ∧ u.life = { vaon := true } ∧ u.clk = {} ∧ AfterReset s u ∧ Acks u m cSYS 0 hCTRL 0 ∧
      RegsAfterReset [rk cERR 0 ERR.BOOT_CNT, rk cSYS 0 SYS.RESET_CAUSE] s u ∧ u.rd cERR 0 ERR.BOOT_CNT = s.rd cERR 0 ERR.BOOT_CNT + 1 ∧
      u.rd cSYS 0 SYS.RESET_CAUSE = u32 (b2n s.life.cold + 2 * b2n s.life.pin + 4 + 8 * b2n (s.life.hadHalt || s.life.halted) + 16 * b2n s.life.loss)) ∧
  (∀ (s : State) (pin : Bool), s.life.vaon = true → s.pwr.bleeding = false → (pin = true → s.pins.pwrgood = true) → s.life.inReset = false →
    ∃ u, exec (.powerLoss pin) s = .next u ∧ u.life.inReset = true ∧ u.life.loss = true ∧ u.pwr.bleeding = true ∧
      u.pins.pwrgood = (s.pins.pwrgood && !pin) ∧ RegsAfterReset [] s u ∧ AfterReset s u) ∧
  (∀ (s : State) (d r : Nat), s.life.vaon = true → s.pwr.bleeding = true →
    ∃ u, exec (.bleedEnd d r) s = .next u ∧ u.pwr = { s.pwr with bleeding := false } ∧
      u.rd cPWR 0 PWR.LAST_BLEED = u32 (2 ^ 31 + min 2047 d * 65536 + min 1023 r) ∧ OnlyRegs [rk cPWR 0 PWR.LAST_BLEED] { s with pwr := u.pwr } u) ∧
  (∀ (s : State), s.life.vaon = true →
    ∃ u, exec .vaonLeavesRange s = .next u ∧ u.life.vaon = false ∧ u.regs = [] ∧ u.err = {} ∧ u.age = {} ∧ u.pwr = {} ∧ u.sec = {} ∧
      (s.sec.cmd = none → u.fuses = s.fuses) ∧ u.pins.twinAliveOut = false) ∧
  (∀ (s : State), s.life.vaon = false →
    ∃ u, exec .vaonComesUp s = .next u ∧ u.life.vaon = true ∧ u.life.inReset = true ∧ u.life.cold = true ∧ u.pins.resetN = false ∧
      u = { s with life := u.life, pins := u.pins }) ∧
  (∀ (s : State), s.live = true → s.bootStage = 0 → s.sec.done = false →
    ∃ u, exec .fusesSensed s = .next u ∧ u.bootStage = 1 ∧ u.bringup = 1 ∧ OnlyRegs [rk cSEC 0 SEC.BOOT_STAT, rk cSYS 0 hSTAT] s u) ∧
  (∀ (s : State), s.bootOpen = true →
    (∀ d, exec (.append d) s = .next { s with sec := { s.sec with buffer := (s.sec.buffer ++ d).take 196608, overflow := s.sec.overflow || decide (196608 < (s.sec.buffer ++ d).length) } }) ∧
    exec .bootRestart s = .next { s with sec := { s.sec with buffer := [], overflow := false } } ∧
    (s.bootCheck = 0 ↔ imageOk s.sec.buffer s.sec.overflow = true ∧ bfield s.sec.buffer 7 1 / (if s.fuses.grade9632 then 2 else 1) % 2 = 1 ∧
      hash32 (bslice s.sec.buffer 0x40 1312) = bpad s.fuses.rotKeyHash 32 ∧
      mldsaVerify (bslice s.sec.buffer 0x40 1312) (imageHash s.sec.buffer) (bslice s.sec.buffer 0x560 2420) = true ∧
      arbValue (s.arbFuse (bfield s.sec.buffer 8 1)) ≤ bfield s.sec.buffer 9 1) ∧
    (s.bootCheck = 0 →
      ∃ u, exec .verify s = .next u ∧ u.sec.done = true ∧ u.bootStage = 3 ∧ u.bringup = 2 ∧ u.rdb cSEC 0 SEC.BOOT_STAT 0 = true ∧
        u.sec.runIdx = bfield s.sec.buffer 8 1 ∧ u.sec.runSvn = bfield s.sec.buffer 9 1 ∧ u.meas 1 = imageHash s.sec.buffer ∧
        u.rd64 cSEC 0 SEC.FW_VER = bfield s.sec.buffer 0x18 8 ∧ u.pins = { s.pins with twinAliveOut := true } ∧
        u.rd cSYS 0 SYS.T_BOOT = u32 s.clk.time ∧ RegsBut [cSEC, cSYS] s u) ∧
    (s.bootCheck ≠ 0 →
      ∃ u, exec .verify s = .next u ∧ u.sec = { s.sec with buffer := [], overflow := false } ∧ u.bootStage = 4 ∧
        u.rdb cSEC 0 SEC.BOOT_STAT 1 = true ∧ u.rdf cSEC 0 SEC.BOOT_STAT 24 8 = s.bootCheck ∧ Counts s u cSEC 0 SEC.BOOT_FAIL_CNT 1 ∧
        OnlyRegs [rk cSEC 0 SEC.BOOT_STAT, rk cSEC 0 SEC.BOOT_FAIL_CNT] { s with sec := u.sec } u)) ∧
  (∀ (s : State), s.live = true → s.bringup = 2 → s.shed = false → s.pwr.lastWake = none → (∀ d ∈ stage2Order, (s.pdst d).phase = .off) →
    s.eStored stage2Order ≤ s.eLimit →
    ∃ u, exec .bringupPower s = .next u ∧ u.bringup = 3 ∧
      (∀ i d, stage2Order[i]? = some d → u.pdOn d = true ∧ (u.pdst d).phase = .settling (s.clk.time + i * s.wakeGap)) ∧
      (∀ d, d ∉ stage2Order → u.pdst d = s.pdst d)) ∧
  (∀ (s : State) (ids : List Bytes), s.live = true → s.bringup = 3 → s.wakesClosed = true → NoWaits s →
    ((∀ n, n < 8 → s.pdStat (64 + n) = true) →
      ∃ u, exec (.bringupTrain 0 0 ids) s = .next u ∧ u.bringup = 4 ∧ u.rdb cSYS 0 hSTAT 2 = true ∧ u.rdb cSYS 0 hSTAT 1 = true ∧
        u.rd cSYS 0 SYS.T_MEM = u32 s.clk.time ∧ u.rdb cSYS 0 hIRQ_STAT 1 = true ∧ (∀ a, a < hbmSize → hbmByte u a = 0) ∧
        ∀ n, n < 8 → u.rdb cSYS 0 SYS.HBM_TRAIN n = true ∧ u.rdb cHBM n hSTAT 3 = true ∧ mget [] u.sec.stackIds n = bpad (ids.getD n []) 16) ∧
    (∀ failed bad n, n < 8 → failed.testBit n = true →
      ∃ u, exec (.bringupTrain failed bad ids) s = .next u ∧ u.bringup = 6 ∧ u.rdb cSYS 0 SYS.HBM_TRAIN (8 + n) = true ∧
        u.rdb cHBM n hSTAT 2 = false ∧ u.rdb cSYS 0 hIRQ_STAT 3 = true ∧ u.rd cSYS 0 SYS.T_READY = u32 s.clk.time)) ∧
  (∀ (s : State) (fails : List Nat), s.live = true → s.bringup = 4 →
    (s.life.woken = false → (∀ p, p < 64 → (s.pdst p).phase = .off ∧ s.pdOn p = false) → s.eStored (List.range 64) ≤ s.eLimit →
      ∃ u, exec (.bringupTest fails) s = .next u ∧ u.life = { s.life with woken := true } ∧ u.bringup = 4 ∧
        (∀ p, p < 64 → u.pdOn p = bit s.fuses.tilePairs p ∧ (u.pdst p).phase = if bit s.fuses.tilePairs p then .wakeWait else .off)) ∧
    (s.life.woken = true → s.pairsReady = true →
      ∃ u, exec (.bringupTest fails) s = .next u ∧ u.bringup = 5 ∧ u.rdb cSYS 0 hSTAT 0 = true ∧ u.rdb cSYS 0 hIRQ_STAT 0 = true ∧
        u.rd cSYS 0 SYS.T_READY = u32 s.clk.time ∧
        ∀ t, t < 128 → s.tileOn t = true → u.rdb cVEC t hSTAT 2 = true ∧ (t ∉ fails → u.rdb cVEC t hSTAT 3 = true) ∧
          (t ∈ fails → u.rdb cSYS 0 (SYS.TEST_FAIL + 4 * (t / 32)) (t % 32) = true ∧
            u.rdb cDSP (t / 64) (DSP.TILE_MASK + 4 * (t % 64 / 32)) (t % 32) = false)))

/-- ATTEST, ARB_COMMIT, EXTEND, DBG_REQ and DBG_TOKEN start, end with their effect and STATUS; the TAP obeys the open scopes -/
def Obligations.SecurityCommandsAndTheTap : Prop :=
  (∀ (s : State) (i : Instr) (m op arg st : Nat), secStarts s i m op arg st → OwnerReady s m cSEC 0 SEC.CMD → s.life.halted = false → s.sec.done = true →
    (s.sec.cmd = none →
      ∃ u, exec i s = .next u ∧ u.sec = { s.sec with cmd := some ⟨op, arg, s.clk.time, s.secData, st⟩ } ∧
        u.rd cSEC 0 SEC.CMD_STAT = u32 (2 ^ 31 + op) ∧ Acks u m cSEC 0 SEC.CMD 0 ∧ OnlyRegs [rk cSEC 0 SEC.CMD_STAT] { answering s m with sec := u.sec } u) ∧
    (s.sec.cmd ≠ none →
      ∃ u, exec i s = .next u ∧ u.sec = s.sec ∧ u.rd cSEC 0 SEC.CMD_STAT = u32 (2 ^ 31 + 65536 + op) ∧ Acks u m cSEC 0 SEC.CMD 0 ∧
        (s.errQ (pageId cSEC 0) = [] → ∃ r, u.errQ (pageId cSEC 0) = [r] ∧ r.sev = 2 ∧ r.cause = 0x01))) ∧
  (∀ (s : State) (c : SecCmd) (blown : Nat), s.sec.cmd = some c → s.life.vaon = true → s.life.inReset = false → c.op < 6 → c.arg < 64 →
    (s.clk.time < c.start + s.secTime c → exec (.secCmdEnd blown) s = .next s) ∧
    (c.start + s.secTime c ≤ s.clk.time →
      (c.status ≠ 0 → c.status < 256 → ∃ u, exec (.secCmdEnd blown) s = .next u ∧ SecDone s u c.op c.status 3 ∧
        u.sec = { s.sec with cmd := none } ∧ u.fuses = s.fuses) ∧
      (c.status = 0 → c.op = 1 → c.nonce.length = 32 → ∃ u, exec (.secCmdEnd blown) s = .next u ∧ SecDone s u 1 0 1 ∧ u.fuses = s.fuses ∧
        bslice u.sec.report 0x10 32 = c.nonce ∧ bslice u.sec.report 0 704 = s.reportBody c ∧
        bslice u.sec.report 704 2420 = bpad (mldsaSign s.fuses.idSeed (s.reportBody c) (State.entropy 8 s).1) 2420) ∧
      (c.status = 0 → c.op = 2 → blown = 2 ^ 64 - 1 → s.sec.runSvn ≤ 64 → arbValue (s.arbFuse c.arg) ≤ s.sec.runSvn →
        s.secTime c = 20000 * (s.sec.runSvn - arbValue (s.arbFuse c.arg)) ∧
        ∃ u, exec (.secCmdEnd blown) s = .next u ∧ SecDone s u 2 0 1 ∧ u.sec = { s.sec with cmd := none } ∧
          (∀ j, j < 64 → (u.arbFuse c.arg).getLsbD j = ((s.arbFuse c.arg).getLsbD j || decide (j < s.sec.runSvn))) ∧
          (∀ k, k ≠ c.arg → u.arbFuse k = s.arbFuse k)) ∧
      (c.status = 0 → c.op = 3 → 2 ≤ c.arg → c.arg ≤ 7 → ∃ u, exec (.secCmdEnd blown) s = .next u ∧ SecDone s u 3 0 1 ∧
        u.meas c.arg = hash32 (s.meas c.arg ++ c.nonce) ∧ (∀ k, k < 8 → k ≠ c.arg → u.meas k = s.meas k) ∧ u.fuses = s.fuses) ∧
      (c.status = 0 → c.op = 4 → ∃ u, exec (.secCmdEnd blown) s = .next u ∧ SecDone s u 4 0 1 ∧ u.sec.chalValid = true ∧
        u.sec.scopesReq = BitVec.ofNat 2 c.arg ∧ u.sec.chal.length = 64 ∧ bslice u.sec.chal 32 16 = s.dieRecord 0 ∧
        bfield u.sec.chal 48 4 = (s.rd cERR 0 ERR.BOOT_CNT).toNat ∧ u.fuses = s.fuses) ∧
      (∀ b, b = s.tokenBytes 3828 → c.status = 0 → c.op = 5 →
        (s.tokenOk b = true → ∃ u, exec (.secCmdEnd blown) s = .next u ∧ SecDone s u 5 0 5 ∧
          u.sec = { s.sec with cmd := none, chalValid := false, bscan := s.sec.bscan || (bfield b 6 1).testBit 0, full := s.sec.full || (bfield b 6 1).testBit 1 }) ∧
        (s.tokenOk b = false → ∃ u, exec (.secCmdEnd blown) s = .next u ∧ SecDone s u 5 0x09 3 ∧
          u.sec = { s.sec with cmd := none, chalValid := false })))) ∧
  (∀ (s : State) (ir : BitVec 8), s.life.vaon = true →
    ∃ u, exec (.jtagInstruction ir) s = .next u ∧ u = { s with sec := { s.sec with tap := u.sec.tap }, outbox := u.outbox } ∧
      (ir = 0xFF → u.sec.tap = .bypass) ∧
      (s.sec.bscan = false → s.sec.full = false → u.sec.tap = .bypass ∨ u.sec.tap = .idcode) ∧
      (s.sec.full = false → u.sec.tap ≠ .debug) ∧
      (u.sec.tap = .idcode → u.outbox = s.outbox ++ [.jtagId (if s.fuses.grade9632 then 0x19632A6B else 0x19640A6B)]) ∧
      (u.sec.tap ≠ .idcode → u.outbox = s.outbox) ∧
      (∀ k, ir ≠ 0xFF → Config.jtagOpcode ir = k → u.sec.tap = if k = 1 then .idcode else if k = 2 ∧ (s.sec.bscan ∨ s.sec.full) then .bscan
        else if k = 3 ∧ s.sec.full then .debug else .bypass))

/-- SEAL_CANCEL before the cut ends the seal with STATUS 1 in the same epoch; at or after the cut it changes nothing -/
def Obligations.SealCancelBeforeTheCut : Prop :=
  (∀ (s : State) (m : Nat) (x : FirnCmd), OwnerReady s m cFIRN 0 hCTRL → s.pageOn cFIRN 0 = true → s.memReady = true → s.firn.slotA = some x →
    x.status = none → (s.firn.phase = .gates ∨ s.firn.phase = .cutWait) → MemUp s (rqFirn 0) → Writable s x.desc 256 → bfield x.bytes 0 1 = 1 →
    ∃ u, exec (.sealCancel m) s = .next u ∧ SlotDone s u false x.desc 1 1 ∧ u.firn.phase = .idle ∧ u.epochCur = s.epochCur ∧
      u.epochSealed = s.epochSealed ∧ Acks u m cFIRN 0 hCTRL 0 ∧ (∀ y, y ≠ x.desc + 2 → hbmByte u y = hbmByte s y)) ∧
  (∀ (s : State) (m : Nat), OwnerReady s m cFIRN 0 hCTRL → s.pageOn cFIRN 0 = true → s.memReady = true →
    s.firn.phase ≠ .gates → s.firn.phase ≠ .cutWait →
    exec (.sealCancel m) s = .next ((answering s m).send (.wack m (regAddr cFIRN 0 hCTRL) 0)))

/-- Every context instruction with every field value has one word, which decodes to it; a word decodes exactly when its OP is not reserved -/
def Obligations.WordsAndContextInstructionsAgree : Prop :=
  (∀ (i : Instr) (op t : Nat) (f : VecFields), opOfInstr i = some (op, t, f) →
    ∃ w, encodeWord i = some w ∧ decodeWord t w = some i ∧ (w.extractLsb' 56 8).toNat = op) ∧
  (∀ (t : Nat) (w : BitVec 64) (i : Instr), decodeWord t w = some i →
    encodeWord i = some w ∧ ∃ op f, opOfInstr i = some (op, t, f)) ∧
  (∀ (t : Nat) (w : BitVec 64), (∃ i, decodeWord t w = some i) ↔ (w.extractLsb' 56 8).toNat ∈ opsOfTheTable) ∧
  (∀ (i j : Instr) (op op' t : Nat) (f g : VecFields), opOfInstr i = some (op, t, f) → opOfInstr j = some (op', t, g) →
    encodeWord i = encodeWord j → i = j)

/-- Every command keeps HBM and the tile stores in canonical form, so that equal memories are equal data -/
def Obligations.StepsKeepMemoryCanonical : Prop :=
  ∀ s s' : State, HbmWf s → TsWf s → step s = .next s' → HbmWf s' ∧ TsWf s'

end Statements
end

