-- ==== Sys2Proof/Laws/Bytes.lean ====
section
/-! SUPPORT. Laws of little-endian fields and of CRCs: their lengths, bounds and round trips. -/
namespace Sys2Proof.Machine

theorem toLE_length (k n : Nat) : (toLE k n).length = k := by
  induction k generalizing n with
  | zero => rfl
  | succ k ih => simp [toLE, ih]

/-- The number in a little-endian field is the one that was put there. -/
theorem leNat_toLE (k n : Nat) : leNat (toLE k n) = n % 256 ^ k := by
  induction k generalizing n with
  | zero => simp [toLE, leNat, Nat.mod_one]
  | succ k ih =>
    rw [toLE, leNat, ih, BitVec.toNat_ofNat, show 256 ^ (k + 1) = 256 * 256 ^ k from Nat.pow_succ', Nat.mod_mul]

theorem revBits_lt (w n : Nat) : revBits w n < 2 ^ w := by
  unfold revBits
  induction w with
  | zero => simp
  | succ w ih =>
    rw [List.range_succ, List.foldl_append]
    simp only [List.foldl_cons, List.foldl_nil]
    have : n / 2 ^ w % 2 < 2 := Nat.mod_lt _ (by decide)
    rw [Nat.pow_succ]; omega

/-- A reflected CRC is below 2^w. -/
theorem crcGen_lt (w poly init x : Nat) (ri : Bool) (b : Bytes) : crcGen w poly init x ri true b < 2 ^ w := by
  unfold crcGen
  exact Nat.xor_lt_two_pow (revBits_lt _ _) (Nat.mod_lt _ (Nat.two_pow_pos w))

theorem flitCrc_lt (q : Option Nat) (b : Bytes) : flitCrc q b < 2 ^ 32 := crcGen_lt _ _ _ _ _ _

theorem bpad_self (b : Bytes) (n : Nat) (h : b.length = n) : bpad b n = b := by
  subst h; simp [bpad, bslice]

theorem flitSeal_length (q : Option Nat) (b : Bytes) (h : b.length = 252) : (flitSeal q b).length = 256 := by
  rw [flitSeal, bpad_self b 252 h, List.length_append, h, toLE_length]

/-- A sealed flit carries its CRC. -/
theorem flitSeal_crc (q : Option Nat) (b : Bytes) (h : b.length = 252) : bfield (flitSeal q b) 0xFC 4 = flitCrc q (flitSeal q b) := by
  have t : (flitSeal q b).take 252 = b := by rw [flitSeal, bpad_self b 252 h]; exact List.take_left' h
  have d : (flitSeal q b).drop 252 = toLE 4 (flitCrc q b) := by
    rw [flitSeal, bpad_self b 252 h]; exact List.drop_left' h
  have c : flitCrc q (flitSeal q b) = flitCrc q b := by
    unfold flitCrc; rw [t, List.take_of_length_le (by omega)]
  have l := toLE_length 4 (flitCrc q b)
  rw [c, bfield, bslice, d, List.take_of_length_le (by omega), l]
  simp only [Nat.sub_self, List.replicate_zero, List.append_nil]
  rw [leNat_toLE]
  exact Nat.mod_eq_of_lt (flitCrc_lt q b)

end Sys2Proof.Machine
end

