-- ==== Sys2Proof/Laws/SMap.lean ====
section
/-! SUPPORT. Laws of sparse storage: what a read finds after a write, and that a write keeps the canonical form. -/
namespace Sys2Proof.Machine
variable {α : Type}

theorem mget_merase_same (d : α) (m : SMap α) (k : Nat) : mget d (merase m k) k = d := by
  induction m with
  | nil => rfl
  | cons e r ih =>
    obtain ⟨k', v⟩ := e
    by_cases h : k' = k
    · simpa [merase, h] using ih
    · have : merase ((k', v) :: r) k = (k', v) :: merase r k := by simp [merase, h]
      rw [this, mget, if_neg (Ne.symm h), ih]

theorem mget_merase_ne (d : α) (m : SMap α) {k j : Nat} (hj : j ≠ k) : mget d (merase m k) j = mget d m j := by
  induction m with
  | nil => rfl
  | cons e r ih =>
    obtain ⟨k', v⟩ := e
    by_cases h : k' = k
    · have : merase ((k', v) :: r) k = merase r k := by simp [merase, h]
      rw [this, ih, mget, if_neg (by omega)]
    · have : merase ((k', v) :: r) k = (k', v) :: merase r k := by simp [merase, h]
      rw [this, mget, mget, ih]

theorem mget_minsert_same (d : α) (m : SMap α) (k : Nat) (v : α) : mget d (minsert m k v) k = v ∨ (∃ w, (k, w) ∈ m) := by
  induction m with
  | nil => left; simp [minsert, mget]
  | cons e r ih =>
    obtain ⟨k', v'⟩ := e
    by_cases h : k < k'
    · left; simp [minsert, h, mget]
    · by_cases he : k = k'
      · right; exact ⟨v', by simp [he]⟩
      · rcases ih with ih | ⟨w, hw⟩
        · left; simp [minsert, h, mget, he, ih]
        · right; exact ⟨w, by simp [hw]⟩

theorem mget_minsert_ne (d : α) (m : SMap α) {k j : Nat} (v : α) (hj : j ≠ k) :
    mget d (minsert m k v) j = mget d m j := by
  induction m with
  | nil => simp [minsert, mget, hj]
  | cons e r ih =>
    obtain ⟨k', v'⟩ := e
    by_cases h : k < k'
    · simp [minsert, h, mget, hj]
    · simp [minsert, h, mget, ih]

theorem not_mem_merase (m : SMap α) (k : Nat) (w : α) : (k, w) ∉ merase m k := by simp [merase]

variable [DecidableEq α]

/-- A read after a write to the same key gives the value written. -/
@[simp] theorem mget_mset_same (d : α) (m : SMap α) (k : Nat) (v : α) : mget d (mset d m k v) k = v := by
  unfold mset
  split
  · rename_i h; rw [mget_merase_same, h]
  · rcases mget_minsert_same d (merase m k) k v with h | ⟨w, hw⟩
    · exact h
    · exact absurd hw (not_mem_merase m k w)

/-- A write leaves every other key alone, whatever default the reader uses. -/
theorem mget_mset_ne (d e : α) (m : SMap α) {k j : Nat} (v : α) (hj : j ≠ k) :
    mget e (mset d m k v) j = mget e m j := by
  unfold mset
  split
  · exact mget_merase_ne e m hj
  · rw [mget_minsert_ne e _ v hj, mget_merase_ne e m hj]

/-- Both cases at once. -/
theorem mget_mset (d : α) (m : SMap α) (k j : Nat) (v : α) :
    mget d (mset d m k v) j = if j = k then v else mget d m j := by
  split
  · rename_i h; rw [h, mget_mset_same]
  · rename_i h; exact mget_mset_ne d d m v h

/-- Every listed key lies at or above `b`. -/
def keysFrom (b : Nat) (m : SMap α) : Prop := ∀ e ∈ m, b ≤ e.1

theorem mwf_cons (d : Nat → α) (k : Nat) (v : α) (r : SMap α) :
    mwf d ((k, v) :: r) = true ↔ v ≠ d k ∧ keysFrom (k + 1) r ∧ mwf d r = true := by
  induction r generalizing k v with
  | nil => simp [mwf, keysFrom]
  | cons e r ih =>
    obtain ⟨k', v'⟩ := e
    constructor
    · intro h
      simp only [mwf, Bool.and_eq_true, decide_eq_true_eq] at h
      have h2 := (ih k' v').1 h.2
      refine ⟨h.1.1, ?_, h.2⟩
      intro e he
      rcases List.mem_cons.1 he with rfl | he
      · exact h.1.2
      · have := h2.2.1 e he
        omega
    · rintro ⟨h1, h2, h3⟩
      simp only [mwf, Bool.and_eq_true, decide_eq_true_eq]
      exact ⟨⟨h1, h2 (k', v') (by simp)⟩, h3⟩

theorem mwf_merase (d : Nat → α) (m : SMap α) (k : Nat) (h : mwf d m = true) : mwf d (merase m k) = true := by
  induction m with
  | nil => exact h
  | cons e r ih =>
    obtain ⟨k', v⟩ := e
    have h := (mwf_cons d k' v r).1 h
    by_cases hk : k' = k
    · simpa [merase, hk] using ih h.2.2
    · have e : merase ((k', v) :: r) k = (k', v) :: merase r k := by simp [merase, hk]
      rw [e, mwf_cons]
      refine ⟨h.1, fun x hx => h.2.1 x ?_, ih h.2.2⟩
      exact (List.mem_filter.1 hx).1

omit [DecidableEq α] in
theorem keysFrom_minsert {b k : Nat} {m : SMap α} (v : α) (hk : b ≤ k) (h : keysFrom b m) : keysFrom b (minsert m k v) := by
  induction m with
  | nil => intro e he; simp [minsert] at he; simp [he, hk]
  | cons e r ih =>
    obtain ⟨k', v'⟩ := e
    intro x hx
    unfold minsert at hx
    split at hx
    · rcases List.mem_cons.1 hx with rfl | hx
      · exact hk
      · exact h x hx
    · rcases List.mem_cons.1 hx with rfl | hx
      · exact h _ (by simp)
      · exact ih (fun y hy => h y (by simp [hy])) x hx

theorem mwf_minsert (d : Nat → α) (m : SMap α) (k : Nat) (v : α) (hv : v ≠ d k) (hk : ∀ w, (k, w) ∉ m)
    (h : mwf d m = true) : mwf d (minsert m k v) = true := by
  induction m with
  | nil => simpa [minsert, mwf] using hv
  | cons e r ih =>
    obtain ⟨k', v'⟩ := e
    have h' := (mwf_cons d k' v' r).1 h
    unfold minsert
    split
    · rename_i hlt
      rw [mwf_cons]
      refine ⟨hv, ?_, h⟩
      intro x hx
      rcases List.mem_cons.1 hx with rfl | hx
      · exact hlt
      · have := h'.2.1 x hx; omega
    · rename_i hge
      have hne : k' ≠ k := by
        intro he; subst he; exact hk v' (by simp)
      rw [mwf_cons]
      exact ⟨h'.1, keysFrom_minsert v (by omega) h'.2.1, ih (fun w hw => hk w (by simp [hw])) h'.2.2⟩

/-- A write keeps the canonical form. -/
theorem mwf_mset (d : Nat → α) (m : SMap α) (k : Nat) (v : α) (h : mwf d m = true) : mwf d (mset (d k) m k v) = true := by
  unfold mset
  split
  · exact mwf_merase d m k h
  · rename_i hv
    exact mwf_minsert d _ k v hv (not_mem_merase m k) (mwf_merase d m k h)

end Sys2Proof.Machine
end

