-- ==== Sys2Proof/Laws/State.lean ====
section
/-! SUPPORT. What each elementary update of the state leaves alone, one lemma a field, and what a register reads after a
write. -/
namespace Sys2Proof.Machine

/-! ### wr -/

@[simp] theorem State.wr_pending (s : State) (c i o : Nat) (v : W32) : (s.wr c i o v).pending = s.pending := rfl
@[simp] theorem State.wr_outbox (s : State) (c i o : Nat) (v : W32) : (s.wr c i o v).outbox = s.outbox := rfl
@[simp] theorem State.wr_fresh (s : State) (c i o : Nat) (v : W32) : (s.wr c i o v).fresh = s.fresh := rfl
@[simp] theorem State.wr_shadows (s : State) (c i o : Nat) (v : W32) : (s.wr c i o v).shadows = s.shadows := rfl
@[simp] theorem State.wr_life (s : State) (c i o : Nat) (v : W32) : (s.wr c i o v).life = s.life := rfl
@[simp] theorem State.wr_pins (s : State) (c i o : Nat) (v : W32) : (s.wr c i o v).pins = s.pins := rfl
@[simp] theorem State.wr_clk (s : State) (c i o : Nat) (v : W32) : (s.wr c i o v).clk = s.clk := rfl
@[simp] theorem State.wr_fuses (s : State) (c i o : Nat) (v : W32) : (s.wr c i o v).fuses = s.fuses := rfl
@[simp] theorem State.wr_err (s : State) (c i o : Nat) (v : W32) : (s.wr c i o v).err = s.err := rfl
@[simp] theorem State.wr_own (s : State) (c i o : Nat) (v : W32) : (s.wr c i o v).own = s.own := rfl
@[simp] theorem State.wr_pwr (s : State) (c i o : Nat) (v : W32) : (s.wr c i o v).pwr = s.pwr := rfl
@[simp] theorem State.wr_sec (s : State) (c i o : Nat) (v : W32) : (s.wr c i o v).sec = s.sec := rfl
@[simp] theorem State.wr_age (s : State) (c i o : Nat) (v : W32) : (s.wr c i o v).age = s.age := rfl
@[simp] theorem State.wr_tiles (s : State) (c i o : Nat) (v : W32) : (s.wr c i o v).tiles = s.tiles := rfl
@[simp] theorem State.wr_ts (s : State) (c i o : Nat) (v : W32) : (s.wr c i o v).ts = s.ts := rfl
@[simp] theorem State.wr_shd (s : State) (c i o : Nat) (v : W32) : (s.wr c i o v).shd = s.shd := rfl
@[simp] theorem State.wr_vec (s : State) (c i o : Nat) (v : W32) : (s.wr c i o v).vec = s.vec := rfl
@[simp] theorem State.wr_ctxs (s : State) (c i o : Nat) (v : W32) : (s.wr c i o v).ctxs = s.ctxs := rfl
@[simp] theorem State.wr_keySeed (s : State) (c i o : Nat) (v : W32) : (s.wr c i o v).keySeed = s.keySeed := rfl
@[simp] theorem State.wr_keyNext (s : State) (c i o : Nat) (v : W32) : (s.wr c i o v).keyNext = s.keyNext := rfl
@[simp] theorem State.wr_scanDue (s : State) (c i o : Nat) (v : W32) : (s.wr c i o v).scanDue = s.scanDue := rfl
@[simp] theorem State.wr_opt (s : State) (c i o : Nat) (v : W32) : (s.wr c i o v).opt = s.opt := rfl
@[simp] theorem State.wr_prn (s : State) (c i o : Nat) (v : W32) : (s.wr c i o v).prn = s.prn := rfl
@[simp] theorem State.wr_walks (s : State) (c i o : Nat) (v : W32) : (s.wr c i o v).walks = s.walks := rfl
@[simp] theorem State.wr_xch (s : State) (c i o : Nat) (v : W32) : (s.wr c i o v).xch = s.xch := rfl
@[simp] theorem State.wr_links (s : State) (c i o : Nat) (v : W32) : (s.wr c i o v).links = s.links := rfl
@[simp] theorem State.wr_red (s : State) (c i o : Nat) (v : W32) : (s.wr c i o v).red = s.red := rfl
@[simp] theorem State.wr_doubt (s : State) (c i o : Nat) (v : W32) : (s.wr c i o v).doubt = s.doubt := rfl
@[simp] theorem State.wr_hbm (s : State) (c i o : Nat) (v : W32) : (s.wr c i o v).hbm = s.hbm := rfl
@[simp] theorem State.wr_opl (s : State) (c i o : Nat) (v : W32) : (s.wr c i o v).opl = s.opl := rfl
@[simp] theorem State.wr_notes (s : State) (c i o : Nat) (v : W32) : (s.wr c i o v).notes = s.notes := rfl
@[simp] theorem State.wr_firn (s : State) (c i o : Nat) (v : W32) : (s.wr c i o v).firn = s.firn := rfl

/-! ### send -/

@[simp] theorem State.send_pending (s : State) (m : OutMsg) : (s.send m).pending = s.pending := rfl
@[simp] theorem State.send_fresh (s : State) (m : OutMsg) : (s.send m).fresh = s.fresh := rfl
@[simp] theorem State.send_regs (s : State) (m : OutMsg) : (s.send m).regs = s.regs := rfl
@[simp] theorem State.send_shadows (s : State) (m : OutMsg) : (s.send m).shadows = s.shadows := rfl
@[simp] theorem State.send_life (s : State) (m : OutMsg) : (s.send m).life = s.life := rfl
@[simp] theorem State.send_pins (s : State) (m : OutMsg) : (s.send m).pins = s.pins := rfl
@[simp] theorem State.send_clk (s : State) (m : OutMsg) : (s.send m).clk = s.clk := rfl
@[simp] theorem State.send_fuses (s : State) (m : OutMsg) : (s.send m).fuses = s.fuses := rfl
@[simp] theorem State.send_err (s : State) (m : OutMsg) : (s.send m).err = s.err := rfl
@[simp] theorem State.send_own (s : State) (m : OutMsg) : (s.send m).own = s.own := rfl
@[simp] theorem State.send_pwr (s : State) (m : OutMsg) : (s.send m).pwr = s.pwr := rfl
@[simp] theorem State.send_sec (s : State) (m : OutMsg) : (s.send m).sec = s.sec := rfl
@[simp] theorem State.send_age (s : State) (m : OutMsg) : (s.send m).age = s.age := rfl
@[simp] theorem State.send_tiles (s : State) (m : OutMsg) : (s.send m).tiles = s.tiles := rfl
@[simp] theorem State.send_ts (s : State) (m : OutMsg) : (s.send m).ts = s.ts := rfl
@[simp] theorem State.send_shd (s : State) (m : OutMsg) : (s.send m).shd = s.shd := rfl
@[simp] theorem State.send_vec (s : State) (m : OutMsg) : (s.send m).vec = s.vec := rfl
@[simp] theorem State.send_ctxs (s : State) (m : OutMsg) : (s.send m).ctxs = s.ctxs := rfl
@[simp] theorem State.send_keySeed (s : State) (m : OutMsg) : (s.send m).keySeed = s.keySeed := rfl
@[simp] theorem State.send_keyNext (s : State) (m : OutMsg) : (s.send m).keyNext = s.keyNext := rfl
@[simp] theorem State.send_scanDue (s : State) (m : OutMsg) : (s.send m).scanDue = s.scanDue := rfl
@[simp] theorem State.send_opt (s : State) (m : OutMsg) : (s.send m).opt = s.opt := rfl
@[simp] theorem State.send_prn (s : State) (m : OutMsg) : (s.send m).prn = s.prn := rfl
@[simp] theorem State.send_walks (s : State) (m : OutMsg) : (s.send m).walks = s.walks := rfl
@[simp] theorem State.send_xch (s : State) (m : OutMsg) : (s.send m).xch = s.xch := rfl
@[simp] theorem State.send_links (s : State) (m : OutMsg) : (s.send m).links = s.links := rfl
@[simp] theorem State.send_red (s : State) (m : OutMsg) : (s.send m).red = s.red := rfl
@[simp] theorem State.send_doubt (s : State) (m : OutMsg) : (s.send m).doubt = s.doubt := rfl
@[simp] theorem State.send_hbm (s : State) (m : OutMsg) : (s.send m).hbm = s.hbm := rfl
@[simp] theorem State.send_opl (s : State) (m : OutMsg) : (s.send m).opl = s.opl := rfl
@[simp] theorem State.send_notes (s : State) (m : OutMsg) : (s.send m).notes = s.notes := rfl
@[simp] theorem State.send_firn (s : State) (m : OutMsg) : (s.send m).firn = s.firn := rfl

/-! ### wrf -/

@[simp] theorem State.wrf_pending (s : State) (c i o lo n x : Nat) : (s.wrf c i o lo n x).pending = s.pending := State.wr_pending _ _ _ _ _
@[simp] theorem State.wrf_outbox (s : State) (c i o lo n x : Nat) : (s.wrf c i o lo n x).outbox = s.outbox := State.wr_outbox _ _ _ _ _
@[simp] theorem State.wrf_fresh (s : State) (c i o lo n x : Nat) : (s.wrf c i o lo n x).fresh = s.fresh := State.wr_fresh _ _ _ _ _
@[simp] theorem State.wrf_shadows (s : State) (c i o lo n x : Nat) : (s.wrf c i o lo n x).shadows = s.shadows := State.wr_shadows _ _ _ _ _
@[simp] theorem State.wrf_life (s : State) (c i o lo n x : Nat) : (s.wrf c i o lo n x).life = s.life := State.wr_life _ _ _ _ _
@[simp] theorem State.wrf_pins (s : State) (c i o lo n x : Nat) : (s.wrf c i o lo n x).pins = s.pins := State.wr_pins _ _ _ _ _
@[simp] theorem State.wrf_clk (s : State) (c i o lo n x : Nat) : (s.wrf c i o lo n x).clk = s.clk := State.wr_clk _ _ _ _ _
@[simp] theorem State.wrf_fuses (s : State) (c i o lo n x : Nat) : (s.wrf c i o lo n x).fuses = s.fuses := State.wr_fuses _ _ _ _ _
@[simp] theorem State.wrf_err (s : State) (c i o lo n x : Nat) : (s.wrf c i o lo n x).err = s.err := State.wr_err _ _ _ _ _
@[simp] theorem State.wrf_own (s : State) (c i o lo n x : Nat) : (s.wrf c i o lo n x).own = s.own := State.wr_own _ _ _ _ _
@[simp] theorem State.wrf_pwr (s : State) (c i o lo n x : Nat) : (s.wrf c i o lo n x).pwr = s.pwr := State.wr_pwr _ _ _ _ _
@[simp] theorem State.wrf_sec (s : State) (c i o lo n x : Nat) : (s.wrf c i o lo n x).sec = s.sec := State.wr_sec _ _ _ _ _
@[simp] theorem State.wrf_age (s : State) (c i o lo n x : Nat) : (s.wrf c i o lo n x).age = s.age := State.wr_age _ _ _ _ _
@[simp] theorem State.wrf_tiles (s : State) (c i o lo n x : Nat) : (s.wrf c i o lo n x).tiles = s.tiles := State.wr_tiles _ _ _ _ _
@[simp] theorem State.wrf_ts (s : State) (c i o lo n x : Nat) : (s.wrf c i o lo n x).ts = s.ts := State.wr_ts _ _ _ _ _
@[simp] theorem State.wrf_shd (s : State) (c i o lo n x : Nat) : (s.wrf c i o lo n x).shd = s.shd := State.wr_shd _ _ _ _ _
@[simp] theorem State.wrf_vec (s : State) (c i o lo n x : Nat) : (s.wrf c i o lo n x).vec = s.vec := State.wr_vec _ _ _ _ _
@[simp] theorem State.wrf_ctxs (s : State) (c i o lo n x : Nat) : (s.wrf c i o lo n x).ctxs = s.ctxs := State.wr_ctxs _ _ _ _ _
@[simp] theorem State.wrf_keySeed (s : State) (c i o lo n x : Nat) : (s.wrf c i o lo n x).keySeed = s.keySeed := State.wr_keySeed _ _ _ _ _
@[simp] theorem State.wrf_keyNext (s : State) (c i o lo n x : Nat) : (s.wrf c i o lo n x).keyNext = s.keyNext := State.wr_keyNext _ _ _ _ _
@[simp] theorem State.wrf_scanDue (s : State) (c i o lo n x : Nat) : (s.wrf c i o lo n x).scanDue = s.scanDue := State.wr_scanDue _ _ _ _ _
@[simp] theorem State.wrf_opt (s : State) (c i o lo n x : Nat) : (s.wrf c i o lo n x).opt = s.opt := State.wr_opt _ _ _ _ _
@[simp] theorem State.wrf_prn (s : State) (c i o lo n x : Nat) : (s.wrf c i o lo n x).prn = s.prn := State.wr_prn _ _ _ _ _
@[simp] theorem State.wrf_walks (s : State) (c i o lo n x : Nat) : (s.wrf c i o lo n x).walks = s.walks := State.wr_walks _ _ _ _ _
@[simp] theorem State.wrf_xch (s : State) (c i o lo n x : Nat) : (s.wrf c i o lo n x).xch = s.xch := State.wr_xch _ _ _ _ _
@[simp] theorem State.wrf_links (s : State) (c i o lo n x : Nat) : (s.wrf c i o lo n x).links = s.links := State.wr_links _ _ _ _ _
@[simp] theorem State.wrf_red (s : State) (c i o lo n x : Nat) : (s.wrf c i o lo n x).red = s.red := State.wr_red _ _ _ _ _
@[simp] theorem State.wrf_doubt (s : State) (c i o lo n x : Nat) : (s.wrf c i o lo n x).doubt = s.doubt := State.wr_doubt _ _ _ _ _
@[simp] theorem State.wrf_hbm (s : State) (c i o lo n x : Nat) : (s.wrf c i o lo n x).hbm = s.hbm := State.wr_hbm _ _ _ _ _
@[simp] theorem State.wrf_opl (s : State) (c i o lo n x : Nat) : (s.wrf c i o lo n x).opl = s.opl := State.wr_opl _ _ _ _ _
@[simp] theorem State.wrf_notes (s : State) (c i o lo n x : Nat) : (s.wrf c i o lo n x).notes = s.notes := State.wr_notes _ _ _ _ _
@[simp] theorem State.wrf_firn (s : State) (c i o lo n x : Nat) : (s.wrf c i o lo n x).firn = s.firn := State.wr_firn _ _ _ _ _

/-! ### wrb -/

@[simp] theorem State.wrb_pending (s : State) (c i o k : Nat) (b : Bool) : (s.wrb c i o k b).pending = s.pending := State.wr_pending _ _ _ _ _
@[simp] theorem State.wrb_outbox (s : State) (c i o k : Nat) (b : Bool) : (s.wrb c i o k b).outbox = s.outbox := State.wr_outbox _ _ _ _ _
@[simp] theorem State.wrb_fresh (s : State) (c i o k : Nat) (b : Bool) : (s.wrb c i o k b).fresh = s.fresh := State.wr_fresh _ _ _ _ _
@[simp] theorem State.wrb_shadows (s : State) (c i o k : Nat) (b : Bool) : (s.wrb c i o k b).shadows = s.shadows := State.wr_shadows _ _ _ _ _
@[simp] theorem State.wrb_life (s : State) (c i o k : Nat) (b : Bool) : (s.wrb c i o k b).life = s.life := State.wr_life _ _ _ _ _
@[simp] theorem State.wrb_pins (s : State) (c i o k : Nat) (b : Bool) : (s.wrb c i o k b).pins = s.pins := State.wr_pins _ _ _ _ _
@[simp] theorem State.wrb_clk (s : State) (c i o k : Nat) (b : Bool) : (s.wrb c i o k b).clk = s.clk := State.wr_clk _ _ _ _ _
@[simp] theorem State.wrb_fuses (s : State) (c i o k : Nat) (b : Bool) : (s.wrb c i o k b).fuses = s.fuses := State.wr_fuses _ _ _ _ _
@[simp] theorem State.wrb_err (s : State) (c i o k : Nat) (b : Bool) : (s.wrb c i o k b).err = s.err := State.wr_err _ _ _ _ _
@[simp] theorem State.wrb_own (s : State) (c i o k : Nat) (b : Bool) : (s.wrb c i o k b).own = s.own := State.wr_own _ _ _ _ _
@[simp] theorem State.wrb_pwr (s : State) (c i o k : Nat) (b : Bool) : (s.wrb c i o k b).pwr = s.pwr := State.wr_pwr _ _ _ _ _
@[simp] theorem State.wrb_sec (s : State) (c i o k : Nat) (b : Bool) : (s.wrb c i o k b).sec = s.sec := State.wr_sec _ _ _ _ _
@[simp] theorem State.wrb_age (s : State) (c i o k : Nat) (b : Bool) : (s.wrb c i o k b).age = s.age := State.wr_age _ _ _ _ _
@[simp] theorem State.wrb_tiles (s : State) (c i o k : Nat) (b : Bool) : (s.wrb c i o k b).tiles = s.tiles := State.wr_tiles _ _ _ _ _
@[simp] theorem State.wrb_ts (s : State) (c i o k : Nat) (b : Bool) : (s.wrb c i o k b).ts = s.ts := State.wr_ts _ _ _ _ _
@[simp] theorem State.wrb_shd (s : State) (c i o k : Nat) (b : Bool) : (s.wrb c i o k b).shd = s.shd := State.wr_shd _ _ _ _ _
@[simp] theorem State.wrb_vec (s : State) (c i o k : Nat) (b : Bool) : (s.wrb c i o k b).vec = s.vec := State.wr_vec _ _ _ _ _
@[simp] theorem State.wrb_ctxs (s : State) (c i o k : Nat) (b : Bool) : (s.wrb c i o k b).ctxs = s.ctxs := State.wr_ctxs _ _ _ _ _
@[simp] theorem State.wrb_keySeed (s : State) (c i o k : Nat) (b : Bool) : (s.wrb c i o k b).keySeed = s.keySeed := State.wr_keySeed _ _ _ _ _
@[simp] theorem State.wrb_keyNext (s : State) (c i o k : Nat) (b : Bool) : (s.wrb c i o k b).keyNext = s.keyNext := State.wr_keyNext _ _ _ _ _
@[simp] theorem State.wrb_scanDue (s : State) (c i o k : Nat) (b : Bool) : (s.wrb c i o k b).scanDue = s.scanDue := State.wr_scanDue _ _ _ _ _
@[simp] theorem State.wrb_opt (s : State) (c i o k : Nat) (b : Bool) : (s.wrb c i o k b).opt = s.opt := State.wr_opt _ _ _ _ _
@[simp] theorem State.wrb_prn (s : State) (c i o k : Nat) (b : Bool) : (s.wrb c i o k b).prn = s.prn := State.wr_prn _ _ _ _ _
@[simp] theorem State.wrb_walks (s : State) (c i o k : Nat) (b : Bool) : (s.wrb c i o k b).walks = s.walks := State.wr_walks _ _ _ _ _
@[simp] theorem State.wrb_xch (s : State) (c i o k : Nat) (b : Bool) : (s.wrb c i o k b).xch = s.xch := State.wr_xch _ _ _ _ _
@[simp] theorem State.wrb_links (s : State) (c i o k : Nat) (b : Bool) : (s.wrb c i o k b).links = s.links := State.wr_links _ _ _ _ _
@[simp] theorem State.wrb_red (s : State) (c i o k : Nat) (b : Bool) : (s.wrb c i o k b).red = s.red := State.wr_red _ _ _ _ _
@[simp] theorem State.wrb_doubt (s : State) (c i o k : Nat) (b : Bool) : (s.wrb c i o k b).doubt = s.doubt := State.wr_doubt _ _ _ _ _
@[simp] theorem State.wrb_hbm (s : State) (c i o k : Nat) (b : Bool) : (s.wrb c i o k b).hbm = s.hbm := State.wr_hbm _ _ _ _ _
@[simp] theorem State.wrb_opl (s : State) (c i o k : Nat) (b : Bool) : (s.wrb c i o k b).opl = s.opl := State.wr_opl _ _ _ _ _
@[simp] theorem State.wrb_notes (s : State) (c i o k : Nat) (b : Bool) : (s.wrb c i o k b).notes = s.notes := State.wr_notes _ _ _ _ _
@[simp] theorem State.wrb_firn (s : State) (c i o k : Nat) (b : Bool) : (s.wrb c i o k b).firn = s.firn := State.wr_firn _ _ _ _ _

/-! ### bump -/

@[simp] theorem State.bump_pending (s : State) (c i o n : Nat) : (s.bump c i o n).pending = s.pending := State.wr_pending _ _ _ _ _
@[simp] theorem State.bump_outbox (s : State) (c i o n : Nat) : (s.bump c i o n).outbox = s.outbox := State.wr_outbox _ _ _ _ _
@[simp] theorem State.bump_fresh (s : State) (c i o n : Nat) : (s.bump c i o n).fresh = s.fresh := State.wr_fresh _ _ _ _ _
@[simp] theorem State.bump_shadows (s : State) (c i o n : Nat) : (s.bump c i o n).shadows = s.shadows := State.wr_shadows _ _ _ _ _
@[simp] theorem State.bump_life (s : State) (c i o n : Nat) : (s.bump c i o n).life = s.life := State.wr_life _ _ _ _ _
@[simp] theorem State.bump_pins (s : State) (c i o n : Nat) : (s.bump c i o n).pins = s.pins := State.wr_pins _ _ _ _ _
@[simp] theorem State.bump_clk (s : State) (c i o n : Nat) : (s.bump c i o n).clk = s.clk := State.wr_clk _ _ _ _ _
@[simp] theorem State.bump_fuses (s : State) (c i o n : Nat) : (s.bump c i o n).fuses = s.fuses := State.wr_fuses _ _ _ _ _
@[simp] theorem State.bump_err (s : State) (c i o n : Nat) : (s.bump c i o n).err = s.err := State.wr_err _ _ _ _ _
@[simp] theorem State.bump_own (s : State) (c i o n : Nat) : (s.bump c i o n).own = s.own := State.wr_own _ _ _ _ _
@[simp] theorem State.bump_pwr (s : State) (c i o n : Nat) : (s.bump c i o n).pwr = s.pwr := State.wr_pwr _ _ _ _ _
@[simp] theorem State.bump_sec (s : State) (c i o n : Nat) : (s.bump c i o n).sec = s.sec := State.wr_sec _ _ _ _ _
@[simp] theorem State.bump_age (s : State) (c i o n : Nat) : (s.bump c i o n).age = s.age := State.wr_age _ _ _ _ _
@[simp] theorem State.bump_tiles (s : State) (c i o n : Nat) : (s.bump c i o n).tiles = s.tiles := State.wr_tiles _ _ _ _ _
@[simp] theorem State.bump_ts (s : State) (c i o n : Nat) : (s.bump c i o n).ts = s.ts := State.wr_ts _ _ _ _ _
@[simp] theorem State.bump_shd (s : State) (c i o n : Nat) : (s.bump c i o n).shd = s.shd := State.wr_shd _ _ _ _ _
@[simp] theorem State.bump_vec (s : State) (c i o n : Nat) : (s.bump c i o n).vec = s.vec := State.wr_vec _ _ _ _ _
@[simp] theorem State.bump_ctxs (s : State) (c i o n : Nat) : (s.bump c i o n).ctxs = s.ctxs := State.wr_ctxs _ _ _ _ _
@[simp] theorem State.bump_keySeed (s : State) (c i o n : Nat) : (s.bump c i o n).keySeed = s.keySeed := State.wr_keySeed _ _ _ _ _
@[simp] theorem State.bump_keyNext (s : State) (c i o n : Nat) : (s.bump c i o n).keyNext = s.keyNext := State.wr_keyNext _ _ _ _ _
@[simp] theorem State.bump_scanDue (s : State) (c i o n : Nat) : (s.bump c i o n).scanDue = s.scanDue := State.wr_scanDue _ _ _ _ _
@[simp] theorem State.bump_opt (s : State) (c i o n : Nat) : (s.bump c i o n).opt = s.opt := State.wr_opt _ _ _ _ _
@[simp] theorem State.bump_prn (s : State) (c i o n : Nat) : (s.bump c i o n).prn = s.prn := State.wr_prn _ _ _ _ _
@[simp] theorem State.bump_walks (s : State) (c i o n : Nat) : (s.bump c i o n).walks = s.walks := State.wr_walks _ _ _ _ _
@[simp] theorem State.bump_xch (s : State) (c i o n : Nat) : (s.bump c i o n).xch = s.xch := State.wr_xch _ _ _ _ _
@[simp] theorem State.bump_links (s : State) (c i o n : Nat) : (s.bump c i o n).links = s.links := State.wr_links _ _ _ _ _
@[simp] theorem State.bump_red (s : State) (c i o n : Nat) : (s.bump c i o n).red = s.red := State.wr_red _ _ _ _ _
@[simp] theorem State.bump_doubt (s : State) (c i o n : Nat) : (s.bump c i o n).doubt = s.doubt := State.wr_doubt _ _ _ _ _
@[simp] theorem State.bump_hbm (s : State) (c i o n : Nat) : (s.bump c i o n).hbm = s.hbm := State.wr_hbm _ _ _ _ _
@[simp] theorem State.bump_opl (s : State) (c i o n : Nat) : (s.bump c i o n).opl = s.opl := State.wr_opl _ _ _ _ _
@[simp] theorem State.bump_notes (s : State) (c i o n : Nat) : (s.bump c i o n).notes = s.notes := State.wr_notes _ _ _ _ _
@[simp] theorem State.bump_firn (s : State) (c i o n : Nat) : (s.bump c i o n).firn = s.firn := State.wr_firn _ _ _ _ _

/-! ### bumpW -/

@[simp] theorem State.bumpW_pending (s : State) (c i o n : Nat) : (s.bumpW c i o n).pending = s.pending := State.wr_pending _ _ _ _ _
@[simp] theorem State.bumpW_outbox (s : State) (c i o n : Nat) : (s.bumpW c i o n).outbox = s.outbox := State.wr_outbox _ _ _ _ _
@[simp] theorem State.bumpW_fresh (s : State) (c i o n : Nat) : (s.bumpW c i o n).fresh = s.fresh := State.wr_fresh _ _ _ _ _
@[simp] theorem State.bumpW_shadows (s : State) (c i o n : Nat) : (s.bumpW c i o n).shadows = s.shadows := State.wr_shadows _ _ _ _ _
@[simp] theorem State.bumpW_life (s : State) (c i o n : Nat) : (s.bumpW c i o n).life = s.life := State.wr_life _ _ _ _ _
@[simp] theorem State.bumpW_pins (s : State) (c i o n : Nat) : (s.bumpW c i o n).pins = s.pins := State.wr_pins _ _ _ _ _
@[simp] theorem State.bumpW_clk (s : State) (c i o n : Nat) : (s.bumpW c i o n).clk = s.clk := State.wr_clk _ _ _ _ _
@[simp] theorem State.bumpW_fuses (s : State) (c i o n : Nat) : (s.bumpW c i o n).fuses = s.fuses := State.wr_fuses _ _ _ _ _
@[simp] theorem State.bumpW_err (s : State) (c i o n : Nat) : (s.bumpW c i o n).err = s.err := State.wr_err _ _ _ _ _
@[simp] theorem State.bumpW_own (s : State) (c i o n : Nat) : (s.bumpW c i o n).own = s.own := State.wr_own _ _ _ _ _
@[simp] theorem State.bumpW_pwr (s : State) (c i o n : Nat) : (s.bumpW c i o n).pwr = s.pwr := State.wr_pwr _ _ _ _ _
@[simp] theorem State.bumpW_sec (s : State) (c i o n : Nat) : (s.bumpW c i o n).sec = s.sec := State.wr_sec _ _ _ _ _
@[simp] theorem State.bumpW_age (s : State) (c i o n : Nat) : (s.bumpW c i o n).age = s.age := State.wr_age _ _ _ _ _
@[simp] theorem State.bumpW_tiles (s : State) (c i o n : Nat) : (s.bumpW c i o n).tiles = s.tiles := State.wr_tiles _ _ _ _ _
@[simp] theorem State.bumpW_ts (s : State) (c i o n : Nat) : (s.bumpW c i o n).ts = s.ts := State.wr_ts _ _ _ _ _
@[simp] theorem State.bumpW_shd (s : State) (c i o n : Nat) : (s.bumpW c i o n).shd = s.shd := State.wr_shd _ _ _ _ _
@[simp] theorem State.bumpW_vec (s : State) (c i o n : Nat) : (s.bumpW c i o n).vec = s.vec := State.wr_vec _ _ _ _ _
@[simp] theorem State.bumpW_ctxs (s : State) (c i o n : Nat) : (s.bumpW c i o n).ctxs = s.ctxs := State.wr_ctxs _ _ _ _ _
@[simp] theorem State.bumpW_keySeed (s : State) (c i o n : Nat) : (s.bumpW c i o n).keySeed = s.keySeed := State.wr_keySeed _ _ _ _ _
@[simp] theorem State.bumpW_keyNext (s : State) (c i o n : Nat) : (s.bumpW c i o n).keyNext = s.keyNext := State.wr_keyNext _ _ _ _ _
@[simp] theorem State.bumpW_scanDue (s : State) (c i o n : Nat) : (s.bumpW c i o n).scanDue = s.scanDue := State.wr_scanDue _ _ _ _ _
@[simp] theorem State.bumpW_opt (s : State) (c i o n : Nat) : (s.bumpW c i o n).opt = s.opt := State.wr_opt _ _ _ _ _
@[simp] theorem State.bumpW_prn (s : State) (c i o n : Nat) : (s.bumpW c i o n).prn = s.prn := State.wr_prn _ _ _ _ _
@[simp] theorem State.bumpW_walks (s : State) (c i o n : Nat) : (s.bumpW c i o n).walks = s.walks := State.wr_walks _ _ _ _ _
@[simp] theorem State.bumpW_xch (s : State) (c i o n : Nat) : (s.bumpW c i o n).xch = s.xch := State.wr_xch _ _ _ _ _
@[simp] theorem State.bumpW_links (s : State) (c i o n : Nat) : (s.bumpW c i o n).links = s.links := State.wr_links _ _ _ _ _
@[simp] theorem State.bumpW_red (s : State) (c i o n : Nat) : (s.bumpW c i o n).red = s.red := State.wr_red _ _ _ _ _
@[simp] theorem State.bumpW_doubt (s : State) (c i o n : Nat) : (s.bumpW c i o n).doubt = s.doubt := State.wr_doubt _ _ _ _ _
@[simp] theorem State.bumpW_hbm (s : State) (c i o n : Nat) : (s.bumpW c i o n).hbm = s.hbm := State.wr_hbm _ _ _ _ _
@[simp] theorem State.bumpW_opl (s : State) (c i o n : Nat) : (s.bumpW c i o n).opl = s.opl := State.wr_opl _ _ _ _ _
@[simp] theorem State.bumpW_notes (s : State) (c i o n : Nat) : (s.bumpW c i o n).notes = s.notes := State.wr_notes _ _ _ _ _
@[simp] theorem State.bumpW_firn (s : State) (c i o n : Nat) : (s.bumpW c i o n).firn = s.firn := State.wr_firn _ _ _ _ _

/-! ### wr64 -/

@[simp] theorem State.wr64_pending (s : State) (c i o n : Nat) : (s.wr64 c i o n).pending = s.pending := by
  rw [State.wr64, State.wr_pending, State.wr_pending]
@[simp] theorem State.wr64_outbox (s : State) (c i o n : Nat) : (s.wr64 c i o n).outbox = s.outbox := by
  rw [State.wr64, State.wr_outbox, State.wr_outbox]
@[simp] theorem State.wr64_fresh (s : State) (c i o n : Nat) : (s.wr64 c i o n).fresh = s.fresh := by
  rw [State.wr64, State.wr_fresh, State.wr_fresh]
@[simp] theorem State.wr64_shadows (s : State) (c i o n : Nat) : (s.wr64 c i o n).shadows = s.shadows := by
  rw [State.wr64, State.wr_shadows, State.wr_shadows]
@[simp] theorem State.wr64_life (s : State) (c i o n : Nat) : (s.wr64 c i o n).life = s.life := by
  rw [State.wr64, State.wr_life, State.wr_life]
@[simp] theorem State.wr64_pins (s : State) (c i o n : Nat) : (s.wr64 c i o n).pins = s.pins := by
  rw [State.wr64, State.wr_pins, State.wr_pins]
@[simp] theorem State.wr64_clk (s : State) (c i o n : Nat) : (s.wr64 c i o n).clk = s.clk := by
  rw [State.wr64, State.wr_clk, State.wr_clk]
@[simp] theorem State.wr64_fuses (s : State) (c i o n : Nat) : (s.wr64 c i o n).fuses = s.fuses := by
  rw [State.wr64, State.wr_fuses, State.wr_fuses]
@[simp] theorem State.wr64_err (s : State) (c i o n : Nat) : (s.wr64 c i o n).err = s.err := by
  rw [State.wr64, State.wr_err, State.wr_err]
@[simp] theorem State.wr64_own (s : State) (c i o n : Nat) : (s.wr64 c i o n).own = s.own := by
  rw [State.wr64, State.wr_own, State.wr_own]
@[simp] theorem State.wr64_pwr (s : State) (c i o n : Nat) : (s.wr64 c i o n).pwr = s.pwr := by
  rw [State.wr64, State.wr_pwr, State.wr_pwr]
@[simp] theorem State.wr64_sec (s : State) (c i o n : Nat) : (s.wr64 c i o n).sec = s.sec := by
  rw [State.wr64, State.wr_sec, State.wr_sec]
@[simp] theorem State.wr64_age (s : State) (c i o n : Nat) : (s.wr64 c i o n).age = s.age := by
  rw [State.wr64, State.wr_age, State.wr_age]
@[simp] theorem State.wr64_tiles (s : State) (c i o n : Nat) : (s.wr64 c i o n).tiles = s.tiles := by
  rw [State.wr64, State.wr_tiles, State.wr_tiles]
@[simp] theorem State.wr64_ts (s : State) (c i o n : Nat) : (s.wr64 c i o n).ts = s.ts := by
  rw [State.wr64, State.wr_ts, State.wr_ts]
@[simp] theorem State.wr64_shd (s : State) (c i o n : Nat) : (s.wr64 c i o n).shd = s.shd := by
  rw [State.wr64, State.wr_shd, State.wr_shd]
@[simp] theorem State.wr64_vec (s : State) (c i o n : Nat) : (s.wr64 c i o n).vec = s.vec := by
  rw [State.wr64, State.wr_vec, State.wr_vec]
@[simp] theorem State.wr64_ctxs (s : State) (c i o n : Nat) : (s.wr64 c i o n).ctxs = s.ctxs := by
  rw [State.wr64, State.wr_ctxs, State.wr_ctxs]
@[simp] theorem State.wr64_keySeed (s : State) (c i o n : Nat) : (s.wr64 c i o n).keySeed = s.keySeed := by
  rw [State.wr64, State.wr_keySeed, State.wr_keySeed]
@[simp] theorem State.wr64_keyNext (s : State) (c i o n : Nat) : (s.wr64 c i o n).keyNext = s.keyNext := by
  rw [State.wr64, State.wr_keyNext, State.wr_keyNext]
@[simp] theorem State.wr64_scanDue (s : State) (c i o n : Nat) : (s.wr64 c i o n).scanDue = s.scanDue := by
  rw [State.wr64, State.wr_scanDue, State.wr_scanDue]
@[simp] theorem State.wr64_opt (s : State) (c i o n : Nat) : (s.wr64 c i o n).opt = s.opt := by
  rw [State.wr64, State.wr_opt, State.wr_opt]
@[simp] theorem State.wr64_prn (s : State) (c i o n : Nat) : (s.wr64 c i o n).prn = s.prn := by
  rw [State.wr64, State.wr_prn, State.wr_prn]
@[simp] theorem State.wr64_walks (s : State) (c i o n : Nat) : (s.wr64 c i o n).walks = s.walks := by
  rw [State.wr64, State.wr_walks, State.wr_walks]
@[simp] theorem State.wr64_xch (s : State) (c i o n : Nat) : (s.wr64 c i o n).xch = s.xch := by
  rw [State.wr64, State.wr_xch, State.wr_xch]
@[simp] theorem State.wr64_links (s : State) (c i o n : Nat) : (s.wr64 c i o n).links = s.links := by
  rw [State.wr64, State.wr_links, State.wr_links]
@[simp] theorem State.wr64_red (s : State) (c i o n : Nat) : (s.wr64 c i o n).red = s.red := by
  rw [State.wr64, State.wr_red, State.wr_red]
@[simp] theorem State.wr64_doubt (s : State) (c i o n : Nat) : (s.wr64 c i o n).doubt = s.doubt := by
  rw [State.wr64, State.wr_doubt, State.wr_doubt]
@[simp] theorem State.wr64_hbm (s : State) (c i o n : Nat) : (s.wr64 c i o n).hbm = s.hbm := by
  rw [State.wr64, State.wr_hbm, State.wr_hbm]
@[simp] theorem State.wr64_opl (s : State) (c i o n : Nat) : (s.wr64 c i o n).opl = s.opl := by
  rw [State.wr64, State.wr_opl, State.wr_opl]
@[simp] theorem State.wr64_notes (s : State) (c i o n : Nat) : (s.wr64 c i o n).notes = s.notes := by
  rw [State.wr64, State.wr_notes, State.wr_notes]
@[simp] theorem State.wr64_firn (s : State) (c i o n : Nat) : (s.wr64 c i o n).firn = s.firn := by
  rw [State.wr64, State.wr_firn, State.wr_firn]

/-! ### bump64 -/

@[simp] theorem State.bump64_pending (s : State) (c i o n : Nat) : (s.bump64 c i o n).pending = s.pending := State.wr64_pending _ _ _ _ _
@[simp] theorem State.bump64_outbox (s : State) (c i o n : Nat) : (s.bump64 c i o n).outbox = s.outbox := State.wr64_outbox _ _ _ _ _
@[simp] theorem State.bump64_fresh (s : State) (c i o n : Nat) : (s.bump64 c i o n).fresh = s.fresh := State.wr64_fresh _ _ _ _ _
@[simp] theorem State.bump64_shadows (s : State) (c i o n : Nat) : (s.bump64 c i o n).shadows = s.shadows := State.wr64_shadows _ _ _ _ _
@[simp] theorem State.bump64_life (s : State) (c i o n : Nat) : (s.bump64 c i o n).life = s.life := State.wr64_life _ _ _ _ _
@[simp] theorem State.bump64_pins (s : State) (c i o n : Nat) : (s.bump64 c i o n).pins = s.pins := State.wr64_pins _ _ _ _ _
@[simp] theorem State.bump64_clk (s : State) (c i o n : Nat) : (s.bump64 c i o n).clk = s.clk := State.wr64_clk _ _ _ _ _
@[simp] theorem State.bump64_fuses (s : State) (c i o n : Nat) : (s.bump64 c i o n).fuses = s.fuses := State.wr64_fuses _ _ _ _ _
@[simp] theorem State.bump64_err (s : State) (c i o n : Nat) : (s.bump64 c i o n).err = s.err := State.wr64_err _ _ _ _ _
@[simp] theorem State.bump64_own (s : State) (c i o n : Nat) : (s.bump64 c i o n).own = s.own := State.wr64_own _ _ _ _ _
@[simp] theorem State.bump64_pwr (s : State) (c i o n : Nat) : (s.bump64 c i o n).pwr = s.pwr := State.wr64_pwr _ _ _ _ _
@[simp] theorem State.bump64_sec (s : State) (c i o n : Nat) : (s.bump64 c i o n).sec = s.sec := State.wr64_sec _ _ _ _ _
@[simp] theorem State.bump64_age (s : State) (c i o n : Nat) : (s.bump64 c i o n).age = s.age := State.wr64_age _ _ _ _ _
@[simp] theorem State.bump64_tiles (s : State) (c i o n : Nat) : (s.bump64 c i o n).tiles = s.tiles := State.wr64_tiles _ _ _ _ _
@[simp] theorem State.bump64_ts (s : State) (c i o n : Nat) : (s.bump64 c i o n).ts = s.ts := State.wr64_ts _ _ _ _ _
@[simp] theorem State.bump64_shd (s : State) (c i o n : Nat) : (s.bump64 c i o n).shd = s.shd := State.wr64_shd _ _ _ _ _
@[simp] theorem State.bump64_vec (s : State) (c i o n : Nat) : (s.bump64 c i o n).vec = s.vec := State.wr64_vec _ _ _ _ _
@[simp] theorem State.bump64_ctxs (s : State) (c i o n : Nat) : (s.bump64 c i o n).ctxs = s.ctxs := State.wr64_ctxs _ _ _ _ _
@[simp] theorem State.bump64_keySeed (s : State) (c i o n : Nat) : (s.bump64 c i o n).keySeed = s.keySeed := State.wr64_keySeed _ _ _ _ _
@[simp] theorem State.bump64_keyNext (s : State) (c i o n : Nat) : (s.bump64 c i o n).keyNext = s.keyNext := State.wr64_keyNext _ _ _ _ _
@[simp] theorem State.bump64_scanDue (s : State) (c i o n : Nat) : (s.bump64 c i o n).scanDue = s.scanDue := State.wr64_scanDue _ _ _ _ _
@[simp] theorem State.bump64_opt (s : State) (c i o n : Nat) : (s.bump64 c i o n).opt = s.opt := State.wr64_opt _ _ _ _ _
@[simp] theorem State.bump64_prn (s : State) (c i o n : Nat) : (s.bump64 c i o n).prn = s.prn := State.wr64_prn _ _ _ _ _
@[simp] theorem State.bump64_walks (s : State) (c i o n : Nat) : (s.bump64 c i o n).walks = s.walks := State.wr64_walks _ _ _ _ _
@[simp] theorem State.bump64_xch (s : State) (c i o n : Nat) : (s.bump64 c i o n).xch = s.xch := State.wr64_xch _ _ _ _ _
@[simp] theorem State.bump64_links (s : State) (c i o n : Nat) : (s.bump64 c i o n).links = s.links := State.wr64_links _ _ _ _ _
@[simp] theorem State.bump64_red (s : State) (c i o n : Nat) : (s.bump64 c i o n).red = s.red := State.wr64_red _ _ _ _ _
@[simp] theorem State.bump64_doubt (s : State) (c i o n : Nat) : (s.bump64 c i o n).doubt = s.doubt := State.wr64_doubt _ _ _ _ _
@[simp] theorem State.bump64_hbm (s : State) (c i o n : Nat) : (s.bump64 c i o n).hbm = s.hbm := State.wr64_hbm _ _ _ _ _
@[simp] theorem State.bump64_opl (s : State) (c i o n : Nat) : (s.bump64 c i o n).opl = s.opl := State.wr64_opl _ _ _ _ _
@[simp] theorem State.bump64_notes (s : State) (c i o n : Nat) : (s.bump64 c i o n).notes = s.notes := State.wr64_notes _ _ _ _ _
@[simp] theorem State.bump64_firn (s : State) (c i o n : Nat) : (s.bump64 c i o n).firn = s.firn := State.wr64_firn _ _ _ _ _

/-! ### setTile -/

@[simp] theorem State.setTile_pending (s : State) (t : Nat) (x : TileSt) : (s.setTile t x).pending = s.pending := rfl
@[simp] theorem State.setTile_outbox (s : State) (t : Nat) (x : TileSt) : (s.setTile t x).outbox = s.outbox := rfl
@[simp] theorem State.setTile_fresh (s : State) (t : Nat) (x : TileSt) : (s.setTile t x).fresh = s.fresh := rfl
@[simp] theorem State.setTile_regs (s : State) (t : Nat) (x : TileSt) : (s.setTile t x).regs = s.regs := rfl
@[simp] theorem State.setTile_shadows (s : State) (t : Nat) (x : TileSt) : (s.setTile t x).shadows = s.shadows := rfl
@[simp] theorem State.setTile_life (s : State) (t : Nat) (x : TileSt) : (s.setTile t x).life = s.life := rfl
@[simp] theorem State.setTile_pins (s : State) (t : Nat) (x : TileSt) : (s.setTile t x).pins = s.pins := rfl
@[simp] theorem State.setTile_clk (s : State) (t : Nat) (x : TileSt) : (s.setTile t x).clk = s.clk := rfl
@[simp] theorem State.setTile_fuses (s : State) (t : Nat) (x : TileSt) : (s.setTile t x).fuses = s.fuses := rfl
@[simp] theorem State.setTile_err (s : State) (t : Nat) (x : TileSt) : (s.setTile t x).err = s.err := rfl
@[simp] theorem State.setTile_own (s : State) (t : Nat) (x : TileSt) : (s.setTile t x).own = s.own := rfl
@[simp] theorem State.setTile_pwr (s : State) (t : Nat) (x : TileSt) : (s.setTile t x).pwr = s.pwr := rfl
@[simp] theorem State.setTile_sec (s : State) (t : Nat) (x : TileSt) : (s.setTile t x).sec = s.sec := rfl
@[simp] theorem State.setTile_age (s : State) (t : Nat) (x : TileSt) : (s.setTile t x).age = s.age := rfl
@[simp] theorem State.setTile_ts (s : State) (t : Nat) (x : TileSt) : (s.setTile t x).ts = s.ts := rfl
@[simp] theorem State.setTile_shd (s : State) (t : Nat) (x : TileSt) : (s.setTile t x).shd = s.shd := rfl
@[simp] theorem State.setTile_vec (s : State) (t : Nat) (x : TileSt) : (s.setTile t x).vec = s.vec := rfl
@[simp] theorem State.setTile_ctxs (s : State) (t : Nat) (x : TileSt) : (s.setTile t x).ctxs = s.ctxs := rfl
@[simp] theorem State.setTile_keySeed (s : State) (t : Nat) (x : TileSt) : (s.setTile t x).keySeed = s.keySeed := rfl
@[simp] theorem State.setTile_keyNext (s : State) (t : Nat) (x : TileSt) : (s.setTile t x).keyNext = s.keyNext := rfl
@[simp] theorem State.setTile_scanDue (s : State) (t : Nat) (x : TileSt) : (s.setTile t x).scanDue = s.scanDue := rfl
@[simp] theorem State.setTile_opt (s : State) (t : Nat) (x : TileSt) : (s.setTile t x).opt = s.opt := rfl
@[simp] theorem State.setTile_prn (s : State) (t : Nat) (x : TileSt) : (s.setTile t x).prn = s.prn := rfl
@[simp] theorem State.setTile_walks (s : State) (t : Nat) (x : TileSt) : (s.setTile t x).walks = s.walks := rfl
@[simp] theorem State.setTile_xch (s : State) (t : Nat) (x : TileSt) : (s.setTile t x).xch = s.xch := rfl
@[simp] theorem State.setTile_links (s : State) (t : Nat) (x : TileSt) : (s.setTile t x).links = s.links := rfl
@[simp] theorem State.setTile_red (s : State) (t : Nat) (x : TileSt) : (s.setTile t x).red = s.red := rfl
@[simp] theorem State.setTile_doubt (s : State) (t : Nat) (x : TileSt) : (s.setTile t x).doubt = s.doubt := rfl
@[simp] theorem State.setTile_hbm (s : State) (t : Nat) (x : TileSt) : (s.setTile t x).hbm = s.hbm := rfl
@[simp] theorem State.setTile_opl (s : State) (t : Nat) (x : TileSt) : (s.setTile t x).opl = s.opl := rfl
@[simp] theorem State.setTile_notes (s : State) (t : Nat) (x : TileSt) : (s.setTile t x).notes = s.notes := rfl
@[simp] theorem State.setTile_firn (s : State) (t : Nat) (x : TileSt) : (s.setTile t x).firn = s.firn := rfl

/-! ### setVec -/

@[simp] theorem State.setVec_pending (s : State) (t : Nat) (x : VecSt) : (s.setVec t x).pending = s.pending := rfl
@[simp] theorem State.setVec_outbox (s : State) (t : Nat) (x : VecSt) : (s.setVec t x).outbox = s.outbox := rfl
@[simp] theorem State.setVec_fresh (s : State) (t : Nat) (x : VecSt) : (s.setVec t x).fresh = s.fresh := rfl
@[simp] theorem State.setVec_regs (s : State) (t : Nat) (x : VecSt) : (s.setVec t x).regs = s.regs := rfl
@[simp] theorem State.setVec_shadows (s : State) (t : Nat) (x : VecSt) : (s.setVec t x).shadows = s.shadows := rfl
@[simp] theorem State.setVec_life (s : State) (t : Nat) (x : VecSt) : (s.setVec t x).life = s.life := rfl
@[simp] theorem State.setVec_pins (s : State) (t : Nat) (x : VecSt) : (s.setVec t x).pins = s.pins := rfl
@[simp] theorem State.setVec_clk (s : State) (t : Nat) (x : VecSt) : (s.setVec t x).clk = s.clk := rfl
@[simp] theorem State.setVec_fuses (s : State) (t : Nat) (x : VecSt) : (s.setVec t x).fuses = s.fuses := rfl
@[simp] theorem State.setVec_err (s : State) (t : Nat) (x : VecSt) : (s.setVec t x).err = s.err := rfl
@[simp] theorem State.setVec_own (s : State) (t : Nat) (x : VecSt) : (s.setVec t x).own = s.own := rfl
@[simp] theorem State.setVec_pwr (s : State) (t : Nat) (x : VecSt) : (s.setVec t x).pwr = s.pwr := rfl
@[simp] theorem State.setVec_sec (s : State) (t : Nat) (x : VecSt) : (s.setVec t x).sec = s.sec := rfl
@[simp] theorem State.setVec_age (s : State) (t : Nat) (x : VecSt) : (s.setVec t x).age = s.age := rfl
@[simp] theorem State.setVec_tiles (s : State) (t : Nat) (x : VecSt) : (s.setVec t x).tiles = s.tiles := rfl
@[simp] theorem State.setVec_ts (s : State) (t : Nat) (x : VecSt) : (s.setVec t x).ts = s.ts := rfl
@[simp] theorem State.setVec_shd (s : State) (t : Nat) (x : VecSt) : (s.setVec t x).shd = s.shd := rfl
@[simp] theorem State.setVec_ctxs (s : State) (t : Nat) (x : VecSt) : (s.setVec t x).ctxs = s.ctxs := rfl
@[simp] theorem State.setVec_keySeed (s : State) (t : Nat) (x : VecSt) : (s.setVec t x).keySeed = s.keySeed := rfl
@[simp] theorem State.setVec_keyNext (s : State) (t : Nat) (x : VecSt) : (s.setVec t x).keyNext = s.keyNext := rfl
@[simp] theorem State.setVec_scanDue (s : State) (t : Nat) (x : VecSt) : (s.setVec t x).scanDue = s.scanDue := rfl
@[simp] theorem State.setVec_opt (s : State) (t : Nat) (x : VecSt) : (s.setVec t x).opt = s.opt := rfl
@[simp] theorem State.setVec_prn (s : State) (t : Nat) (x : VecSt) : (s.setVec t x).prn = s.prn := rfl
@[simp] theorem State.setVec_walks (s : State) (t : Nat) (x : VecSt) : (s.setVec t x).walks = s.walks := rfl
@[simp] theorem State.setVec_xch (s : State) (t : Nat) (x : VecSt) : (s.setVec t x).xch = s.xch := rfl
@[simp] theorem State.setVec_links (s : State) (t : Nat) (x : VecSt) : (s.setVec t x).links = s.links := rfl
@[simp] theorem State.setVec_red (s : State) (t : Nat) (x : VecSt) : (s.setVec t x).red = s.red := rfl
@[simp] theorem State.setVec_doubt (s : State) (t : Nat) (x : VecSt) : (s.setVec t x).doubt = s.doubt := rfl
@[simp] theorem State.setVec_hbm (s : State) (t : Nat) (x : VecSt) : (s.setVec t x).hbm = s.hbm := rfl
@[simp] theorem State.setVec_opl (s : State) (t : Nat) (x : VecSt) : (s.setVec t x).opl = s.opl := rfl
@[simp] theorem State.setVec_notes (s : State) (t : Nat) (x : VecSt) : (s.setVec t x).notes = s.notes := rfl
@[simp] theorem State.setVec_firn (s : State) (t : Nat) (x : VecSt) : (s.setVec t x).firn = s.firn := rfl

/-! ### setCtx -/

@[simp] theorem State.setCtx_pending (s : State) (c : Nat) (x : Ctx) : (s.setCtx c x).pending = s.pending := rfl
@[simp] theorem State.setCtx_outbox (s : State) (c : Nat) (x : Ctx) : (s.setCtx c x).outbox = s.outbox := rfl
@[simp] theorem State.setCtx_fresh (s : State) (c : Nat) (x : Ctx) : (s.setCtx c x).fresh = s.fresh := rfl
@[simp] theorem State.setCtx_regs (s : State) (c : Nat) (x : Ctx) : (s.setCtx c x).regs = s.regs := rfl
@[simp] theorem State.setCtx_shadows (s : State) (c : Nat) (x : Ctx) : (s.setCtx c x).shadows = s.shadows := rfl
@[simp] theorem State.setCtx_life (s : State) (c : Nat) (x : Ctx) : (s.setCtx c x).life = s.life := rfl
@[simp] theorem State.setCtx_pins (s : State) (c : Nat) (x : Ctx) : (s.setCtx c x).pins = s.pins := rfl
@[simp] theorem State.setCtx_clk (s : State) (c : Nat) (x : Ctx) : (s.setCtx c x).clk = s.clk := rfl
@[simp] theorem State.setCtx_fuses (s : State) (c : Nat) (x : Ctx) : (s.setCtx c x).fuses = s.fuses := rfl
@[simp] theorem State.setCtx_err (s : State) (c : Nat) (x : Ctx) : (s.setCtx c x).err = s.err := rfl
@[simp] theorem State.setCtx_own (s : State) (c : Nat) (x : Ctx) : (s.setCtx c x).own = s.own := rfl
@[simp] theorem State.setCtx_pwr (s : State) (c : Nat) (x : Ctx) : (s.setCtx c x).pwr = s.pwr := rfl
@[simp] theorem State.setCtx_sec (s : State) (c : Nat) (x : Ctx) : (s.setCtx c x).sec = s.sec := rfl
@[simp] theorem State.setCtx_age (s : State) (c : Nat) (x : Ctx) : (s.setCtx c x).age = s.age := rfl
@[simp] theorem State.setCtx_tiles (s : State) (c : Nat) (x : Ctx) : (s.setCtx c x).tiles = s.tiles := rfl
@[simp] theorem State.setCtx_ts (s : State) (c : Nat) (x : Ctx) : (s.setCtx c x).ts = s.ts := rfl
@[simp] theorem State.setCtx_shd (s : State) (c : Nat) (x : Ctx) : (s.setCtx c x).shd = s.shd := rfl
@[simp] theorem State.setCtx_vec (s : State) (c : Nat) (x : Ctx) : (s.setCtx c x).vec = s.vec := rfl
@[simp] theorem State.setCtx_keySeed (s : State) (c : Nat) (x : Ctx) : (s.setCtx c x).keySeed = s.keySeed := rfl
@[simp] theorem State.setCtx_keyNext (s : State) (c : Nat) (x : Ctx) : (s.setCtx c x).keyNext = s.keyNext := rfl
@[simp] theorem State.setCtx_scanDue (s : State) (c : Nat) (x : Ctx) : (s.setCtx c x).scanDue = s.scanDue := rfl
@[simp] theorem State.setCtx_opt (s : State) (c : Nat) (x : Ctx) : (s.setCtx c x).opt = s.opt := rfl
@[simp] theorem State.setCtx_prn (s : State) (c : Nat) (x : Ctx) : (s.setCtx c x).prn = s.prn := rfl
@[simp] theorem State.setCtx_walks (s : State) (c : Nat) (x : Ctx) : (s.setCtx c x).walks = s.walks := rfl
@[simp] theorem State.setCtx_xch (s : State) (c : Nat) (x : Ctx) : (s.setCtx c x).xch = s.xch := rfl
@[simp] theorem State.setCtx_links (s : State) (c : Nat) (x : Ctx) : (s.setCtx c x).links = s.links := rfl
@[simp] theorem State.setCtx_red (s : State) (c : Nat) (x : Ctx) : (s.setCtx c x).red = s.red := rfl
@[simp] theorem State.setCtx_doubt (s : State) (c : Nat) (x : Ctx) : (s.setCtx c x).doubt = s.doubt := rfl
@[simp] theorem State.setCtx_hbm (s : State) (c : Nat) (x : Ctx) : (s.setCtx c x).hbm = s.hbm := rfl
@[simp] theorem State.setCtx_opl (s : State) (c : Nat) (x : Ctx) : (s.setCtx c x).opl = s.opl := rfl
@[simp] theorem State.setCtx_notes (s : State) (c : Nat) (x : Ctx) : (s.setCtx c x).notes = s.notes := rfl
@[simp] theorem State.setCtx_firn (s : State) (c : Nat) (x : Ctx) : (s.setCtx c x).firn = s.firn := rfl

/-! ### setLink -/

@[simp] theorem State.setLink_pending (s : State) (p : Nat) (x : LinkSt) : (s.setLink p x).pending = s.pending := rfl
@[simp] theorem State.setLink_outbox (s : State) (p : Nat) (x : LinkSt) : (s.setLink p x).outbox = s.outbox := rfl
@[simp] theorem State.setLink_fresh (s : State) (p : Nat) (x : LinkSt) : (s.setLink p x).fresh = s.fresh := rfl
@[simp] theorem State.setLink_regs (s : State) (p : Nat) (x : LinkSt) : (s.setLink p x).regs = s.regs := rfl
@[simp] theorem State.setLink_shadows (s : State) (p : Nat) (x : LinkSt) : (s.setLink p x).shadows = s.shadows := rfl
@[simp] theorem State.setLink_life (s : State) (p : Nat) (x : LinkSt) : (s.setLink p x).life = s.life := rfl
@[simp] theorem State.setLink_pins (s : State) (p : Nat) (x : LinkSt) : (s.setLink p x).pins = s.pins := rfl
@[simp] theorem State.setLink_clk (s : State) (p : Nat) (x : LinkSt) : (s.setLink p x).clk = s.clk := rfl
@[simp] theorem State.setLink_fuses (s : State) (p : Nat) (x : LinkSt) : (s.setLink p x).fuses = s.fuses := rfl
@[simp] theorem State.setLink_err (s : State) (p : Nat) (x : LinkSt) : (s.setLink p x).err = s.err := rfl
@[simp] theorem State.setLink_own (s : State) (p : Nat) (x : LinkSt) : (s.setLink p x).own = s.own := rfl
@[simp] theorem State.setLink_pwr (s : State) (p : Nat) (x : LinkSt) : (s.setLink p x).pwr = s.pwr := rfl
@[simp] theorem State.setLink_sec (s : State) (p : Nat) (x : LinkSt) : (s.setLink p x).sec = s.sec := rfl
@[simp] theorem State.setLink_age (s : State) (p : Nat) (x : LinkSt) : (s.setLink p x).age = s.age := rfl
@[simp] theorem State.setLink_tiles (s : State) (p : Nat) (x : LinkSt) : (s.setLink p x).tiles = s.tiles := rfl
@[simp] theorem State.setLink_ts (s : State) (p : Nat) (x : LinkSt) : (s.setLink p x).ts = s.ts := rfl
@[simp] theorem State.setLink_shd (s : State) (p : Nat) (x : LinkSt) : (s.setLink p x).shd = s.shd := rfl
@[simp] theorem State.setLink_vec (s : State) (p : Nat) (x : LinkSt) : (s.setLink p x).vec = s.vec := rfl
@[simp] theorem State.setLink_ctxs (s : State) (p : Nat) (x : LinkSt) : (s.setLink p x).ctxs = s.ctxs := rfl
@[simp] theorem State.setLink_keySeed (s : State) (p : Nat) (x : LinkSt) : (s.setLink p x).keySeed = s.keySeed := rfl
@[simp] theorem State.setLink_keyNext (s : State) (p : Nat) (x : LinkSt) : (s.setLink p x).keyNext = s.keyNext := rfl
@[simp] theorem State.setLink_scanDue (s : State) (p : Nat) (x : LinkSt) : (s.setLink p x).scanDue = s.scanDue := rfl
@[simp] theorem State.setLink_opt (s : State) (p : Nat) (x : LinkSt) : (s.setLink p x).opt = s.opt := rfl
@[simp] theorem State.setLink_prn (s : State) (p : Nat) (x : LinkSt) : (s.setLink p x).prn = s.prn := rfl
@[simp] theorem State.setLink_walks (s : State) (p : Nat) (x : LinkSt) : (s.setLink p x).walks = s.walks := rfl
@[simp] theorem State.setLink_xch (s : State) (p : Nat) (x : LinkSt) : (s.setLink p x).xch = s.xch := rfl
@[simp] theorem State.setLink_red (s : State) (p : Nat) (x : LinkSt) : (s.setLink p x).red = s.red := rfl
@[simp] theorem State.setLink_doubt (s : State) (p : Nat) (x : LinkSt) : (s.setLink p x).doubt = s.doubt := rfl
@[simp] theorem State.setLink_hbm (s : State) (p : Nat) (x : LinkSt) : (s.setLink p x).hbm = s.hbm := rfl
@[simp] theorem State.setLink_opl (s : State) (p : Nat) (x : LinkSt) : (s.setLink p x).opl = s.opl := rfl
@[simp] theorem State.setLink_notes (s : State) (p : Nat) (x : LinkSt) : (s.setLink p x).notes = s.notes := rfl
@[simp] theorem State.setLink_firn (s : State) (p : Nat) (x : LinkSt) : (s.setLink p x).firn = s.firn := rfl

/-! ### setRed -/

@[simp] theorem State.setRed_pending (s : State) (c : Nat) (x : RedSt) : (s.setRed c x).pending = s.pending := rfl
@[simp] theorem State.setRed_outbox (s : State) (c : Nat) (x : RedSt) : (s.setRed c x).outbox = s.outbox := rfl
@[simp] theorem State.setRed_fresh (s : State) (c : Nat) (x : RedSt) : (s.setRed c x).fresh = s.fresh := rfl
@[simp] theorem State.setRed_regs (s : State) (c : Nat) (x : RedSt) : (s.setRed c x).regs = s.regs := rfl
@[simp] theorem State.setRed_shadows (s : State) (c : Nat) (x : RedSt) : (s.setRed c x).shadows = s.shadows := rfl
@[simp] theorem State.setRed_life (s : State) (c : Nat) (x : RedSt) : (s.setRed c x).life = s.life := rfl
@[simp] theorem State.setRed_pins (s : State) (c : Nat) (x : RedSt) : (s.setRed c x).pins = s.pins := rfl
@[simp] theorem State.setRed_clk (s : State) (c : Nat) (x : RedSt) : (s.setRed c x).clk = s.clk := rfl
@[simp] theorem State.setRed_fuses (s : State) (c : Nat) (x : RedSt) : (s.setRed c x).fuses = s.fuses := rfl
@[simp] theorem State.setRed_err (s : State) (c : Nat) (x : RedSt) : (s.setRed c x).err = s.err := rfl
@[simp] theorem State.setRed_own (s : State) (c : Nat) (x : RedSt) : (s.setRed c x).own = s.own := rfl
@[simp] theorem State.setRed_pwr (s : State) (c : Nat) (x : RedSt) : (s.setRed c x).pwr = s.pwr := rfl
@[simp] theorem State.setRed_sec (s : State) (c : Nat) (x : RedSt) : (s.setRed c x).sec = s.sec := rfl
@[simp] theorem State.setRed_age (s : State) (c : Nat) (x : RedSt) : (s.setRed c x).age = s.age := rfl
@[simp] theorem State.setRed_tiles (s : State) (c : Nat) (x : RedSt) : (s.setRed c x).tiles = s.tiles := rfl
@[simp] theorem State.setRed_ts (s : State) (c : Nat) (x : RedSt) : (s.setRed c x).ts = s.ts := rfl
@[simp] theorem State.setRed_shd (s : State) (c : Nat) (x : RedSt) : (s.setRed c x).shd = s.shd := rfl
@[simp] theorem State.setRed_vec (s : State) (c : Nat) (x : RedSt) : (s.setRed c x).vec = s.vec := rfl
@[simp] theorem State.setRed_ctxs (s : State) (c : Nat) (x : RedSt) : (s.setRed c x).ctxs = s.ctxs := rfl
@[simp] theorem State.setRed_keySeed (s : State) (c : Nat) (x : RedSt) : (s.setRed c x).keySeed = s.keySeed := rfl
@[simp] theorem State.setRed_keyNext (s : State) (c : Nat) (x : RedSt) : (s.setRed c x).keyNext = s.keyNext := rfl
@[simp] theorem State.setRed_scanDue (s : State) (c : Nat) (x : RedSt) : (s.setRed c x).scanDue = s.scanDue := rfl
@[simp] theorem State.setRed_opt (s : State) (c : Nat) (x : RedSt) : (s.setRed c x).opt = s.opt := rfl
@[simp] theorem State.setRed_prn (s : State) (c : Nat) (x : RedSt) : (s.setRed c x).prn = s.prn := rfl
@[simp] theorem State.setRed_walks (s : State) (c : Nat) (x : RedSt) : (s.setRed c x).walks = s.walks := rfl
@[simp] theorem State.setRed_xch (s : State) (c : Nat) (x : RedSt) : (s.setRed c x).xch = s.xch := rfl
@[simp] theorem State.setRed_links (s : State) (c : Nat) (x : RedSt) : (s.setRed c x).links = s.links := rfl
@[simp] theorem State.setRed_doubt (s : State) (c : Nat) (x : RedSt) : (s.setRed c x).doubt = s.doubt := rfl
@[simp] theorem State.setRed_hbm (s : State) (c : Nat) (x : RedSt) : (s.setRed c x).hbm = s.hbm := rfl
@[simp] theorem State.setRed_opl (s : State) (c : Nat) (x : RedSt) : (s.setRed c x).opl = s.opl := rfl
@[simp] theorem State.setRed_notes (s : State) (c : Nat) (x : RedSt) : (s.setRed c x).notes = s.notes := rfl
@[simp] theorem State.setRed_firn (s : State) (c : Nat) (x : RedSt) : (s.setRed c x).firn = s.firn := rfl

/-! ### setXch -/

@[simp] theorem State.setXch_pending (s : State) (n : Nat) (x : XchSt) : (s.setXch n x).pending = s.pending := rfl
@[simp] theorem State.setXch_outbox (s : State) (n : Nat) (x : XchSt) : (s.setXch n x).outbox = s.outbox := rfl
@[simp] theorem State.setXch_fresh (s : State) (n : Nat) (x : XchSt) : (s.setXch n x).fresh = s.fresh := rfl
@[simp] theorem State.setXch_regs (s : State) (n : Nat) (x : XchSt) : (s.setXch n x).regs = s.regs := rfl
@[simp] theorem State.setXch_shadows (s : State) (n : Nat) (x : XchSt) : (s.setXch n x).shadows = s.shadows := rfl
@[simp] theorem State.setXch_life (s : State) (n : Nat) (x : XchSt) : (s.setXch n x).life = s.life := rfl
@[simp] theorem State.setXch_pins (s : State) (n : Nat) (x : XchSt) : (s.setXch n x).pins = s.pins := rfl
@[simp] theorem State.setXch_clk (s : State) (n : Nat) (x : XchSt) : (s.setXch n x).clk = s.clk := rfl
@[simp] theorem State.setXch_fuses (s : State) (n : Nat) (x : XchSt) : (s.setXch n x).fuses = s.fuses := rfl
@[simp] theorem State.setXch_err (s : State) (n : Nat) (x : XchSt) : (s.setXch n x).err = s.err := rfl
@[simp] theorem State.setXch_own (s : State) (n : Nat) (x : XchSt) : (s.setXch n x).own = s.own := rfl
@[simp] theorem State.setXch_pwr (s : State) (n : Nat) (x : XchSt) : (s.setXch n x).pwr = s.pwr := rfl
@[simp] theorem State.setXch_sec (s : State) (n : Nat) (x : XchSt) : (s.setXch n x).sec = s.sec := rfl
@[simp] theorem State.setXch_age (s : State) (n : Nat) (x : XchSt) : (s.setXch n x).age = s.age := rfl
@[simp] theorem State.setXch_tiles (s : State) (n : Nat) (x : XchSt) : (s.setXch n x).tiles = s.tiles := rfl
@[simp] theorem State.setXch_ts (s : State) (n : Nat) (x : XchSt) : (s.setXch n x).ts = s.ts := rfl
@[simp] theorem State.setXch_shd (s : State) (n : Nat) (x : XchSt) : (s.setXch n x).shd = s.shd := rfl
@[simp] theorem State.setXch_vec (s : State) (n : Nat) (x : XchSt) : (s.setXch n x).vec = s.vec := rfl
@[simp] theorem State.setXch_ctxs (s : State) (n : Nat) (x : XchSt) : (s.setXch n x).ctxs = s.ctxs := rfl
@[simp] theorem State.setXch_keySeed (s : State) (n : Nat) (x : XchSt) : (s.setXch n x).keySeed = s.keySeed := rfl
@[simp] theorem State.setXch_keyNext (s : State) (n : Nat) (x : XchSt) : (s.setXch n x).keyNext = s.keyNext := rfl
@[simp] theorem State.setXch_scanDue (s : State) (n : Nat) (x : XchSt) : (s.setXch n x).scanDue = s.scanDue := rfl
@[simp] theorem State.setXch_opt (s : State) (n : Nat) (x : XchSt) : (s.setXch n x).opt = s.opt := rfl
@[simp] theorem State.setXch_prn (s : State) (n : Nat) (x : XchSt) : (s.setXch n x).prn = s.prn := rfl
@[simp] theorem State.setXch_walks (s : State) (n : Nat) (x : XchSt) : (s.setXch n x).walks = s.walks := rfl
@[simp] theorem State.setXch_links (s : State) (n : Nat) (x : XchSt) : (s.setXch n x).links = s.links := rfl
@[simp] theorem State.setXch_red (s : State) (n : Nat) (x : XchSt) : (s.setXch n x).red = s.red := rfl
@[simp] theorem State.setXch_doubt (s : State) (n : Nat) (x : XchSt) : (s.setXch n x).doubt = s.doubt := rfl
@[simp] theorem State.setXch_hbm (s : State) (n : Nat) (x : XchSt) : (s.setXch n x).hbm = s.hbm := rfl
@[simp] theorem State.setXch_opl (s : State) (n : Nat) (x : XchSt) : (s.setXch n x).opl = s.opl := rfl
@[simp] theorem State.setXch_notes (s : State) (n : Nat) (x : XchSt) : (s.setXch n x).notes = s.notes := rfl
@[simp] theorem State.setXch_firn (s : State) (n : Nat) (x : XchSt) : (s.setXch n x).firn = s.firn := rfl

/-! ### setOpt -/

@[simp] theorem State.setOpt_pending (s : State) (n : Nat) (x : OptSt) : (s.setOpt n x).pending = s.pending := rfl
@[simp] theorem State.setOpt_outbox (s : State) (n : Nat) (x : OptSt) : (s.setOpt n x).outbox = s.outbox := rfl
@[simp] theorem State.setOpt_fresh (s : State) (n : Nat) (x : OptSt) : (s.setOpt n x).fresh = s.fresh := rfl
@[simp] theorem State.setOpt_regs (s : State) (n : Nat) (x : OptSt) : (s.setOpt n x).regs = s.regs := rfl
@[simp] theorem State.setOpt_shadows (s : State) (n : Nat) (x : OptSt) : (s.setOpt n x).shadows = s.shadows := rfl
@[simp] theorem State.setOpt_life (s : State) (n : Nat) (x : OptSt) : (s.setOpt n x).life = s.life := rfl
@[simp] theorem State.setOpt_pins (s : State) (n : Nat) (x : OptSt) : (s.setOpt n x).pins = s.pins := rfl
@[simp] theorem State.setOpt_clk (s : State) (n : Nat) (x : OptSt) : (s.setOpt n x).clk = s.clk := rfl
@[simp] theorem State.setOpt_fuses (s : State) (n : Nat) (x : OptSt) : (s.setOpt n x).fuses = s.fuses := rfl
@[simp] theorem State.setOpt_err (s : State) (n : Nat) (x : OptSt) : (s.setOpt n x).err = s.err := rfl
@[simp] theorem State.setOpt_own (s : State) (n : Nat) (x : OptSt) : (s.setOpt n x).own = s.own := rfl
@[simp] theorem State.setOpt_pwr (s : State) (n : Nat) (x : OptSt) : (s.setOpt n x).pwr = s.pwr := rfl
@[simp] theorem State.setOpt_sec (s : State) (n : Nat) (x : OptSt) : (s.setOpt n x).sec = s.sec := rfl
@[simp] theorem State.setOpt_age (s : State) (n : Nat) (x : OptSt) : (s.setOpt n x).age = s.age := rfl
@[simp] theorem State.setOpt_tiles (s : State) (n : Nat) (x : OptSt) : (s.setOpt n x).tiles = s.tiles := rfl
@[simp] theorem State.setOpt_ts (s : State) (n : Nat) (x : OptSt) : (s.setOpt n x).ts = s.ts := rfl
@[simp] theorem State.setOpt_shd (s : State) (n : Nat) (x : OptSt) : (s.setOpt n x).shd = s.shd := rfl
@[simp] theorem State.setOpt_vec (s : State) (n : Nat) (x : OptSt) : (s.setOpt n x).vec = s.vec := rfl
@[simp] theorem State.setOpt_ctxs (s : State) (n : Nat) (x : OptSt) : (s.setOpt n x).ctxs = s.ctxs := rfl
@[simp] theorem State.setOpt_keySeed (s : State) (n : Nat) (x : OptSt) : (s.setOpt n x).keySeed = s.keySeed := rfl
@[simp] theorem State.setOpt_keyNext (s : State) (n : Nat) (x : OptSt) : (s.setOpt n x).keyNext = s.keyNext := rfl
@[simp] theorem State.setOpt_scanDue (s : State) (n : Nat) (x : OptSt) : (s.setOpt n x).scanDue = s.scanDue := rfl
@[simp] theorem State.setOpt_prn (s : State) (n : Nat) (x : OptSt) : (s.setOpt n x).prn = s.prn := rfl
@[simp] theorem State.setOpt_walks (s : State) (n : Nat) (x : OptSt) : (s.setOpt n x).walks = s.walks := rfl
@[simp] theorem State.setOpt_xch (s : State) (n : Nat) (x : OptSt) : (s.setOpt n x).xch = s.xch := rfl
@[simp] theorem State.setOpt_links (s : State) (n : Nat) (x : OptSt) : (s.setOpt n x).links = s.links := rfl
@[simp] theorem State.setOpt_red (s : State) (n : Nat) (x : OptSt) : (s.setOpt n x).red = s.red := rfl
@[simp] theorem State.setOpt_doubt (s : State) (n : Nat) (x : OptSt) : (s.setOpt n x).doubt = s.doubt := rfl
@[simp] theorem State.setOpt_hbm (s : State) (n : Nat) (x : OptSt) : (s.setOpt n x).hbm = s.hbm := rfl
@[simp] theorem State.setOpt_opl (s : State) (n : Nat) (x : OptSt) : (s.setOpt n x).opl = s.opl := rfl
@[simp] theorem State.setOpt_notes (s : State) (n : Nat) (x : OptSt) : (s.setOpt n x).notes = s.notes := rfl
@[simp] theorem State.setOpt_firn (s : State) (n : Nat) (x : OptSt) : (s.setOpt n x).firn = s.firn := rfl

/-! ### setPrn -/

@[simp] theorem State.setPrn_pending (s : State) (n : Nat) (x : Option RingCmd) : (s.setPrn n x).pending = s.pending := rfl
@[simp] theorem State.setPrn_outbox (s : State) (n : Nat) (x : Option RingCmd) : (s.setPrn n x).outbox = s.outbox := rfl
@[simp] theorem State.setPrn_fresh (s : State) (n : Nat) (x : Option RingCmd) : (s.setPrn n x).fresh = s.fresh := rfl
@[simp] theorem State.setPrn_regs (s : State) (n : Nat) (x : Option RingCmd) : (s.setPrn n x).regs = s.regs := rfl
@[simp] theorem State.setPrn_shadows (s : State) (n : Nat) (x : Option RingCmd) : (s.setPrn n x).shadows = s.shadows := rfl
@[simp] theorem State.setPrn_life (s : State) (n : Nat) (x : Option RingCmd) : (s.setPrn n x).life = s.life := rfl
@[simp] theorem State.setPrn_pins (s : State) (n : Nat) (x : Option RingCmd) : (s.setPrn n x).pins = s.pins := rfl
@[simp] theorem State.setPrn_clk (s : State) (n : Nat) (x : Option RingCmd) : (s.setPrn n x).clk = s.clk := rfl
@[simp] theorem State.setPrn_fuses (s : State) (n : Nat) (x : Option RingCmd) : (s.setPrn n x).fuses = s.fuses := rfl
@[simp] theorem State.setPrn_err (s : State) (n : Nat) (x : Option RingCmd) : (s.setPrn n x).err = s.err := rfl
@[simp] theorem State.setPrn_own (s : State) (n : Nat) (x : Option RingCmd) : (s.setPrn n x).own = s.own := rfl
@[simp] theorem State.setPrn_pwr (s : State) (n : Nat) (x : Option RingCmd) : (s.setPrn n x).pwr = s.pwr := rfl
@[simp] theorem State.setPrn_sec (s : State) (n : Nat) (x : Option RingCmd) : (s.setPrn n x).sec = s.sec := rfl
@[simp] theorem State.setPrn_age (s : State) (n : Nat) (x : Option RingCmd) : (s.setPrn n x).age = s.age := rfl
@[simp] theorem State.setPrn_tiles (s : State) (n : Nat) (x : Option RingCmd) : (s.setPrn n x).tiles = s.tiles := rfl
@[simp] theorem State.setPrn_ts (s : State) (n : Nat) (x : Option RingCmd) : (s.setPrn n x).ts = s.ts := rfl
@[simp] theorem State.setPrn_shd (s : State) (n : Nat) (x : Option RingCmd) : (s.setPrn n x).shd = s.shd := rfl
@[simp] theorem State.setPrn_vec (s : State) (n : Nat) (x : Option RingCmd) : (s.setPrn n x).vec = s.vec := rfl
@[simp] theorem State.setPrn_ctxs (s : State) (n : Nat) (x : Option RingCmd) : (s.setPrn n x).ctxs = s.ctxs := rfl
@[simp] theorem State.setPrn_keySeed (s : State) (n : Nat) (x : Option RingCmd) : (s.setPrn n x).keySeed = s.keySeed := rfl
@[simp] theorem State.setPrn_keyNext (s : State) (n : Nat) (x : Option RingCmd) : (s.setPrn n x).keyNext = s.keyNext := rfl
@[simp] theorem State.setPrn_scanDue (s : State) (n : Nat) (x : Option RingCmd) : (s.setPrn n x).scanDue = s.scanDue := rfl
@[simp] theorem State.setPrn_opt (s : State) (n : Nat) (x : Option RingCmd) : (s.setPrn n x).opt = s.opt := rfl
@[simp] theorem State.setPrn_walks (s : State) (n : Nat) (x : Option RingCmd) : (s.setPrn n x).walks = s.walks := rfl
@[simp] theorem State.setPrn_xch (s : State) (n : Nat) (x : Option RingCmd) : (s.setPrn n x).xch = s.xch := rfl
@[simp] theorem State.setPrn_links (s : State) (n : Nat) (x : Option RingCmd) : (s.setPrn n x).links = s.links := rfl
@[simp] theorem State.setPrn_red (s : State) (n : Nat) (x : Option RingCmd) : (s.setPrn n x).red = s.red := rfl
@[simp] theorem State.setPrn_doubt (s : State) (n : Nat) (x : Option RingCmd) : (s.setPrn n x).doubt = s.doubt := rfl
@[simp] theorem State.setPrn_hbm (s : State) (n : Nat) (x : Option RingCmd) : (s.setPrn n x).hbm = s.hbm := rfl
@[simp] theorem State.setPrn_opl (s : State) (n : Nat) (x : Option RingCmd) : (s.setPrn n x).opl = s.opl := rfl
@[simp] theorem State.setPrn_notes (s : State) (n : Nat) (x : Option RingCmd) : (s.setPrn n x).notes = s.notes := rfl
@[simp] theorem State.setPrn_firn (s : State) (n : Nat) (x : Option RingCmd) : (s.setPrn n x).firn = s.firn := rfl

/-! ### setWalk -/

@[simp] theorem State.setWalk_pending (s : State) (c : Nat) (x : Option WalkSt) : (s.setWalk c x).pending = s.pending := rfl
@[simp] theorem State.setWalk_outbox (s : State) (c : Nat) (x : Option WalkSt) : (s.setWalk c x).outbox = s.outbox := rfl
@[simp] theorem State.setWalk_fresh (s : State) (c : Nat) (x : Option WalkSt) : (s.setWalk c x).fresh = s.fresh := rfl
@[simp] theorem State.setWalk_regs (s : State) (c : Nat) (x : Option WalkSt) : (s.setWalk c x).regs = s.regs := rfl
@[simp] theorem State.setWalk_shadows (s : State) (c : Nat) (x : Option WalkSt) : (s.setWalk c x).shadows = s.shadows := rfl
@[simp] theorem State.setWalk_life (s : State) (c : Nat) (x : Option WalkSt) : (s.setWalk c x).life = s.life := rfl
@[simp] theorem State.setWalk_pins (s : State) (c : Nat) (x : Option WalkSt) : (s.setWalk c x).pins = s.pins := rfl
@[simp] theorem State.setWalk_clk (s : State) (c : Nat) (x : Option WalkSt) : (s.setWalk c x).clk = s.clk := rfl
@[simp] theorem State.setWalk_fuses (s : State) (c : Nat) (x : Option WalkSt) : (s.setWalk c x).fuses = s.fuses := rfl
@[simp] theorem State.setWalk_err (s : State) (c : Nat) (x : Option WalkSt) : (s.setWalk c x).err = s.err := rfl
@[simp] theorem State.setWalk_own (s : State) (c : Nat) (x : Option WalkSt) : (s.setWalk c x).own = s.own := rfl
@[simp] theorem State.setWalk_pwr (s : State) (c : Nat) (x : Option WalkSt) : (s.setWalk c x).pwr = s.pwr := rfl
@[simp] theorem State.setWalk_sec (s : State) (c : Nat) (x : Option WalkSt) : (s.setWalk c x).sec = s.sec := rfl
@[simp] theorem State.setWalk_age (s : State) (c : Nat) (x : Option WalkSt) : (s.setWalk c x).age = s.age := rfl
@[simp] theorem State.setWalk_tiles (s : State) (c : Nat) (x : Option WalkSt) : (s.setWalk c x).tiles = s.tiles := rfl
@[simp] theorem State.setWalk_ts (s : State) (c : Nat) (x : Option WalkSt) : (s.setWalk c x).ts = s.ts := rfl
@[simp] theorem State.setWalk_shd (s : State) (c : Nat) (x : Option WalkSt) : (s.setWalk c x).shd = s.shd := rfl
@[simp] theorem State.setWalk_vec (s : State) (c : Nat) (x : Option WalkSt) : (s.setWalk c x).vec = s.vec := rfl
@[simp] theorem State.setWalk_ctxs (s : State) (c : Nat) (x : Option WalkSt) : (s.setWalk c x).ctxs = s.ctxs := rfl
@[simp] theorem State.setWalk_keySeed (s : State) (c : Nat) (x : Option WalkSt) : (s.setWalk c x).keySeed = s.keySeed := rfl
@[simp] theorem State.setWalk_keyNext (s : State) (c : Nat) (x : Option WalkSt) : (s.setWalk c x).keyNext = s.keyNext := rfl
@[simp] theorem State.setWalk_scanDue (s : State) (c : Nat) (x : Option WalkSt) : (s.setWalk c x).scanDue = s.scanDue := rfl
@[simp] theorem State.setWalk_opt (s : State) (c : Nat) (x : Option WalkSt) : (s.setWalk c x).opt = s.opt := rfl
@[simp] theorem State.setWalk_prn (s : State) (c : Nat) (x : Option WalkSt) : (s.setWalk c x).prn = s.prn := rfl
@[simp] theorem State.setWalk_xch (s : State) (c : Nat) (x : Option WalkSt) : (s.setWalk c x).xch = s.xch := rfl
@[simp] theorem State.setWalk_links (s : State) (c : Nat) (x : Option WalkSt) : (s.setWalk c x).links = s.links := rfl
@[simp] theorem State.setWalk_red (s : State) (c : Nat) (x : Option WalkSt) : (s.setWalk c x).red = s.red := rfl
@[simp] theorem State.setWalk_doubt (s : State) (c : Nat) (x : Option WalkSt) : (s.setWalk c x).doubt = s.doubt := rfl
@[simp] theorem State.setWalk_hbm (s : State) (c : Nat) (x : Option WalkSt) : (s.setWalk c x).hbm = s.hbm := rfl
@[simp] theorem State.setWalk_opl (s : State) (c : Nat) (x : Option WalkSt) : (s.setWalk c x).opl = s.opl := rfl
@[simp] theorem State.setWalk_notes (s : State) (c : Nat) (x : Option WalkSt) : (s.setWalk c x).notes = s.notes := rfl
@[simp] theorem State.setWalk_firn (s : State) (c : Nat) (x : Option WalkSt) : (s.setWalk c x).firn = s.firn := rfl

/-! ### setFirn -/

@[simp] theorem State.setFirn_pending (s : State) (g : FirnSt → FirnSt) : (s.setFirn g).pending = s.pending := rfl
@[simp] theorem State.setFirn_outbox (s : State) (g : FirnSt → FirnSt) : (s.setFirn g).outbox = s.outbox := rfl
@[simp] theorem State.setFirn_fresh (s : State) (g : FirnSt → FirnSt) : (s.setFirn g).fresh = s.fresh := rfl
@[simp] theorem State.setFirn_regs (s : State) (g : FirnSt → FirnSt) : (s.setFirn g).regs = s.regs := rfl
@[simp] theorem State.setFirn_shadows (s : State) (g : FirnSt → FirnSt) : (s.setFirn g).shadows = s.shadows := rfl
@[simp] theorem State.setFirn_life (s : State) (g : FirnSt → FirnSt) : (s.setFirn g).life = s.life := rfl
@[simp] theorem State.setFirn_pins (s : State) (g : FirnSt → FirnSt) : (s.setFirn g).pins = s.pins := rfl
@[simp] theorem State.setFirn_clk (s : State) (g : FirnSt → FirnSt) : (s.setFirn g).clk = s.clk := rfl
@[simp] theorem State.setFirn_fuses (s : State) (g : FirnSt → FirnSt) : (s.setFirn g).fuses = s.fuses := rfl
@[simp] theorem State.setFirn_err (s : State) (g : FirnSt → FirnSt) : (s.setFirn g).err = s.err := rfl
@[simp] theorem State.setFirn_own (s : State) (g : FirnSt → FirnSt) : (s.setFirn g).own = s.own := rfl
@[simp] theorem State.setFirn_pwr (s : State) (g : FirnSt → FirnSt) : (s.setFirn g).pwr = s.pwr := rfl
@[simp] theorem State.setFirn_sec (s : State) (g : FirnSt → FirnSt) : (s.setFirn g).sec = s.sec := rfl
@[simp] theorem State.setFirn_age (s : State) (g : FirnSt → FirnSt) : (s.setFirn g).age = s.age := rfl
@[simp] theorem State.setFirn_tiles (s : State) (g : FirnSt → FirnSt) : (s.setFirn g).tiles = s.tiles := rfl
@[simp] theorem State.setFirn_ts (s : State) (g : FirnSt → FirnSt) : (s.setFirn g).ts = s.ts := rfl
@[simp] theorem State.setFirn_shd (s : State) (g : FirnSt → FirnSt) : (s.setFirn g).shd = s.shd := rfl
@[simp] theorem State.setFirn_vec (s : State) (g : FirnSt → FirnSt) : (s.setFirn g).vec = s.vec := rfl
@[simp] theorem State.setFirn_ctxs (s : State) (g : FirnSt → FirnSt) : (s.setFirn g).ctxs = s.ctxs := rfl
@[simp] theorem State.setFirn_keySeed (s : State) (g : FirnSt → FirnSt) : (s.setFirn g).keySeed = s.keySeed := rfl
@[simp] theorem State.setFirn_keyNext (s : State) (g : FirnSt → FirnSt) : (s.setFirn g).keyNext = s.keyNext := rfl
@[simp] theorem State.setFirn_scanDue (s : State) (g : FirnSt → FirnSt) : (s.setFirn g).scanDue = s.scanDue := rfl
@[simp] theorem State.setFirn_opt (s : State) (g : FirnSt → FirnSt) : (s.setFirn g).opt = s.opt := rfl
@[simp] theorem State.setFirn_prn (s : State) (g : FirnSt → FirnSt) : (s.setFirn g).prn = s.prn := rfl
@[simp] theorem State.setFirn_walks (s : State) (g : FirnSt → FirnSt) : (s.setFirn g).walks = s.walks := rfl
@[simp] theorem State.setFirn_xch (s : State) (g : FirnSt → FirnSt) : (s.setFirn g).xch = s.xch := rfl
@[simp] theorem State.setFirn_links (s : State) (g : FirnSt → FirnSt) : (s.setFirn g).links = s.links := rfl
@[simp] theorem State.setFirn_red (s : State) (g : FirnSt → FirnSt) : (s.setFirn g).red = s.red := rfl
@[simp] theorem State.setFirn_doubt (s : State) (g : FirnSt → FirnSt) : (s.setFirn g).doubt = s.doubt := rfl
@[simp] theorem State.setFirn_hbm (s : State) (g : FirnSt → FirnSt) : (s.setFirn g).hbm = s.hbm := rfl
@[simp] theorem State.setFirn_opl (s : State) (g : FirnSt → FirnSt) : (s.setFirn g).opl = s.opl := rfl
@[simp] theorem State.setFirn_notes (s : State) (g : FirnSt → FirnSt) : (s.setFirn g).notes = s.notes := rfl

/-! ### setPd -/

@[simp] theorem State.setPd_pending (s : State) (d : Nat) (p : PdSt) : (s.setPd d p).pending = s.pending := rfl
@[simp] theorem State.setPd_outbox (s : State) (d : Nat) (p : PdSt) : (s.setPd d p).outbox = s.outbox := rfl
@[simp] theorem State.setPd_fresh (s : State) (d : Nat) (p : PdSt) : (s.setPd d p).fresh = s.fresh := rfl
@[simp] theorem State.setPd_regs (s : State) (d : Nat) (p : PdSt) : (s.setPd d p).regs = s.regs := rfl
@[simp] theorem State.setPd_shadows (s : State) (d : Nat) (p : PdSt) : (s.setPd d p).shadows = s.shadows := rfl
@[simp] theorem State.setPd_life (s : State) (d : Nat) (p : PdSt) : (s.setPd d p).life = s.life := rfl
@[simp] theorem State.setPd_pins (s : State) (d : Nat) (p : PdSt) : (s.setPd d p).pins = s.pins := rfl
@[simp] theorem State.setPd_clk (s : State) (d : Nat) (p : PdSt) : (s.setPd d p).clk = s.clk := rfl
@[simp] theorem State.setPd_fuses (s : State) (d : Nat) (p : PdSt) : (s.setPd d p).fuses = s.fuses := rfl
@[simp] theorem State.setPd_err (s : State) (d : Nat) (p : PdSt) : (s.setPd d p).err = s.err := rfl
@[simp] theorem State.setPd_own (s : State) (d : Nat) (p : PdSt) : (s.setPd d p).own = s.own := rfl
@[simp] theorem State.setPd_sec (s : State) (d : Nat) (p : PdSt) : (s.setPd d p).sec = s.sec := rfl
@[simp] theorem State.setPd_age (s : State) (d : Nat) (p : PdSt) : (s.setPd d p).age = s.age := rfl
@[simp] theorem State.setPd_tiles (s : State) (d : Nat) (p : PdSt) : (s.setPd d p).tiles = s.tiles := rfl
@[simp] theorem State.setPd_ts (s : State) (d : Nat) (p : PdSt) : (s.setPd d p).ts = s.ts := rfl
@[simp] theorem State.setPd_shd (s : State) (d : Nat) (p : PdSt) : (s.setPd d p).shd = s.shd := rfl
@[simp] theorem State.setPd_vec (s : State) (d : Nat) (p : PdSt) : (s.setPd d p).vec = s.vec := rfl
@[simp] theorem State.setPd_ctxs (s : State) (d : Nat) (p : PdSt) : (s.setPd d p).ctxs = s.ctxs := rfl
@[simp] theorem State.setPd_keySeed (s : State) (d : Nat) (p : PdSt) : (s.setPd d p).keySeed = s.keySeed := rfl
@[simp] theorem State.setPd_keyNext (s : State) (d : Nat) (p : PdSt) : (s.setPd d p).keyNext = s.keyNext := rfl
@[simp] theorem State.setPd_scanDue (s : State) (d : Nat) (p : PdSt) : (s.setPd d p).scanDue = s.scanDue := rfl
@[simp] theorem State.setPd_opt (s : State) (d : Nat) (p : PdSt) : (s.setPd d p).opt = s.opt := rfl
@[simp] theorem State.setPd_prn (s : State) (d : Nat) (p : PdSt) : (s.setPd d p).prn = s.prn := rfl
@[simp] theorem State.setPd_walks (s : State) (d : Nat) (p : PdSt) : (s.setPd d p).walks = s.walks := rfl
@[simp] theorem State.setPd_xch (s : State) (d : Nat) (p : PdSt) : (s.setPd d p).xch = s.xch := rfl
@[simp] theorem State.setPd_links (s : State) (d : Nat) (p : PdSt) : (s.setPd d p).links = s.links := rfl
@[simp] theorem State.setPd_red (s : State) (d : Nat) (p : PdSt) : (s.setPd d p).red = s.red := rfl
@[simp] theorem State.setPd_doubt (s : State) (d : Nat) (p : PdSt) : (s.setPd d p).doubt = s.doubt := rfl
@[simp] theorem State.setPd_hbm (s : State) (d : Nat) (p : PdSt) : (s.setPd d p).hbm = s.hbm := rfl
@[simp] theorem State.setPd_opl (s : State) (d : Nat) (p : PdSt) : (s.setPd d p).opl = s.opl := rfl
@[simp] theorem State.setPd_notes (s : State) (d : Nat) (p : PdSt) : (s.setPd d p).notes = s.notes := rfl
@[simp] theorem State.setPd_firn (s : State) (d : Nat) (p : PdSt) : (s.setPd d p).firn = s.firn := rfl

/-! ### setGpt -/

@[simp] theorem State.setGpt_pending (s : State) (n : Nat) (g : GptSt) : (s.setGpt n g).pending = s.pending := rfl
@[simp] theorem State.setGpt_outbox (s : State) (n : Nat) (g : GptSt) : (s.setGpt n g).outbox = s.outbox := rfl
@[simp] theorem State.setGpt_fresh (s : State) (n : Nat) (g : GptSt) : (s.setGpt n g).fresh = s.fresh := rfl
@[simp] theorem State.setGpt_regs (s : State) (n : Nat) (g : GptSt) : (s.setGpt n g).regs = s.regs := rfl
@[simp] theorem State.setGpt_shadows (s : State) (n : Nat) (g : GptSt) : (s.setGpt n g).shadows = s.shadows := rfl
@[simp] theorem State.setGpt_life (s : State) (n : Nat) (g : GptSt) : (s.setGpt n g).life = s.life := rfl
@[simp] theorem State.setGpt_pins (s : State) (n : Nat) (g : GptSt) : (s.setGpt n g).pins = s.pins := rfl
@[simp] theorem State.setGpt_fuses (s : State) (n : Nat) (g : GptSt) : (s.setGpt n g).fuses = s.fuses := rfl
@[simp] theorem State.setGpt_err (s : State) (n : Nat) (g : GptSt) : (s.setGpt n g).err = s.err := rfl
@[simp] theorem State.setGpt_own (s : State) (n : Nat) (g : GptSt) : (s.setGpt n g).own = s.own := rfl
@[simp] theorem State.setGpt_pwr (s : State) (n : Nat) (g : GptSt) : (s.setGpt n g).pwr = s.pwr := rfl
@[simp] theorem State.setGpt_sec (s : State) (n : Nat) (g : GptSt) : (s.setGpt n g).sec = s.sec := rfl
@[simp] theorem State.setGpt_age (s : State) (n : Nat) (g : GptSt) : (s.setGpt n g).age = s.age := rfl
@[simp] theorem State.setGpt_tiles (s : State) (n : Nat) (g : GptSt) : (s.setGpt n g).tiles = s.tiles := rfl
@[simp] theorem State.setGpt_ts (s : State) (n : Nat) (g : GptSt) : (s.setGpt n g).ts = s.ts := rfl
@[simp] theorem State.setGpt_shd (s : State) (n : Nat) (g : GptSt) : (s.setGpt n g).shd = s.shd := rfl
@[simp] theorem State.setGpt_vec (s : State) (n : Nat) (g : GptSt) : (s.setGpt n g).vec = s.vec := rfl
@[simp] theorem State.setGpt_ctxs (s : State) (n : Nat) (g : GptSt) : (s.setGpt n g).ctxs = s.ctxs := rfl
@[simp] theorem State.setGpt_keySeed (s : State) (n : Nat) (g : GptSt) : (s.setGpt n g).keySeed = s.keySeed := rfl
@[simp] theorem State.setGpt_keyNext (s : State) (n : Nat) (g : GptSt) : (s.setGpt n g).keyNext = s.keyNext := rfl
@[simp] theorem State.setGpt_scanDue (s : State) (n : Nat) (g : GptSt) : (s.setGpt n g).scanDue = s.scanDue := rfl
@[simp] theorem State.setGpt_opt (s : State) (n : Nat) (g : GptSt) : (s.setGpt n g).opt = s.opt := rfl
@[simp] theorem State.setGpt_prn (s : State) (n : Nat) (g : GptSt) : (s.setGpt n g).prn = s.prn := rfl
@[simp] theorem State.setGpt_walks (s : State) (n : Nat) (g : GptSt) : (s.setGpt n g).walks = s.walks := rfl
@[simp] theorem State.setGpt_xch (s : State) (n : Nat) (g : GptSt) : (s.setGpt n g).xch = s.xch := rfl
@[simp] theorem State.setGpt_links (s : State) (n : Nat) (g : GptSt) : (s.setGpt n g).links = s.links := rfl
@[simp] theorem State.setGpt_red (s : State) (n : Nat) (g : GptSt) : (s.setGpt n g).red = s.red := rfl
@[simp] theorem State.setGpt_doubt (s : State) (n : Nat) (g : GptSt) : (s.setGpt n g).doubt = s.doubt := rfl
@[simp] theorem State.setGpt_hbm (s : State) (n : Nat) (g : GptSt) : (s.setGpt n g).hbm = s.hbm := rfl
@[simp] theorem State.setGpt_opl (s : State) (n : Nat) (g : GptSt) : (s.setGpt n g).opl = s.opl := rfl
@[simp] theorem State.setGpt_notes (s : State) (n : Nat) (g : GptSt) : (s.setGpt n g).notes = s.notes := rfl
@[simp] theorem State.setGpt_firn (s : State) (n : Nat) (g : GptSt) : (s.setGpt n g).firn = s.firn := rfl

/-! ### setShd -/

@[simp] theorem State.setShd_pending (s : State) (n : Nat) (x : ShdSt) : (s.setShd n x).pending = s.pending := rfl
@[simp] theorem State.setShd_outbox (s : State) (n : Nat) (x : ShdSt) : (s.setShd n x).outbox = s.outbox := rfl
@[simp] theorem State.setShd_fresh (s : State) (n : Nat) (x : ShdSt) : (s.setShd n x).fresh = s.fresh := rfl
@[simp] theorem State.setShd_regs (s : State) (n : Nat) (x : ShdSt) : (s.setShd n x).regs = s.regs := rfl
@[simp] theorem State.setShd_shadows (s : State) (n : Nat) (x : ShdSt) : (s.setShd n x).shadows = s.shadows := rfl
@[simp] theorem State.setShd_life (s : State) (n : Nat) (x : ShdSt) : (s.setShd n x).life = s.life := rfl
@[simp] theorem State.setShd_pins (s : State) (n : Nat) (x : ShdSt) : (s.setShd n x).pins = s.pins := rfl
@[simp] theorem State.setShd_clk (s : State) (n : Nat) (x : ShdSt) : (s.setShd n x).clk = s.clk := rfl
@[simp] theorem State.setShd_fuses (s : State) (n : Nat) (x : ShdSt) : (s.setShd n x).fuses = s.fuses := rfl
@[simp] theorem State.setShd_err (s : State) (n : Nat) (x : ShdSt) : (s.setShd n x).err = s.err := rfl
@[simp] theorem State.setShd_own (s : State) (n : Nat) (x : ShdSt) : (s.setShd n x).own = s.own := rfl
@[simp] theorem State.setShd_pwr (s : State) (n : Nat) (x : ShdSt) : (s.setShd n x).pwr = s.pwr := rfl
@[simp] theorem State.setShd_sec (s : State) (n : Nat) (x : ShdSt) : (s.setShd n x).sec = s.sec := rfl
@[simp] theorem State.setShd_age (s : State) (n : Nat) (x : ShdSt) : (s.setShd n x).age = s.age := rfl
@[simp] theorem State.setShd_tiles (s : State) (n : Nat) (x : ShdSt) : (s.setShd n x).tiles = s.tiles := rfl
@[simp] theorem State.setShd_ts (s : State) (n : Nat) (x : ShdSt) : (s.setShd n x).ts = s.ts := rfl
@[simp] theorem State.setShd_vec (s : State) (n : Nat) (x : ShdSt) : (s.setShd n x).vec = s.vec := rfl
@[simp] theorem State.setShd_ctxs (s : State) (n : Nat) (x : ShdSt) : (s.setShd n x).ctxs = s.ctxs := rfl
@[simp] theorem State.setShd_keySeed (s : State) (n : Nat) (x : ShdSt) : (s.setShd n x).keySeed = s.keySeed := rfl
@[simp] theorem State.setShd_keyNext (s : State) (n : Nat) (x : ShdSt) : (s.setShd n x).keyNext = s.keyNext := rfl
@[simp] theorem State.setShd_scanDue (s : State) (n : Nat) (x : ShdSt) : (s.setShd n x).scanDue = s.scanDue := rfl
@[simp] theorem State.setShd_opt (s : State) (n : Nat) (x : ShdSt) : (s.setShd n x).opt = s.opt := rfl
@[simp] theorem State.setShd_prn (s : State) (n : Nat) (x : ShdSt) : (s.setShd n x).prn = s.prn := rfl
@[simp] theorem State.setShd_walks (s : State) (n : Nat) (x : ShdSt) : (s.setShd n x).walks = s.walks := rfl
@[simp] theorem State.setShd_xch (s : State) (n : Nat) (x : ShdSt) : (s.setShd n x).xch = s.xch := rfl
@[simp] theorem State.setShd_links (s : State) (n : Nat) (x : ShdSt) : (s.setShd n x).links = s.links := rfl
@[simp] theorem State.setShd_red (s : State) (n : Nat) (x : ShdSt) : (s.setShd n x).red = s.red := rfl
@[simp] theorem State.setShd_doubt (s : State) (n : Nat) (x : ShdSt) : (s.setShd n x).doubt = s.doubt := rfl
@[simp] theorem State.setShd_hbm (s : State) (n : Nat) (x : ShdSt) : (s.setShd n x).hbm = s.hbm := rfl
@[simp] theorem State.setShd_opl (s : State) (n : Nat) (x : ShdSt) : (s.setShd n x).opl = s.opl := rfl
@[simp] theorem State.setShd_notes (s : State) (n : Nat) (x : ShdSt) : (s.setShd n x).notes = s.notes := rfl
@[simp] theorem State.setShd_firn (s : State) (n : Nat) (x : ShdSt) : (s.setShd n x).firn = s.firn := rfl

/-! ### notifyOut -/

@[simp] theorem State.notifyOut_pending (s : State) (c : Nat) (v : W32) : (s.notifyOut c v).pending = s.pending := by
  rw [State.notifyOut, State.send_pending, State.bump64_pending, State.bump64_pending]
@[simp] theorem State.notifyOut_fresh (s : State) (c : Nat) (v : W32) : (s.notifyOut c v).fresh = s.fresh := by
  rw [State.notifyOut, State.send_fresh, State.bump64_fresh, State.bump64_fresh]
@[simp] theorem State.notifyOut_shadows (s : State) (c : Nat) (v : W32) : (s.notifyOut c v).shadows = s.shadows := by
  rw [State.notifyOut, State.send_shadows, State.bump64_shadows, State.bump64_shadows]
@[simp] theorem State.notifyOut_life (s : State) (c : Nat) (v : W32) : (s.notifyOut c v).life = s.life := by
  rw [State.notifyOut, State.send_life, State.bump64_life, State.bump64_life]
@[simp] theorem State.notifyOut_pins (s : State) (c : Nat) (v : W32) : (s.notifyOut c v).pins = s.pins := by
  rw [State.notifyOut, State.send_pins, State.bump64_pins, State.bump64_pins]
@[simp] theorem State.notifyOut_clk (s : State) (c : Nat) (v : W32) : (s.notifyOut c v).clk = s.clk := by
  rw [State.notifyOut, State.send_clk, State.bump64_clk, State.bump64_clk]
@[simp] theorem State.notifyOut_fuses (s : State) (c : Nat) (v : W32) : (s.notifyOut c v).fuses = s.fuses := by
  rw [State.notifyOut, State.send_fuses, State.bump64_fuses, State.bump64_fuses]
@[simp] theorem State.notifyOut_err (s : State) (c : Nat) (v : W32) : (s.notifyOut c v).err = s.err := by
  rw [State.notifyOut, State.send_err, State.bump64_err, State.bump64_err]
@[simp] theorem State.notifyOut_own (s : State) (c : Nat) (v : W32) : (s.notifyOut c v).own = s.own := by
  rw [State.notifyOut, State.send_own, State.bump64_own, State.bump64_own]
@[simp] theorem State.notifyOut_pwr (s : State) (c : Nat) (v : W32) : (s.notifyOut c v).pwr = s.pwr := by
  rw [State.notifyOut, State.send_pwr, State.bump64_pwr, State.bump64_pwr]
@[simp] theorem State.notifyOut_sec (s : State) (c : Nat) (v : W32) : (s.notifyOut c v).sec = s.sec := by
  rw [State.notifyOut, State.send_sec, State.bump64_sec, State.bump64_sec]
@[simp] theorem State.notifyOut_age (s : State) (c : Nat) (v : W32) : (s.notifyOut c v).age = s.age := by
  rw [State.notifyOut, State.send_age, State.bump64_age, State.bump64_age]
@[simp] theorem State.notifyOut_tiles (s : State) (c : Nat) (v : W32) : (s.notifyOut c v).tiles = s.tiles := by
  rw [State.notifyOut, State.send_tiles, State.bump64_tiles, State.bump64_tiles]
@[simp] theorem State.notifyOut_ts (s : State) (c : Nat) (v : W32) : (s.notifyOut c v).ts = s.ts := by
  rw [State.notifyOut, State.send_ts, State.bump64_ts, State.bump64_ts]
@[simp] theorem State.notifyOut_shd (s : State) (c : Nat) (v : W32) : (s.notifyOut c v).shd = s.shd := by
  rw [State.notifyOut, State.send_shd, State.bump64_shd, State.bump64_shd]
@[simp] theorem State.notifyOut_vec (s : State) (c : Nat) (v : W32) : (s.notifyOut c v).vec = s.vec := by
  rw [State.notifyOut, State.send_vec, State.bump64_vec, State.bump64_vec]
@[simp] theorem State.notifyOut_ctxs (s : State) (c : Nat) (v : W32) : (s.notifyOut c v).ctxs = s.ctxs := by
  rw [State.notifyOut, State.send_ctxs, State.bump64_ctxs, State.bump64_ctxs]
@[simp] theorem State.notifyOut_keySeed (s : State) (c : Nat) (v : W32) : (s.notifyOut c v).keySeed = s.keySeed := by
  rw [State.notifyOut, State.send_keySeed, State.bump64_keySeed, State.bump64_keySeed]
@[simp] theorem State.notifyOut_keyNext (s : State) (c : Nat) (v : W32) : (s.notifyOut c v).keyNext = s.keyNext := by
  rw [State.notifyOut, State.send_keyNext, State.bump64_keyNext, State.bump64_keyNext]
@[simp] theorem State.notifyOut_scanDue (s : State) (c : Nat) (v : W32) : (s.notifyOut c v).scanDue = s.scanDue := by
  rw [State.notifyOut, State.send_scanDue, State.bump64_scanDue, State.bump64_scanDue]
@[simp] theorem State.notifyOut_opt (s : State) (c : Nat) (v : W32) : (s.notifyOut c v).opt = s.opt := by
  rw [State.notifyOut, State.send_opt, State.bump64_opt, State.bump64_opt]
@[simp] theorem State.notifyOut_prn (s : State) (c : Nat) (v : W32) : (s.notifyOut c v).prn = s.prn := by
  rw [State.notifyOut, State.send_prn, State.bump64_prn, State.bump64_prn]
@[simp] theorem State.notifyOut_walks (s : State) (c : Nat) (v : W32) : (s.notifyOut c v).walks = s.walks := by
  rw [State.notifyOut, State.send_walks, State.bump64_walks, State.bump64_walks]
@[simp] theorem State.notifyOut_xch (s : State) (c : Nat) (v : W32) : (s.notifyOut c v).xch = s.xch := by
  rw [State.notifyOut, State.send_xch, State.bump64_xch, State.bump64_xch]
@[simp] theorem State.notifyOut_links (s : State) (c : Nat) (v : W32) : (s.notifyOut c v).links = s.links := by
  rw [State.notifyOut, State.send_links, State.bump64_links, State.bump64_links]
@[simp] theorem State.notifyOut_red (s : State) (c : Nat) (v : W32) : (s.notifyOut c v).red = s.red := by
  rw [State.notifyOut, State.send_red, State.bump64_red, State.bump64_red]
@[simp] theorem State.notifyOut_doubt (s : State) (c : Nat) (v : W32) : (s.notifyOut c v).doubt = s.doubt := by
  rw [State.notifyOut, State.send_doubt, State.bump64_doubt, State.bump64_doubt]
@[simp] theorem State.notifyOut_hbm (s : State) (c : Nat) (v : W32) : (s.notifyOut c v).hbm = s.hbm := by
  rw [State.notifyOut, State.send_hbm, State.bump64_hbm, State.bump64_hbm]
@[simp] theorem State.notifyOut_opl (s : State) (c : Nat) (v : W32) : (s.notifyOut c v).opl = s.opl := by
  rw [State.notifyOut, State.send_opl, State.bump64_opl, State.bump64_opl]
@[simp] theorem State.notifyOut_notes (s : State) (c : Nat) (v : W32) : (s.notifyOut c v).notes = s.notes := by
  rw [State.notifyOut, State.send_notes, State.bump64_notes, State.bump64_notes]
@[simp] theorem State.notifyOut_firn (s : State) (c : Nat) (v : W32) : (s.notifyOut c v).firn = s.firn := by
  rw [State.notifyOut, State.send_firn, State.bump64_firn, State.bump64_firn]

/-! ### notifyDue -/

@[simp] theorem State.notifyDue_pending (s : State) (c i : Nat) : (s.notifyDue c i).pending = s.pending := by
  unfold State.notifyDue; split
  · exact State.notifyOut_pending _ _ _
  · rfl
@[simp] theorem State.notifyDue_fresh (s : State) (c i : Nat) : (s.notifyDue c i).fresh = s.fresh := by
  unfold State.notifyDue; split
  · exact State.notifyOut_fresh _ _ _
  · rfl
@[simp] theorem State.notifyDue_shadows (s : State) (c i : Nat) : (s.notifyDue c i).shadows = s.shadows := by
  unfold State.notifyDue; split
  · exact State.notifyOut_shadows _ _ _
  · rfl
@[simp] theorem State.notifyDue_life (s : State) (c i : Nat) : (s.notifyDue c i).life = s.life := by
  unfold State.notifyDue; split
  · exact State.notifyOut_life _ _ _
  · rfl
@[simp] theorem State.notifyDue_pins (s : State) (c i : Nat) : (s.notifyDue c i).pins = s.pins := by
  unfold State.notifyDue; split
  · exact State.notifyOut_pins _ _ _
  · rfl
@[simp] theorem State.notifyDue_clk (s : State) (c i : Nat) : (s.notifyDue c i).clk = s.clk := by
  unfold State.notifyDue; split
  · exact State.notifyOut_clk _ _ _
  · rfl
@[simp] theorem State.notifyDue_fuses (s : State) (c i : Nat) : (s.notifyDue c i).fuses = s.fuses := by
  unfold State.notifyDue; split
  · exact State.notifyOut_fuses _ _ _
  · rfl
@[simp] theorem State.notifyDue_err (s : State) (c i : Nat) : (s.notifyDue c i).err = s.err := by
  unfold State.notifyDue; split
  · exact State.notifyOut_err _ _ _
  · rfl
@[simp] theorem State.notifyDue_own (s : State) (c i : Nat) : (s.notifyDue c i).own = s.own := by
  unfold State.notifyDue; split
  · exact State.notifyOut_own _ _ _
  · rfl
@[simp] theorem State.notifyDue_pwr (s : State) (c i : Nat) : (s.notifyDue c i).pwr = s.pwr := by
  unfold State.notifyDue; split
  · exact State.notifyOut_pwr _ _ _
  · rfl
@[simp] theorem State.notifyDue_sec (s : State) (c i : Nat) : (s.notifyDue c i).sec = s.sec := by
  unfold State.notifyDue; split
  · exact State.notifyOut_sec _ _ _
  · rfl
@[simp] theorem State.notifyDue_age (s : State) (c i : Nat) : (s.notifyDue c i).age = s.age := by
  unfold State.notifyDue; split
  · exact State.notifyOut_age _ _ _
  · rfl
@[simp] theorem State.notifyDue_tiles (s : State) (c i : Nat) : (s.notifyDue c i).tiles = s.tiles := by
  unfold State.notifyDue; split
  · exact State.notifyOut_tiles _ _ _
  · rfl
@[simp] theorem State.notifyDue_ts (s : State) (c i : Nat) : (s.notifyDue c i).ts = s.ts := by
  unfold State.notifyDue; split
  · exact State.notifyOut_ts _ _ _
  · rfl
@[simp] theorem State.notifyDue_shd (s : State) (c i : Nat) : (s.notifyDue c i).shd = s.shd := by
  unfold State.notifyDue; split
  · exact State.notifyOut_shd _ _ _
  · rfl
@[simp] theorem State.notifyDue_vec (s : State) (c i : Nat) : (s.notifyDue c i).vec = s.vec := by
  unfold State.notifyDue; split
  · exact State.notifyOut_vec _ _ _
  · rfl
@[simp] theorem State.notifyDue_ctxs (s : State) (c i : Nat) : (s.notifyDue c i).ctxs = s.ctxs := by
  unfold State.notifyDue; split
  · exact State.notifyOut_ctxs _ _ _
  · rfl
@[simp] theorem State.notifyDue_keySeed (s : State) (c i : Nat) : (s.notifyDue c i).keySeed = s.keySeed := by
  unfold State.notifyDue; split
  · exact State.notifyOut_keySeed _ _ _
  · rfl
@[simp] theorem State.notifyDue_keyNext (s : State) (c i : Nat) : (s.notifyDue c i).keyNext = s.keyNext := by
  unfold State.notifyDue; split
  · exact State.notifyOut_keyNext _ _ _
  · rfl
@[simp] theorem State.notifyDue_scanDue (s : State) (c i : Nat) : (s.notifyDue c i).scanDue = s.scanDue := by
  unfold State.notifyDue; split
  · exact State.notifyOut_scanDue _ _ _
  · rfl
@[simp] theorem State.notifyDue_opt (s : State) (c i : Nat) : (s.notifyDue c i).opt = s.opt := by
  unfold State.notifyDue; split
  · exact State.notifyOut_opt _ _ _
  · rfl
@[simp] theorem State.notifyDue_prn (s : State) (c i : Nat) : (s.notifyDue c i).prn = s.prn := by
  unfold State.notifyDue; split
  · exact State.notifyOut_prn _ _ _
  · rfl
@[simp] theorem State.notifyDue_walks (s : State) (c i : Nat) : (s.notifyDue c i).walks = s.walks := by
  unfold State.notifyDue; split
  · exact State.notifyOut_walks _ _ _
  · rfl
@[simp] theorem State.notifyDue_xch (s : State) (c i : Nat) : (s.notifyDue c i).xch = s.xch := by
  unfold State.notifyDue; split
  · exact State.notifyOut_xch _ _ _
  · rfl
@[simp] theorem State.notifyDue_links (s : State) (c i : Nat) : (s.notifyDue c i).links = s.links := by
  unfold State.notifyDue; split
  · exact State.notifyOut_links _ _ _
  · rfl
@[simp] theorem State.notifyDue_red (s : State) (c i : Nat) : (s.notifyDue c i).red = s.red := by
  unfold State.notifyDue; split
  · exact State.notifyOut_red _ _ _
  · rfl
@[simp] theorem State.notifyDue_doubt (s : State) (c i : Nat) : (s.notifyDue c i).doubt = s.doubt := by
  unfold State.notifyDue; split
  · exact State.notifyOut_doubt _ _ _
  · rfl
@[simp] theorem State.notifyDue_hbm (s : State) (c i : Nat) : (s.notifyDue c i).hbm = s.hbm := by
  unfold State.notifyDue; split
  · exact State.notifyOut_hbm _ _ _
  · rfl
@[simp] theorem State.notifyDue_opl (s : State) (c i : Nat) : (s.notifyDue c i).opl = s.opl := by
  unfold State.notifyDue; split
  · exact State.notifyOut_opl _ _ _
  · rfl
@[simp] theorem State.notifyDue_firn (s : State) (c i : Nat) : (s.notifyDue c i).firn = s.firn := by
  unfold State.notifyDue; split
  · exact State.notifyOut_firn _ _ _
  · rfl

/-! ### answer -/

@[simp] theorem State.answer_pending (s : State) (m : Nat) (a : OutMsg) : (s.answer m a).pending = s.pending := by
  unfold State.answer State.mgmtOut; split <;> rfl
@[simp] theorem State.answer_regs (s : State) (m : Nat) (a : OutMsg) : (s.answer m a).regs = s.regs := by
  unfold State.answer State.mgmtOut; split <;> rfl
@[simp] theorem State.answer_shadows (s : State) (m : Nat) (a : OutMsg) : (s.answer m a).shadows = s.shadows := by
  unfold State.answer State.mgmtOut; split <;> rfl
@[simp] theorem State.answer_life (s : State) (m : Nat) (a : OutMsg) : (s.answer m a).life = s.life := by
  unfold State.answer State.mgmtOut; split <;> rfl
@[simp] theorem State.answer_pins (s : State) (m : Nat) (a : OutMsg) : (s.answer m a).pins = s.pins := by
  unfold State.answer State.mgmtOut; split <;> rfl
@[simp] theorem State.answer_clk (s : State) (m : Nat) (a : OutMsg) : (s.answer m a).clk = s.clk := by
  unfold State.answer State.mgmtOut; split <;> rfl
@[simp] theorem State.answer_fuses (s : State) (m : Nat) (a : OutMsg) : (s.answer m a).fuses = s.fuses := by
  unfold State.answer State.mgmtOut; split <;> rfl
@[simp] theorem State.answer_err (s : State) (m : Nat) (a : OutMsg) : (s.answer m a).err = s.err := by
  unfold State.answer State.mgmtOut; split <;> rfl
@[simp] theorem State.answer_own (s : State) (m : Nat) (a : OutMsg) : (s.answer m a).own = s.own := by
  unfold State.answer State.mgmtOut; split <;> rfl
@[simp] theorem State.answer_pwr (s : State) (m : Nat) (a : OutMsg) : (s.answer m a).pwr = s.pwr := by
  unfold State.answer State.mgmtOut; split <;> rfl
@[simp] theorem State.answer_sec (s : State) (m : Nat) (a : OutMsg) : (s.answer m a).sec = s.sec := by
  unfold State.answer State.mgmtOut; split <;> rfl
@[simp] theorem State.answer_age (s : State) (m : Nat) (a : OutMsg) : (s.answer m a).age = s.age := by
  unfold State.answer State.mgmtOut; split <;> rfl
@[simp] theorem State.answer_tiles (s : State) (m : Nat) (a : OutMsg) : (s.answer m a).tiles = s.tiles := by
  unfold State.answer State.mgmtOut; split <;> rfl
@[simp] theorem State.answer_ts (s : State) (m : Nat) (a : OutMsg) : (s.answer m a).ts = s.ts := by
  unfold State.answer State.mgmtOut; split <;> rfl
@[simp] theorem State.answer_shd (s : State) (m : Nat) (a : OutMsg) : (s.answer m a).shd = s.shd := by
  unfold State.answer State.mgmtOut; split <;> rfl
@[simp] theorem State.answer_vec (s : State) (m : Nat) (a : OutMsg) : (s.answer m a).vec = s.vec := by
  unfold State.answer State.mgmtOut; split <;> rfl
@[simp] theorem State.answer_ctxs (s : State) (m : Nat) (a : OutMsg) : (s.answer m a).ctxs = s.ctxs := by
  unfold State.answer State.mgmtOut; split <;> rfl
@[simp] theorem State.answer_keySeed (s : State) (m : Nat) (a : OutMsg) : (s.answer m a).keySeed = s.keySeed := by
  unfold State.answer State.mgmtOut; split <;> rfl
@[simp] theorem State.answer_keyNext (s : State) (m : Nat) (a : OutMsg) : (s.answer m a).keyNext = s.keyNext := by
  unfold State.answer State.mgmtOut; split <;> rfl
@[simp] theorem State.answer_scanDue (s : State) (m : Nat) (a : OutMsg) : (s.answer m a).scanDue = s.scanDue := by
  unfold State.answer State.mgmtOut; split <;> rfl
@[simp] theorem State.answer_opt (s : State) (m : Nat) (a : OutMsg) : (s.answer m a).opt = s.opt := by
  unfold State.answer State.mgmtOut; split <;> rfl
@[simp] theorem State.answer_prn (s : State) (m : Nat) (a : OutMsg) : (s.answer m a).prn = s.prn := by
  unfold State.answer State.mgmtOut; split <;> rfl
@[simp] theorem State.answer_walks (s : State) (m : Nat) (a : OutMsg) : (s.answer m a).walks = s.walks := by
  unfold State.answer State.mgmtOut; split <;> rfl
@[simp] theorem State.answer_xch (s : State) (m : Nat) (a : OutMsg) : (s.answer m a).xch = s.xch := by
  unfold State.answer State.mgmtOut; split <;> rfl
@[simp] theorem State.answer_red (s : State) (m : Nat) (a : OutMsg) : (s.answer m a).red = s.red := by
  unfold State.answer State.mgmtOut; split <;> rfl
@[simp] theorem State.answer_doubt (s : State) (m : Nat) (a : OutMsg) : (s.answer m a).doubt = s.doubt := by
  unfold State.answer State.mgmtOut; split <;> rfl
@[simp] theorem State.answer_hbm (s : State) (m : Nat) (a : OutMsg) : (s.answer m a).hbm = s.hbm := by
  unfold State.answer State.mgmtOut; split <;> rfl
@[simp] theorem State.answer_opl (s : State) (m : Nat) (a : OutMsg) : (s.answer m a).opl = s.opl := by
  unfold State.answer State.mgmtOut; split <;> rfl
@[simp] theorem State.answer_notes (s : State) (m : Nat) (a : OutMsg) : (s.answer m a).notes = s.notes := by
  unfold State.answer State.mgmtOut; split <;> rfl
@[simp] theorem State.answer_firn (s : State) (m : Nat) (a : OutMsg) : (s.answer m a).firn = s.firn := by
  unfold State.answer State.mgmtOut; split <;> rfl

/-! ### irq -/

@[simp] theorem State.irq_pending (s : State) (c i b : Nat) : (s.irq c i b).pending = s.pending := by
  unfold State.irq State.notifyFrom; split
  · rw [State.notifyDue_pending, State.wr_pending]
  · rw [State.wr_pending]
@[simp] theorem State.irq_fresh (s : State) (c i b : Nat) : (s.irq c i b).fresh = s.fresh := by
  unfold State.irq State.notifyFrom; split
  · rw [State.notifyDue_fresh, State.wr_fresh]
  · rw [State.wr_fresh]
@[simp] theorem State.irq_shadows (s : State) (c i b : Nat) : (s.irq c i b).shadows = s.shadows := by
  unfold State.irq State.notifyFrom; split
  · rw [State.notifyDue_shadows, State.wr_shadows]
  · rw [State.wr_shadows]
@[simp] theorem State.irq_life (s : State) (c i b : Nat) : (s.irq c i b).life = s.life := by
  unfold State.irq State.notifyFrom; split
  · rw [State.notifyDue_life, State.wr_life]
  · rw [State.wr_life]
@[simp] theorem State.irq_pins (s : State) (c i b : Nat) : (s.irq c i b).pins = s.pins := by
  unfold State.irq State.notifyFrom; split
  · rw [State.notifyDue_pins, State.wr_pins]
  · rw [State.wr_pins]
@[simp] theorem State.irq_clk (s : State) (c i b : Nat) : (s.irq c i b).clk = s.clk := by
  unfold State.irq State.notifyFrom; split
  · rw [State.notifyDue_clk, State.wr_clk]
  · rw [State.wr_clk]
@[simp] theorem State.irq_fuses (s : State) (c i b : Nat) : (s.irq c i b).fuses = s.fuses := by
  unfold State.irq State.notifyFrom; split
  · rw [State.notifyDue_fuses, State.wr_fuses]
  · rw [State.wr_fuses]
@[simp] theorem State.irq_err (s : State) (c i b : Nat) : (s.irq c i b).err = s.err := by
  unfold State.irq State.notifyFrom; split
  · rw [State.notifyDue_err, State.wr_err]
  · rw [State.wr_err]
@[simp] theorem State.irq_own (s : State) (c i b : Nat) : (s.irq c i b).own = s.own := by
  unfold State.irq State.notifyFrom; split
  · rw [State.notifyDue_own, State.wr_own]
  · rw [State.wr_own]
@[simp] theorem State.irq_pwr (s : State) (c i b : Nat) : (s.irq c i b).pwr = s.pwr := by
  unfold State.irq State.notifyFrom; split
  · rw [State.notifyDue_pwr, State.wr_pwr]
  · rw [State.wr_pwr]
@[simp] theorem State.irq_sec (s : State) (c i b : Nat) : (s.irq c i b).sec = s.sec := by
  unfold State.irq State.notifyFrom; split
  · rw [State.notifyDue_sec, State.wr_sec]
  · rw [State.wr_sec]
@[simp] theorem State.irq_age (s : State) (c i b : Nat) : (s.irq c i b).age = s.age := by
  unfold State.irq State.notifyFrom; split
  · rw [State.notifyDue_age, State.wr_age]
  · rw [State.wr_age]
@[simp] theorem State.irq_tiles (s : State) (c i b : Nat) : (s.irq c i b).tiles = s.tiles := by
  unfold State.irq State.notifyFrom; split
  · rw [State.notifyDue_tiles, State.wr_tiles]
  · rw [State.wr_tiles]
@[simp] theorem State.irq_ts (s : State) (c i b : Nat) : (s.irq c i b).ts = s.ts := by
  unfold State.irq State.notifyFrom; split
  · rw [State.notifyDue_ts, State.wr_ts]
  · rw [State.wr_ts]
@[simp] theorem State.irq_shd (s : State) (c i b : Nat) : (s.irq c i b).shd = s.shd := by
  unfold State.irq State.notifyFrom; split
  · rw [State.notifyDue_shd, State.wr_shd]
  · rw [State.wr_shd]
@[simp] theorem State.irq_vec (s : State) (c i b : Nat) : (s.irq c i b).vec = s.vec := by
  unfold State.irq State.notifyFrom; split
  · rw [State.notifyDue_vec, State.wr_vec]
  · rw [State.wr_vec]
@[simp] theorem State.irq_ctxs (s : State) (c i b : Nat) : (s.irq c i b).ctxs = s.ctxs := by
  unfold State.irq State.notifyFrom; split
  · rw [State.notifyDue_ctxs, State.wr_ctxs]
  · rw [State.wr_ctxs]
@[simp] theorem State.irq_keySeed (s : State) (c i b : Nat) : (s.irq c i b).keySeed = s.keySeed := by
  unfold State.irq State.notifyFrom; split
  · rw [State.notifyDue_keySeed, State.wr_keySeed]
  · rw [State.wr_keySeed]
@[simp] theorem State.irq_keyNext (s : State) (c i b : Nat) : (s.irq c i b).keyNext = s.keyNext := by
  unfold State.irq State.notifyFrom; split
  · rw [State.notifyDue_keyNext, State.wr_keyNext]
  · rw [State.wr_keyNext]
@[simp] theorem State.irq_scanDue (s : State) (c i b : Nat) : (s.irq c i b).scanDue = s.scanDue := by
  unfold State.irq State.notifyFrom; split
  · rw [State.notifyDue_scanDue, State.wr_scanDue]
  · rw [State.wr_scanDue]
@[simp] theorem State.irq_opt (s : State) (c i b : Nat) : (s.irq c i b).opt = s.opt := by
  unfold State.irq State.notifyFrom; split
  · rw [State.notifyDue_opt, State.wr_opt]
  · rw [State.wr_opt]
@[simp] theorem State.irq_prn (s : State) (c i b : Nat) : (s.irq c i b).prn = s.prn := by
  unfold State.irq State.notifyFrom; split
  · rw [State.notifyDue_prn, State.wr_prn]
  · rw [State.wr_prn]
@[simp] theorem State.irq_walks (s : State) (c i b : Nat) : (s.irq c i b).walks = s.walks := by
  unfold State.irq State.notifyFrom; split
  · rw [State.notifyDue_walks, State.wr_walks]
  · rw [State.wr_walks]
@[simp] theorem State.irq_xch (s : State) (c i b : Nat) : (s.irq c i b).xch = s.xch := by
  unfold State.irq State.notifyFrom; split
  · rw [State.notifyDue_xch, State.wr_xch]
  · rw [State.wr_xch]
@[simp] theorem State.irq_links (s : State) (c i b : Nat) : (s.irq c i b).links = s.links := by
  unfold State.irq State.notifyFrom; split
  · rw [State.notifyDue_links, State.wr_links]
  · rw [State.wr_links]
@[simp] theorem State.irq_red (s : State) (c i b : Nat) : (s.irq c i b).red = s.red := by
  unfold State.irq State.notifyFrom; split
  · rw [State.notifyDue_red, State.wr_red]
  · rw [State.wr_red]
@[simp] theorem State.irq_doubt (s : State) (c i b : Nat) : (s.irq c i b).doubt = s.doubt := by
  unfold State.irq State.notifyFrom; split
  · rw [State.notifyDue_doubt, State.wr_doubt]
  · rw [State.wr_doubt]
@[simp] theorem State.irq_hbm (s : State) (c i b : Nat) : (s.irq c i b).hbm = s.hbm := by
  unfold State.irq State.notifyFrom; split
  · rw [State.notifyDue_hbm, State.wr_hbm]
  · rw [State.wr_hbm]
@[simp] theorem State.irq_opl (s : State) (c i b : Nat) : (s.irq c i b).opl = s.opl := by
  unfold State.irq State.notifyFrom; split
  · rw [State.notifyDue_opl, State.wr_opl]
  · rw [State.wr_opl]
@[simp] theorem State.irq_firn (s : State) (c i b : Nat) : (s.irq c i b).firn = s.firn := by
  unfold State.irq State.notifyFrom; split
  · rw [State.notifyDue_firn, State.wr_firn]
  · rw [State.wr_firn]

/-! ### Registers after a write -/

@[simp] theorem State.rd_wr_same (s : State) (c i o : Nat) (v : W32) : (s.wr c i o v).rd c i o = v := by
  simp [State.rd, State.wr]

/-- A write leaves every other register alone. -/
theorem State.rd_wr_ne (s : State) {c i o c' i' o' : Nat} (v : W32) (h : rk c' i' o' ≠ rk c i o) :
    (s.wr c i o v).rd c' i' o' = s.rd c' i' o' := by
  simp only [State.rd, State.wr]; exact mget_mset_ne _ _ _ _ h

/-- The stored value at a key after a write to another key. -/
theorem State.wr_regs_ne (s : State) {c i o k : Nat} (v d : W32) (h : k ≠ rk c i o) :
    mget d (s.wr c i o v).regs k = mget d s.regs k := by
  simp only [State.wr]; exact mget_mset_ne _ _ _ _ h

theorem State.rd_congr {s u : State} (h : u.regs = s.regs) (c i o : Nat) : u.rd c i o = s.rd c i o := by
  simp only [State.rd, h]

@[simp] theorem State.rd_send (s : State) (m : OutMsg) (c i o : Nat) : (s.send m).rd c i o = s.rd c i o := rfl
@[simp] theorem State.send_outbox (s : State) (m : OutMsg) : (s.send m).outbox = s.outbox ++ [m] := rfl

theorem State.wrb_eq (s : State) (c i o k : Nat) (b : Bool) :
    s.wrb c i o k b = s.wr c i o (setFld (s.rd c i o) k 1 (b2n b)) := rfl
theorem State.wrf_eq (s : State) (c i o lo n x : Nat) : s.wrf c i o lo n x = s.wr c i o (setFld (s.rd c i o) lo n x) := rfl
theorem State.bump_eq (s : State) (c i o n : Nat) :
    s.bump c i o n = s.wr c i o (u32 (min 4294967295 ((s.rd c i o).toNat + n))) := rfl

/-- A Notify that is due changes the counts of messages sent and of grants alone among the registers (R426, R432). -/
theorem State.notifyDue_regs (s : State) (c i : Nat) {k : Nat} (d : W32) (h : k ≠ rk cOPL 0 OPL.TX_MSG)
    (h' : k ≠ rk cOPL 0 (OPL.TX_MSG + 4)) (g : k ≠ rk cARB 145 ARB.GRANTS) (g' : k ≠ rk cARB 145 (ARB.GRANTS + 4)) :
    mget d (s.notifyDue c i).regs k = mget d s.regs k := by
  unfold State.notifyDue; split
  · rw [State.notifyOut, State.send_regs, State.bump64, State.bump64, State.wr64, State.wr64, State.wr_regs_ne _ _ _ g',
      State.wr_regs_ne _ _ _ g, State.wr_regs_ne _ _ _ h', State.wr_regs_ne _ _ _ h]
  · rfl

/-- Setting an interrupt cause changes IRQ_STAT of its page alone among the registers, but for the count of messages sent
(R426). -/
theorem State.irq_regs (s : State) (c i b : Nat) {k : Nat} (d : W32) (h : k ≠ rk c i hIRQ_STAT) (h1 : k ≠ rk cOPL 0 OPL.TX_MSG)
    (h2 : k ≠ rk cOPL 0 (OPL.TX_MSG + 4)) (g1 : k ≠ rk cARB 145 ARB.GRANTS) (g2 : k ≠ rk cARB 145 (ARB.GRANTS + 4)) :
    mget d (s.irq c i b).regs k = mget d s.regs k := by
  unfold State.irq State.notifyFrom; split
  · rw [State.notifyDue_regs _ _ _ _ h1 h2 g1 g2, State.wr_regs_ne _ _ _ h]
  · rw [State.wr_regs_ne _ _ _ h]

@[simp] theorem State.rd_irq_same (s : State) (c i b : Nat) :
    (s.irq c i b).rd c i hIRQ_STAT = s.rd c i hIRQ_STAT ||| u32 b := by
  have e : (s.wr c i hIRQ_STAT (s.rd c i hIRQ_STAT ||| u32 b)).rd c i hIRQ_STAT = s.rd c i hIRQ_STAT ||| u32 b := by simp
  rw [← e]
  unfold State.irq State.notifyFrom; split
  · simp only [State.rd]
    exact State.notifyDue_regs _ _ _ _ (by simp only [rk, OPL.TX_MSG, hIRQ_STAT]; omega) (by simp only [rk, OPL.TX_MSG, hIRQ_STAT]; omega)
      (by simp only [rk, ARB.GRANTS, hIRQ_STAT]; omega) (by simp only [rk, ARB.GRANTS, hIRQ_STAT]; omega)
  · rfl

theorem State.rd_irq_ne (s : State) {c i b c' i' o' : Nat} (h : rk c' i' o' ≠ rk c i hIRQ_STAT)
    (h1 : rk c' i' o' ≠ rk cOPL 0 OPL.TX_MSG) (h2 : rk c' i' o' ≠ rk cOPL 0 (OPL.TX_MSG + 4))
    (g1 : rk c' i' o' ≠ rk cARB 145 ARB.GRANTS) (g2 : rk c' i' o' ≠ rk cARB 145 (ARB.GRANTS + 4)) :
    (s.irq c i b).rd c' i' o' = s.rd c' i' o' := by
  simp only [State.rd]; exact State.irq_regs s c i b _ h h1 h2 g1 g2

/-- Every register write keeps the register file's canonical form. -/
theorem State.wr_wf (s : State) (c i o : Nat) (v : W32) (hi : i < 256) (ho : o < 4096)
    (h : mwf keyReset s.regs = true) : mwf keyReset (s.wr c i o v).regs = true := by
  have e : keyReset (rk c i o) = regReset c o := by
    unfold keyReset rk
    rw [show (c * 1048576 + i * 4096 + o) / 1048576 = c by omega, show (c * 1048576 + i * 4096 + o) % 4096 = o by omega]
  have := mwf_mset keyReset s.regs (rk c i o) v h
  rw [e] at this
  exact this

end Sys2Proof.Machine
end

