-- ==== Sys2Proof/Laws/Frame.lean ====
section
/-! SUPPORT. The frame predicate of the statements is kept by the elementary updates, so that a meaning built from them has
the frame its registers give; what the shared ways to a register (R14, R439) and the interrupt causes (R426) do. -/
namespace Sys2Proof.Safety
open Sys2Proof.Machine

theorem OnlyRegs.refl (ks : List Nat) (s : State) : OnlyRegs ks s s := ⟨fun _ _ _ => rfl, ⟨[], by simp⟩, rfl⟩

theorem OnlyRegs.trans {ks : List Nat} {s u v : State} (h : OnlyRegs ks s u) (g : OnlyRegs ks u v) : OnlyRegs ks s v := by
  obtain ⟨h1, ⟨l, h2⟩, h3⟩ := h
  obtain ⟨g1, ⟨l', g2⟩, g3⟩ := g
  refine ⟨fun k d hk => (g1 k d hk).trans (h1 k d hk), ⟨l ++ l', by rw [g2, h2, List.append_assoc]⟩, ?_⟩
  rw [← h3, ← g3]

theorem OnlyRegs.mono {ks ls : List Nat} {s u : State} (h : OnlyRegs ks s u) (hk : ∀ k ∈ ks, k ∈ ls) : OnlyRegs ls s u :=
  ⟨fun k d hn => h.regs k d (fun hm => hn (hk k hm)), h.out, h.rest⟩

theorem OnlyRegs.wr {ks : List Nat} {s u : State} (c i o : Nat) (v : W32) (hk : rk c i o ∈ ks) (h : OnlyRegs ks s u) :
    OnlyRegs ks s (u.wr c i o v) :=
  h.trans ⟨fun _ d hn => State.wr_regs_ne u v d (fun e => hn (e ▸ hk)), ⟨[], by simp⟩, rfl⟩

theorem OnlyRegs.wrf {ks : List Nat} {s u : State} (c i o lo n x : Nat) (hk : rk c i o ∈ ks) (h : OnlyRegs ks s u) :
    OnlyRegs ks s (u.wrf c i o lo n x) := h.wr c i o _ hk

theorem OnlyRegs.wrb {ks : List Nat} {s u : State} (c i o k : Nat) (b : Bool) (hk : rk c i o ∈ ks) (h : OnlyRegs ks s u) :
    OnlyRegs ks s (u.wrb c i o k b) := h.wr c i o _ hk

theorem OnlyRegs.bump {ks : List Nat} {s u : State} (c i o n : Nat) (hk : rk c i o ∈ ks) (h : OnlyRegs ks s u) :
    OnlyRegs ks s (u.bump c i o n) := h.wr c i o _ hk

theorem OnlyRegs.wr64 {ks : List Nat} {s u : State} (c i o n : Nat) (h1 : rk c i o ∈ ks) (h2 : rk c i (o + 4) ∈ ks)
    (h : OnlyRegs ks s u) : OnlyRegs ks s (u.wr64 c i o n) := (h.wr c i o _ h1).wr c i (o + 4) _ h2

theorem OnlyRegs.send {ks : List Nat} {s u : State} (m : OutMsg) (h : OnlyRegs ks s u) : OnlyRegs ks s (u.send m) :=
  h.trans ⟨fun _ _ _ => rfl, ⟨[m], rfl⟩, rfl⟩

theorem OnlyRegsN.of {ks : List Nat} {s u : State} (h : OnlyRegs ks s u) : OnlyRegsN ks s u := by
  have e : u.notes = s.notes := by have := congrArg State.notes h.rest; exact this
  unfold OnlyRegsN
  rw [e]
  exact h.mono fun k hk => List.mem_append_left _ hk

theorem OnlyRegsN.trans {ks : List Nat} {s u v : State} (h : OnlyRegsN ks s u) (g : OnlyRegsN ks u v) : OnlyRegsN ks s v := by
  obtain ⟨h1, ⟨l, h2⟩, h3⟩ := h
  obtain ⟨g1, ⟨l', g2⟩, g3⟩ := g
  refine ⟨fun k d hk => (g1 k d hk).trans (h1 k d hk), ⟨l ++ l', by rw [g2, h2, List.append_assoc]⟩, ?_⟩
  have e3 : ({ v with regs := s.regs, outbox := s.outbox, notes := s.notes } : State) = s := by
    have p := congrArg (fun x : State => { x with regs := s.regs, outbox := s.outbox, notes := s.notes }) g3
    have q := congrArg (fun x : State => { x with notes := s.notes }) h3
    exact p.trans q
  have p := congrArg (fun x : State => { x with notes := v.notes }) e3
  exact p

theorem OnlyRegsN.mono {ks ls : List Nat} {s u : State} (h : OnlyRegsN ks s u) (hk : ∀ k ∈ ks, k ∈ ls) : OnlyRegsN ls s u := by
  refine OnlyRegs.mono h fun k hm => ?_
  simp only [List.mem_append] at hm ⊢
  exact hm.imp_left (hk k)

theorem OnlyRegsN.wr {ks : List Nat} {s u : State} (c i o : Nat) (v : W32) (hk : rk c i o ∈ ks) (h : OnlyRegsN ks s u) :
    OnlyRegsN ks s (u.wr c i o v) := h.trans (.of ((OnlyRegs.refl ks u).wr c i o v hk))

theorem OnlyRegsN.send {ks : List Nat} {s u : State} (m : OutMsg) (h : OnlyRegsN ks s u) : OnlyRegsN ks s (u.send m) :=
  h.trans (.of ((OnlyRegs.refl ks u).send m))

/-- A Notify that leaves or waits (R426). -/
theorem onlyRegsN_notifyDue (ks : List Nat) (s : State) (c i : Nat) : OnlyRegsN ks s (s.notifyDue c i) := by
  unfold OnlyRegsN State.notifyDue
  split
  · rw [State.notifyOut_notes, State.notifyOut, State.bump64, State.bump64]
    exact (((OnlyRegs.refl _ s).wr64 cOPL 0 OPL.TX_MSG _ (List.mem_append_right _ (by simp [msgKeys, keys64]))
      (List.mem_append_right _ (by simp [msgKeys, keys64]))).wr64 cARB 145 ARB.GRANTS _ (List.mem_append_right _ (by simp [msgKeys, keys64]))
      (List.mem_append_right _ (by simp [msgKeys, keys64]))).send _
  · exact ⟨fun _ _ _ => rfl, ⟨[], (List.append_nil _).symm⟩, rfl⟩

theorem OnlyRegsN.irq {ks : List Nat} {s u : State} (c i b : Nat) (hk : rk c i hIRQ_STAT ∈ ks) (h : OnlyRegsN ks s u) :
    OnlyRegsN ks s (u.irq c i b) := by
  unfold State.irq State.notifyFrom
  split
  · exact (h.wr _ _ _ _ hk).trans (onlyRegsN_notifyDue _ _ _ _)
  · exact h.wr _ _ _ _ hk

/-! Nothing but registers and messages differs. -/

theorem OnlyRegs.hbm {ks : List Nat} {s u : State} (h : OnlyRegs ks s u) : u.hbm = s.hbm := by
  have e := congrArg State.hbm h.rest; exact e
theorem OnlyRegs.ts {ks : List Nat} {s u : State} (h : OnlyRegs ks s u) : u.ts = s.ts := by
  have e := congrArg State.ts h.rest; exact e
theorem OnlyRegs.opl {ks : List Nat} {s u : State} (h : OnlyRegs ks s u) : u.opl = s.opl := by
  have e := congrArg State.opl h.rest; exact e
theorem OnlyRegs.firn {ks : List Nat} {s u : State} (h : OnlyRegs ks s u) : u.firn = s.firn := by
  have e := congrArg State.firn h.rest; exact e
theorem OnlyRegs.own {ks : List Nat} {s u : State} (h : OnlyRegs ks s u) : u.own = s.own := by
  have e := congrArg State.own h.rest; exact e
theorem OnlyRegs.pwr {ks : List Nat} {s u : State} (h : OnlyRegs ks s u) : u.pwr = s.pwr := by
  have e := congrArg State.pwr h.rest; exact e
theorem OnlyRegs.life {ks : List Nat} {s u : State} (h : OnlyRegs ks s u) : u.life = s.life := by
  have e := congrArg State.life h.rest; exact e
theorem OnlyRegs.clk {ks : List Nat} {s u : State} (h : OnlyRegs ks s u) : u.clk = s.clk := by
  have e := congrArg State.clk h.rest; exact e
theorem OnlyRegs.err {ks : List Nat} {s u : State} (h : OnlyRegs ks s u) : u.err = s.err := by
  have e := congrArg State.err h.rest; exact e
theorem OnlyRegs.ctxs {ks : List Nat} {s u : State} (h : OnlyRegs ks s u) : u.ctxs = s.ctxs := by
  have e := congrArg State.ctxs h.rest; exact e
theorem OnlyRegs.vec {ks : List Nat} {s u : State} (h : OnlyRegs ks s u) : u.vec = s.vec := by
  have e := congrArg State.vec h.rest; exact e
theorem OnlyRegs.tiles {ks : List Nat} {s u : State} (h : OnlyRegs ks s u) : u.tiles = s.tiles := by
  have e := congrArg State.tiles h.rest; exact e
theorem OnlyRegs.pending {ks : List Nat} {s u : State} (h : OnlyRegs ks s u) : u.pending = s.pending := by
  have e := congrArg State.pending h.rest; exact e
theorem OnlyRegs.fuses {ks : List Nat} {s u : State} (h : OnlyRegs ks s u) : u.fuses = s.fuses := by
  have e := congrArg State.fuses h.rest; exact e

/-- A write that arrives from the owner performs its action and is answered with status 0 (R439). -/
theorem ownerWrite_ready {s : State} {m cls inst off : Nat} (h : OwnerReady s m cls inst off) (act : State → State) :
    s.ownerWrite m cls inst off false act = (act s).answer m (.wack m (regAddr cls inst off) 0) := by
  obtain ⟨⟨h1, h2, h3⟩, h4, h5, h6, h7⟩ := h
  have ho : s.isOwner m = true := by simp [State.isOwner, h4, h5, h6]
  simp [State.ownerWrite, h1, h2, h3, h7, ho]

/-- A write that reaches the interface and does not come from the owner is dropped (R14, R439). -/
theorem ownerWrite_drop {s : State} {m cls inst off : Nat} (h : Reaches s m cls inst off) (ho : s.isOwner m = false)
    (act : State → State) : s.ownerWrite m cls inst off false act = s.dropWrite m (regAddr cls inst off) := by
  obtain ⟨h1, h2, h3⟩ := h
  simp [State.ownerWrite, h1, h2, h3, ho]

/-- An access that arrives before the lease or the window has passed finds the owner state as it stands (R442). -/
theorem ownSettle_eq {s : State} (h : s.clk.time ≤ s.own.deadline) : s.ownSettle = s := by
  unfold State.ownSettle; rw [if_neg (by omega)]

/-- An update that leaves the mirror sub-links' words alone sends the answer as the state before it would (R277). -/
theorem OnlyRegsN.answer {ks : List Nat} {s u : State} (m : Nat) (a : OutMsg) (h : OnlyRegsN ks s u)
    (h0 : rk cMIR 0 MIR.SUB0_STAT ∉ ks ++ msgKeys) (h1 : rk cMIR 0 MIR.SUB1_STAT ∉ ks ++ msgKeys) :
    OnlyRegsN ks (answering s m) (u.answer m a) := by
  have e0 : u.rd cMIR 0 MIR.SUB0_STAT = s.rd cMIR 0 MIR.SUB0_STAT := h.regs _ _ h0
  have e1 : u.rd cMIR 0 MIR.SUB1_STAT = s.rd cMIR 0 MIR.SUB1_STAT := h.regs _ _ h1
  have ev : u.life = s.life := by have := congrArg State.life h.rest; exact this
  have eu : u.mirUp = s.mirUp := by unfold State.mirUp State.live; rw [e0, e1, ev]
  have el : u.links = s.links := by have := congrArg State.links h.rest; exact this
  have ef : u.fresh = s.fresh := by have := congrArg State.fresh h.rest; exact this
  unfold State.answer answering
  rw [eu]
  split
  · have eo : u.mgmtOut = { u with links := s.mgmtOut.links, fresh := s.fresh + 1 } := by unfold State.mgmtOut; simp only [e0, el, ef]
    rw [eo]
    refine OnlyRegsN.send _ ⟨h.regs, h.out, ?_⟩
    have r := congrArg (fun x : State => ({ x with links := s.mgmtOut.links, fresh := s.fresh + 1 } : State)) h.rest
    exact r
  · exact h.send a

end Sys2Proof.Safety

namespace Sys2Proof.Machine

theorem State.rd_bump_same (s : State) (c i o n : Nat) :
    (s.bump c i o n).rd c i o = u32 (min 4294967295 ((s.rd c i o).toNat + n)) := by rw [State.bump_eq, State.rd_wr_same]

theorem State.rd_bump_ne (s : State) {c i o n c' i' o' : Nat} (h : rk c' i' o' ≠ rk c i o) :
    (s.bump c i o n).rd c' i' o' = s.rd c' i' o' := State.rd_wr_ne s _ h

/-- A counter that has been bumped stands one higher, or at its largest value. -/
theorem State.counts_bump (s : State) (c i o n : Nat) :
    ((s.bump c i o n).rd c i o).toNat = min 4294967295 ((s.rd c i o).toNat + n) := by
  rw [State.rd_bump_same, BitVec.toNat_ofNat, Nat.mod_eq_of_lt]
  have : min 4294967295 ((s.rd c i o).toNat + n) ≤ 4294967295 := Nat.min_le_left _ _
  omega

/-- A 64-bit register reads what was stored, modulo 2^64. -/
theorem State.rd64_wr64 (s : State) (c i o n : Nat) : (s.wr64 c i o n).rd64 c i o = n % 2 ^ 64 := by
  unfold State.rd64 State.wr64
  have h : rk c i o ≠ rk c i (o + 4) := by simp only [rk]; omega
  rw [State.rd_wr_ne _ _ h, State.rd_wr_same, State.rd_wr_same]
  simp only [BitVec.toNat_ofNat]
  omega

theorem State.rd_wr64_ne (s : State) {c i o n c' i' o' : Nat} (h1 : rk c' i' o' ≠ rk c i o) (h2 : rk c' i' o' ≠ rk c i (o + 4)) :
    (s.wr64 c i o n).rd c' i' o' = s.rd c' i' o' := by
  unfold State.wr64; rw [State.rd_wr_ne _ _ h2, State.rd_wr_ne _ _ h1]

end Sys2Proof.Machine
end

