-- ==== Sys2Proof/Laws/Errors.lean ====
section
/-! SUPPORT. What a dropped write does (R14, R439) and what the detection of an error does (R484, R485). -/
namespace Sys2Proof.Safety
open Sys2Proof.Machine

/-! ### Dropped writes -/

/-- A dropped write changes the drop registers and IRQ_STAT of the OWN page, and is answered. -/
theorem dropWrite_frame (s : State) (m addr : Nat) (hm : m < 3) :
    OnlyRegsN (dropKeys m) (answering s m) (s.dropWrite m addr) := by
  unfold State.dropWrite State.dropNote
  dsimp only
  refine OnlyRegsN.answer m _ (OnlyRegsN.irq _ _ _ (by simp [dropKeys]) (.of ?_)) ?_ ?_
  rotate_left
  · simp only [dropKeys, msgKeys, keys64, cARB, ARB.GRANTS, rk, cMIR, cOWN, cOPL, MIR.SUB0_STAT, OWN.DROP_CNT, OWN.LAST_DROP_ADDR, OWN.LAST_DROP_INFO, hIRQ_STAT,
      OPL.TX_MSG, List.mem_append, List.mem_cons, List.not_mem_nil, or_false]
    omega
  · simp only [dropKeys, msgKeys, keys64, cARB, ARB.GRANTS, rk, cMIR, cOWN, cOPL, MIR.SUB1_STAT, OWN.DROP_CNT, OWN.LAST_DROP_ADDR, OWN.LAST_DROP_INFO, hIRQ_STAT,
      OPL.TX_MSG, List.mem_append, List.mem_cons, List.not_mem_nil, or_false]
    omega
  refine OnlyRegs.wr _ _ _ _ (by simp [dropKeys]) (OnlyRegs.wr64 _ _ _ _ (by simp [dropKeys]) (by simp [dropKeys]) ?_)
  exact OnlyRegs.bump _ _ _ _ (by simp [dropKeys]) (OnlyRegs.refl _ _)

theorem dropWrite_acks (s : State) (m addr : Nat) :
    (s.dropWrite m addr).outbox.getLast? = some (.wack m addr (dropStatus m)) := by
  unfold State.dropWrite State.answer; simp

/-! ### Detected errors -/

/-- What the detection of an error leaves alone: all but registers, error records, messages, those that wait, and the counter of
free values. -/
structure RecFrame (s u : State) : Prop where
  rest : ({ u with regs := s.regs, err := s.err, outbox := s.outbox, fresh := s.fresh, notes := s.notes } : State) = s

theorem RecFrame.refl (s : State) : RecFrame s s := ⟨rfl⟩
theorem RecFrame.trans {s u v : State} (h : RecFrame s u) (g : RecFrame u v) : RecFrame s v := by
  obtain ⟨h⟩ := h; obtain ⟨g⟩ := g
  constructor
  rw [← h, ← g]

theorem RecFrame.wr (s : State) (c i o : Nat) (v : W32) : RecFrame s (s.wr c i o v) := ⟨rfl⟩
theorem RecFrame.err (s : State) (x : ErrSt) : RecFrame s { s with err := x } := ⟨rfl⟩
theorem RecFrame.send (s : State) (m : OutMsg) : RecFrame s (s.send m) := ⟨rfl⟩
theorem RecFrame.bump64 (s : State) (c i o n : Nat) : RecFrame s (s.bump64 c i o n) := by
  rw [State.bump64, State.wr64]; exact (RecFrame.wr _ _ _ _ _).trans (RecFrame.wr _ _ _ _ _)
theorem RecFrame.irq (s : State) (c i b : Nat) : RecFrame s (s.irq c i b) := by
  unfold State.irq State.notifyFrom; split
  · refine (RecFrame.wr s c i hIRQ_STAT (s.rd c i hIRQ_STAT ||| u32 b)).trans ?_
    unfold State.notifyDue; split
    · rw [State.notifyOut]; exact ((RecFrame.bump64 _ _ _ _ _).trans (RecFrame.bump64 _ _ _ _ _)).trans (RecFrame.send _ _)
    · exact ⟨rfl⟩
  · exact RecFrame.wr _ _ _ _ _
theorem RecFrame.field (s : State) (c i k : Nat) : RecFrame s (s.bumpErrField c i k) := by
  unfold State.bumpErrField; rw [State.wrf_eq]; exact RecFrame.wr _ _ _ _ _
theorem RecFrame.log (s : State) (r : ErrRec) : RecFrame s (s.logAppend r) := by
  unfold State.logAppend; dsimp only; split
  · exact (RecFrame.err _ _).trans (RecFrame.wr _ _ _ _ _)
  · rw [State.bump_eq]; exact ((RecFrame.err _ _).trans (RecFrame.wr _ _ _ _ _)).trans (RecFrame.wr _ _ _ _ _)

/-- The queues of the pages are those of another state. -/
theorem errQ_congr {s u : State} (h : u.err.queues = s.err.queues) (p : Nat) : u.errQ p = s.errQ p := by
  unfold State.errQ; rw [h]

theorem logAppend_queues (s : State) (r : ErrRec) : (s.logAppend r).err.queues = s.err.queues := by
  unfold State.logAppend; dsimp only; split
  · rw [State.wr_err]
  · rw [State.bump_err, State.wr_err]

theorem field_err (s : State) (c i k : Nat) : (s.bumpErrField c i k).err = s.err := by
  unfold State.bumpErrField; rw [State.wrf_err]

/-- An error detected by a page changes nothing but registers, records and messages (R484). -/
theorem recErrH_frame (s : State) (halt : Bool) (c i : Nat) (e : ErrIn) : RecFrame s (s.recErrH halt c i e) := by
  unfold State.recErrH
  dsimp only
  refine RecFrame.trans ?_ (RecFrame.log _ _)
  have h0 : RecFrame s (if e.info.isSome = true then s else s.free.2) := by
    split
    · exact RecFrame.refl s
    · exact ⟨rfl⟩
  generalize (if e.info.isSome = true then s else s.free.2) = t at *
  refine h0.trans ((RecFrame.field t c i (errField e.sev)).trans ?_)
  generalize t.bumpErrField c i (errField e.sev) = u
  have h1 : ∀ x : ErrSt, RecFrame u (if (mget none u.err.first (pageId c i)).isNone = true then { u with err := x } else u) := by
    intro x; split
    · exact RecFrame.err _ _
    · exact RecFrame.refl u
  split
  · exact (h1 _).trans ((RecFrame.err _ _).trans (RecFrame.irq _ _ _ _))
  · exact (h1 _).trans (RecFrame.field _ _ _ _)

/-- The record enters the queue of its page, if eight do not wait there, and no other queue (R485). -/
theorem recErrH_queues (s : State) (halt : Bool) (c i : Nat) (e : ErrIn) :
    ∃ r : ErrRec, (r.sev = e.sev ∧ r.cause = e.cause ∧ r.detail = e.detail ∧ r.addr = e.addr.map u64 ∧ r.halt = halt ∧
        r.src = pageId c i ∧ r.time = s.time64 ∧ r.ctx = e.ctx ∧ r.nested = !(s.errQ (pageId c i)).isEmpty) ∧
      ∀ p, (s.recErrH halt c i e).errQ p =
        if p = pageId c i ∧ (s.errQ (pageId c i)).length < 8 then s.errQ (pageId c i) ++ [r] else s.errQ p := by
  unfold State.recErrH
  dsimp only
  have h0 : (if e.info.isSome = true then s else s.free.2).err = s.err ∧
      (if e.info.isSome = true then s else s.free.2).time64 = s.time64 := by split <;> exact ⟨rfl, rfl⟩
  generalize (if e.info.isSome = true then s else s.free.2) = t at *
  have hq : ∀ p, t.errQ p = s.errQ p := fun p => errQ_congr (by rw [h0.1]) p
  rw [hq, h0.2]
  generalize ht : t.bumpErrField c i (errField e.sev) = u
  have hu : u.err = s.err := by rw [← ht, field_err, h0.1]
  refine ⟨⟨e.sev, !(s.errQ (pageId c i)).isEmpty, halt, e.cause, e.detail, pageId c i, s.time64, e.addr.map u64,
    e.info.getD s.free.1, e.ctx, BitVec.ofNat 8 (t.rd cERR 0 ERR.BOOT_CNT).toNat⟩, by simp, ?_⟩
  intro p
  rw [errQ_congr (logAppend_queues _ _)]
  generalize hw : (if (mget none u.err.first (pageId c i)).isNone = true then _ else u) = w
  have h1 : w.err.queues = s.err.queues := by
    rw [← hw]; split
    · have e := congrArg ErrSt.queues hu; exact e
    · rw [hu]
  by_cases hl : (s.errQ (pageId c i)).length < 8
  · rw [if_pos hl]
    have hirq : ∀ (v : State) (b : Nat), (v.irq cERR 0 b).err = v.err := fun v b => State.irq_err ..
    unfold State.errQ
    rw [hirq]
    by_cases hp : p = pageId c i
    · subst hp; rw [if_pos ⟨rfl, hl⟩]; exact mget_mset_same _ _ _ _
    · rw [if_neg (fun h => hp h.1)]; exact (mget_mset_ne _ _ _ _ hp).trans (by rw [h1])
  · rw [if_neg hl, if_neg (fun h => hl h.2)]
    unfold State.errQ
    rw [field_err, h1]

end Sys2Proof.Safety
end

