-- ==== Sys2Proof/Laws/Memory.lean ====
section
/-! SUPPORT. Laws of HBM and of the tile stores: what a read finds after a write, that every operation of memory keeps the
canonical form, and that the operations which only count, record or interrupt leave memory alone. -/
namespace Sys2Proof.Machine

/-! ### Runs of bytes -/

theorem mget_setBytes_out (m : List Host.Cell) (d : Bytes) {a x : Nat} (h : x < a ∨ a + d.length ≤ x) :
    mget 0 (setBytes m a d) x = mget 0 m x := by
  induction d generalizing m a with
  | nil => rfl
  | cons b r ih =>
    simp only [List.length_cons] at h
    rw [setBytes, ih _ (by omega), mget_mset_ne _ _ _ _ (by omega)]

theorem mget_setBytes_in (m : List Host.Cell) (d : Bytes) {a i : Nat} (h : i < d.length) :
    mget 0 (setBytes m a d) (a + i) = d.getD i 0 := by
  induction d generalizing m a i with
  | nil => simp at h
  | cons b r ih =>
    cases i with
    | zero => rw [setBytes, mget_setBytes_out _ _ (by omega)]; simp
    | succ i =>
      simp only [List.length_cons] at h
      rw [setBytes, show a + (i + 1) = (a + 1) + i by omega, ih _ (by omega)]
      simp

/-- What was written is what is read. -/
theorem getBytes_setBytes_same (m : List Host.Cell) (a : Nat) (d : Bytes) : getBytes (setBytes m a d) a d.length = d := by
  apply List.ext_getElem
  · simp [getBytes]
  · intro i h1 h2
    simp only [getBytes, List.getElem_map, List.getElem_range]
    rw [mget_setBytes_in _ _ h2]
    simp [List.getD_eq_getElem?_getD, h2]

/-- A run that a write does not meet reads as before. -/
theorem getBytes_setBytes_out (m : List Host.Cell) (d : Bytes) {a b n : Nat} (h : b + n ≤ a ∨ a + d.length ≤ b) :
    getBytes (setBytes m a d) b n = getBytes m b n := by
  apply List.map_congr_left
  intro i hi
  rw [List.mem_range] at hi
  exact mget_setBytes_out _ _ (by omega)

theorem mwf_setBytes (m : List Host.Cell) (a : Nat) (d : Bytes) (h : mwf (fun _ => (0 : BitVec 8)) m = true) :
    mwf (fun _ => (0 : BitVec 8)) (setBytes m a d) = true := by
  induction d generalizing m a with
  | nil => exact h
  | cons b r ih => exact ih _ _ (mwf_mset (fun _ => (0 : BitVec 8)) m a b h)

/-- Taking entries out keeps the canonical form. -/
theorem mwf_filter {α : Type} [DecidableEq α] (d : Nat → α) (p : Nat × α → Bool) (m : SMap α) (h : mwf d m = true) :
    mwf d (m.filter p) = true := by
  induction m with
  | nil => exact h
  | cons e r ih =>
    obtain ⟨k, v⟩ := e
    have h' := (mwf_cons d k v r).1 h
    by_cases hp : p (k, v) = true
    · rw [List.filter_cons_of_pos hp, mwf_cons]
      exact ⟨h'.1, fun x hx => h'.2.1 x (List.mem_filter.1 hx).1, ih h'.2.2⟩
    · rw [List.filter_cons_of_neg hp]; exact ih h'.2.2

/-! ### Operations that leave memory alone -/

/-- `u` holds the memory of `s`. -/
def SameMem (s u : State) : Prop := u.hbm.mem = s.hbm.mem ∧ u.ts.mem = s.ts.mem

theorem SameMem.refl (s : State) : SameMem s s := ⟨rfl, rfl⟩
theorem SameMem.trans {s u v : State} (h : SameMem s u) (g : SameMem u v) : SameMem s v :=
  ⟨g.1.trans h.1, g.2.trans h.2⟩

theorem sameMem_wr (s : State) (c i o : Nat) (v : W32) : SameMem s (s.wr c i o v) := ⟨rfl, rfl⟩
theorem sameMem_wrb (s : State) (c i o k : Nat) (b : Bool) : SameMem s (s.wrb c i o k b) := by
  rw [State.wrb_eq]; exact sameMem_wr _ _ _ _ _
theorem sameMem_wrf (s : State) (c i o lo n x : Nat) : SameMem s (s.wrf c i o lo n x) := by
  rw [State.wrf_eq]; exact sameMem_wr _ _ _ _ _
theorem sameMem_wr64 (s : State) (c i o n : Nat) : SameMem s (s.wr64 c i o n) := by
  unfold State.wr64; exact (sameMem_wr _ _ _ _ _).trans (sameMem_wr _ _ _ _ _)
theorem sameMem_bump (s : State) (c i o n : Nat) : SameMem s (s.bump c i o n) := by
  rw [State.bump_eq]; exact sameMem_wr _ _ _ _ _
theorem sameMem_bump64 (s : State) (c i o n : Nat) : SameMem s (s.bump64 c i o n) := by
  unfold State.bump64; exact sameMem_wr64 _ _ _ _ _
theorem sameMem_send (s : State) (m : OutMsg) : SameMem s (s.send m) := ⟨rfl, rfl⟩
theorem sameMem_answer (s : State) (m : Nat) (a : OutMsg) : SameMem s (s.answer m a) := ⟨by rw [State.answer_hbm], by rw [State.answer_ts]⟩
theorem sameMem_grant (s : State) (g n : Nat) : SameMem s (s.grant g n) := by
  unfold State.grant; exact sameMem_bump64 _ _ _ _ _
theorem sameMem_hbmLast (s : State) (n a k r : Nat) (e : List (Nat × BitVec 16)) : SameMem s (s.hbmLast n a k r e) := by
  unfold State.hbmLast; exact (sameMem_wr64 _ _ _ _ _).trans (sameMem_wr _ _ _ _ _)
theorem sameMem_tsMark (s : State) (w : Nat) (e : BitVec 72) (p : Bool) : SameMem s (s.tsMark w e p) := ⟨rfl, rfl⟩
theorem sameMem_free (s : State) : SameMem s s.free.2 := ⟨rfl, rfl⟩
theorem sameMem_err (s : State) (x : ErrSt) : SameMem s { s with err := x } := ⟨rfl, rfl⟩
theorem sameMem_firn (s : State) (x : FirnSt) : SameMem s { s with firn := x } := ⟨rfl, rfl⟩

theorem sameMem_irq (s : State) (c i b : Nat) : SameMem s (s.irq c i b) := by
  unfold State.irq State.notifyFrom; split
  · refine (sameMem_wr s c i hIRQ_STAT (s.rd c i hIRQ_STAT ||| u32 b)).trans ?_
    unfold State.notifyDue; split
    · rw [State.notifyOut]; exact ((sameMem_bump64 _ _ _ _ _).trans (sameMem_bump64 _ _ _ _ _)).trans (sameMem_send _ _)
    · exact ⟨rfl, rfl⟩
  · exact sameMem_wr _ _ _ _ _

theorem sameMem_logAppend (s : State) (r : ErrRec) : SameMem s (s.logAppend r) := by
  unfold State.logAppend; dsimp only; split
  · exact (sameMem_err _ _).trans (sameMem_wr _ _ _ _ _)
  · exact ((sameMem_err _ _).trans (sameMem_wr _ _ _ _ _)).trans (sameMem_bump _ _ _ _ _)

theorem sameMem_bumpErrField (s : State) (c i k : Nat) : SameMem s (s.bumpErrField c i k) := by
  unfold State.bumpErrField; exact sameMem_wrf _ _ _ _ _ _ _

/-- Recording an error leaves memory alone (R484). -/
theorem sameMem_recErrH (s : State) (halt : Bool) (c i : Nat) (e : ErrIn) : SameMem s (s.recErrH halt c i e) := by
  unfold State.recErrH
  dsimp only
  refine SameMem.trans ?_ (sameMem_logAppend _ _)
  have h0 : SameMem s (if e.info.isSome = true then s else s.free.2) := by
    split
    · exact SameMem.refl s
    · exact sameMem_free s
  generalize (if e.info.isSome = true then s else s.free.2) = t at *
  refine h0.trans ((sameMem_bumpErrField t c i (errField e.sev)).trans ?_)
  generalize t.bumpErrField c i (errField e.sev) = u
  have h1 : ∀ x : ErrSt, SameMem u (if (mget none u.err.first (pageId c i)).isNone = true then { u with err := x } else u) := by
    intro x; split
    · exact sameMem_err _ _
    · exact SameMem.refl u
  split
  · exact (h1 _).trans ((sameMem_err _ _).trans (sameMem_irq _ _ _ _))
  · exact (h1 _).trans (sameMem_bumpErrField _ _ _ _)

theorem sameMem_recErr (s : State) (c i : Nat) (e : ErrIn) : SameMem s (s.recErr c i e) := sameMem_recErrH s false c i e
theorem sameMem_recCE (s : State) (c i k : Nat) (a : Option Nat) (n : Option W32) : SameMem s (s.recCE c i k a n) :=
  sameMem_recErrH s false c i _
theorem sameMem_recDef (s : State) (c i k : Nat) (a : Option Nat) (n : Option W32) : SameMem s (s.recDef c i k a n) :=
  sameMem_recErrH s false c i _
theorem sameMem_recUC (s : State) (c i k : Nat) (a : Option Nat) (n : Option W32) (x : Option Nat) :
    SameMem s (s.recUC c i k a n x) := sameMem_recErrH s false c i _

theorem sameMem_firnMark (s : State) (g : Nat) : SameMem s (s.firnMark g) := by
  unfold State.firnMark; dsimp only; split
  · split
    · exact (sameMem_firn _ _).trans (sameMem_wrb _ _ _ _ _ _)
    · exact sameMem_firn _ _
  · exact SameMem.refl s

/-- A dropped write leaves memory alone (R14). -/
theorem sameMem_dropWrite (s : State) (m a : Nat) : SameMem s (s.dropWrite m a) := by
  unfold State.dropWrite State.dropNote
  dsimp only
  exact (((sameMem_bump _ _ _ _ _).trans (sameMem_wr64 _ _ _ _ _)).trans (sameMem_wr _ _ _ _ _)).trans
    ((sameMem_irq _ _ _ _).trans (sameMem_answer _ _ _))

end Sys2Proof.Machine

namespace Sys2Proof.Safety
open Sys2Proof.Machine

/-! ### Canonical forms are kept -/

/-- `u` is in canonical form when `s` is. -/
def Keeps (s u : State) : Prop := HbmWf s ∧ TsWf s → HbmWf u ∧ TsWf u

theorem Keeps.refl (s : State) : Keeps s s := id
theorem Keeps.trans {s u v : State} (h : Keeps s u) (g : Keeps u v) : Keeps s v := g ∘ h
theorem Keeps.same {s u : State} (h : SameMem s u) : Keeps s u := by
  intro ⟨h1, h2⟩; unfold HbmWf TsWf at *; rw [h.1, h.2]; exact ⟨h1, h2⟩

/-- A loop keeps what its body keeps. -/
theorem Keeps.foldl {α β : Type} (p : β → State) (f : β → α → β) (hf : ∀ b a, Keeps (p b) (p (f b a))) (l : List α) (b : β) :
    Keeps (p b) (p (l.foldl f b)) := by
  induction l generalizing b with
  | nil => exact Keeps.refl _
  | cons a r ih => exact (hf b a).trans (ih _)

theorem keeps_putSector (s : State) (a : Nat) (d : Bytes) (c : Sym4) : Keeps s (s.putSector a d c) :=
  fun ⟨h1, h2⟩ => ⟨mwf_setBytes _ _ _ h1, h2⟩

theorem keeps_zeroStack (s : State) (n : Nat) : Keeps s (s.zeroStack n) := fun ⟨h1, h2⟩ => ⟨mwf_filter _ _ _ h1, h2⟩

theorem keeps_firnFill (s : State) (r : Nat × Nat) : Keeps s (s.firnFill r) := fun ⟨h1, h2⟩ => ⟨mwf_setBytes _ _ _ h1, h2⟩

theorem keeps_pairClear (s : State) (p : Nat) : Keeps s (s.pairClear p) := fun ⟨h1, h2⟩ => ⟨h1, mwf_filter _ _ _ h2⟩

/-- A sector read, with its correction and its write-back, keeps the canonical form (R385, R386). -/
theorem keeps_readSector (s : State) (a req : Nat) (e1 e2 : Seeing) : Keeps s (s.readSector a req e1 e2).2.2 := by
  unfold State.readSector
  dsimp only
  have h0 : Keeps s ((s.bump64 cHBM (stackOf a) HBM.RD_SECT).grant (128 + stackOf a)) :=
    Keeps.same ((sameMem_bump64 _ _ _ _ _).trans (sameMem_grant _ _ _))
  refine h0.trans ?_
  generalize (s.bump64 cHBM (stackOf a) HBM.RD_SECT).grant (128 + stackOf a) = t
  generalize t.seeTwice a e1 e2 = r
  have h1 : ∀ k e o b, SameMem t (((t.hbmLast (stackOf a) a k req e).bump cHBM (stackOf a) o).irq cHBM (stackOf a) b) := fun k e o b =>
    (sameMem_hbmLast _ _ _ _ _ _).trans ((sameMem_bump _ _ _ _ _).trans (sameMem_irq _ _ _ _))
  split
  · exact Keeps.refl _
  · exact Keeps.same (sameMem_bump _ _ _ _ _)
  · exact (Keeps.same (h1 _ _ _ _)).trans ((keeps_putSector _ _ _ _).trans (Keeps.same (sameMem_recCE _ _ _ _ _ _)))
  · refine Keeps.trans (Keeps.trans ?_ (keeps_putSector _ _ _ _)) (Keeps.same (sameMem_recDef _ _ _ _ _ _))
    split
    · exact Keeps.same (((sameMem_hbmLast _ _ _ _ _ _).trans (sameMem_bump _ _ _ _ _)).trans
        ((sameMem_bump _ _ _ _ _).trans (sameMem_irq _ _ _ _)))
    · exact Keeps.same (((sameMem_hbmLast _ _ _ _ _ _).trans (sameMem_bump _ _ _ _ _)).trans (sameMem_irq _ _ _ _))
  · refine Keeps.trans (Keeps.trans ?_ (keeps_putSector _ _ _ _)) (Keeps.same (sameMem_recDef _ _ _ _ _ _))
    split
    · exact Keeps.same ((sameMem_hbmLast _ _ _ _ _ _).trans ((sameMem_bump _ _ _ _ _).trans (sameMem_irq _ _ _ _)))
    · exact Keeps.same ((sameMem_hbmLast _ _ _ _ _ _).trans ((sameMem_bump _ _ _ _ _).trans (sameMem_irq _ _ _ _)))

theorem keeps_storeSector (s : State) (a : Nat) (d : Bytes) (pois : Bool) : Keeps s (s.storeSector a d pois) := by
  unfold State.storeSector
  dsimp only
  refine Keeps.trans (Keeps.same (sameMem_bump64 s cHBM (stackOf a) HBM.WR_SECT 1)) ?_
  generalize s.bump64 cHBM (stackOf a) HBM.WR_SECT 1 = t
  refine Keeps.trans ?_ (Keeps.same (sameMem_firnMark _ _))
  split
  · exact Keeps.trans (keeps_putSector _ _ _ _) (Keeps.same (sameMem_wr _ _ _ _ _))
  · exact keeps_putSector _ _ _ _

/-- A sector write keeps the canonical form (R376, R377). -/
theorem keeps_writeSector (s : State) (a req : Nat) (m : BitVec 64) (d : Bytes) (pois : Bool) (e1 e2 : Seeing) :
    Keeps s (s.writeSector a req m d pois e1 e2) := by
  unfold State.writeSector
  split
  · exact Keeps.trans (Keeps.same (sameMem_grant _ _ _)) (keeps_storeSector _ _ _ _)
  · exact Keeps.trans (keeps_readSector s a req e1 e2) (keeps_storeSector _ _ _ _)

theorem keeps_bridgeUnavail (s : State) (b : Nat) : Keeps s (s.bridgeUnavail b) := by
  unfold State.bridgeUnavail
  exact Keeps.same (SameMem.trans (sameMem_recUC _ _ _ _ _ _ _) (sameMem_irq _ _ _ _))

theorem keeps_hbmUnavail (s : State) (a : Nat) : Keeps s (s.hbmUnavail a) := Keeps.same (sameMem_recUC _ _ _ _ _ _ _)

theorem keeps_unitSector (s : State) (q : Rq) (a : Nat) : Keeps s (s.unitSector q a).2 := by
  unfold State.unitSector
  split
  · exact keeps_bridgeUnavail _ _
  · split
    · exact keeps_readSector _ _ _ _ _
    · exact keeps_hbmUnavail _ _

/-- A unit's read of HBM keeps the canonical form (R379). -/
theorem keeps_hbmRead (s : State) (q : Rq) (a n : Nat) : Keeps s (s.hbmRead q a n).2 := by
  unfold State.hbmRead
  dsimp only
  refine Keeps.foldl (fun x : Rd × State => x.2) _ ?_ _ (_, s)
  intro x sec
  have h := keeps_unitSector x.2 q sec
  split <;> (rename_i e; rw [e] at h; exact h)

/-- A unit's write of HBM keeps the canonical form (R377). -/
theorem keeps_hbmWriteP (s : State) (q : Rq) (a : Nat) (d : Bytes) (p : List Bool) : Keeps s (s.hbmWriteP q a d p).2 := by
  unfold State.hbmWriteP
  dsimp only
  refine Keeps.foldl (fun x : Bool × State => x.2) _ ?_ _ (true, s)
  intro x sec
  split
  · exact keeps_bridgeUnavail _ _
  · split
    · exact keeps_writeSector _ _ _ _ _ _ _ _
    · exact keeps_hbmUnavail _ _

theorem keeps_hbmWrite (s : State) (q : Rq) (a : Nat) (d : Bytes) (p : Bool) : Keeps s (s.hbmWrite q a d p).2 :=
  keeps_hbmWriteP _ _ _ _ _

theorem keeps_tsWord (s : State) (w : Nat) : Keeps s (s.tsWord w).2.2 := by
  unfold State.tsWord
  dsimp only
  split
  · exact Keeps.refl _
  · split
    · exact Keeps.same (((sameMem_tsMark _ _ _ _).trans (sameMem_bump _ _ _ _ _)).trans ((sameMem_irq _ _ _ _).trans (sameMem_recCE _ _ _ _ _ _)))
    · exact Keeps.same (SameMem.trans (sameMem_bump _ _ _ _ _) ((sameMem_irq _ _ _ _).trans (sameMem_recDef _ _ _ _ _ _)))

theorem keeps_tsPutWord (s : State) (w lo : Nat) (d : Bytes) (p : Bool) : Keeps s (s.tsPutWord w lo d p) := by
  unfold State.tsPutWord
  dsimp only
  split
  · exact fun ⟨h1, h2⟩ => ⟨h1, mwf_setBytes _ _ _ h2⟩
  · exact (keeps_tsWord s w).trans fun ⟨h1, h2⟩ => ⟨h1, mwf_setBytes _ _ _ h2⟩

/-- Reading a tile store keeps the canonical form (R71). -/
theorem keeps_tsRead (s : State) (t o n : Nat) : Keeps s (s.tsRead t o n).2 := by
  unfold State.tsRead
  refine Keeps.trans (Keeps.same (sameMem_grant s t (tsLines (tsAddr t o) n))) ?_
  exact Keeps.foldl (fun x : Rd × State => x.2) _ (fun x w => keeps_tsWord x.2 w) _ (_, s.grant t (tsLines (tsAddr t o) n))

/-- Writing a tile store keeps the canonical form (R71). -/
theorem keeps_tsWriteP (s : State) (t o : Nat) (d : Bytes) (p : List Bool) : Keeps s (s.tsWriteP t o d p) := by
  unfold State.tsWriteP
  refine Keeps.trans (Keeps.same (sameMem_grant s t (tsLines (tsAddr t o) d.length))) ?_
  exact Keeps.foldl (fun x : State => x) _ (fun x w => keeps_tsPutWord x w _ _ _) _ _

theorem keeps_tsWrite (s : State) (t o : Nat) (d : Bytes) (p : Bool) : Keeps s (s.tsWrite t o d p) := keeps_tsWriteP _ _ _ _ _

end Sys2Proof.Safety
end

