-- ==== Sys2Proof/Laws/Units.lean ====
section
/-! SUPPORT. What the shared operations of units do where nothing holds them back: the gate opens, and a read of clean bytes
returns them and changes nothing but the counters of the stacks. -/
namespace Sys2Proof.Safety
open Sys2Proof.Machine

/-! ### The gate -/

theorem stackOf_lt (a : Nat) : stackOf a < 8 := Nat.mod_lt _ (by decide)

theorem stacksOf_lt (a n x : Nat) (h : x ∈ stacksOf a n) : x < 8 := by
  unfold stacksOf at h
  split at h
  · simp at h
  · split at h
    · exact List.mem_range.1 h
    · rw [List.mem_eraseDups, List.mem_map] at h
      obtain ⟨i, _, rfl⟩ := h
      exact stackOf_lt _

/-- No line of the filter must be snooped for an access that nothing holds back. -/
theorem snoopsFor_clear {s : State} {a n : Nat} {w : Bool} (h : Clear s a n w) : s.snoopsFor a n w = [] := by
  unfold State.snoopsFor
  rw [List.filter_eq_nil_iff]
  intro e he hp
  rw [Bool.and_eq_true, Bool.or_eq_true] at hp
  obtain ⟨h1, h2⟩ := h.lines e he hp.1
  simp [h1, h2] at hp

/-- The gate of accesses that nothing holds back opens and changes nothing (R354, R411, R458). -/
theorem gate_open {s : State} {q : Rq} (up : MemUp s q) (rs : List (Nat × Nat × Bool))
    (h : ∀ r ∈ rs, Clear s r.1 r.2.1 r.2.2) : s.gate rs = (true, s) := by
  unfold State.gate State.gatePast
  simp only [Bool.not_false, Bool.and_true]
  induction rs with
  | nil => rfl
  | cons r rest ih =>
    obtain ⟨a, n, w⟩ := r
    have hc := h _ (List.mem_cons_self ..)
    rw [List.foldl_cons]
    have h1 : ((stacksOf a n).any fun x => s.stackOk x && s.hbmFrozen x) = false := by
      rw [List.any_eq_false]; intro x hx; simp [(up.ready x (stacksOf_lt a n x hx)).2]
    have h2 : (w && s.runHeld a n) = false := by
      cases w with
      | false => rfl
      | true => simpa using hc.held rfl
    have h3 : (s.opl.busy.any fun b => lineMeets b.1 a n) = false := by
      rw [List.any_eq_false]; intro b hb; simp [hc.busy b hb]
    have h4 : (s.opl.waits.any fun x => x.ahead a n w) = false := by
      rw [List.any_eq_false]; intro x hx; simp [hc.ahead x hx]
    simp only [h1, h2, h3, h4, snoopsFor_clear hc, Bool.false_eq_true, if_false, List.foldl_nil, List.isEmpty_nil, Bool.not_false,
      Bool.and_true]
    exact ih fun r hr => h r (List.mem_cons_of_mem _ hr)

/-- Work whose accesses nothing holds back is done at once. -/
theorem gated_open {s : State} {q : Rq} (up : MemUp s q) (rs : List (Nat × Nat × Bool)) (act : State → State)
    (h : ∀ r ∈ rs, Clear s r.1 r.2.1 r.2.2) : s.gated rs act = act s := by
  unfold State.gated
  rw [gate_open up _ fun r hr => h r (List.mem_filter.1 hr).1]
  rfl

/-! ### A clean read -/

theorem flipData_nil (d : Bytes) : flipData d [] = d := by
  unfold flipData
  simp only [List.foldl_nil]
  exact List.map_fst_zip (by simp)

theorem seeTwice_sound {s : State} {a : Nat} (h : Sound s a) :
    s.seeTwice a {} {} = (getBytes s.hbm.mem (a / 64 * 64) 64, .good) := by
  have h0 : synOf (0, 0, 0, 0) = (0, 0, 0, 0) := by decide
  have h1 : s.seeSector a {} = (getBytes s.hbm.mem (a / 64 * 64) 64, .good) := by
    unfold State.seeSector
    simp only [Option.getD_none, Option.isSome_none, Bool.false_eq_true, if_false, List.filter_nil, List.append_nil, List.foldl_nil, flipData_nil]
    rw [show s.chkOf a = (0, 0, 0, 0) from h, h0]
    rfl
  unfold State.seeTwice
  simp only [h1]

/-- The registers that count the reads of the stacks (R462, R393). -/
def readCounts : List Nat :=
  (List.range 8).flatMap fun n => [rk cHBM n HBM.RD_SECT, rk cHBM n (HBM.RD_SECT + 4), rk cARB (128 + n) ARB.GRANTS, rk cARB (128 + n) (ARB.GRANTS + 4)]

/-- A read of a clean sector gives its bytes and counts. -/
theorem readSector_sound {s : State} {a : Nat} (req : Nat) (h : Sound s a) :
    s.readSector a req {} {} = (getBytes s.hbm.mem (a / 64 * 64) 64, false,
      (s.bump64 cHBM (stackOf a) HBM.RD_SECT).grant (128 + stackOf a)) := by
  unfold State.readSector
  dsimp only
  have h1 := (sameMem_bump64 s cHBM (stackOf a) HBM.RD_SECT 1).trans (sameMem_grant _ (128 + stackOf a) 1)
  have hs : Sound ((s.bump64 cHBM (stackOf a) HBM.RD_SECT).grant (128 + stackOf a)) a := by
    unfold Sound State.chkOf at *
    unfold State.grant
    rw [State.bump64_hbm, State.bump64_hbm]; exact h
  rw [seeTwice_sound hs, h1.1]

/-- `u` is `s` but for the counters of reads. -/
def OnlyCounted (s u : State) : Prop := OnlyRegs readCounts s u ∧ u.outbox = s.outbox

theorem OnlyCounted.refl (s : State) : OnlyCounted s s := ⟨OnlyRegs.refl _ _, rfl⟩
theorem OnlyCounted.trans {s u v : State} (h : OnlyCounted s u) (g : OnlyCounted u v) : OnlyCounted s v :=
  ⟨h.1.trans g.1, g.2.trans h.2⟩

theorem mem_readCounts {n : Nat} (h : n < 8) :
    rk cHBM n HBM.RD_SECT ∈ readCounts ∧ rk cHBM n (HBM.RD_SECT + 4) ∈ readCounts ∧ rk cARB (128 + n) ARB.GRANTS ∈ readCounts ∧
      rk cARB (128 + n) (ARB.GRANTS + 4) ∈ readCounts := by
  unfold readCounts
  refine ⟨?_, ?_, ?_, ?_⟩ <;> exact List.mem_flatMap.2 ⟨n, List.mem_range.2 h, by simp⟩

theorem onlyCounted_read (s : State) {n : Nat} (h : n < 8) :
    OnlyCounted s ((s.bump64 cHBM n HBM.RD_SECT).grant (128 + n)) := by
  obtain ⟨h1, h2, h3, h4⟩ := mem_readCounts h
  unfold State.grant State.bump64
  exact ⟨((OnlyRegs.refl _ _).wr64 _ _ _ _ h1 h2).wr64 _ _ _ _ h3 h4, by simp⟩

theorem OnlyCounted.hbm {s u : State} (h : OnlyCounted s u) : u.hbm = s.hbm := h.1.hbm
theorem OnlyCounted.pwr {s u : State} (h : OnlyCounted s u) : u.pwr = s.pwr := h.1.pwr
theorem OnlyCounted.life {s u : State} (h : OnlyCounted s u) : u.life = s.life := h.1.life
theorem OnlyCounted.clk {s u : State} (h : OnlyCounted s u) : u.clk = s.clk := h.1.clk

theorem OnlyCounted.pdStat {s u : State} (h : OnlyCounted s u) (d : Nat) : u.pdStat d = s.pdStat d := by
  unfold State.pdStat State.pdst; rw [h.pwr, h.clk]

theorem OnlyCounted.stackOk {s u : State} (h : OnlyCounted s u) (n : Nat) : u.stackOk n = s.stackOk n := by
  have hr : u.rd cHBM n hSTAT = s.rd cHBM n hSTAT := by
    unfold State.rd
    apply h.1.regs
    simp only [readCounts, List.mem_flatMap, List.mem_range, List.mem_cons, List.not_mem_nil, or_false, not_exists, not_and]
    intro m hm
    simp only [rk, cHBM, cARB, hSTAT, HBM.RD_SECT, ARB.GRANTS]
    omega
  simp only [State.stackOk, State.on, State.live, h.pdStat, State.rdb, hr, h.life]

theorem OnlyCounted.pathOff {s u : State} (h : OnlyCounted s u) (q : Rq) (f : Nat) : u.pathOff q f = s.pathOff q f := by
  simp only [State.pathOff, h.pdStat]

/-- The read of one clean sector by a unit. -/
theorem unitSector_sound {s : State} {q : Rq} {a : Nat} (up : s.stackOk (stackOf a) = true) (hp : ∀ f, s.pathOff q f = none)
    (h : Sound s a) : ∃ u, s.unitSector q a = (some (getBytes s.hbm.mem (a / 64 * 64) 64, false), u) ∧ OnlyCounted s u := by
  refine ⟨_, ?_, onlyCounted_read s (stackOf_lt a)⟩
  unfold State.unitSector
  rw [hp]
  simp only [up, if_true, readSector_sound (q.at a) h]

theorem hbmBytes_add (s : State) (a n m : Nat) : hbmBytes s a (n + m) = hbmBytes s a n ++ hbmBytes s (a + n) m := by
  unfold hbmBytes
  rw [List.range_add, List.map_append, List.map_map]
  congr 1
  apply List.map_congr_left
  intro i _
  simp [Nat.add_assoc]

theorem bslice_getBytes (s : State) (a lo n : Nat) (h : lo + n ≤ 64) :
    bslice (getBytes s.hbm.mem a 64) lo n = hbmBytes s (a + lo) n := by
  unfold bslice hbmBytes hbmByte getBytes
  apply List.ext_getElem
  · simp only [List.length_append, List.length_replicate, List.length_take, List.length_drop, List.length_map, List.length_range]; omega
  · intro i h1 h2
    simp only [List.length_map, List.length_range] at h2
    rw [List.getElem_append_left (by simp; omega)]
    simp [Nat.add_assoc]

/-- A read of clean bytes gives them, none poisoned, at once, and changes nothing but the counters of reads (R376, R379). -/
theorem hbmRead_readable {s : State} {q : Rq} (up : MemUp s q) (a n : Nat) (h : SoundRun s a n) :
    ∃ u, s.hbmRead q a n = (⟨hbmBytes s a n, List.replicate n false, true⟩, u) ∧ OnlyCounted s u := by
  unfold State.hbmRead
  dsimp only
  by_cases hn : n = 0
  · subst hn; exact ⟨s, by simp [sectorsOf, hbmBytes], OnlyCounted.refl s⟩
  · unfold sectorsOf
    rw [if_neg hn]
    -- after k sectors, the bytes up to the end of the k-th
    have key : ∀ k, k ≤ (a + n - 1) / 64 + 1 - a / 64 → ∃ u,
        List.foldl (fun (acc : Rd × State) (sec : Nat) =>
          match acc.2.unitSector q sec with
          | (some (d, p), s) => ((({ data := acc.1.data ++ bslice d (max a sec - sec) (min (a + n) (sec + 64) - (sec + (max a sec - sec)))
                                     pois := acc.1.pois ++ List.replicate (min (a + n) (sec + 64) - (sec + (max a sec - sec))) p
                                     ok := acc.1.ok } : Rd)), s)
          | (none, s) => ({ data := acc.1.data ++ List.replicate (min (a + n) (sec + 64) - (sec + (max a sec - sec))) 0
                            pois := acc.1.pois ++ List.replicate (min (a + n) (sec + 64) - (sec + (max a sec - sec))) true, ok := false }, s))
          ({ data := [], pois := [], ok := true }, s) ((List.range k).map fun i => (a / 64 + i) * 64) =
        (⟨hbmBytes s a (min (a + n) ((a / 64 + k) * 64) - a), List.replicate (min (a + n) ((a / 64 + k) * 64) - a) false, true⟩, u) ∧
        OnlyCounted s u := by
      intro k
      induction k with
      | zero => intro _; refine ⟨s, ?_, OnlyCounted.refl s⟩; simp [show min (a + n) (a / 64 * 64) - a = 0 by omega, hbmBytes]
      | succ k ih =>
        intro hk
        obtain ⟨u, hu, hc⟩ := ih (by omega)
        rw [List.range_succ, List.map_append, List.foldl_append, hu]
        simp only [List.map_cons, List.map_nil, List.foldl_cons, List.foldl_nil]
        have hdiv : (a / 64 + k) * 64 / 64 = a / 64 + k := by omega
        have hb : a ≤ max a ((a / 64 + k) * 64) ∧ max a ((a / 64 + k) * 64) < a + n := by omega
        have hsec : max a ((a / 64 + k) * 64) / 64 = a / 64 + k := by omega
        have hsound : Sound u ((a / 64 + k) * 64) := by
          have := h _ hb.1 hb.2
          unfold Sound State.chkOf at *
          rw [hc.hbm, hdiv]; rw [hsec] at this; exact this
        obtain ⟨v, hv, hd⟩ := unitSector_sound (q := q)
          (by rw [hc.stackOk]; exact (up.ready _ (stackOf_lt _)).1) (fun f => by rw [hc.pathOff]; exact up.path f) hsound
        rw [hv]
        refine ⟨v, ?_, hc.trans hd⟩
        simp only [hdiv]
        have e1 : (a / 64 + k) * 64 + (max a ((a / 64 + k) * 64) - (a / 64 + k) * 64) = max a ((a / 64 + k) * 64) := by omega
        rw [hc.hbm, bslice_getBytes s _ _ _ (by omega), e1]
        have e2 : min (a + n) ((a / 64 + (k + 1)) * 64) - a =
            (min (a + n) ((a / 64 + k) * 64) - a) + (min (a + n) ((a / 64 + k) * 64 + 64) - max a ((a / 64 + k) * 64)) := by omega
        rw [e2, hbmBytes_add, ← List.replicate_append_replicate]
        have e3 : a + (min (a + n) ((a / 64 + k) * 64) - a) = max a ((a / 64 + k) * 64) := by omega
        rw [e3]
    obtain ⟨u, hu, hc⟩ := key _ (Nat.le_refl _)
    refine ⟨u, ?_, hc⟩
    have e : min (a + n) ((a / 64 + ((a + n - 1) / 64 + 1 - a / 64)) * 64) - a = n := by omega
    rw [e] at hu
    exact hu

end Sys2Proof.Safety
end

