-- ==== Sys2Proof/WellFormed.lean ====
section
/-! DEFINITION. Which commands are well formed: their masters, units and addresses exist and their data has its length. The
machine does not rest on it: a command that is not well formed has no effect. -/
namespace Sys2Proof
open Sys2Proof.Machine

/-- The operands of a command name things that exist. -/
def Instr.wf (i : Instr) : Bool :=
  match i with
  | .wload t _ => decide (t < 128)
  | .mma t _ => decide (t < 128)
  | .drain t _ => decide (t < 128)
  | .release t _ => decide (t < 128)
  | .vSetvl t _ => decide (t < 128)
  | .vSetrs t _ => decide (t < 128)
  | .vGetrs t _ => decide (t < 128)
  | .vGetf t _ => decide (t < 128)
  | .vClrf t _ => decide (t < 128)
  | .vFence t _ => decide (t < 128)
  | .vLd t _ => decide (t < 128)
  | .vLds t _ => decide (t < 128)
  | .vLdx t _ => decide (t < 128)
  | .vSt t _ => decide (t < 128)
  | .vSts t _ => decide (t < 128)
  | .vStx t _ => decide (t < 128)
  | .vAdd t _ => decide (t < 128)
  | .vSub t _ => decide (t < 128)
  | .vMul t _ => decide (t < 128)
  | .vMulh t _ => decide (t < 128)
  | .vMin t _ => decide (t < 128)
  | .vMax t _ => decide (t < 128)
  | .vAbs t _ => decide (t < 128)
  | .vNeg t _ => decide (t < 128)
  | .vSll t _ => decide (t < 128)
  | .vSrl t _ => decide (t < 128)
  | .vSra t _ => decide (t < 128)
  | .vSrar t _ => decide (t < 128)
  | .vSlls t _ => decide (t < 128)
  | .vRotl t _ => decide (t < 128)
  | .vAnd t _ => decide (t < 128)
  | .vOr t _ => decide (t < 128)
  | .vXor t _ => decide (t < 128)
  | .vAndn t _ => decide (t < 128)
  | .vNot t _ => decide (t < 128)
  | .vMov t _ => decide (t < 128)
  | .vIdx t _ => decide (t < 128)
  | .vFadd t _ => decide (t < 128)
  | .vFsub t _ => decide (t < 128)
  | .vFmul t _ => decide (t < 128)
  | .vFma t _ => decide (t < 128)
  | .vFmin t _ => decide (t < 128)
  | .vFmax t _ => decide (t < 128)
  | .vFabs t _ => decide (t < 128)
  | .vFneg t _ => decide (t < 128)
  | .vExp2 t _ => decide (t < 128)
  | .vLog2 t _ => decide (t < 128)
  | .vRcp t _ => decide (t < 128)
  | .vRsqrt t _ => decide (t < 128)
  | .vCvt t _ => decide (t < 128)
  | .vRsum t _ => decide (t < 128)
  | .vRprod t _ => decide (t < 128)
  | .vRmax t _ => decide (t < 128)
  | .vRmin t _ => decide (t < 128)
  | .vRmean t _ => decide (t < 128)
  | .vRargmax t _ => decide (t < 128)
  | .vRargmin t _ => decide (t < 128)
  | .vCmpeq t _ => decide (t < 128)
  | .vCmplt t _ => decide (t < 128)
  | .vCmple t _ => decide (t < 128)
  | .vCmpun t _ => decide (t < 128)
  | .vMand t _ => decide (t < 128)
  | .vMor t _ => decide (t < 128)
  | .vMxor t _ => decide (t < 128)
  | .vMnot t _ => decide (t < 128)
  | .vMpop t _ => decide (t < 128)
  | .vMsel t _ => decide (t < 128)
  | .vRandu t _ => decide (t < 128)
  | .vRandf t _ => decide (t < 128)
  | .vRandb t _ => decide (t < 128)
  | .vRandg t _ => decide (t < 128)
  | .vRandn t _ => decide (t < 128)
  | .dmain t _ => decide (t < 128)
  | .dmaout t _ => decide (t < 128)
  | .dmawait t _ => decide (t < 128)
  | .sli t _ => decide (t < 128)
  | .sadd t _ => decide (t < 128)
  | .ssub t _ => decide (t < 128)
  | .smul t _ => decide (t < 128)
  | .sand t _ => decide (t < 128)
  | .sor t _ => decide (t < 128)
  | .sxor t _ => decide (t < 128)
  | .sshl t _ => decide (t < 128)
  | .sshr t _ => decide (t < 128)
  | .sld t _ => decide (t < 128)
  | .sst t _ => decide (t < 128)
  | .brz t _ => decide (t < 128)
  | .brnz t _ => decide (t < 128)
  | .waitw t _ => decide (t < 128)
  | .setlayer t _ => decide (t < 128)
  | .yield t _ => decide (t < 128)
  | .ctxEnd t _ => decide (t < 128)
  | .spawn t _ => decide (t < 128)
  | .registerWrite m addr width _ => decide (m < 3) && decide (addr < 2 ^ 48) && (width == 1 || width == 2 || width == 4 || width == 8)
  | .loReadLatch m addr => decide (m < 3) && decide (addr < 2 ^ 48)
  | .clrCnt m cls inst => decide (m < 3) && decide (inst < instances cls)
  | .freezeWrite m cls inst _ => decide (m < 3) && decide (inst < instances cls)
  | .bridgeWordTransfer b _ _ _ _ _ => decide (b < 4)
  | .bridgeStall b _ _ _ => decide (b < 4)
  | .gptTctrlWrite m n _ => decide (m < 3) && decide (n < 16)
  | .gptExpire n => decide (n < 16)
  | .rateWindowEnd _ _ => true
  | .clrHs m => decide (m < 3)
  | .emptyTokenExit _ => true
  | .wloadDone t => decide (t < 128)
  | .mmaVectorAccumulate t => decide (t < 128)
  | .drainCtrlGo m t _ => decide (m < 3) && decide (t < 128)
  | .drainReadout t => decide (t < 128)
  | .drainComplete t => decide (t < 128)
  | .accWindowRead m addr _ => decide (m < 3) && decide (addr < 2 ^ 48)
  | .arrayHoldLimit t => decide (t < 128)
  | .tsAccess t _ _ _ _ => decide (t < 128)
  | .seed3Write m cls inst _ => decide (m < 3) && decide (inst < instances cls)
  | .keyDerived cls inst => decide (inst < instances cls)
  | .katGo m t => decide (m < 3) && decide (t < 128)
  | .katComplete t _ => decide (t < 128)
  | .cqTailWrite m cls inst _ => decide (m < 3) && decide (inst < instances cls)
  | .update n => decide (n < 2)
  | .accum n => decide (n < 2)
  | .accum32 n => decide (n < 2)
  | .copy n => decide (n < 2)
  | .zero n => decide (n < 2)
  | .optWaitRelease n => decide (n < 2)
  | .optCmdComplete n => decide (n < 2)
  | .shdSampleCompare n => decide (n < 2)
  | .shdClr m n => decide (m < 3) && decide (n < 2)
  | .shdEnSet m n => decide (m < 3) && decide (n < 2)
  | .prune24 n => decide (n < 2)
  | .encodeTiles n => decide (n < 2)
  | .decodeTiles n => decide (n < 2)
  | .merge n => decide (n < 2)
  | .split n => decide (n < 2)
  | .combine n => decide (n < 2)
  | .prnCmdComplete n => decide (n < 2)
  | .sample c => decide (c < 65536)
  | .sampleHopWrite c => decide (c < 65536)
  | .remoteExpansionServe n _ => decide (n < 2)
  | .replay c => decide (c < 65536)
  | .walkEnd c => decide (c < 65536)
  | .lookup n => decide (n < 2)
  | .lookupBatchServe n _ _ _ _ _ => decide (n < 2)
  | .lookupAnswer n _ _ _ _ _ => decide (n < 2)
  | .scatter n => decide (n < 2)
  | .scatterBatchAccept n _ _ _ _ _ _ => decide (n < 2)
  | .scatterApply n _ _ _ => decide (n < 2)
  | .applyWaitExpire n _ _ _ => decide (n < 2)
  | .gather n => decide (n < 2)
  | .dispatch n => decide (n < 2)
  | .xchReturn n => decide (n < 2)
  | .partDeadlineExpire n _ _ => decide (n < 2)
  | .partAnswer n _ _ _ _ => decide (n < 2)
  | .xchCmdComplete n => decide (n < 2)
  | .slotWrite m n _ _ _ => decide (m < 3) && decide (n < 2)
  | .offload n => decide (n < 2)
  | .prefetch n => decide (n < 2)
  | .drop n => decide (n < 2)
  | .kvShift n => decide (n < 2)
  | .kvReady n d _ _ => decide (n < 2) && decide (d < 2)
  | .kvShiftData n d _ _ _ => decide (n < 2) && decide (d < 2)
  | .kvShiftAck n d _ => decide (n < 2) && decide (d < 2)
  | .linkTrain p _ => decide (p < 11)
  | .linkUp p _ => decide (p < 11)
  | .flitReceive p flit _ => decide (p < 11) && flit.length == 256
  | .nakReceive p _ => decide (p < 11)
  | .retryTmoExpire p => decide (p < 11)
  | .flitSend p => decide (p < 11)
  | .fecWindowEnd p _ _ _ _ => decide (p < 11)
  | .laneFault p _ => decide (p < 11)
  | .retrain m p => decide (m < 3) && decide (p < 11)
  | .degradeRetrainDone p _ _ => decide (p < 11)
  | .packetRoute _ _ _ => true
  | .portCtrlEn m p _ => decide (m < 3) && decide (p < 8)
  | .geomWrite m p _ => decide (m < 3) && decide (p < 8)
  | .mgmtAccess addr width _ => decide (addr < 2 ^ 48) && (width == 1 || width == 2 || width == 4 || width == 8)
  | .reduce c => decide (c < 64)
  | .barrier c => decide (c < 64)
  | .gatePoll c => decide (c < 64)
  | .join c _ _ _ => decide (c < 64)
  | .redReady c _ _ _ => decide (c < 64)
  | .redDrop c _ _ _ _ => decide (c < 64)
  | .agree c _ _ _ _ _ => decide (c < 64)
  | .agreeRes c _ _ _ _ => decide (c < 64)
  | .redData c _ _ _ _ _ _ _ _ => decide (c < 64)
  | .result c _ _ _ _ _ _ => decide (c < 64)
  | .redAck c _ _ _ => decide (c < 64)
  | .levelDeadlineExpire c _ => decide (c < 64)
  | .resultTmoExpire c => decide (c < 64)
  | .redOpComplete c => decide (c < 64)
  | .redReset m c => decide (m < 3) && decide (c < 64)
  | .calve c => decide (c < 64)
  | .land c => decide (c < 64)
  | .calvGather c => decide (c < 64)
  | .regather c => decide (c < 64)
  | .calvChunk c _ _ _ _ _ _ _ _ => decide (c < 64)
  | .copyDone c _ _ _ _ _ => decide (c < 64)
  | .calvDecision c _ _ _ _ _ => decide (c < 64)
  | .calvAck c _ _ _ _ => decide (c < 64)
  | .copyTmoExpire c => decide (c < 64)
  | .decideTmoExpire c => decide (c < 64)
  | .fenceRelease c => decide (c < 64)
  | .fenceTmoExpire c => decide (c < 64)
  | .gatherShardDeadline c => decide (c < 64)
  | .resolveCommit m => decide (m < 3)
  | .resolveAbort m => decide (m < 3)
  | .pset m => decide (m < 3)
  | .seal m => decide (m < 3)
  | .sealCancel m => decide (m < 3)
  | .resync m => decide (m < 3)
  | .restoreTwin m => decide (m < 3)
  | .restoreCompanion m => decide (m < 3)
  | .restoreOwnStore m => decide (m < 3)
  | .rollback m => decide (m < 3)
  | .firnExport m => decide (m < 3)
  | .firnRelease m => decide (m < 3)
  | .firnScanGranule n => decide (n < 2)
  | .hello _ _ _ _ _ _ _ _ _ => true
  | .chunks _ _ _ => true
  | .gack _ _ => true
  | .manifest _ => true
  | .sealed _ _ => true
  | .keeperFold addr => decide (addr < 2 ^ 48)
  | .rqRestore _ _ _ => true
  | .rManifest _ => true
  | .rChunks _ _ => true
  | .rResend _ => true
  | .restored _ _ => true
  | .hbmRead addr _ _ _ => decide (addr < 2 ^ 48)
  | .hbmWrite addr _ _ data _ _ _ => decide (addr < 2 ^ 48) && data.length == 64
  | .init m n => decide (m < 3) && decide (n < 8)
  | .initDone n => decide (n < 8)
  | .scrubStepExpire n _ _ => decide (n < 8)
  | .scrubEnWrite m n _ => decide (m < 3) && decide (n < 8)
  | .cvuGo m n => decide (m < 3) && decide (n < 4)
  | .cvuAbort m n => decide (m < 3) && decide (n < 4)
  | .cvuScanDone n => decide (n < 4)
  | .rdShared addr txid => decide (addr < 2 ^ 48) && decide (txid < 65536)
  | .rdOwn addr txid => decide (addr < 2 ^ 48) && decide (txid < 65536)
  | .rdUncached addr _ txid => decide (addr < 2 ^ 48) && decide (txid < 65536)
  | .wrFull addr txid data _ _ => decide (addr < 2 ^ 48) && decide (txid < 65536) && data.length == 128
  | .wrPartial addr txid _ data _ _ => decide (addr < 2 ^ 48) && decide (txid < 65536) && data.length == 128
  | .evict addr txid _ _ _ _ => decide (addr < 2 ^ 48) && decide (txid < 65536)
  | .doorbell addr txid _ => decide (addr < 2 ^ 48) && decide (txid < 65536)
  | .snpInv addr txid => decide (addr < 2 ^ 48) && decide (txid < 256)
  | .snpShare addr txid => decide (addr < 2 ^ 48) && decide (txid < 256)
  | .oplisAck txid _ _ _ _ => decide (txid < 2048)
  | .oplisData txid _ _ _ _ data _ _ => decide (txid < 2048) && data.length == 128
  | .lineCacheAccess addr _ _ _ => decide (addr < 2 ^ 48)
  | .quiesce m => decide (m < 3)
  | .txnTmoExpire txid => decide (txid < 2048)
  | .snpTmoExpire txid => decide (txid < 256)
  | .claim m _ _ => decide (m < 3)
  | .claimNonce m _ => decide (m < 3)
  | .renew m _ => decide (m < 3)
  | .ownRelease m _ => decide (m < 3)
  | .start m fl c => decide (m < 3) && decide (fl < 2) && decide (c < 32768)
  | .park m fl c => decide (m < 3) && decide (fl < 2) && decide (c < 32768)
  | .kill m fl c => decide (m < 3) && decide (fl < 2) && decide (c < 32768)
  | .ctxCtrlEn m fl => decide (m < 3) && decide (fl < 2)
  | .dspHoldWrite m fl _ => decide (m < 3) && decide (fl < 2)
  | .contextDispatch fl => decide (fl < 2)
  | .quantumExpire c => decide (c < 65536)
  | .contextSave c => decide (c < 65536)
  | .dmaDone t cur => decide (t < 128) && decide (cur < 2)
  | .pdOnWrite m _ _ => decide (m < 3)
  | .pdWake pd => decide (pd < 96)
  | .pdWakeReady pd => decide (pd < 96)
  | .pdSwitchOff pd => decide (pd < 96)
  | .govWindow _ _ _ _ _ => true
  | .shedForceWrite m _ => decide (m < 3)
  | .sag _ _ => true
  | .overDecl _ _ => true
  | .thermThrottle _ => true
  | .thermRelease _ => true
  | .thermtrip _ => true
  | .powerLoss _ => true
  | .bleedEnd _ _ => true
  | .pop m => decide (m < 3)
  | .clrFirst m => decide (m < 3)
  | .clrLog m => decide (m < 3)
  | .ageSample _ => true
  | .sampleNow m _ => decide (m < 3)
  | .clrHist m => decide (m < 3)
  | .resetNAssert _ => true
  | .warmReset m => decide (m < 3)
  | .append _ => true
  | .attest m => decide (m < 3)
  | .arbCommit m _ => decide (m < 3)
  | .extend m _ => decide (m < 3)
  | .dbgReq m _ => decide (m < 3)
  | .dbgToken m => decide (m < 3)
  | .bringupTrain _ _ _ => true
  | .bringupTest _ => true
  | .waitwReread t => decide (t < 128)
  | .secCmdEnd _ => true
  | .firnCmdEnd _ => true
  | .expertBatchReceive n _ _ _ _ _ => decide (n < 2)
  | .jtagInstruction _ => true
  | .refclkLost => true
  | .twinAliveFall => true
  | .sealCut => true
  | .sealFlushDone => true
  | .mirrorTmoExpire => true
  | .quiesceDone => true
  | .oplisLinkDown => true
  | .electionClose => true
  | .leaseExpire => true
  | .handoverTmoExpire => true
  | .govAlertAssert => true
  | .govAlertDeassert => true
  | .resetNRelease => true
  | .fusesSensed => true
  | .bootRestart => true
  | .verify => true
  | .bringupPower => true
  | .vaonComesUp => true
  | .vaonLeavesRange => true

end Sys2Proof
end

