-- ==== Sys2Proof/Tests/Base.lean ====
section
/-! SUPPORT. The state that the tests start from: a device in service with master 0 as owner, every domain on, every stack
initialised, every link up and a descriptor in every ring; and what makes its memory readable and writable. -/
namespace Sys2Proof.Tests
open Sys2Proof.Machine Sys2Proof.Safety

/-- A ring at `a` with 16 entries and one descriptor, its unit enabled. -/
def ring (cls ctrl a : Nat) : List (Nat × W32) := [(rk cls 0 hCTRL, u32 ctrl), (rk cls 0 rBase, u32 a), (rk cls 0 rTail, 1)]

/-- The registers of a device in service, in the order of their addresses. -/
def baseRegs : List (Nat × W32) :=
  [(rk cSYS 0 hSTAT, 0x5004), (rk cSYS 0 SYS.RESET_CAUSE, 3), (rk cSEC 0 SEC.BOOT_STAT, 0x60), (rk cERR 0 ERR.BOOT_CNT, 1)] ++
  ((List.range 8).map fun n => (rk cHBM n hSTAT, (0xC : W32))) ++
  ((List.range 8).map fun p => (rk cPORT p PORT.LINK_STAT, (0x28FF0000 : W32))) ++
  [(rk cMIR 0 hCTRL, 7), (rk cMIR 0 MIR.SUB0_STAT, 0x28FF0000), (rk cMIR 0 MIR.SUB1_STAT, 0x28FF0000),
   (rk cOPL 0 OPL.LINK_STAT, 0x28FF0000)] ++
  ring cRED 1 0x40000 ++ ring cXCH 3 0x30000 ++ [(rk cSMP 0 hCTRL, 3)] ++ ring cPRN 1 0x20000 ++ ring cOPT 9 0x10000 ++ [(rk cFIRN 0 hCTRL, 0xD)]

/-- A device in service. -/
def base : State :=
  { life := { trained := true }
    sec  := { done := true }
    clk  := { time := 2000000 }
    own  := { mode := .owned, owner := 0, valid := true, deadline := 1000000000 }
    pwr  := { pd := (List.range 96).map fun d => (d, { phase := .on }) }
    firn := { everEn := true }
    regs := baseRegs }

/-- Registers are written. -/
def with' (s : State) (l : List (Nat × Nat × Nat × Nat)) : State := l.foldl (fun s e => s.wr e.1 e.2.1 e.2.2.1 (u32 e.2.2.2)) s

/-- Bytes stand in HBM. -/
def putMem (s : State) (a : Nat) (d : Bytes) : State := { s with hbm := { s.hbm with mem := setBytes s.hbm.mem a d } }

/-- `n` bytes of zeros with little-endian fields (offset, width, value). -/
def fields (n : Nat) (l : List (Nat × Nat × Nat)) : Bytes :=
  l.foldl (fun b e => b.take e.1 ++ toLE e.2.1 e.2.2 ++ b.drop (e.1 + e.2.1)) (List.replicate n 0)

theorem base_regs : mwf keyReset base.regs = true := by decide +kernel

/-! ### Memory that answers -/

/-- Every stack answers and is thawed, both bridges are on, no injection is armed, nothing holds an access back. -/
def quiet (s : State) : Bool :=
  ((List.range 8).all fun n => s.stackOk n && !s.hbmFrozen n) && s.pdStat 88 && s.pdStat 89 &&
    (s.regs.all fun e => !(e.1 / 1048576 == cHBM && e.1 % 4096 == HBM.INJ_CTRL) || !e.2.getLsbD 31) &&
    s.opl.sf.isEmpty && s.opl.busy.isEmpty && s.hbm.chk.isEmpty && s.firn.phase != .flush && s.opl.waits.isEmpty

theorem mget_mem {α : Type} (d : α) (m : SMap α) (k : Nat) : mget d m k = d ∨ (k, mget d m k) ∈ m := by
  induction m with
  | nil => exact Or.inl rfl
  | cons e r ih =>
    obtain ⟨k', v⟩ := e
    by_cases h : k = k'
    · subst h; right; simp [mget]
    · rw [mget, if_neg h]
      rcases ih with ih | ih
      · exact Or.inl ih
      · exact Or.inr (List.mem_cons_of_mem _ ih)

theorem memUp_quiet {s : State} (h : quiet s = true) (q : Rq) : MemUp s q := by
  simp only [quiet, Bool.and_eq_true, List.all_eq_true, List.mem_range, Bool.or_eq_true] at h
  obtain ⟨⟨⟨⟨⟨⟨⟨⟨h1, h2⟩, h3⟩, h4⟩, _⟩, _⟩, _⟩, _⟩, _⟩ := h
  refine ⟨fun n hn => ?_, fun f => ?_, fun n hn => ?_⟩
  · have := h1 n hn; simpa using this
  · unfold State.pathOff; rw [h2, h3]; simp
  · unfold InjOff State.rd
    rcases mget_mem (regReset cHBM HBM.INJ_CTRL) s.regs (rk cHBM n HBM.INJ_CTRL) with e | e
    · rw [e]; decide +kernel
    · have := h4 _ e
      have e1 : (rk cHBM n HBM.INJ_CTRL) / 1048576 = cHBM := by simp only [rk, cHBM, HBM.INJ_CTRL]; omega
      have e2 : (rk cHBM n HBM.INJ_CTRL) % 4096 = HBM.INJ_CTRL := by simp only [rk, cHBM, HBM.INJ_CTRL]; omega
      simpa [e1, e2] using this

theorem sound_quiet {s : State} (h : quiet s = true) (a : Nat) : Sound s a := by
  simp only [quiet, Bool.and_eq_true, List.isEmpty_iff] at h
  unfold Sound State.chkOf
  rw [h.1.1.2]
  exact (by decide +kernel : sym4Of 0 = (0, 0, 0, 0))

theorem clear_quiet {s : State} (h : quiet s = true) {a n : Nat} (w : Bool) (hn : a + n ≤ hbmSize) : Clear s a n w := by
  simp only [quiet, Bool.and_eq_true, List.isEmpty_iff, bne_iff_ne] at h
  refine ⟨hn, ?_, ?_, ?_, ?_⟩
  · rw [h.1.1.1.1.2]; simp
  · rw [h.1.1.1.2]; simp
  · intro _; unfold State.runHeld State.heldGrans State.firnHeld; simp [h.1.2]
  · rw [h.2]; simp

theorem soundRun_quiet {s : State} (h : quiet s = true) (a n : Nat) : SoundRun s a n := fun _ _ _ => sound_quiet h _

theorem readable_quiet {s : State} (h : quiet s = true) {a n : Nat} (hn : a + n ≤ hbmSize) : Readable s a n :=
  ⟨clear_quiet h false hn, soundRun_quiet h a n⟩

theorem writable_quiet {s : State} (h : quiet s = true) {a n : Nat} (hn : a + n ≤ hbmSize) : Writable s a n :=
  ⟨clear_quiet h true hn, soundRun_quiet h a n⟩

theorem quiet_putMem (s : State) (a : Nat) (d : Bytes) : quiet (putMem s a d) = quiet s := rfl
theorem quiet_putMem' {s : State} (h : quiet s = true) (a : Nat) (d : Bytes) : quiet (putMem s a d) = true := (quiet_putMem s a d).trans h

theorem base_quiet : quiet base = true := by decide +kernel

/-! ### Variants of the base machine -/

/-- The base machine in another owner state. -/
def owned (o : OwnSt) : State := { base with own := o }
def vacant : State := owned { deadline := 5 }
def electing (d : Nat) : State := owned { mode := .electing, deadline := d, claims := [(2, some ⟨3, 7⟩)] }
def handover (d : Nat) : State := owned { mode := .handover, succ := 2, deadline := d }

/-- All 128 tile sensors and the others at one temperature. -/
def temps (n : Nat) : Temps := ⟨List.replicate 64 n, List.replicate 8 n, List.replicate 8 n⟩

/-- An error record of a page, for a queue. -/
def anErr : ErrRec := ⟨0, false, false, 4, 0, 0, 0, none, 0, none, 0⟩

/-- The base machine with one domain in another phase. -/
def phased (d : Nat) (p : PdSt) : State := base.setPd d p


/-- A context of Floe B that runs on tile 127: record 33,000. -/
def ctxOn (x : Ctx) : State := { base with ctxs := [(33000, { x with state := .running, tile := some 127 })] }

/-- The word of an instruction stands at the PC of a context. -/
def atPc (s : State) (c : Nat) (i : Instr) : State := putMem s (s.ctx c).pc (toLE 8 ((encodeWord i).getD 0).toNat)

/-- What `Issues` asks beyond memory that answers and the word. -/
def issueCheck (s : State) (t c : Nat) : Bool :=
  s.arrOn t && s.runner t == some c && (s.ctx c).state == .running && (s.ctx c).tile == some t && (s.ctx c).waitw == none &&
    (s.ctx c).want == .none && (s.ctx c).pc % 8 == 0 && decide ((s.ctx c).pc + 8 ≤ hbmSize)

theorem issues_of {s : State} {t c : Nat} {i : Instr} (hq : quiet s = true) (h : issueCheck s t c = true)
    (hw : ∃ w, encodeWord i = some w ∧ hbmBytes s (s.ctx c).pc 8 = toLE 8 w.toNat) : Issues s t c i := by
  simp only [issueCheck, Bool.and_eq_true, beq_iff_eq, decide_eq_true_eq] at h
  obtain ⟨⟨⟨⟨⟨⟨⟨h1, h2⟩, h3⟩, h4⟩, h5⟩, h6⟩, h7⟩, h8⟩ := h
  have up := memUp_quiet hq (rqTile (floeOf t))
  have hs := sound_quiet hq (s.ctx c).pc
  simp only [quiet, Bool.and_eq_true, List.isEmpty_iff, bne_iff_ne] at hq
  exact ⟨h1, ⟨h2, h3, h4⟩, h5, h6, h7, h8, up.path _, (up.ready _ (stackOf_lt _)).1, (up.ready _ (stackOf_lt _)).2,
    by rw [hq.1.1.1.1.2]; simp, by rw [hq.1.1.1.2]; simp, by rw [hq.2]; simp, hs, hw⟩

/-- Any instruction with a word issues where its word stands at the PC. -/
theorem issues_at {s : State} {t c : Nat} {i : Instr} (hq : quiet s = true) (h : issueCheck s t c = true)
    (he : (encodeWord i).isSome = true) : Issues (atPc s c i) t c i := by
  refine issues_of ((quiet_putMem s _ _).trans hq) h ⟨(encodeWord i).getD 0, ?_, ?_⟩
  · obtain ⟨w, hw⟩ := Option.isSome_iff_exists.1 he; rw [hw]; rfl
  · have g := getBytes_setBytes_same s.hbm.mem (s.ctx c).pc (toLE 8 ((encodeWord i).getD 0).toNat)
    rw [toLE_length] at g
    exact g

theorem storeSound_of {s : State} (h : s.ts.err = []) (t : Nat) : StoreSound s t := by
  intro w _; unfold State.tsErrOf; rw [h]; rfl

/-- Bytes stand in the store of a tile. -/
def putTs (s : State) (t o : Nat) (d : Bytes) : State := { s with ts := { s.ts with mem := setBytes s.ts.mem (tsAddr t o) d } }

theorem tsClean_of {s : State} (h : s.ts.pois = []) (w : Nat) : mget false s.ts.pois w = false := by rw [h]; rfl

/-- The descriptor at the head of a ring. -/
theorem headIs_of {s : State} {q : Rq} {cls n a : Nat} (hq : quiet s = true) (h1 : s.ringReady cls n = true)
    (ha : s.ringAddr cls n (s.ringHead cls n) = a) (h2 : a + 128 ≤ hbmSize) : HeadIs s q cls n (hbmBytes s a 128) := by
  subst ha
  exact ⟨h1, memUp_quiet hq _, readable_quiet hq h2, rfl⟩

/-- The STATUS byte of a descriptor can be written. -/
theorem doneReady_of {s : State} {q : Rq} {cls n idx off : Nat} (hq : quiet s = true) (h : s.ringAddr cls n idx + off + 1 ≤ hbmSize) :
    DoneReady s q cls n idx off := ⟨memUp_quiet hq _, clear_quiet hq _ h, sound_quiet hq _⟩

end Sys2Proof.Tests
end

