-- ==== Sys2Proof/Tests/Slice0.lean ====
section
/-! SUPPORT. The tests: for every statement with hypotheses a state that meets them, ill-formed commands that `wf` refuses, words
of R80 written out bit by bit, and single steps of the machine. -/
namespace Sys2Proof.Tests
set_option Elab.async false
open Sys2Proof.Machine Sys2Proof.Safety

/-! ### Every statement's hypotheses are met

One theorem a statement, one line a clause: operands and a state that meet the clause's hypotheses together. -/

theorem test_hyp_NonOwnerWriteIsDropped :
    (∀ i ∈ [Instr.clrCnt 1 cTIM 0, .freezeWrite 1 cTILE 127 true, .gptTctrlWrite 1 15 3, .clrHs 2, .pop 1, .clrFirst 1, .clrLog 2,
      .shdClr 1 1, .shdEnSet 1 0, .shedForceWrite 2 true, .renew 1 1, .ownRelease 1 6], (masterWrite i).isSome) ∧
    masterWrite (.gptTctrlWrite 1 15 3) = some (1, cTIM, 0, TIM.GPT_TCTRL + 240) ∧ Reaches base 1 cTIM 0 (TIM.GPT_TCTRL + 240) ∧
    base.isOwner 1 = false ∧ base.clk.time ≤ base.own.deadline := by
  unfold Reaches; decide +kernel

theorem test_hyp_ClaimOpensAndEntersElections :
    Reaches base 2 cOWN 0 OWN.CLAIM_NONCE ∧
    (Reaches vacant 2 cOWN 0 OWN.CLAIM ∧ vacant.own.mode = .vacant) ∧
    (Reaches (electing 2000000) 1 cOWN 0 OWN.CLAIM ∧ (electing 2000000).own.mode = .electing ∧
      (electing 2000000).clk.time ≤ (electing 2000000).own.deadline) := by
  unfold Reaches; decide +kernel

theorem test_hyp_ElectionsCloseAndLeasesExpire :
    (Awake (electing 2000000) ∧ (electing 2000000).own.mode = .electing ∧ (electing 2000000).own.deadline ≤ (electing 2000000).clk.time ∧
      ∃ m c, m < 3 ∧ mget none (electing 2000000).own.claims m = some c) ∧
    (∃ s : State, Awake s ∧ s.own.mode = .owned ∧ s.own.deadline ≤ s.clk.time ∧ s.errQ (pageId cOWN 0) = []) := by
  refine ⟨⟨by unfold Awake; decide +kernel, rfl, by decide +kernel, 2, ⟨3, 7⟩, by decide, rfl⟩,
    owned { mode := .owned, valid := true, deadline := 2000000 }, by unfold Awake; decide +kernel⟩

theorem test_hyp_LeaseRenewalReleaseAndHandover :
    OwnerReady base 0 cOWN 0 OWN.RENEW ∧ OwnerReady base 0 cOWN 0 OWN.RELEASE ∧
    (Awake (handover 2000000) ∧ (handover 2000000).own.mode = .handover ∧ (handover 2000000).own.deadline ≤ (handover 2000000).clk.time) ∧
    (Reaches (handover 2000000) 2 cOWN 0 OWN.CLAIM ∧ (handover 2000000).own.succ = 2 ∧ (handover 2000000).clk.time ≤ (handover 2000000).own.deadline) ∧
    (Reaches (handover 2000000) 0 cOWN 0 OWN.CLAIM ∧ (handover 2000000).own.succ ≠ 0) ∧ Reaches (handover 2000000) 0 cOWN 0 OWN.CLAIM_NONCE ∧
    (masterWrite (.pop 0) = some (0, cERR, 0, ERR.POP) ∧ Reaches (handover 2000000) 0 cERR 0 ERR.POP) ∧
    (Reaches (handover 2000000) 2 cTILE 127 hIRQ_EN ∧ (handover 2000000).lockHit cTILE 127 (hIRQ_EN, u32 5) = false) := by
  unfold OwnerReady Reaches Awake; decide +kernel

theorem test_hyp_OwnershipRowsKeepTheOwnerState :
    OwnInv (owned { mode := .owned, owner := 2, valid := true }) ∧ OwnInv (electing 3) ∧ ownershipRow (.claim 3 0 none) = true := by
  refine ⟨⟨by decide +kernel, by decide +kernel, fun m c h => ?_, by decide +kernel⟩,
    ⟨by decide +kernel, by decide +kernel, fun m c h => ?_, by decide +kernel⟩, rfl⟩
  · exact absurd h (by simp [owned, mget])
  · by_cases e : m = 2
    · omega
    · exact absurd h (by simp [electing, owned, mget, e])

/-! ### Timers, errors, domains -/

/-- A timer that has reached zero. -/
def timed (tctrl : Nat) : State := with' base [(cTIM, 0, TIM.GPT_TCTRL + 16 * 15, tctrl)]

theorem test_hyp_TimersStartStopAndExpire :
    OwnerReady base 0 cTIM 0 (TIM.GPT_TCTRL + 16 * 15) ∧
    (∀ v ∈ [1, 3], Awake (timed v) ∧ (timed v).rdb cTIM 0 (TIM.GPT_TCTRL + 16 * 15) 0 = true ∧ ((timed v).gpt 15).due ≤ (timed v).clk.time) ∧
    OwnerReady base 0 cTIM 0 (TIM.GPT_LOAD_LO + 16 * 15) ∧ OwnerReady base 0 cTIM 0 (TIM.GPT_LOAD_HI + 16 * 15) := by
  unfold OwnerReady Reaches Awake; decide +kernel

theorem test_hyp_RateMonitorAndHandshakeCounters :
    (Awake base ∧ base.clk.running = true ∧ base.clk.time % 1000 = 0 ∧ base.clk.time ≠ 0) ∧
    OwnerReady base 0 cTIM 0 hCTRL := by
  unfold OwnerReady Reaches Awake; decide +kernel

/-- Channel 0 of bridge 3 waits at an event since a time. -/
def chanWaits (ev t : Nat) : State := { base with clk := { base.clk with chans := [(chanKey 3 0 true, some ⟨ev, t⟩)] } }

theorem test_hyp_FatalErrorsHaltTheDevice :
    (Awake base ∧ base.clk.running = true ∧ base.errQ (pageId cTIM 0) = []) ∧
    (∃ t, (chanWaits 4 t).live = true ∧ (chanWaits 4 t).pdStat (bridgeDomain 3) = true ∧
      (chanWaits 4 t).chanWait (chanKey 3 0 true) = some ⟨4, t⟩ ∧
      t + (chanWaits 4 t).rdf cTIM 0 TIM.BRIDGE_WDOG 0 24 < (chanWaits 4 t).clk.time ∧ (chanWaits 4 t).errQ (pageId cTIM 0) = []) ∧
    (base.pins.thermtripN = true ∧ 115 ≤ hottest (temps 115) ∧ base.errQ (pageId cPWR 0) = []) := by
  refine ⟨by unfold Awake; decide +kernel, ⟨0, by decide +kernel⟩, by decide +kernel⟩

theorem test_hyp_BridgeMovesOneWord :
    (base.live = true ∧ 0 < bridgeChannels 3 ∧ base.pdStat (bridgeDomain 3) = true ∧ base.chanWait (chanKey 3 0 true) = none ∧
      digitsGood (List.replicate 32 8)) ∧ (chanWaits 2 5).chanWait (chanKey 3 0 true) = some ⟨2, 5⟩ ∧
    ((∀ d ∈ List.replicate 31 (1 : BitVec 4) ++ [3], d ≠ 0) ∧ ¬ digitsGood (List.replicate 31 1 ++ [3])) ∧
    (∃ s : State, s.live = true ∧ s.pdStat (bridgeDomain 0) = false ∧ 0 < bridgeChannels 0) := by
  refine ⟨by unfold digitsGood; decide +kernel, by decide +kernel, by unfold digitsGood; decide +kernel, { base with pwr := {} }, by decide +kernel⟩

theorem test_hyp_ErrorQueuesPopAndClear :
    (OwnerReady base 0 cERR 0 ERR.POP ∧ selValid (base.rd cERR 0 ERR.SEL) = true ∧ OwnerReady base 0 cERR 0 ERR.CLR_FIRST) ∧
    (OwnerReady base 0 cERR 0 hCTRL ∧ base.err.queues.any (fun e => !e.2.isEmpty) = false) ∧
    (∃ s : State, OwnerReady s 0 cERR 0 hCTRL ∧ s.err.queues.any (fun e => !e.2.isEmpty) = true ∧ (s.errQ (pageId cERR 0)).length < 8) := by
  refine ⟨?_, ?_, { base with err := { queues := [(pageId cERR 0, List.replicate 7 anErr)] } }, ?_⟩ <;>
    (unfold OwnerReady Reaches; decide +kernel)

theorem test_hyp_DomainsSwitchOnAndOff :
    (∃ s : State, OwnerReady s 0 cPWR 0 (PWR.PD_ON0 + 4 * 2) ∧ s.bringupOver = true ∧ s.pdst (32 * 2 + 27) = {} ∧
      s.pdOn (32 * 2 + 27) = false ∧ s.fuses.tilePairs.getLsbD 63 = true ∧ s.eStored [32 * 2 + 27] ≤ s.eLimit) ∧
    ((phased 63 { phase := .wakeWait }).wakeReady = true ∧ (phased 63 { phase := .wakeWait }).firstWake = some 63) ∧
    ((phased 71 { phase := .settling 0 }).pdSettled 71 = true ∧ ((phased 71 { phase := .settling 0 }).pdst 71).queue = [] ∧
      NoWaits (phased 71 { phase := .settling 0 })) ∧
    (∃ s : State, s.live = true ∧ s.pdst 95 = { phase := .offWait } ∧ s.pdDrained 95 = true) ∧
    (∃ s : State, s.live = true ∧ s.pdst 80 = { phase := .offWait } ∧ s.pdDrained 80 = true ∧ s.linkUpP 8 = false ∧ s.linkUpP 9 = false) := by
  refine ⟨⟨{ base with pwr := {} }, by unfold OwnerReady Reaches; decide +kernel⟩, by decide +kernel, by unfold NoWaits; decide +kernel,
    ⟨phased 95 { phase := .offWait }, by decide +kernel⟩,
    with' (phased 80 { phase := .offWait }) [(cMIR, 0, MIR.SUB0_STAT, 0), (cMIR, 0, MIR.SUB1_STAT, 0), (cMIR, 0, hFREEZE, 1)], by decide +kernel⟩

/-! ### Governor, heat, ageing, shadow checker -/

theorem test_hyp_GovernorMeasuresShedsAndSags :
    (Awake base ∧ base.clk.running = true ∧ base.clk.time % 10 = 0) ∧
    (base.pwr.alert = false ∧ base.shed = false ∧ base.pwr.sag = false ∧ base.pwr.overDecl = false ∧ base.pwr.therm = false) ∧
    (∃ s : State, Awake s ∧ s.pwr.alert = true ∧ s.rdb cPWR 0 hCTRL 2 = false) ∧
    (OwnerReady base 0 cPWR 0 hCTRL) ∧
    (base.rdf cPWR 0 PWR.VDECL 0 10 + 10 < 1023 ∧ base.errQ (pageId cPWR 0) = []) ∧
    (min 105 (base.rdf cPWR 0 PWR.THERM_CFG 8 8) ≤ hottest (temps 105)) ∧
    (∃ s : State, Awake s ∧ s.pwr.therm = true ∧ hottest (temps 0) ≤ s.tRelease) := by
  refine ⟨?_, ?_, ⟨{ base with pwr := { base.pwr with alert := true } }, ?_⟩, ?_, ?_, ?_, ⟨{ base with pwr := { base.pwr with therm := true } }, ?_⟩⟩ <;>
    first | (unfold Awake; decide +kernel) | (unfold OwnerReady Reaches; decide +kernel) | decide +kernel

theorem test_hyp_AgeingSamplesEnterTheHistory :
    (∃ s : State, Awake s ∧ s.rdb cAGE 0 hCTRL 0 = true ∧
      s.age.last + max 1 (s.rdf cAGE 0 AGE.AGE_PERIOD 0 16) * 100000000 ≤ s.clk.time) ∧
    (OwnerReady base 0 cAGE 0 hCTRL ∧ base.age.asked = false) ∧ (Reaches base 1 cAGE 0 hCTRL ∧ base.isOwner 1 = false ∧ base.errQ (pageId cAGE 0) = []) := by
  refine ⟨⟨{ with' base [(cAGE, 0, hCTRL, 1), (cAGE, 0, AGE.AGE_PERIOD, 0)] with clk := { time := 100000000 } }, by unfold Awake; decide +kernel⟩, ?_, ?_⟩
  · unfold OwnerReady Reaches; decide +kernel
  · unfold Reaches; decide +kernel

/-- A sample of layer 255 of a shadow checker. -/
def aSample : ShdSample := { item := ⟨[], 4, [], false, ⟨4, false, [], [], [], false, 512⟩, 512, 0, false, 0, some 255⟩, d := [], layer := 255, floor := 0, bin := 0, count := 1 }

theorem test_hyp_ShadowCheckerCountsAndClears :
    (∃ s : State, s.live = true ∧ (s.shdOf 1).queue = [aSample] ∧ aSample.layer < 256) ∧ OwnerReady base 0 cSHD 1 hCTRL ∧
    base.rdb cSHD 1 hCTRL 0 = false := by
  refine ⟨⟨base.setShd 1 { queue := [aSample] }, by decide +kernel⟩, ?_, ?_⟩ <;> first | (unfold OwnerReady Reaches; decide +kernel) | decide +kernel

/-! ### Register accesses -/

theorem test_hyp_RegisterWriteFollowsItsAccessCode :
    (cHBM ∈ plainPages ∧ HBM.SCRUB_STEP ∉ headerActs ∧ OwnerReady base 0 cHBM 7 HBM.SCRUB_STEP) ∧
    (HBM.INJ_ADDR ∉ headerActs ∧ HBM.INJ_ADDR + 4 ∉ headerActs ∧ HBM.INJ_ADDR % 8 = 0 ∧ OwnerReady base 0 cHBM 7 HBM.INJ_ADDR) ∧
    OwnerReady base 0 cARB 145 hIRQ_STAT ∧
    (Reaches base 2 cHBM 7 HBM.SCRUB_STEP ∧ base.isOwner 2 = false ∧ OwnerCurrent base ∧ base.lockHit cHBM 7 (HBM.SCRUB_STEP, 5) = false) ∧
    (base.pathOk 2 = true ∧ accessOk (regAddr cHBM 8 0) 4 = false ∧ accessOk (regAddr cHBM 7 2) 4 = false) := by
  unfold OwnerReady OwnerCurrent Reaches; decide +kernel

theorem test_hyp_ReadsLatchTheHighWord :
    (ReadReady base 1 cTIM 0 TIM.TIME_LO ∧ isLo cTIM TIM.TIME_LO = true) ∧
    (ReadReady base 1 cTIM 0 (TIM.TIME_LO + 4) ∧ isLo cTIM (TIM.TIME_LO + 4) = false ∧ 4 ≤ TIM.TIME_LO + 4) ∧
    (ReadReady base 0 cTILE 127 TILE.TS_CORR_CNT ∧ isLo cTILE TILE.TS_CORR_CNT = false ∧ isLo cTILE (TILE.TS_CORR_CNT - 4) = false) ∧
    (∃ r, regRow cTILE TILE.TS_CORR_CNT = some r ∧ r.acc = .rc) ∧ (base.isOwner 0 = true ∧ base.disabledPage cTILE 127 = false) := by
  refine ⟨?_, ?_, ?_, ⟨(regRow cTILE TILE.TS_CORR_CNT).getD ⟨0, 0, 0, 0, 0, .ro⟩, ?_⟩, ?_⟩ <;>
    first | (unfold ReadReady OwnerCurrent; decide +kernel) | decide +kernel

theorem test_hyp_ManagementChannelIsAMaster :
    (∃ s : State, s.mirUp = true ∧ s.rdb cMIR 0 hCTRL 2 = false) ∧
    (∃ s : State, OwnerReady s 1 cARB 145 ARB.GRANTS) ∧ (ReadReady base 1 cPRN 0 rBase ∧ isLo cPRN (rBase + 8) = false) := by
  refine ⟨⟨with' base [(cMIR, 0, hCTRL, 3)], by decide +kernel⟩, ⟨owned { mode := .owned, owner := 1, deadline := 2000000 }, ?_⟩, ?_⟩ <;>
    first | (unfold OwnerReady Reaches; decide +kernel) | (unfold ReadReady OwnerCurrent; decide +kernel)

theorem test_hyp_CountersClearAndGroupsFreeze :
    (OwnerReady base 0 cPWR 0 hCTRL ∧ (clrBit cPWR).isSome = true) ∧ OwnerReady base 0 cERR 0 hCTRL ∧
    (OwnerReady base 0 cARB 128 hFREEZE ∧ freezePage cARB 128 = (cHBM, 0) ∧ (regRow cHBM hFREEZE).isSome = true ∧ NothingHeld base) ∧
    (OwnerReady base 0 cXCH 1 hFREEZE ∧ (freezePage cXCH 1).1 = cXCH) := by
  unfold OwnerReady Reaches NothingHeld NoWaits; decide +kernel

/-! ### The coherent link and HBM -/

/-- The base machine with a coherent window of 1 GiB at 0 and a cached companion window, its Oplis unit in a state. -/
def opl (o : OplSt) : State :=
  { with' base [(cOPL, 0, OPL.COH_WIN, 0x10000), (cOPL, 0, OPL.WIN_DBASE, 0x40000000), (cOPL, 0, OPL.WIN_CFG, 0x80000114)] with opl := o }

theorem home_ready (o : OplSt) (a : Nat) (h1 : o.waits = [] ∧ o.lcw = [] ∧ o.quiescing = false) (h2 : a < hbmSize)
    (h3 : (opl o).lineActive (a / 128) = false) : HomeReady (opl o) a := by
  have hq : quiet (opl {}) = true := by decide +kernel
  have up := memUp_quiet hq rqOpl
  refine ⟨(by decide +kernel : (opl {}).oplLive = true), ⟨h1.1, h1.2.1, h1.2.2, rfl, rfl⟩, h2, (up.path _), (up.ready _ (stackOf_lt a)).1, (up.ready _ (stackOf_lt a)).2, h3⟩

theorem sector_ready (o : OplSt) (a req : Nat) (h1 : o.waits = [] ∧ o.lcw = [] ∧ o.quiescing = false) (h2 : a < hbmSize)
    (h3 : ∀ b ∈ o.busy, b.1 ≠ a / 128) (h4 : a % 64 = 0)
    (h5 : (opl {}).arbMasked (128 + stackOf a) req = false) : SectorReady (opl o) a req := by
  have hq : quiet (opl {}) = true := by decide +kernel
  have up := memUp_quiet hq
  exact ⟨(by decide +kernel : (opl {}).live = true), ⟨h1.1, h1.2.1, h1.2.2, rfl, rfl⟩, h2, h4, (up _).path _, ((up rqOpl).ready _ (stackOf_lt a)).1, ((up rqOpl).ready _ (stackOf_lt a)).2, h3, h5⟩

theorem test_hyp_CompanionReadsAndWritesHbm :
    (HomeReady (opl {}) 0x7FFFFFFFF0 ∧ 0x7FFFFFFFF0 % 2 ^ 4 = 0 ∧ Sound (opl {}) 0x7FFFFFFFF0 ∧ Sound (opl {}) (0x7FFFFFFFF0 + 2 ^ 4 - 1)) ∧
    (HomeReady (opl {}) 0x7FFFFFFF80 ∧ 0x7FFFFFFF80 % 128 = 0 ∧ (opl {}).sfGet (0x7FFFFFFF80 / 128) ≠ some true ∧
      (opl {}).firnHeld (0x7FFFFFFF80 / 65536) = false ∧ Sound (opl {}) 0x7FFFFFFF80 ∧ Sound (opl {}) 0x7FFFFFFFC0 ∧
      InjOff (opl {}) (stackOf 0x7FFFFFFF80)) := by
  refine ⟨⟨home_ready _ _ ⟨rfl, rfl, rfl⟩ (by decide) (by decide +kernel), ?_, ?_, ?_⟩,
    home_ready _ _ ⟨rfl, rfl, rfl⟩ (by decide) (by decide +kernel), ?_, ?_, ?_, ?_, ?_, ?_⟩ <;>
    first | decide +kernel | (unfold Sound; decide +kernel) | (unfold InjOff; decide +kernel)

/-- A grant of line 5 under TXID 9, the line in M. -/
def granted : OplSt := { sf := [(5, true)], busy := [(5, 9)] }
def inM : OplSt := { sf := [(5, true)] }

theorem test_hyp_CompanionTakesAndReturnsLines :
    (HomeReady (opl {}) 0x3FFFFF80 ∧ (opl {}).inCohWin 0x3FFFFF80 = true ∧ (opl {}).sfVictim (0x3FFFFF80 / 128) = none ∧
      Sound (opl {}) 0x3FFFFF80 ∧ Sound (opl {}) (0x3FFFFF80 + 64)) ∧
    (HomeReady (opl {}) 0x40000000 ∧ (opl {}).inCohWin 0x40000000 = false) ∧
    (HomeReady (opl inM) 640 ∧ (opl inM).sfGet 5 = some true) ∧
    ((opl granted).oplLive = true ∧ NoWaits (opl granted) ∧ (∃ l, (l, 9) ∈ (opl granted).opl.busy)) ∧
    ((opl inM).inCohWin 640 = true ∧ (opl inM).firnHeld (640 / 65536) = false ∧ InjOff (opl inM) (stackOf 640)) := by
  refine ⟨⟨home_ready _ _ ⟨rfl, rfl, rfl⟩ (by decide) (by decide +kernel), ?_, ?_, ?_, ?_⟩,
    ⟨home_ready _ _ ⟨rfl, rfl, rfl⟩ (by decide) (by decide +kernel), ?_⟩,
    ⟨home_ready _ _ ⟨rfl, rfl, rfl⟩ (by decide) (by decide +kernel), ?_⟩, ⟨?_, ?_, 5, ?_⟩, ?_, ?_, ?_⟩ <;>
    first | decide +kernel | (unfold Sound; decide +kernel) | (unfold InjOff; decide +kernel) | (unfold NoWaits; decide +kernel)

/-- A line of the cache, dirty in M, and requests of the device. -/
def lcM : LcLine := ⟨0, true, true, [], false, false, false⟩
def txn (k : TxnKind) : DevTxn := ⟨k, 128, 3, 2000000, false, 128, none⟩

theorem test_hyp_LineCacheServesUnitsAndSnoops :
    ((opl { lc := [lcM] }).live = true ∧ inCompRange 0x400000000040 = true ∧ NoWaits (opl { lc := [lcM] }) ∧
      (opl { lc := [lcM] }).winLookup 0x400000000040 = some (64, true) ∧ (opl { lc := [lcM] }).oplLive = true ∧
      (opl { lc := [lcM] }).rdbufGet 3 64 = none ∧ (opl { lc := [lcM] }).lcGet 0 = some lcM) ∧
    ((opl {}).winLookup 0x4000000FFFFF = some (0xFFFFF, true) ∧ (opl {}).lcGet (0xFFFFF / 128) = none ∧ (opl {}).txnOn (0xFFFFF / 128) = false ∧
      (opl {}).lcRoom (0xFFFFF / 128) = (true, opl {}) ∧ (opl {}).rdb cOPL 0 hFREEZE 0 = false ∧ freeId (opl {}).opl.txns 2048 = some 0) ∧
    (∀ k ∈ [TxnKind.rdShared, .rdUncached], (opl { txns := [(2047, some (txn k))] }).oplLive = true ∧
      NoWaits (opl { txns := [(2047, some (txn k))] }) ∧ (opl { txns := [(2047, some (txn k))] }).txn 2047 = some (txn k)) ∧
    ((∀ k x, (k, some x) ∈ (opl { lc := [lcM] }).opl.txns → x.kind = TxnKind.evict → x.dead = false → x.caddr / 128 ≠ 0) ∧
      (opl { lc := [lcM] }).lcGet (128 / 128) = none) := by
  unfold NoWaits
  refine ⟨by decide +kernel, by decide +kernel, by decide +kernel, ?_, by decide +kernel⟩
  intro k x h; simp [opl, with'] at h

theorem test_hyp_DoorbellsQuiesceAndTimeouts :
    ((opl {}).oplLive = true ∧ NoWaits (opl {}) ∧ cPRN ∈ plainPages ∧ rBase ∉ headerActs ∧ OwnerReady (opl {}) 0 cPRN 1 rBase ∧
      (regRow cPRN rBase).isSome = true) ∧
    (OwnerReady (opl inM) 0 cOPL 0 hCTRL ∧ (opl inM).on 81 = true) ∧
    ((opl { quiescing := true }).on 81 = true ∧ (opl { quiescing := true }).oplEmpty = true) ∧
    ((opl { txns := [(0, some (txn .wrFull))] }).txn 0 = some (txn .wrFull) ∧ (txn .wrFull).due ≤ (opl {}).clk.time ∧
      NoWaits (opl { txns := [(0, some (txn .wrFull))] })) ∧
    (mget none (opl { sf := [(5, true)], snps := [(255, some ⟨5, true, 0, false, false⟩)] }).opl.snps 255 = some ⟨5, true, 0, false, false⟩ ∧
      (opl {}).pathOff rqOpl (stackOf 640 / 4) = none ∧ (opl {}).stackOk (stackOf 640) = true ∧ InjOff (opl {}) (stackOf 640)) ∧
    ((opl inM).oplUp = true ∧ NoWaits (opl inM) ∧ ∀ n, n < 8 → InjOff (opl inM) n) := by
  unfold OwnerReady Reaches NoWaits InjOff
  refine ⟨by decide +kernel, by decide +kernel, by decide +kernel, by decide +kernel, by decide +kernel, by decide +kernel, by decide +kernel, ?_⟩
  decide +kernel

theorem test_hyp_HbmServesSectors :
    (SectorReady (opl {}) 0x7FFFFFFFC0 1 ∧ (opl {}).sfGet (0x7FFFFFFFC0 / 128) = none ∧ Sound (opl {}) 0x7FFFFFFFC0) ∧
    (∃ s : State, SectorReady s 0x40 0 ∧ s.sfGet 0 ≠ some true ∧ s.chkOf 0x40 = poisonRem) ∧
    ((opl {}).firnHeld (0x7FFFFFFFC0 / 65536) = false ∧ InjOff (opl {}) (stackOf 0x7FFFFFFFC0)) ∧
    ((opl {}).live = true ∧ (hbmSize ≤ 0x8000000000 ∨ 0x8000000000 % 64 ≠ 0)) := by
  have h := sector_ready {} 0x40 0 ⟨rfl, rfl, rfl⟩ (by decide) (by simp) rfl (by decide +kernel)
  refine ⟨⟨sector_ready _ _ _ ⟨rfl, rfl, rfl⟩ (by decide) (by simp) rfl (by decide +kernel), by decide +kernel, by unfold Sound; decide +kernel⟩,
    ⟨{ opl {} with hbm := { chk := [(1, poisonRem.pack)] } }, ⟨h.live, h.quiet, h.addr, h.align, h.path, h.stack, h.thaw, h.idle, h.turn⟩,
      by decide +kernel, by decide +kernel⟩,
    ⟨by decide +kernel, by unfold InjOff; decide +kernel⟩, by decide +kernel⟩

/-- A scan of 8 bytes at the end of HBM. -/
def scanning : State := { base with hbm := { scans := [(3, some ⟨0x7FFFFFFFF8, 8, 0⟩)] } }

theorem test_hyp_StacksInitialiseScrubAndScan :
    (∃ s : State, OwnerReady s 0 cHBM 7 hCTRL ∧ s.bringupOver = true ∧ s.pageOn cHBM 7 = true ∧ s.firnEn = false ∧ s.rdb cHBM 7 hSTAT 4 = false) ∧
    (∃ s : State, s.on (64 + 7) = true ∧ s.rdb cHBM 7 hSTAT 4 = true) ∧ OwnerReady base 0 cHBM 7 hCTRL ∧
    (∃ s : State, s.scrubOn 7 = true ∧ mget 0 s.hbm.scrubDue 7 ≤ s.clk.time ∧ s.rdf cHBM 7 HBM.SCRUB_POS 0 24 = 0xFFFFFF ∧
      (∀ pc, pc < 64 → Sound s (sectorAddr 7 pc 0xFFFFFF))) ∧
    (OwnerReady base 0 cCVU 3 hCTRL ∧ base.pageOn cCVU 3 = true ∧ base.scanOf 3 = none ∧ base.calvUse 3 = false ∧ base.cvuBad 3 = false) ∧
    (∃ s : State, s.cvuBad 3 = true ∧ OwnerReady s 0 cCVU 3 hCTRL) ∧ (scanning.scanOf 3 = some ⟨0x7FFFFFFFF8, 8, 0⟩ ∧ OwnerReady scanning 0 cCVU 3 hCTRL) ∧
    (scanning.on (90 + 3 / 2) = true ∧ scanning.opl = {} ∧ (∀ a, 0x7FFFFFFFF8 ≤ a → a < 0x7FFFFFFFF8 + 8 → Sound scanning a) ∧
      (∀ j, j < 8 → scanning.stackOk j = true ∧ scanning.hbmFrozen j = false) ∧ (∀ f, scanning.pathOff (rqScan 3) f = none)) := by
  have hq : quiet scanning = true := by decide +kernel
  have up := memUp_quiet hq
  refine ⟨⟨with' base [(cFIRN, 0, hCTRL, 0)], ?_⟩, ⟨with' base [(cHBM, 7, hSTAT, 0x14)], ?_⟩, ?_,
    ⟨with' base [(cHBM, 7, hCTRL, 4), (cHBM, 7, HBM.SCRUB_POS, 0xFFFFFF)], ?_, ?_, ?_, fun _ _ => ?_⟩, ?_,
    ⟨with' base [(cCVU, 3, CVU.CFG, 7)], ?_⟩, ?_, ?_, ?_, fun _ _ _ => sound_quiet hq _, (up (rqScan 3)).ready, (up _).path⟩
  case refine_7 => exact sound_quiet (by decide +kernel) _
  all_goals first | decide +kernel | (unfold OwnerReady Reaches; decide +kernel)

/-! ### Instructions of a tile context -/

/-- A word's fields, all zero, and for memory operations. -/
def zf : VecFields := (decodeFields 0).2

/-- A vector length of 2,048, the last word of HBM as the next to fetch. -/
def vctx : State := ctxOn { vlen := 2048, pc := 0x7FFFFFFFF8 }

theorem vctx_quiet : quiet vctx = true := by decide +kernel
theorem vctx_check : issueCheck vctx 127 33000 = true := by decide +kernel

/-- That context at the word of an instruction. -/
def vat (i : Instr) : State := atPc vctx 33000 i

theorem vat_issues {i : Instr} (h : (encodeWord i).isSome = true) : Issues (vat i) 127 33000 i := issues_at vctx_quiet vctx_check h
theorem vat_vlen (i : Instr) : ((vat i).ctx 33000).vlen ≤ 2048 := (by decide +kernel : (vctx.ctx 33000).vlen ≤ 2048)

theorem test_hyp_ElementWiseInstructions :
    ∀ i ∈ [Instr.vAdd 127 zf, .vFma 127 { zf with type := 8 }, .vCvt 127 { zf with type := 8, vs3 := 8 }, .vIdx 127 zf,
      .vMsel 127 zf, .vRandu 127 { zf with type := 3 }], ∃ e, elFn i = some e ∧ Issues (vat i) e.t 33000 i ∧
        ((vat i).ctx 33000).vlen ≤ 2048 ∧ e.bad = none := by
  intro i hi
  simp only [List.mem_cons, List.not_mem_nil, or_false] at hi
  rcases hi with rfl | rfl | rfl | rfl | rfl | rfl <;> exact ⟨_, rfl, vat_issues rfl, vat_vlen _, by decide +kernel⟩

theorem test_hyp_MaskWritersAndPopulation :
    (∀ i ∈ [Instr.vCmplt 127 zf, .vMand 127 zf, .vRandb 127 zf], ∃ e, maskFn i = some e ∧ Issues (vat i) e.t 33000 i ∧
      ((vat i).ctx 33000).vlen ≤ 2048 ∧ e.bad = none) ∧
    Issues (vat (.vMpop 127 zf)) 127 33000 (.vMpop 127 zf) ∧
    wordFault { op := 0x8C, vd := .s, vs1 := .m, types := tyNone } zf 32 = none := by
  refine ⟨?_, vat_issues rfl, by decide +kernel⟩
  intro i hi
  simp only [List.mem_cons, List.not_mem_nil, or_false] at hi
  rcases hi with rfl | rfl | rfl <;> exact ⟨_, rfl, vat_issues rfl, vat_vlen _, by decide +kernel⟩

theorem test_hyp_ReductionsWriteTheirElements :
    (∀ i ∈ [Instr.vRsum 127 zf, .vRmean 127 { zf with type := 8 }, .vRargmax 127 zf], ∃ r, redFn i = some r ∧ Issues (vat i) r.1 33000 i ∧
      ((vat i).ctx 33000).vlen ≤ 2048 ∧ wordFault r.2.2.1 r.2.1 32 = none) := by
  intro i hi
  simp only [List.mem_cons, List.not_mem_nil, or_false] at hi
  rcases hi with rfl | rfl | rfl <;> exact ⟨_, rfl, vat_issues rfl, vat_vlen _, by decide +kernel⟩

theorem test_hyp_VectorControlInstructions :
    (∀ i ∈ [Instr.vSetvl 127 zf, .vSetrs 127 zf, .vGetrs 127 zf, .vGetf 127 zf, .vClrf 127 { zf with imm := 63 }, .vFence 127 zf],
      Issues (vat i) 127 33000 i ∧ (vat i).drainsOf 127 33000 = false) ∧
    wordFault (specCtl 0x01 .s .s .none .none) zf 32 = none ∧ wordFault (specCtl 0x02 .none .s .s .s) zf 32 = none ∧
    wordFault (specCtl 0x03 .s .none .none .none) zf 32 = none ∧ wordFault (specCtl 0x04 .s .none .none .none) zf 32 = none ∧
    wordFault { specCtl 0x05 .none .none .none .none with imm := 6 } { zf with imm := 63 } 32 = none ∧
    wordFault { specCtl 0x06 .none .none .none .none with rs := false } zf 32 = none := by
  refine ⟨?_, by decide +kernel⟩
  intro i hi
  simp only [List.mem_cons, List.not_mem_nil, or_false] at hi
  rcases hi with rfl | rfl | rfl | rfl | rfl | rfl <;>
    exact ⟨vat_issues rfl, (by decide +kernel : vctx.drainsOf 127 33000 = false)⟩

/-- Fields of a memory operation on whole 32-bit words. -/
def memF : VecFields := { zf with vs3 := 5 }

/-- The memory operations on such fields. -/
def memIs : List (Instr × MemKind × Bool) :=
  [(.vLd 127 memF, .unit, false), (.vSt 127 memF, .unit, true), (.vLds 127 memF, .stride, false), (.vSts 127 memF, .stride, true),
    (.vLdx 127 memF, .index, false), (.vStx 127 memF, .index, true)]

theorem test_hyp_VectorLoadsAndStores :
    ∀ r ∈ memIs, memFn r.1 = some (127, memF, r.2.1, r.2.2, none) ∧ Issues (vat r.1) 127 33000 r.1 ∧ ((vat r.1).ctx 33000).vlen ≤ 2048 ∧
      memFault r.2.1 memF ((vat r.1).ctx 33000) ((vat r.1).vecOf 127) 5 (memF.actives ((vat r.1).vecOf 127) ((vat r.1).ctx 33000).vlen) = none ∧
      (vat r.1).prn = [] ∧ (vat r.1).tsFrozen 127 = false ∧ StoreSound (vat r.1) 127 := by
  have hf : ∀ md ∈ [MemKind.unit, .stride, .index],
      memFault md memF (vctx.ctx 33000) (vctx.vecOf 127) 5 (memF.actives (vctx.vecOf 127) (vctx.ctx 33000).vlen) = none := by decide +kernel
  intro r hr
  simp only [memIs, List.mem_cons, List.not_mem_nil, or_false] at hr
  rcases hr with rfl | rfl | rfl | rfl | rfl | rfl <;>
    exact ⟨by decide +kernel, vat_issues rfl, vat_vlen _, hf _ (by decide), rfl, (by decide +kernel : vctx.tsFrozen 127 = false),
      storeSound_of rfl 127⟩

/-- s1 points half a store up. -/
def sldS : State := ctxOn { s := [(1, 0x200000)] }
def sldF : VecFields := { zf with imm := 0x1FFFF8, vs1 := 1 }

theorem test_hyp_ScalarInstructionsAndTileStore :
    (Issues (vat (.sshl 127 zf)) 127 33000 (.sshl 127 zf) ∧ (scalarFn (.sshl 127 zf)).isSome = true) ∧
    (∀ i ∈ [Instr.sld 127 sldF, .sst 127 sldF], Issues (atPc sldS 33000 i) 127 33000 i ∧
      tsSize - 8 = (((atPc sldS 33000 i).ctx 33000).sreg (sNum sldF.vs1)).toNat + sldF.imm.toNat ∧ (atPc sldS 33000 i).tsFrozen 127 = false ∧
      StoreSound (atPc sldS 33000 i) 127 ∧ mget false (atPc sldS 33000 i).ts.pois (tsAddr 127 (tsSize - 8) / 8) = false) := by
  refine ⟨⟨vat_issues rfl, by decide +kernel⟩, ?_⟩
  intro i hi
  simp only [List.mem_cons, List.not_mem_nil, or_false] at hi
  rcases hi with rfl | rfl <;>
    exact ⟨issues_at (by decide +kernel) (by decide +kernel) rfl,
      (by decide +kernel : tsSize - 8 = ((sldS.ctx 33000).sreg (sNum sldF.vs1)).toNat + sldF.imm.toNat),
      (by decide +kernel : sldS.tsFrozen 127 = false), storeSound_of rfl 127, tsClean_of rfl _⟩

/-! ### Control, DMA, arrays, contexts -/



/-- Context 33,000 of Floe B with index 40,000 beside it in a state. -/
def two (st : CtxState) : State :=
  { vctx with ctxs := [(33000, { (vctx.ctx 33000) with s := [(0, 7232)] }), (40000, { state := st })] }

theorem vat_quiet (i : Instr) : quiet (vat i) = true := (quiet_putMem _ _ _).trans vctx_quiet
theorem two_quiet : quiet (two .parked) = true ∧ quiet (two .ready) = true := by decide +kernel

/-- The same, at the word of a SPAWN of that context. -/
def spawn2 (st : CtxState) : State := atPc (two st) 33000 (.spawn 127 zf)

theorem test_hyp_BranchesAndContextControl :
    (∀ i ∈ [Instr.brz 127 zf, .brnz 127 zf, .setlayer 127 zf, .yield 127 zf], Issues (vat i) 127 33000 i ∧ (vat i).holds 33000 = false ∧
      (vat i).walkOf 33000 = none) ∧
    (∀ i ∈ [Instr.ctxEnd 127 zf], Issues (vat i) 127 33000 i ∧ (vat i).holds 33000 = false ∧ MemUp (vat i) (rqTile (ctxFloe 33000)) ∧
      Clear (vat i) ((vat i).recAddr 33000) 256 true) ∧
    (∀ st ∈ [CtxState.parked, .ready], Issues (spawn2 st) 127 33000 (.spawn 127 zf) ∧
      40000 = ctxFloe 33000 * 32768 + (((spawn2 st).ctx 33000).sreg (sNum zf.vs1)).toNat % 32768 ∧
      MemUp (spawn2 st) (rqTile (ctxFloe 33000)) ∧ Readable (spawn2 st) ((spawn2 st).recAddr 40000) 256 ∧ ((spawn2 st).ctx 40000).state = st ∧
      (ctxOfBytes (hbmBytes (spawn2 st) ((spawn2 st).recAddr 40000) 256)).usable = true) := by
  have hh : vctx.holds 33000 = false := by decide +kernel
  refine ⟨?_, ?_, ?_⟩
  · intro i hi
    simp only [List.mem_cons, List.not_mem_nil, or_false] at hi
    rcases hi with rfl | rfl | rfl | rfl <;> exact ⟨vat_issues rfl, hh, (by decide +kernel : vctx.walkOf 33000 = none)⟩
  · intro i hi
    simp only [List.mem_cons, List.not_mem_nil, or_false] at hi
    subst hi
    exact ⟨vat_issues rfl, hh, memUp_quiet (vat_quiet _) _, clear_quiet (vat_quiet _) _ (by decide +kernel)⟩
  · intro st hst
    have h : ∀ st, quiet (two st) = true → issueCheck (two st) 127 33000 = true → Issues (spawn2 st) 127 33000 (.spawn 127 zf) :=
      fun st q k => issues_at q k rfl
    have hq : ∀ st, quiet (two st) = true → quiet (spawn2 st) = true := fun st q => (quiet_putMem _ _ _).trans q
    simp only [List.mem_cons, List.not_mem_nil, or_false] at hst
    rcases hst with rfl | rfl
    · have q := hq _ two_quiet.1
      exact ⟨h _ two_quiet.1 (by decide +kernel), by decide +kernel, memUp_quiet q _, readable_quiet q (by decide +kernel), rfl, by decide +kernel⟩
    · have q := hq _ two_quiet.2
      exact ⟨h _ two_quiet.2 (by decide +kernel), by decide +kernel, memUp_quiet q _, readable_quiet q (by decide +kernel), rfl, by decide +kernel⟩

/-- A cursor that has all of a tile store to move. -/
def cur (out : Bool) : DmaCur := ⟨true, out, 0, 0, tsSize⟩
def dmaS (out : Bool) : State := ctxOn { s := [(1, 64)], dma1 := cur out }
def waitS (w : Option (Nat × Nat)) : State := ctxOn { s := [(1, 0x100), (2, 0)], waitw := w }

/-- A WAITW on word 0x100, and one on the timebase. -/
def wwF : VecFields := { zf with vs1 := 1, vs2 := 2 }
def waitAt : State := atPc (waitS none) 33000 (.waitw 127 wwF)
def timeS : State := ctxOn { s := [(1, u64 (regAddr cTIM 0 TIM.TIME_LO))] }

/-- What the completion of a cursor asks. -/
theorem dma_ready (b : Bool) : (dmaS b).runner 127 = some 33000 ∧ (dmaS b).arrOn 127 = true ∧ ((dmaS b).ctx 33000).dma 1 = cur b ∧
    (dmaS b).tsFrozen 127 = false := by cases b <;> decide +kernel

theorem test_hyp_DmaAndWaits :
    (∀ i ∈ [Instr.dmain 127 zf, .dmaout 127 zf], Issues (atPc (dmaS false) 33000 i) 127 33000 i ∧
      (((atPc (dmaS false) 33000 i).ctx 33000).dma 0).active = false) ∧
    (∀ i ∈ [Instr.dmawait 127 zf], Issues (vat i) 127 33000 i ∧ ((vat i).ctx 33000).dma0.active = false ∧ ((vat i).ctx 33000).dma1.active = false) ∧
    (∃ s : State, Issues s 127 33000 (.dmawait 127 zf) ∧ (s.ctx 33000).dma0.active = true ∧ zf.imm.getLsbD 0 = false) ∧
    (∀ b ∈ [true, false], StoreSound (dmaS b) 127 ∧ (∀ w, mget false (dmaS b).ts.pois w = false) ∧
      MemUp (dmaS b) (rqTile (floeOf 127)) ∧ Clear (dmaS b) 0 tsSize b ∧ SoundRun (dmaS b) 0 tsSize ∧
      Clear (dmaS b) ((dmaS b).recAddr 33000) 256 true) ∧
    (Issues waitAt 127 33000 (.waitw 127 wwF) ∧ 0x100 = ((waitAt.ctx 33000).sreg (sNum wwF.vs1)).toNat ∧
      MemUp waitAt (rqTile (floeOf 127)) ∧ Readable waitAt 0x100 4) ∧
    (0 ≤ (BitVec.ofNat 32 0 - BitVec.ofNat 32 0).toInt ∧ (BitVec.ofNat 32 0 - BitVec.ofNat 32 1).toInt < 0) ∧
    (accessOk (regAddr cTIM 0 TIM.TIME_LO) 4 = true ∧ regAddr cTIM 0 TIM.TIME_LO % 4 = 0 ∧
      Issues (atPc timeS 33000 (.waitw 127 wwF)) 127 33000 (.waitw 127 wwF) ∧
      regAddr cTIM 0 TIM.TIME_LO = (((atPc timeS 33000 (.waitw 127 wwF)).ctx 33000).sreg (sNum wwF.vs1)).toNat) ∧
    ((waitS (some (0x100, 0))).arrOn 127 = true ∧ (waitS (some (0x100, 0))).runner 127 = some 33000 ∧
      ((waitS (some (0x100, 0))).ctx 33000).want = .none ∧
      ((waitS (some (0x100, 0))).ctx 33000).waitw = some (0x100, 0) ∧ MemUp (waitS (some (0x100, 0))) (rqTile (floeOf 127)) ∧
      Readable (waitS (some (0x100, 0))) 0x100 4) := by
  have q : ∀ b, quiet (dmaS b) = true := fun b => by cases b <;> decide +kernel
  have q1 : quiet waitAt = true := by decide +kernel
  have q2 : quiet (waitS (some (0x100, 0))) = true := by decide +kernel
  have q3 : quiet (ctxOn { dma0 := cur false }) = true := by decide +kernel
  have c0 : issueCheck (dmaS false) 127 33000 = true := by decide +kernel
  refine ⟨?_, ?_, ⟨atPc (ctxOn { dma0 := cur false }) 33000 _, issues_at q3 (by decide +kernel) rfl, rfl, by decide⟩, ?_,
    ⟨issues_at (by decide +kernel) (by decide +kernel) rfl, by decide +kernel, memUp_quiet q1 _, readable_quiet q1 (by decide)⟩, by decide,
    ⟨by decide +kernel, by decide +kernel, issues_at (by decide +kernel) (by decide +kernel) rfl, by decide +kernel⟩,
    by decide +kernel, by decide +kernel, rfl, rfl, memUp_quiet q2 _, readable_quiet q2 (by decide)⟩
  · intro i hi
    simp only [List.mem_cons, List.not_mem_nil, or_false] at hi
    rcases hi with rfl | rfl <;> exact ⟨issues_at (q false) c0 rfl, (by decide +kernel : (((dmaS false).ctx 33000).dma 0).active = false)⟩
  · intro i hi
    simp only [List.mem_cons, List.not_mem_nil, or_false] at hi
    subst hi
    exact ⟨vat_issues rfl, rfl, rfl⟩
  · intro b _
    have hs : (dmaS b).ts.err = [] ∧ (dmaS b).ts.pois = [] := by cases b <;> exact ⟨rfl, rfl⟩
    have hr : (dmaS b).recAddr 33000 + 256 ≤ hbmSize := by cases b <;> decide +kernel
    exact ⟨storeSound_of hs.1 _, tsClean_of hs.2, memUp_quiet (q b) _, clear_quiet (q b) _ (by decide), soundRun_quiet (q b) _ _,
      clear_quiet (q b) _ hr⟩

/-- A weight tile of zeros in FP8; a context whose MMA descriptor at 0 asks for 512 rows. -/
def wt : WTile := ⟨0, false, [], [], [], false, 128⟩
def arrS (x : TileSt) : State := (putTs (ctxOn {}) 127 0 (fields 32 [(12, 4, 511)])).setTile 127 x

/-- The same, with the word of an instruction at the PC. -/
def arrI (x : TileSt) (i : Instr) : State := atPc (arrS x) 33000 i

theorem arr_desc (x : TileSt) (i : Instr) : DescReady (arrI x i) 127 33000 zf 0 :=
  ⟨(by decide +kernel : 0 = (((arrS {}).ctx 33000).sreg (sNum zf.vs1)).toNat + zf.imm.toNat), by decide, by decide, by decide,
    (by decide +kernel : (arrS {}).tsFrozen 127 = false), storeSound_of rfl _, tsClean_of rfl⟩

theorem arr_issues (x : TileSt) {i : Instr} (h : (encodeWord i).isSome = true) : Issues (arrI x i) 127 33000 i :=
  issues_at (by decide +kernel : quiet (arrS {}) = true) (by decide +kernel : issueCheck (arrS {}) 127 33000 = true) h

theorem test_hyp_ArrayInstructionsEnterTheArray :
    (∀ i ∈ [Instr.wload 127 zf], Issues (arrI {} i) 127 33000 i ∧ DescReady (arrI {} i) 127 33000 zf 0 ∧ ((arrI {} i).tile 127).loading = none ∧
      ((arrI {} i).tile 127).leaving = false ∧ (arrI {} i).prn = [] ∧
      (descAt (arrI {} i) 127 0 0).toNat % 64 = 0 ∧ codeFamily ((descAt (arrI {} i) 127 0 1).toNat % 16) ∈ [some 0, some 2] ∧
      (descAt (arrI {} i) 127 0 1).toNat / 16 % 2 = 0 ∧ (descAt (arrI {} i) 127 0 0).toNat + elemBytes 0 (codeK 0 * 128) ≤ tsSize) ∧
    (∃ (s : State) (r : MmaReq), s = arrI { active := some wt } (.mma 127 zf) ∧ Issues s 127 33000 (.mma 127 zf) ∧ DescReady s 127 33000 zf 0 ∧
      r = { off := (descAt s 127 0 0).toNat, stride := (descAt s 127 0 1).toNat, fmt := fld (descAt s 127 0 2) 0 4, m := fld (descAt s 127 0 3) 0 10, row := fld (descAt s 127 0 4) 0 9, add := (descAt s 127 0 5).getLsbD 0, swap := (descAt s 127 0 5).getLsbD 1, scl := (descAt s 127 0 6).toNat, sclStride := (descAt s 127 0 7).toNat } ∧
      r.m = 511 ∧ r.swap = false ∧ (s.tile 127).active = some wt ∧ (s.tile 127).loading = none ∧ (s.tile 127).leaving = false ∧
      (s.tile 127).mmaBad r wt = false ∧ wt.pois = false) ∧
    (∃ d, Issues (arrI {} (.drain 127 zf)) 127 33000 (.drain 127 zf) ∧ DescReady (arrI {} (.drain 127 zf)) 127 33000 zf 0 ∧
      d = drainOf 0x3FE00 0 512 0 0 0 0 0 (.store (some 33000)) ∧ ((arrI {} (.drain 127 zf)).tile 127).drainBad d = false) ∧
    (∀ i ∈ [Instr.release 127 zf], Issues (arrI { holder := some 33000 } i) 127 33000 i ∧
      ((arrI { holder := some 33000 } i).tile 127).holder = some 33000 ∧ ((arrI { holder := some 33000 } i).tile 127).pipe = [] ∧
      ((arrI { holder := some 33000 } i).tile 127).loading = none ∧ ((arrI { holder := some 33000 } i).tile 127).leaving = false) := by
  refine ⟨?_, ⟨_, _, rfl, arr_issues _ rfl, arr_desc _ _, rfl, by decide +kernel⟩,
    ⟨_, arr_issues {} rfl, arr_desc {} _, rfl, by decide +kernel⟩, ?_⟩ <;>
    (intro i hi; simp only [List.mem_cons, List.not_mem_nil, or_false] at hi; subst hi)
  · exact ⟨arr_issues {} rfl, arr_desc {} _, by decide +kernel⟩
  · exact ⟨arr_issues _ rfl, by decide +kernel⟩

/-- A drain of 512 rows from row 0 to the store's start. -/
def dr : DrainReq := ⟨14, 0, 0, 512, 0, 512, 0, 0, 0, 0, 0, 0, .store none⟩
/-- An activation vector for row 511. -/
def av : VecItem := ⟨[], 0, [], false, wt, 128, 511, false, 0, none⟩

theorem test_hyp_ArrayEventsCompleteTheirWork :
    ((arrS { loading := some wt }).arrOn 127 = true ∧ ((arrS { loading := some wt }).tile 127).loading = some wt) ∧
    (((arrS { pipe := [.vec av] }).tile 127).pipe = [.vec av] ∧ av.add = false ∧ (arrS { pipe := [.vec av] }).arrOn 127 = true ∧
      ((arrS { pipe := [.vec av] }).tile 127).leaving = false) ∧
    ((arrS { pipe := [.drain [dr] false 0] }).arrOn 127 = true ∧ ((arrS { pipe := [.drain [dr] false 0] }).tile 127).pipe = [.drain [dr] false 0] ∧
      (arrS { pipe := [.drain [dr] false 0] }).tsFrozen 127 = false ∧ dr.dst + (dr.count - 1) * dr.stride + 512 ≤ tsSize ∧
      dr.mode = 0 ∧ dr.fmt = 0 ∧ 0 < dr.count ∧ dr.dst % 64 = 0 ∧ dr.stride % 64 = 0 ∧ 512 ≤ dr.stride) ∧
    ((arrS { pipe := [.drain [dr] true 0] }).arrOn 127 = true ∧ ((arrS { pipe := [.drain [dr] true 0] }).tile 127).pipe = [.drain [dr] true 0] ∧ dr.tag < 16 ∧
      ((arrS { pipe := [.drain [dr] true 0] }).tile 127).leaving = false) ∧
    (∃ d, OwnerReady base 0 cTILE 127 TILE.DRAIN_CTRL ∧ base.pageOn cTILE 127 = true ∧
      d = drainOf 0x3FE00 (base.rd cTILE 127 TILE.DRAIN_DST) (base.rd cTILE 127 TILE.DRAIN_DSTRIDE) (base.rd cTILE 127 TILE.DRAIN_OUT)
        (base.rd cTILE 127 TILE.DRAIN_STREAM) (base.rd cTILE 127 TILE.DRAIN_BASE_LO) (base.rd cTILE 127 TILE.DRAIN_BASE_HI)
        (base.rd cTILE 127 TILE.DRAIN_RSTRIDE) (.store none) ∧ d.count = 512 ∧ (base.tile 127).drainBad d = false ∧ (base.tile 127).holder = none) ∧
    (base.live = true ∧ accWinRows (awBase + 127 * tsSize + 0x3FFFF) 1 = some (127, 511, 1) ∧ base.tileEnabled 127 = true ∧ base.on (127 / 2) = true) ∧
    (base.arrOn 127 = true ∧ (tsSize - 64) % 64 = 0 ∧ tsSize - 64 < tsSize ∧ base.tsFrozen 127 = false ∧ StoreSound base 127 ∧
      (∀ w, mget false base.ts.pois w = false)) ∧
    (∃ s : State, s.arrOn 127 = true ∧ (s.tile 127).holder = some 33000 ∧ s.rdf cDSP (floeOf 127) DSP.HOLD_LIMIT 0 24 ≠ 0 ∧
      (s.tile 127).since + s.rdf cDSP (floeOf 127) DSP.HOLD_LIMIT 0 24 ≤ s.clk.time ∧ (s.ctx 33000).tile = some 127 ∧ (s.tile 127).pipe = [] ∧
      (s.tile 127).leaving = false ∧
      MemUp s (rqTile (ctxFloe 33000)) ∧ Clear s (s.recAddr 33000) 256 true) := by
  refine ⟨by decide +kernel, by decide +kernel, by decide +kernel, by decide +kernel,
    ⟨_, by unfold OwnerReady Reaches; decide +kernel, by decide +kernel, rfl, by decide +kernel⟩, by decide +kernel,
    ⟨by decide +kernel, by decide, by decide, by decide +kernel, storeSound_of rfl _, tsClean_of rfl⟩,
    with' (arrS { holder := some 33000 }) [(cDSP, 1, DSP.HOLD_LIMIT, 2000000)], ?_⟩
  have q : quiet (with' (arrS { holder := some 33000 }) [(cDSP, 1, DSP.HOLD_LIMIT, 2000000)]) = true := by decide +kernel
  exact ⟨by decide +kernel, by decide +kernel, by decide +kernel, by decide +kernel, by decide +kernel, rfl, rfl, memUp_quiet q _,
    clear_quiet q _ (by decide +kernel)⟩

/-- Contexts of Floe B, the dispatcher enabled, tables at 16 MiB. -/
def dspS (l : List (Nat × Ctx)) : State :=
  { with' base [(cCTX, 1, hCTRL, 1), (cCTX, 1, CTX.CTX_BASE_LO, 0x1000000), (cDSP, 1, hCTRL, 1)] with ctxs := l }

/-- A context that is being saved to leave tile 127. -/
def saveCtx (k : Nat) (w : CtxWant) : Ctx :=
  { state := .saving, kind := k, want := w, tile := some (if k = 1 then 129 else 127), save := 0x2000000, tsOff := 1, tsLen := 65535 }

theorem test_hyp_ContextsStartParkEndAndRun :
    ((dspS []).ctxBusyOf 1 = none ∧ mget false (dspS []).scanDue 1 = false ∧ OwnerReady (dspS []) 0 cCTX 1 CTX.CMD ∧ (dspS []).pageOn cCTX 1 = true ∧ (dspS []).rdb cCTX 1 hCTRL 0 = true ∧ MemUp (dspS []) (rqTile 1) ∧
      Writable (dspS []) ((dspS []).recAddr (32768 + 32767)) 256 ∧
      (ctxOfBytes (hbmBytes (dspS []) ((dspS []).recAddr (32768 + 32767)) 256)).usable = true) ∧
    (∀ st ∈ [CtxState.ready, .parked], ((dspS [(65535, { state := st })]).ctx (32768 + 32767)).state = st ∧
      ((dspS [(65535, { state := st })]).ctx (32768 + 32767)).tile = none) ∧
    (OwnerReady base 0 cCTX 1 hCTRL ∧ base.bringupOver = true ∧ base.rdb cCTX 1 hCTRL 0 = false ∧ base.pageOn cCTX 1 = true ∧
      MemUp base (rqTile 1) ∧ Writable base (base.recAddr 32768) (256 * 32768)) ∧
    (OwnerReady base 0 cDSP 1 hCTRL ∧ base.anyRunning 1 = false) ∧
    (∃ x, (dspS [(65535, { state := .ready })]).ctxBusyOf 1 = none ∧ mget false (dspS [(65535, { state := .ready })]).scanDue 1 = false ∧
      (dspS [(65535, { state := .ready })]).on 93 = true ∧ (dspS [(65535, { state := .ready })]).rdb cDSP 1 hCTRL 0 = true ∧
      (dspS [(65535, { state := .ready })]).rdb cDSP 1 hCTRL 2 = false ∧ (dspS [(65535, { state := .ready })]).nextPlaced 1 = some (65535, 64) ∧
      (dspS [(65535, { state := .ready })]).tsFrozen 64 = false ∧ MemUp (dspS [(65535, { state := .ready })]) (rqTile 1) ∧
      Readable (dspS [(65535, { state := .ready })]) ((dspS [(65535, { state := .ready })]).recAddr 65535) 256 ∧
      x = ctxOfBytes (hbmBytes (dspS [(65535, { state := .ready })]) ((dspS [(65535, { state := .ready })]).recAddr 65535) 256) ∧ x.usable = true ∧
      x.kind = 0 ∧ x.flags = 0 ∧ x.save = 0 ∧ x.tsLen = 0 ∧ Readable (dspS [(65535, { state := .ready })]) x.save (saveBytes + 64 * x.tsLen)) ∧
    (∃ s : State, (s.ctx 33000).state = .running ∧ (s.ctx 33000).want = .none ∧ (s.ctx 33000).waitw = none ∧ s.holds 33000 = false ∧
      s.walkOf 33000 = none ∧ s.on (92 + ctxFloe 33000) = true ∧ s.rdb cDSP (ctxFloe 33000) hCTRL 0 = true ∧
      (s.ctx 33000).since + s.rdf cDSP (ctxFloe 33000) DSP.QUANTUM 0 24 ≤ s.clk.time ∧
      (s.readyOrder (ctxFloe 33000)).any (fun e => decide (e.2.prio ≤ (s.ctx 33000).prio) && e.2.kind == (s.ctx 33000).kind) = true) ∧
    (∀ w ∈ [CtxWant.park, .save, .quantum], ∀ k ∈ [1, 0], ((dspS [(33000, saveCtx k w)]).ctx 33000).state = .saving ∧
      (dspS [(33000, saveCtx k w)]).holds 33000 = false ∧ (dspS [(33000, saveCtx k w)]).on (92 + ctxFloe 33000) = true ∧
      MemUp (dspS [(33000, saveCtx k w)]) (rqTile 1) ∧ Clear (dspS [(33000, saveCtx k w)]) ((dspS [(33000, saveCtx k w)]).recAddr 33000) 256 true ∧
      StoreSound (dspS [(33000, saveCtx k w)]) 127 ∧ (saveCtx k w).save % 64 = 0 ∧ 64 * ((saveCtx k w).tsOff + (saveCtx k w).tsLen) ≤ tsSize ∧
      Clear (dspS [(33000, saveCtx k w)]) (saveCtx k w).save (saveBytes + 64 * (saveCtx k w).tsLen) true ∧
      (dspS [(33000, saveCtx k w)]).recAddr 33000 + 256 ≤ (saveCtx k w).save) := by
  have q0 : quiet (dspS []) = true := by decide +kernel
  have q1 : quiet (dspS [(65535, { state := .ready })]) = true := by decide +kernel
  have q2 : ∀ w k, quiet (dspS [(33000, saveCtx k w)]) = true := fun _ _ => q0
  refine ⟨⟨rfl, rfl, by unfold OwnerReady Reaches; decide +kernel, by decide +kernel, by decide +kernel, memUp_quiet q0 _, writable_quiet q0 (by decide +kernel),
      by decide +kernel⟩, by decide +kernel, ⟨by unfold OwnerReady Reaches; decide +kernel, by decide +kernel, by decide +kernel, by decide +kernel,
      memUp_quiet base_quiet _, writable_quiet base_quiet (by decide +kernel)⟩, by unfold OwnerReady Reaches; decide +kernel,
    ⟨_, rfl, rfl, by decide +kernel, by decide +kernel, by decide +kernel, by decide +kernel, by decide +kernel, memUp_quiet q1 _,
      readable_quiet q1 (by decide +kernel), rfl, by decide +kernel, by decide +kernel, by decide +kernel, by decide +kernel, by decide +kernel,
      readable_quiet q1 (by decide +kernel)⟩,
    ⟨dspS [(33000, { state := .running, tile := some 127, prio := 3 }), (65535, { state := .ready, prio := 3 })], by decide +kernel⟩, ?_⟩
  intro w hw k hk
  simp only [List.mem_cons, List.not_mem_nil, or_false] at hw hk
  rcases hw with rfl | rfl | rfl <;> rcases hk with rfl | rfl <;>
    exact ⟨rfl, by decide +kernel, by decide +kernel, memUp_quiet (q2 _ _) _, clear_quiet (q2 _ _) _ (by decide +kernel), storeSound_of rfl _,
      by decide, by decide +kernel, clear_quiet (q2 _ _) _ (by decide), by decide +kernel⟩

/-! ### Keys and the optimizer units -/

/-- The base machine with a descriptor at the head of a ring, its STATUS unused. -/
def optS (b : Bytes) : State := putMem base 0x10000 b

/-- What `OptReady` asks beyond memory that answers. -/
def optCheck (s : State) (d : OptDesc) : Bool :=
  s.ringReady cOPT 0 && decide (s.ringAddr cOPT 0 (s.ringHead cOPT 0) + 128 ≤ hbmSize) && decide (s.optOf 0 = { cur := none, held := none }) && !d.bad && (!d.wait || s.redPast d.waitCh d.waitSeq) && d.runs.all fun r => decide (r.1 + r.2.1 ≤ hbmSize)

theorem optReady_of {s : State} {d : OptDesc} (hq : quiet s = true) (hd : d = s.optDesc 0 (hbmBytes s (s.ringAddr cOPT 0 (s.ringHead cOPT 0)) 128))
    (h : optCheck s d = true) : OptReady s 0 d := by
  simp only [optCheck, Bool.and_eq_true, decide_eq_true_eq, Bool.not_eq_true', Bool.or_eq_true, List.all_eq_true] at h
  obtain ⟨⟨⟨⟨⟨h1, h2⟩, h3⟩, h5⟩, h6⟩, h7⟩ := h
  refine ⟨⟨h1, memUp_quiet hq _, readable_quiet hq h2, rfl⟩, hd, h3, h5, fun hw => ?_, fun r hr => ⟨clear_quiet hq _ (h7 r hr), soundRun_quiet hq _ _⟩⟩
  rcases h6 with h6 | h6
  · rw [hw] at h6; cases h6
  · exact h6

/-- Descriptors: an UPDATE under rule 3 of two class S weights with divisor `v`, and the other commands. -/
def updB (v : Nat) : Bytes := fields 128 [(0, 1, 1), (1, 1, 3), (3, 1, 0x50), (8, 8, 2), (0x10, 8, 0x1000000), (0x18, 8, 0x1000004),
  (0x20, 8, 0x1000008), (0x28, 8, 0x1000010), (0x54, 4, v), (0x58, 4, 1)]
def optB (op : Nat) : Bytes := fields 128 [(0, 1, op), (1, 1, 3), (4, 1, 1), (8, 8, 32), (0x10, 8, 0x2000000), (0x18, 8, 0x2001000),
  (0x20, 8, 0x2002000), (0x28, 8, 0x2003000), (0x30, 8, 0x2004000), (0x38, 8, 0x2005000), (0x58, 4, 1)]
def optD (b : Bytes) : OptDesc := (optS b).optDesc 0 (hbmBytes (optS b) ((optS b).ringAddr cOPT 0 ((optS b).ringHead cOPT 0)) 128)

/-- An UPDATE with a rule the spec does not name; a ZERO that waits for a channel's operation 9. -/
def badB : Bytes := fields 128 [(0, 1, 1), (1, 1, 5)]
def waitB : Bytes := fields 128 [(0, 1, 5), (3, 1, 4), (0x30, 8, 64), (0x68, 4, 9)]
/-- The descriptor's bytes at the head of the ring. -/
def headB (s : State) : Bytes := hbmBytes s 0x10000 128
def waitD : OptDesc := (optS waitB).optDesc 0 (headB (optS waitB))
/-- A ZERO is held. -/
def heldS : State := { optS (optB 5) with opt := [(0, { held := some (0, headB (optS (optB 5))) })] }

def heldD : OptDesc := heldS.optDesc 0 (headB heldS)

/-- An optimizer instance that has run a command. -/
def ranS : State := { base with opt := [(0, { cur := some ⟨15, 1, some 0, true⟩ })] }

theorem test_hyp_SeedsKeysAndKnownAnswers :
    (∃ p, seedOff cVEC = some p ∧ OwnerReady base 0 cVEC 127 (p.1 + 12)) ∧
    (∃ s : State, (seedOff cOPT).isSome = true ∧ s.pageOn cOPT 1 = true ∧ (mget none s.keyNext (rk cOPT 1 0)).isSome = true) ∧
    (OwnerReady base 0 cVEC 127 hCTRL ∧ base.bringupOver = true ∧ base.pageOn cVEC 127 = true ∧ (base.tile 127).vbusy = false) ∧
    (∃ s : State, s.arrOn 127 = true ∧ (s.tile 127).kat = true ∧ 0 < s.lanes) ∧
    (∀ c ∈ [cOPT, cPRN, cXCH, cRED], OwnerReady base 0 c 1 rTail) := by
  refine ⟨⟨(seedOff cVEC).getD (0, 0), by unfold OwnerReady Reaches; decide +kernel⟩,
    ⟨{ base with keyNext := [(rk cOPT 1 0, some (1, 2, 3, 4))] }, by decide +kernel⟩, by unfold OwnerReady Reaches; decide +kernel,
    ⟨base.setTile 127 { kat := true }, by decide +kernel⟩, by unfold OwnerReady Reaches; decide +kernel⟩

theorem test_hyp_OptimizerCommandsRunAndComplete :
    (∀ v ∈ [0, 0x3F800000], OptReady (optS (updB v)) 0 (optD (updB v)) ∧ (optD (updB v)).op = 1 ∧ (optD (updB v)).rule = 3 ∧
      (optD (updB v)).gfp32 = true ∧ (optD (updB v)).divMode = 1 ∧ (optD (updB v)).wcopy = false ∧ (optD (updB v)).cls = 0 ∧
      (f32 (optD (updB v)).divisor).isZero = decide (v = 0) ∧ (optS (updB v)).rdb cOPT 0 hCTRL 1 = false ∧
      (∀ i, i < 3 → ∀ j, j < 3 → i < j → apart (optArr (optD (updB v)) i) (2 * (optD (updB v)).n) (optArr (optD (updB v)) j) (2 * (optD (updB v)).n))) ∧
    (∀ op ∈ [2, 3, 4, 5], OptReady (optS (optB op)) 0 (optD (optB op)) ∧ (optD (optB op)).op = op ∧ (optD (optB op)).mx = false ∧
      (codeFmt (optD (optB op)).wfmt).isSome = true) ∧
    apart (optD (optB 3)).m (4 * (optD (optB 3)).n) (optD (optB 3)).w 4 ∧
    (HeadIs (optS badB) (rqOpt 0) cOPT 0 (headB (optS badB)) ∧ ((optS badB).optDesc 0 (headB (optS badB))).bad = true ∧
      (optS badB).optOf 0 = { cur := none, held := none }) ∧
    (HeadIs (optS waitB) (rqOpt 0) cOPT 0 (headB (optS waitB)) ∧ waitD.bad = false ∧ waitD.wait = true ∧ waitD.op = 5 ∧
      (optS waitB).redPast waitD.waitCh waitD.waitSeq = false ∧ (optS waitB).optOf 0 = { cur := none, held := none }) ∧
    (heldS.optOf 0 = { cur := none, held := some (heldS.ringHead cOPT 0, headB heldS) } ∧
      heldD.op = 5 ∧ heldS.ringOn cOPT 0 = true ∧ MemUp heldS (rqOpt 0) ∧ heldD.wait = false ∧
      ∀ r ∈ heldD.runs, Clear heldS r.1 r.2.1 r.2.2.2 ∧ SoundRun heldS r.1 r.2.1) ∧
    (∃ s : State, s.pageOn cOPT 0 = true ∧ (s.optOf 0).cur = some ⟨15, 1, some 0, true⟩ ∧ DoneReady s (rqOpt 0) cOPT 0 15 7) := by
  have head : ∀ b, quiet (optS b) = true := fun _ => base_quiet
  have hq : quiet heldS = true := base_quiet
  have opt : ∀ b, optCheck (optS b) (optD b) = true → OptReady (optS b) 0 (optD b) := fun b => optReady_of (head b) rfl
  have hd : ∀ b, HeadIs (optS b) (rqOpt 0) cOPT 0 (headB (optS b)) := fun b =>
    headIs_of (head b) (by decide +kernel : (optS []).ringReady cOPT 0 = true)
      (by decide +kernel : (optS []).ringAddr cOPT 0 ((optS []).ringHead cOPT 0) = 0x10000) (by decide)
  have hr : ∀ r ∈ heldD.runs, r.1 + r.2.1 ≤ hbmSize := by decide +kernel
  refine ⟨?_, ?_, by unfold apart; decide +kernel, ⟨hd _, by decide +kernel⟩, ⟨hd _, by decide +kernel⟩,
    ⟨by decide +kernel, by decide +kernel, by decide +kernel, memUp_quiet hq _, by decide +kernel, fun r h => ⟨clear_quiet hq _ (hr r h), soundRun_quiet hq _ _⟩⟩,
    ⟨ranS, by decide +kernel, rfl, doneReady_of (by decide +kernel) (by decide +kernel)⟩⟩
  · intro v hv
    simp only [List.mem_cons, List.not_mem_nil, or_false] at hv
    unfold apart
    rcases hv with rfl | rfl <;> exact ⟨opt _ (by decide +kernel), by decide +kernel⟩
  · intro op ho
    simp only [List.mem_cons, List.not_mem_nil, or_false] at ho
    rcases ho with rfl | rfl | rfl | rfl <;> exact ⟨opt _ (by decide +kernel), by decide +kernel⟩

/-! ### Pruner-codec and merge unit -/

/-- The base machine with a descriptor at the head of the pruner's ring. -/
def prnS (b : Bytes) : State := putMem base 0x20000 b
def headOf (s : State) : Bytes := hbmBytes s (s.ringAddr cPRN 0 (s.ringHead cPRN 0)) 128
def prnOf (s : State) : PrnDesc := prnDescOf (headOf s)
def prnD (b : Bytes) : PrnDesc := prnOf (prnS b)
theorem prnQ (b : Bytes) : quiet (prnS b) = true := quiet_putMem' base_quiet _ _

/-- What `PrnReady` asks beyond memory that answers. -/
def prnCheck (s : State) : Bool :=
  s.ringReady cPRN 0 && decide (s.ringAddr cPRN 0 (s.ringHead cPRN 0) + 128 ≤ hbmSize) && (s.prnCur 0).isNone && !s.prnBad (prnOf s)

theorem prnReady_of {s : State} (hq : quiet s = true) (h : prnCheck s = true) : PrnReady s 0 (prnOf s) := by
  simp only [prnCheck, Bool.and_eq_true, decide_eq_true_eq, Bool.not_eq_true', Option.isNone_iff_eq_none] at h
  exact ⟨headIs_of hq h.1.1.1 rfl h.1.1.2, rfl, h.1.2, h.2⟩

def rangeCheck (srcs dsts : List (Nat × Nat)) : Bool :=
  (srcs.all fun r => decide (r.1 + r.2 ≤ hbmSize)) && (dsts.all fun r => decide (r.1 + r.2 ≤ hbmSize)) &&
    srcs.all fun a => dsts.all fun b => !overlaps a b

theorem ranges_of {s : State} {x y : List (Nat × Nat)} (hq : quiet s = true) (h : rangeCheck x y = true) : Ranges s x y := by
  simp only [rangeCheck, Bool.and_eq_true, List.all_eq_true, decide_eq_true_eq, Bool.not_eq_true'] at h
  exact ⟨fun r hr => readable_quiet hq (h.1.1 r hr), fun r hr => ⟨clear_quiet hq _ (h.1.2 r hr), soundRun_quiet hq _ _⟩, fun a ha b hb => h.2 a ha b hb⟩

/-- Descriptors: PRUNE24 and ENCODE of four FP8 indices, DECODE of one object. -/
def p24 (flags : Nat) : Bytes := fields 128 [(0, 1, 1), (2, 1, flags), (8, 8, 0x1000000), (0x10, 8, if flags = 0 then 0 else 0x3000000),
  (0x28, 8, 0x2000000), (0x38, 8, 4), (0x40, 4, 0x10000)]
def enc : Bytes := fields 128 [(0, 1, 2), (8, 8, 0x1000000), (0x28, 8, 0x2000000), (0x38, 8, 4), (0x40, 4, 0x10000)]
def dec : Bytes := fields 128 [(0, 1, 3), (4, 4, 1), (8, 8, 0x1000000), (0x28, 8, 0x2000000)]
def tagged (t : Nat) : State := putMem (prnS dec) 0x1000000 (fields 32 [(0, 1, t), (2, 2, 4), (4, 4, 0x40), (12, 4, 0x10000)])

theorem tagQ (t : Nat) : quiet (tagged t) = true := quiet_putMem' (prnQ _) _ _

/-- A pruner instance that has run a command. -/
def prnRanS : State := { base with prn := [(0, ⟨some ⟨15, 2, some 0, false⟩, []⟩)] }

/-- The source and destination ranges of these commands, with objects of `len` bytes. -/
def p24Srcs (f : Nat) : List (Nat × Nat) :=
  let d := prnD (p24 f)
  [(d.s0, blockBytes d.src d.k), (d.s2, scaleLen d d.k), (d.s1, 64), planeAt (prnS (p24 f)) d 0]
def encSrcs : List (Nat × Nat) := [((prnD enc).s0, blockBytes (prnD enc).src (prnD enc).k), ((prnD enc).s2, scaleLen (prnD enc) (prnD enc).k)]

theorem p24_len : ∀ f ∈ [0, 0x40], (pruneAt (prnS (p24 f)) (prnD (p24 f)) 0).layout.2.2.2 = 576 := by decide +kernel
theorem enc_len : (encodeAt (prnS enc) (prnD enc) 0).layout.2.2.2 = 128 := by decide +kernel

theorem test_hyp_PrunerAndCodecWriteTheirObjects :
    (∀ f ∈ [0, 0x40], ((prnD (p24 f)).op = 1 ∧ (prnD (p24 f)).reuse = decide (f ≠ 0) ∧
        (prnD (p24 f)).k + 2 * codeK (prnD (p24 f)).dst - 1 < 2 * (2 * codeK (prnD (p24 f)).dst) ∧
        hbmByte (prnS (p24 f)) (prnD (p24 f)).s1 = 0 ∧ 576 ≤ (prnD (p24 f)).stride) ∧
      PrnReady (prnS (p24 f)) 0 (prnD (p24 f)) ∧
      Ranges (prnS (p24 f)) (p24Srcs f) [((prnD (p24 f)).d0, (pruneAt (prnS (p24 f)) (prnD (p24 f)) 0).layout.2.2.2)]) ∧
    (((prnD enc).op = 2 ∧ ((prnD enc).k + codeK (prnD enc).src - 1) / codeK (prnD enc).src = 1 ∧ 128 ≤ (prnD enc).stride) ∧
      PrnReady (prnS enc) 0 (prnD enc) ∧ Ranges (prnS enc) encSrcs [((prnD enc).d0, (encodeAt (prnS enc) (prnD enc) 0).layout.2.2.2)]) ∧
    (∀ t ∈ [0, 2, 1], ((prnOf (tagged t)).op = 3 ∧ (prnOf (tagged t)).count = 1 ∧ (prnOf (tagged t)).s0 = 0x1000000 ∧
        hbmBytes (tagged t) 0x1000000 32 = fields 32 [(0, 1, t), (2, 2, 4), (4, 4, 0x40), (12, 4, 0x10000)] ∧
        hbmBytes (tagged t) 0x1010000 64 = List.replicate 64 0 ∧ arrFmt 0 = true) ∧
      PrnReady (tagged t) 0 (prnOf (tagged t)) ∧
      Ranges (tagged t) [(0x1000000, 32), (0x1000040, elemBytes 0 (codeK 0 * 128)), (0x1010000, codeK 0 * 32)]
        [((prnOf (tagged t)).d0, elemBytes 0 (codeK 0 * 128))] ∧
      Ranges (tagged t) [(0x1000000, 32), (0x1000040, 0), (0x1010000, 64)] [((prnOf (tagged t)).d0, 512)]) ∧
    ((prnS []).prnBad { prnD enc with resv := true } = true ∧ HeadIs (prnS []) (rqPrn 0) cPRN 0 (headOf (prnS []))) ∧
    (∃ s : State, s.pageOn cPRN 0 = true ∧ s.prnCur 0 = some ⟨15, 2, some 0, false⟩ ∧ DoneReady s (rqPrn 0) cPRN 0 15 3) := by
  refine ⟨fun f hf => ?_, ⟨by decide +kernel, prnReady_of (prnQ _) (by decide +kernel), ?_⟩, fun t ht => ?_,
    ⟨by decide +kernel, headIs_of (prnQ _) (by decide +kernel) rfl (by decide +kernel)⟩,
    ⟨prnRanS, by decide +kernel, rfl, doneReady_of (by decide +kernel) (by decide +kernel)⟩⟩
  · have h1 : ∀ f ∈ [0, 0x40], prnCheck (prnS (p24 f)) = true ∧ rangeCheck (p24Srcs f) [((prnD (p24 f)).d0, 576)] = true := by decide +kernel
    rw [p24_len f hf]
    refine ⟨?_, prnReady_of (prnQ _) (h1 f hf).1, ranges_of (prnQ _) (h1 f hf).2⟩
    revert f; decide +kernel
  · rw [enc_len]; exact ranges_of (prnQ _) (by decide +kernel)
  · have h1 : ∀ t ∈ [0, 2, 1], prnCheck (tagged t) = true ∧
        rangeCheck [(0x1000000, 32), (0x1000040, elemBytes 0 (codeK 0 * 128)), (0x1010000, codeK 0 * 32)]
          [((prnOf (tagged t)).d0, elemBytes 0 (codeK 0 * 128))] = true ∧
        rangeCheck [(0x1000000, 32), (0x1000040, 0), (0x1010000, 64)] [((prnOf (tagged t)).d0, 512)] = true := by decide +kernel
    refine ⟨?_, prnReady_of (tagQ _) (h1 t ht).1, ranges_of (tagQ _) (h1 t ht).2.1, ranges_of (tagQ _) (h1 t ht).2.2⟩
    revert t; decide +kernel

/-- MERGE of one segment with one common index, the segments of B in one list or in a table of their own. -/
def mrg (seg : Bool) : Bytes := fields 128 [(0, 1, 4), (2, 1, if seg then 4 else 0), (4, 4, 1), (8, 8, 0x1000000), (0x10, 8, 0x1001000),
  (0x18, 8, 0x1002000), (0x20, 8, if seg then 0x1003000 else 0), (0x28, 8, 0x2000000), (0x30, 8, 0x2001000), (0x38, 8, if seg then 0 else 1)]
def mrgS (seg : Bool) : State := putMem (putMem (putMem (putMem (prnS (mrg seg)) 0x1000000 [5]) 0x1001000 [5]) 0x1002000 (fields 16 [(8, 1, 1)]))
  0x1003000 (fields 16 [(8, 1, 1)])
/-- SPLIT of one row of 100 entries; COMBINE of one row of two segments with four columns. -/
def spl : Bytes := fields 128 [(0, 1, 5), (4, 4, 1), (8, 8, 0x1000000), (0x28, 8, 0x2000000), (0x44, 4, 32), (0x48, 4, 64), (0x4C, 4, 0x100)]
def splS : State := putMem (prnS spl) 0x1000000 (fields 16 [(8, 1, 100)])
def cmb : Bytes := fields 128 [(0, 1, 6), (4, 4, 1), (8, 8, 0x1000000), (0x10, 8, 0x2000000), (0x38, 8, 4), (0x40, 4, 64)]
def cmbS : State := putMem (prnS cmb) 0x1000000 (fields 32 [(0x1A, 2, 2)])

/-- The ranges of the MERGE. -/
def mrgSrcs (g : Bool) : List (Nat × Nat) :=
  let d := prnOf (mrgS g)
  [(d.s0, 4), (d.s1, 4), (d.s2, 16), (d.s3, if g then 16 else 0)]
def mrgDsts (g : Bool) : List (Nat × Nat) := [((prnOf (mrgS g)).d0, 8), ((prnOf (mrgS g)).d1, 4)]

theorem test_hyp_MergeSplitAndCombine :
    (∀ g ∈ [true, false], ((prnOf (mrgS g)).op = 4 ∧ (prnOf (mrgS g)).count = 1 ∧ (prnOf (mrgS g)).segB = g ∧
        (prnOf (mrgS g)).idx64 = false ∧ (mergeAt (mrgS g) (prnOf (mrgS g)) 0).1.length = 1 ∧ (mergeAt (mrgS g) (prnOf (mrgS g)) 0).2.2 = false ∧
        offAt (mrgS g) (prnOf (mrgS g)).s2 0 = 0 ∧ offAt (mrgS g) (prnOf (mrgS g)).s2 1 = 1 ∧
        (g = true → offAt (mrgS g) (prnOf (mrgS g)).s3 0 = 0 ∧ offAt (mrgS g) (prnOf (mrgS g)).s3 1 = 1)) ∧
      apart (prnOf (mrgS g)).d0 8 (prnOf (mrgS g)).d1 4 ∧ PrnReady (mrgS g) 0 (prnOf (mrgS g)) ∧ Ranges (mrgS g) (mrgSrcs g) (mrgDsts g)) ∧
    ([1, 5].Pairwise (· < ·) ∧ [5, 9].Pairwise (· < ·)) ∧
    (((prnOf splS).op = 5 ∧ (splitTo splS (prnOf splS) (prnOf splS).count).length = 4) ∧ PrnReady splS 0 (prnOf splS) ∧
      Ranges splS [((prnOf splS).s0, 8 * ((prnOf splS).count + 1))] [((prnOf splS).d0, 32 * (splitTo splS (prnOf splS) (prnOf splS).count).length)]) ∧
    (((prnOf cmbS).op = 6 ∧ (prnOf cmbS).count = 1 ∧ (workRec cmbS (prnOf cmbS) 0).2.2 = true) ∧
      apart (prnOf cmbS).s0 32 (slotsOf cmbS (prnOf cmbS) 0).1 (4 * (prnOf cmbS).k) ∧ PrnReady cmbS 0 (prnOf cmbS) ∧
      Readable cmbS (prnOf cmbS).s0 (32 * (prnOf cmbS).count) ∧ Clear cmbS (slotsOf cmbS (prnOf cmbS) 0).1 (slotsOf cmbS (prnOf cmbS) 0).2 true ∧
      SoundRun cmbS (slotsOf cmbS (prnOf cmbS) 0).1 (slotsOf cmbS (prnOf cmbS) 0).2) := by
  have qm : ∀ g, quiet (mrgS g) = true := fun g =>
    quiet_putMem' (quiet_putMem' (quiet_putMem' (quiet_putMem' (prnQ _) _ _) _ _) _ _) _ _
  have qs : quiet splS = true := quiet_putMem' (prnQ _) _ _
  have qc : quiet cmbS = true := quiet_putMem' (prnQ _) _ _
  have hm : ∀ g, prnCheck (mrgS g) = true ∧ rangeCheck (mrgSrcs g) (mrgDsts g) = true := by decide +kernel
  unfold apart
  refine ⟨fun g hg => ⟨?_, ?_, prnReady_of (qm g) (hm g).1, ranges_of (qm g) (hm g).2⟩, by decide,
    ⟨by decide +kernel, prnReady_of qs (by decide +kernel), ranges_of qs (by decide +kernel)⟩,
    ⟨by decide +kernel, by decide +kernel, prnReady_of qc (by decide +kernel), readable_quiet qc (by decide +kernel),
      clear_quiet qc _ (by decide +kernel), soundRun_quiet qc _ _⟩⟩
  · revert g; decide +kernel
  · revert g; decide +kernel

/-! ### Samplers -/

/-- The base machine with walk 100 on sampler 0, its descriptor at 0x100000, its s-registers and what it holds; bytes in memory. -/
def walkS (b : Bytes) (sr : SMap W64) (w : Option WalkSt) (m : List (Nat × Bytes)) : State :=
  m.foldl (fun s e => putMem s e.1 e.2) (putMem { base with
    ctxs := [(100, { state := .running, kind := 1, tile := some 128, wdesc := 0x100000, s := sr })], walks := [(100, w)] } 0x100000 b)

theorem walkQ (b : Bytes) (sr : SMap W64) (w : Option WalkSt) (m : List (Nat × Bytes)) : quiet (walkS b sr w m) = true := by
  unfold walkS
  have h : quiet (putMem { base with
    ctxs := [(100, { state := .running, kind := 1, tile := some 128, wdesc := 0x100000, s := sr })], walks := [(100, w)] } 0x100000 b) = true :=
    quiet_putMem' base_quiet _ _
  generalize putMem _ 0x100000 b = s at h
  induction m generalizing s with
  | nil => exact h
  | cons e r ih => exact ih _ (quiet_putMem' h _ _)

def walkD (s : State) : WalkDesc := walkDescOf (hbmBytes s (s.ctx 100).wdesc 128)
def walkCheck (s : State) : Bool :=
  s.walkRuns 100 && decide ((s.ctx 100).want = .none) && decide ((s.ctx 100).wdesc % 128 = 0) && decide ((s.ctx 100).wdesc + 128 ≤ hbmSize)

theorem walkReady_of {s : State} (hq : quiet s = true) (h : walkCheck s = true) : WalkReady s 100 (walkD s) := by
  simp only [walkCheck, Bool.and_eq_true, decide_eq_true_eq] at h
  exact ⟨h.1.1.1, h.1.1.2, h.1.2, memUp_quiet hq _, readable_quiet hq h.2, rfl⟩

theorem runs_of {s : State} {l : List (Nat × Nat × Bool)} (hq : quiet s = true) (h : (l.all fun r => decide (r.1 + r.2.1 ≤ hbmSize)) = true) :
    ∀ r ∈ l, Clear s r.1 r.2.1 r.2.2 ∧ SoundRun s r.1 r.2.1 := by
  simp only [List.all_eq_true, decide_eq_true_eq] at h
  exact fun r hr => ⟨clear_quiet hq _ (h r hr), soundRun_quiet hq _ _⟩

theorem rowReady_of {s : State} {n : Nat} {g : Csr} {hop f t : Nat} {x : W32} {v : Nat} (hq : quiet s = true)
    (h : (decide (g.rowptr + 8 * (v - g.base) + 16 ≤ hbmSize) && decide (rowLo s g v ≤ rowHi s g v) &&
      decide (g.colidx + idxW g * rowLo s g v + idxW g * (rowHi s g v - rowLo s g v) ≤ hbmSize) &&
      (expCsr s n g hop f t x v).edges.all fun e => decide (e.2 < 2 ^ 40)) = true) : RowReady s n g hop f t x v := by
  simp only [Bool.and_eq_true, decide_eq_true_eq, List.all_eq_true] at h
  exact ⟨readable_quiet hq h.1.1.1, h.1.1.2, readable_quiet hq h.1.2, h.2⟩

/-- SAMPLE of one hop from node 0, whose row has the edges to nodes 1 and 2; REPLAY of one centre with one edge; memory for both. -/
def smpB : Bytes := fields 128 [(0, 1, 1), (1, 1, 1), (8, 8, 0x200000), (0x10, 8, 0x201000), (0x20, 8, 8), (0x28, 8, 0x202000), (0x30, 4, 1),
  (0x34, 2, 16), (0x38, 8, 2), (0x40, 8, 0x203000), (0x48, 8, 0x204000), (0x50, 8, 0x205000), (0x58, 8, 0x206000), (0x60, 4, 4), (0x64, 4, 4),
  (0x70, 8, 192)]
def rplB (flags : Nat) : Bytes := fields 128 [(0, 1, 2), (1, 1, 1), (2, 1, flags), (8, 8, 0x200000), (0x10, 8, 0x201000), (0x30, 4, 1),
  (0x18, 8, if flags = 8 then 0x202000 else 0), (0x48, 8, 0x204000), (0x50, 8, 0x205000)]
def csrMem : List (Nat × Bytes) := [(0x200008, [2]), (0x201000, [1, 0, 0, 0, 2])]
def jMem : List (Nat × Bytes) := [(0x205000, fields 80 [(0, 1, 1), (4, 4, 2), (8, 4, 1), (0x14, 4, 1), (0x48, 2, 1)]), (0x204004, [1])]
/-- The walk begun; the walk with its hop expanded; the walk that ends; the REPLAY. -/
def smp0 : State := walkS smpB [] none csrMem
def smp1 : State := walkS smpB [(0, 1), (2, 1)] (some ⟨1, [{ node := 0, degree := 2, edges := [(0, 1), (1, 2)] }], [], none, false⟩) csrMem
def smpE (op : Nat) : State := walkS (smpB.set 0 (BitVec.ofNat 8 op)) [(0, 1)] (some ⟨1, [], [], some 0, false⟩) []
def rpl (flags : Nat) : State := walkS (rplB flags) [] none jMem
def rbatch : RemoteBatch := ⟨3, 9, 0x200000, 0x201000, 0, 8, 1, 2, 16, 0, false, [0, 900]⟩
def gRem : Csr := ⟨rbatch.rowptr, rbatch.colidx, rbatch.rowBase, rbatch.numRows, rbatch.idx64⟩
def smpOff : State := with' smp0 [(cSMP, 0, hCTRL, 1)]

/-- The hop of the walk begun. -/
def hop1 : WalkSt := ⟨1, [{ node := 0, degree := 2, edges := [(0, 1), (1, 2)] }], [], none, false⟩

/-- What the REPLAY reads and writes. -/
def rplCheck (f : Nat) : Bool :=
  let s := rpl f
  let d := walkD s
  (s.walkOf 100).isNone && d.op == 2 && !d.badReplay && d.agg == f / 4 && d.hops == 1 && d.rowStride == 64 && d.jrnl == 0x205000 &&
    d.edgeOut == 0x204000 && d.rowptr == 0x200000 && d.colidx == 0x201000 && d.rowBase == (if f = 8 then 0x202000 else 0) &&
    decide (1 ≤ (hbmByte s d.jrnl).toNat) && [4, 8, 0x10, 0x14].map (jrnlWord s d) == [2, 1, 0, 1] &&
    decide (bfield (centreAt s d 0) 0 4 < 2) && decide (bfield (centreAt s d 0) 4 4 + bfield (centreAt s d 0) 8 2 ≤ 1) &&
    (replayEdges s d).all (fun x => decide (x.1 < 2) && decide (x.2.1 < 2)) && (replayEdges s d).length == 1

theorem test_hyp_SamplerWalksDrawWriteAndReplay :
    (∀ m i : Nat, 0 < m → (fun m _ => m - 1 : Nat → Nat → Nat) m i < m) ∧
    ((smp0.walkStarts 100 = true ∧ smp0.walkOf 100 = none ∧ ((smp0.ctx 100).sreg 0).toNat = 0 ∧ (walkD smp0).op = 1 ∧
        (walkD smp0).badSample (smp0.ctx 100).wdesc = false ∧ (walkD smp0).numSeeds = 1 ∧
        leNat (hbmBytes smp0 ((walkD smp0).seeds + 8 * 0) 8) < 2 ^ 40) ∧
      WalkReady smp0 100 (walkD smp0) ∧ (∀ r ∈ (walkD smp0).startRuns, Clear smp0 r.1 r.2.1 r.2.2 ∧ SoundRun smp0 r.1 r.2.1) ∧
      Clear smp0 (walkD smp0).edgeOut (16 * (walkD smp0).edgeCap) false ∧
      FrontierReady smp0 (ctxFloe 100) (walkD smp0) 1 (seedSet smp0 (walkD smp0))) ∧
    ((smp1.walkOf 100 = some hop1 ∧ 1 = ((smp1.ctx 100).sreg 2).toNat ∧ 0 = ((smp1.ctx 100).sreg 3).toNat ∧
        0 = ((smp1.ctx 100).sreg 4).toNat ∧ 1 + (freshOf (nodeIds smp1 (walkD smp1) 1) (sortExps hop1.exps)).length ≤ (walkD smp1).nodeCap ∧
        0 + edgesTo (sortExps hop1.exps) (sortExps hop1.exps).length ≤ (walkD smp1).edgeCap ∧ (sortExps hop1.exps).length = 1 ∧
        (walkD smp1).nodeOut + 8 * (walkD smp1).nodeCap ≤ (walkD smp1).edgeOut ∧
        (walkD smp1).edgeOut + 16 * (walkD smp1).edgeCap ≤ (walkD smp1).jrnl) ∧
      WalkReady smp1 100 (walkD smp1) ∧ (∀ r ∈ (walkD smp1).hopRuns (smp1.ctx 100).wdesc 0 hop1, Clear smp1 r.1 r.2.1 r.2.2 ∧ SoundRun smp1 r.1 r.2.1)) ∧
    (smpOff.pageOn cSMP 0 = true ∧ smpOff.rdb cSMP 0 hFREEZE 0 = false ∧ smpOff.rdb cSMP 0 hCTRL 1 = false ∧ (smpOff.xchOf 0).arrived = []) ∧
    ((smp0.pageOn cSMP 0 = true ∧ smp0.rdb cSMP 0 hFREEZE 0 = false ∧ smp0.rdb cSMP 0 hCTRL 1 = true ∧ (smp0.xchOf 0).arrived = [] ∧
        gRem.base ≤ 0 ∧ 0 < gRem.base + gRem.rows ∧ ¬ 900 < gRem.base + gRem.rows) ∧ MemUp smp0 (rqXch 0) ∧
      RowReady smp0 0 gRem rbatch.hop rbatch.fanout rbatch.thresh rbatch.stream 0) ∧
    (∀ f ∈ [0, 8], (rplCheck f = true ∧ (rpl f).walkStarts 100 = true) ∧ WalkReady (rpl f) 100 (walkD (rpl f)) ∧
      Readable (rpl f) 0x205000 80 ∧ Readable (rpl f) 0x204000 16 ∧ Readable (rpl f) 0x200000 (2 * 64) ∧ Clear (rpl f) 0x201000 (2 * 64) true ∧
      SoundRun (rpl f) 0x201000 (2 * 64) ∧ Readable (rpl f) 0x202000 4 ∧ apart 0x200000 (2 * 64) 0x201000 (2 * 64)) ∧
    (∀ op ∈ [1, 2], ((smpE op).walkOf 100 = some ⟨1, [], [], some 0, false⟩ ∧ (walkD (smpE op)).op = op ∧ (walkD (smpE op)).jrnl = 0x205000 ∧
        ((smpE op).ctx 100).wdesc = 0x100000 ∧ (smpE op).recAddr 100 = 0x6400 ∧ ((smpE op).ctx 100).sreg 4 = 0) ∧
      WalkReady (smpE op) 100 (walkD (smpE op)) ∧ Clear (smpE op) 0x100000 128 true ∧ Clear (smpE op) 0x6400 256 true ∧
      MemUp (smpE op) (rqTile (ctxFloe 100)) ∧ Readable (smpE op) (0x205000 + 64) (16 * 0) ∧ Clear (smpE op) 0x205000 64 true ∧
      SoundRun (smpE op) 0x205000 64 ∧ apart 0x6400 256 0x100000 128 ∧ apart 0x205000 64 0x6400 256 ∧ apart 0x205000 64 0x100000 128) := by
  have q0 : quiet smp0 = true := walkQ _ _ _ _
  have q1 : quiet smp1 = true := walkQ _ _ _ _
  have qr : ∀ f, quiet (rpl f) = true := fun f => walkQ _ _ _ _
  have qe : ∀ o, quiet (smpE o) = true := fun o => walkQ _ _ _ _
  have cr : ∀ f ∈ [0, 8], walkCheck (rpl f) = true ∧ rplCheck f = true ∧ (rpl f).walkStarts 100 = true := by decide +kernel
  have ce : ∀ o ∈ [1, 2], walkCheck (smpE o) = true := by decide +kernel
  refine ⟨fun m i h => by show m - 1 < m; omega,
    ⟨by decide +kernel, walkReady_of q0 (by decide +kernel), runs_of q0 (by decide +kernel), clear_quiet q0 _ (by decide +kernel), ?_⟩,
    ⟨by decide +kernel, walkReady_of q1 (by decide +kernel), runs_of q1 (by decide +kernel)⟩, by decide +kernel,
    ⟨by decide +kernel, memUp_quiet q0 _, rowReady_of q0 (by decide +kernel)⟩, fun f hf => ?_, fun op ho => ⟨?_, ?_⟩⟩
  · rw [(by decide +kernel : seedSet smp0 (walkD smp0) = [0])]
    intro v hv
    simp only [List.mem_cons, List.not_mem_nil, or_false] at hv
    subst hv
    unfold apart
    exact ⟨by decide +kernel, fun _ => ⟨rowReady_of q0 (by decide +kernel), by decide +kernel⟩⟩
  · have h := cr f hf
    exact ⟨h.2, walkReady_of (qr _) h.1, readable_quiet (qr _) (by decide), readable_quiet (qr _) (by decide),
      readable_quiet (qr _) (by decide), clear_quiet (qr _) _ (by decide), soundRun_quiet (qr _) _ _, readable_quiet (qr _) (by decide), .inl (by decide)⟩
  · revert op; decide +kernel
  · exact ⟨walkReady_of (qe _) (ce op ho), clear_quiet (qe _) _ (by decide), clear_quiet (qe _) _ (by decide), memUp_quiet (qe _) _,
      readable_quiet (qe _) (by decide), clear_quiet (qe _) _ (by decide), soundRun_quiet (qe _) _ _, .inl (by decide), .inr (by decide), .inr (by decide)⟩

/-! ### Exchange engines -/

/-- The base machine with table 0 of two shards at ranks 0 and 1, row 5 hot, slot 0 valid; a descriptor at the ring's head. -/
def tblB : Bytes := fields 128 [(2, 2, 1), (4, 4, 2), (8, 8, 8), (0x10, 8, 0x510000), (0x19, 1, 1), (0x20, 8, 0x520000), (0x28, 8, 0x530000),
  (0x30, 8, 0x540000), (0x38, 8, 0x550000), (0x6C, 4, 0x3F800000), (0x70, 4, 1)]
def xregs : State := with' base [(cXCH, 0, XCH.TBL_BASE_LO, 0x500000), (cXCH, 0, XCH.SLOT, 0x80000000),
  (cXCH, 0, XCH.LEDGER_LOG, 10), (cXCH, 0, XCH.LEDGER_BASE_LO, 0x900000), (cXCH, 0, XCH.INBOX_BASE_LO, 0xA00000), (cXCH, 0, XCH.STAGE_BASE_LO, 0x2000000)]
def withX (s : State) (x : XchSt) : State := { s with xch := [(0, x)] }
theorem quiet_withX (s : State) (x : XchSt) : quiet (withX s x) = quiet s := rfl
def xmem (s : State) : State :=
  putMem (putMem (putMem (putMem s 0x500000 tblB) 0x510002 [1]) 0x540000 (toLE 8 (2 ^ 63 + 5) ++ toLE 8 (2 ^ 63 + 5))) 0x560000
    ([5] ++ List.replicate 15 0 ++ [1])
theorem xmemQ {s : State} (h : quiet s = true) : quiet (xmem s) = true :=
  quiet_putMem' (quiet_putMem' (quiet_putMem' (quiet_putMem' h _ _) _ _) _ _) _ _
def xchS (b : Bytes) (x : XchSt) : State := putMem (withX (xmem xregs) x) 0x30000 b
theorem xchQ (b : Bytes) (x : XchSt) : quiet (xchS b x) = true :=
  quiet_putMem' ((quiet_withX _ _).trans (xmemQ (by decide +kernel))) _ _

/-- LOOKUP or GATHER of three ids: row 5, row 0 of rank 0, row 1. -/
def lkB (op : Nat) : Bytes := fields 128 [(0, 1, op), (4, 4, 3), (8, 8, 0x560000), (0x18, 8, 0x570000), (0x20, 8, 0x5C0000), (0x28, 8, 0x580000),
  (0x30, 8, 0x590000), (0x44, 4, 64), (0x58, 8, 0x20000)]
def lkS (op : Nat) : State := xchS (lkB op) {}
def xTd (s : State) : Bytes := hbmBytes s (s.tblAddr 0 0) 128

theorem xHead_of {s : State} {b : Bytes} (hq : quiet s = true) (hb : b = hbmBytes s 0x30000 128)
    (h : (s.ringReady cXCH 0 && decide (s.ringAddr cXCH 0 (s.ringHead cXCH 0) = 0x30000) && decide ((s.xchOf 0).cmds.length < 8)) = true) :
    XHead s 0 b (xDescOf b) := by
  simp only [Bool.and_eq_true, decide_eq_true_eq] at h
  exact ⟨hb ▸ headIs_of hq h.1.1 h.1.2 (by decide), rfl, h.2⟩

theorem xRuns_of {s : State} {l : List (Nat × Nat × Nat × Bool)} (hq : quiet s = true)
    (h : (l.all fun r => decide (r.1 + r.2.1 ≤ hbmSize)) = true) : ∀ r ∈ l, Clear s r.1 r.2.1 r.2.2.2 ∧ SoundRun s r.1 r.2.1 := by
  simp only [List.all_eq_true, decide_eq_true_eq] at h
  exact fun r hr => ⟨clear_quiet hq _ (h r hr), soundRun_quiet hq _ _⟩

theorem xTable_of {s : State} {d : XDesc} {td : Bytes} (hq : quiet s = true) (ht : d.table = 0) (htd : td = xTd s)
    (h : (decide (s.tblAddr 0 0 + 128 ≤ hbmSize) && !d.bad td ([0, 1].filter fun k => bit (s.slotReg 0 k) 31) && decide (tShards td = 2) && decide (tRanks td + 4 ≤ hbmSize) &&
      (d.runs td).all fun r => decide (r.1 + r.2.1 ≤ hbmSize)) = true) : XTable s 0 d td := by
  simp only [Bool.and_eq_true, decide_eq_true_eq, Bool.not_eq_true'] at h
  obtain ⟨⟨⟨⟨h1, h2⟩, h3⟩, h4⟩, h5⟩ := h
  refine ⟨?_, ?_, ht ▸ h2, ?_, ?_, xRuns_of hq h5⟩
  · rw [ht]; exact readable_quiet hq h1
  · rw [ht]; exact htd
  · rw [h3]; decide
  · rw [h3]; exact readable_quiet hq h4

/-- A command in progress with one open part for rank 1; a walk with one; parts of both due. -/
def xcmd (op : Nat) (sends due : Nat) : XchCmd :=
  { idx := 0, op := op, irq := true, desc := lkB op, tdesc := tblB, rows := [.at 1 0, .hot 0, .at 1 0], parts := [⟨1, [0], sends, due, none⟩] }
def dcmd (x : Option Nat × Nat) : XchCmd := { xcmd x.2 1 0 with status := x.1, parts := [⟨1, [0], 1, 0, some 0⟩] }
def cmdS (c : XchCmd) : State := xchS [] { cmds := [c] }
def xwalk : WalkSt := ⟨1, [], [⟨1, [7], 9, 0, none⟩], none, false⟩
def xwS : State := walkS smpB [(0, 1)] (some xwalk) csrMem

/-- The rows of the LOOKUP and of the GATHER. -/
def lkRows : List XRow := [.hot 0, .at 0 0, .at 1 0]
def gtRows (d : XDesc) : List XRow := (List.range d.count).map fun i => if (ranksAt (lkS 3) tblB).contains (idAt (lkS 3) d i / 2 ^ 48 % 65536)
  then .at (idAt (lkS 3) d i / 2 ^ 48 % 65536) (idAt (lkS 3) d i % 2 ^ 40) else .bad
/-- The engine with its table lookups disabled. -/
def lkOff : State := with' (lkS 1) [(cXCH, 0, hCTRL, 1)]

theorem lk_q (op : Nat) : quiet (lkS op) = true := xchQ _ _
theorem cmd_q (c : XchCmd) : quiet (cmdS c) = true := xchQ _ _
theorem lk_head : ∀ op ∈ [1, 3], (xDescOf (lkB op)).table = 0 ∧ lkB op = hbmBytes (lkS op) 0x30000 128 ∧ tblB = xTd (lkS op) := by decide +kernel

/-- The slot-independent facts of the served table. -/
def srvCheck : Bool :=
  decide (tShards tblB = 2) && !lkOff.serves 0 1 && lkOff.xchOn 0 && (lkS 1).serves 0 1 && (lkS 1).xchOn 0 && ((lkS 1).slotOf 0 9).isNone &&
    decide ((lkS 1).slotOf 0 ((lkS 1).curVer 0 0) = some 0) && decide ((ranksAt (lkS 1) tblB).findIdx? (· == (lkS 1).myRank) = some 0) &&
    decide (globalRow tblB 0 3 < tRows tblB)

/-- A command with one open part: what its answers and its deadline ask. -/
def cmdCheck (op sends due : Nat) : Bool :=
  let c := xcmd op sends due
  (cmdS c).pageOn cXCH 0 && decide ((cmdS c).cmdAt 0 0 = some c) && decide (c.openPart 1 = some ⟨1, [0], sends, due, none⟩) &&
    decide ((xDescOf c.desc).data + (xDescOf c.desc).stride * (xDescOf c.desc).count ≤ hbmSize) &&
    decide (c.rows.length = (xDescOf c.desc).count) && decide ((xDescOf c.desc).pool = 0) && decide (outLen (xDescOf c.desc) c.tdesc ≤ (xDescOf c.desc).stride) &&
    decide (1 ≤ (cmdS c).retries 0) && decide ((cmdS c).retries 0 < 9) && decide ((cmdS c).clk.time = 2000000)

/-- A command whose parts have settled. -/
def doneCheck (x : Option Nat × Nat) : Bool :=
  let c := dcmd x
  (cmdS c).pageOn cXCH 0 && decide (((cmdS c).xchOf 0).cmds = [c]) && c.ready (cmdS c).myRank && ((cmdS c).copying 0).isNone &&
    ((cmdS c).doneRuns 0 c).all (fun r => decide (r.1 + r.2.1 ≤ hbmSize)) &&
    decide ((cmdS c).ringAddr cXCH 0 c.idx + 128 ≤ (xDescOf c.desc).parts)

theorem test_hyp_LookupsGoToOwnersAndBack :
    (∃ d td, d = xDescOf (lkB 1) ∧ td = tblB ∧ (d.op = 1 ∧
          lkRows = ((List.range d.count).map fun i => placeOf (lkS 1) d.table td ((lkS 1).curVer 0 d.table) (idAt (lkS 1) d i % 2 ^ 40)) ∧
          .bad ∉ lkRows ∧ ∀ r ∈ (d.runs td).tail, d.ws + d.wsLen ≤ r.1 ∨ r.1 + r.2.1 ≤ d.ws) ∧
        ReportFits d (partsOf ((lkS 1).partDue 0) lkRows).length ∧ XHead (lkS 1) 0 (lkB 1) d ∧ XTable (lkS 1) 0 d td ∧
        HotReady (lkS 1) d.table td ((lkS 1).curVer 0 d.table) ∧
        ∀ r k, .hot r ∈ lkRows → (lkS 1).slotOf d.table ((lkS 1).curVer 0 d.table) = some k → Readable (lkS 1) (tHotRep td k + tRec td * r) (tRec td)) ∧
    (∃ d td, d = xDescOf (lkB 3) ∧ td = tblB ∧ (d.op = 3 ∧ XRow.bad ∉ gtRows d) ∧ ReportFits d (partsOf ((lkS 3).partDue 0) (gtRows d)).length ∧
        XHead (lkS 3) 0 (lkB 3) d ∧ XTable (lkS 3) 0 d td) ∧
    (∃ td, td = tblB ∧ td = xTd (lkS 1) ∧ srvCheck = true ∧ (lkS 1).xchOf 0 = {} ∧ lkOff.xchOf 0 = {} ∧ MemUp (lkS 1) (rqXch 0) ∧
        Readable (lkS 1) ((lkS 1).tblAddr 0 0) 128 ∧ Readable (lkS 1) (tRanks td) 4 ∧ Readable (lkS 1) (tBase td 0 + tRec td * 3) (tRec td)) ∧
    (∀ op ∈ [1, 3], ∃ (c : XchCmd) (p : XPart), c = xcmd op 1 0 ∧ p = ⟨1, [0], 1, 0, none⟩ ∧ cmdCheck op 1 0 = true ∧ (c.op = op ∧ p.rows.Nodup ∧ c.vals = []) ∧
      statusFails 4 = true ∧ statusFails 0 = false ∧ MemUp (cmdS c) (rqXch 0) ∧
      Clear (cmdS c) (xDescOf c.desc).data ((xDescOf c.desc).stride * (xDescOf c.desc).count) true ∧
      SoundRun (cmdS c) (xDescOf c.desc).data ((xDescOf c.desc).stride * (xDescOf c.desc).count)) ∧
    (∀ x ∈ [(1, 0), (9, 0), (1, 3000000)], cmdCheck 1 x.1 x.2 = true ∧ (xcmd 1 x.1 x.2).op ≤ 5) ∧
    ((xwS.pageOn cXCH 0 = true ∧ xwS.walkOf 100 = some xwalk ∧
        xwalk.parts.find? (fun p => p.owner == 1 && p.status.isNone) = some ⟨1, [7], 9, 0, none⟩ ∧ ctxFloe 100 = 0 ∧
        0 ≤ xwS.clk.time ∧ xwS.retries 0 < 9 ∧ statusFails 0 = false) ∧ MemUp xwS (rqXch 0) ∧ Readable xwS (xwS.ctx 100).wdesc 128) ∧
    (∃ v : BitVec 32, OwnerReady (lkS 1) 0 cXCH 0 (XCH.SLOT + 4) ∧ bit v 31 = true ∧ bit ((lkS 1).slotReg 0 1) 31 = false ∧
      bit ((lkS 1).slotReg 0 1) 30 = false ∧ fld ((lkS 1).slotReg 0 (1 - 1)) 0 16 ≠ fld v 0 16) ∧
    (∃ v : BitVec 32, OwnerReady (lkS 1) 0 cXCH 0 XCH.SLOT ∧ bit v 31 = false ∧ bit ((lkS 1).slotReg 0 0) 31 = true) ∧
    (∀ x ∈ [(none, 2), (some 0x10, 1)], doneCheck x = true ∧ MemUp (cmdS (dcmd x)) (rqXch 0) ∧ XchCalm (cmdS (dcmd x)) 0 ∧
      (∀ r ∈ (cmdS (dcmd x)).doneRuns 0 (dcmd x), Clear (cmdS (dcmd x)) r.1 r.2.1 r.2.2 ∧ SoundRun (cmdS (dcmd x)) r.1 r.2.1)) := by
  have h1 := lk_head 1 (by decide)
  have h3 := lk_head 3 (by decide)
  have qw : quiet xwS = true := walkQ _ _ _ _
  unfold OwnerReady Reaches
  refine ⟨⟨_, _, rfl, rfl, by decide +kernel, by unfold ReportFits; decide +kernel, xHead_of (lk_q 1) h1.2.1 (by decide +kernel),
      xTable_of (lk_q 1) h1.1 h1.2.2 (by decide +kernel), fun k hk _ => ?_, fun r k hr hk => ?_⟩,
    ⟨_, _, rfl, rfl, by decide +kernel, by unfold ReportFits; decide +kernel, xHead_of (lk_q 3) h3.2.1 (by decide +kernel),
      xTable_of (lk_q 3) h3.1 h3.2.2 (by decide +kernel)⟩,
    ⟨_, rfl, h1.2.2, by decide +kernel, rfl, rfl, memUp_quiet (lk_q 1) _, readable_quiet (lk_q 1) (by decide +kernel),
      readable_quiet (lk_q 1) (by decide +kernel), readable_quiet (lk_q 1) (by decide +kernel)⟩, fun op ho => ?_, ?_,
    ⟨by decide +kernel, memUp_quiet qw _, readable_quiet qw (by decide +kernel)⟩,
    ⟨u32 0x80000001, by decide +kernel⟩, ⟨0, by decide +kernel⟩, fun x hx => ?_⟩
  · have k0 : k = 0 := Option.some.inj (hk.symm.trans (by decide +kernel))
    subst k0; exact readable_quiet (lk_q 1) (by decide +kernel)
  · have k0 : k = 0 := Option.some.inj (hk.symm.trans (by decide +kernel))
    have r0 : r = 0 := by simpa [lkRows] using hr
    subst k0; subst r0; exact readable_quiet (lk_q 1) (by decide +kernel)
  · have hp : ∀ op ∈ [1, 3], cmdCheck op 1 0 = true ∧
        (xDescOf (xcmd op 1 0).desc).data + (xDescOf (xcmd op 1 0).desc).stride * (xDescOf (xcmd op 1 0).desc).count ≤ hbmSize := by decide +kernel
    exact ⟨_, _, rfl, rfl, (hp op ho).1, ⟨rfl, by decide, rfl⟩, rfl, rfl, memUp_quiet (cmd_q _) _, clear_quiet (cmd_q _) _ (hp op ho).2,
      soundRun_quiet (cmd_q _) _ _⟩
  · decide +kernel
  · have hp : ∀ x ∈ [(none, 2), (some 0x10, 1)], doneCheck x = true ∧ ((cmdS (dcmd x)).copying 0 = none) ∧
        (((cmdS (dcmd x)).doneRuns 0 (dcmd x)).all fun r => decide (r.1 + r.2.1 ≤ hbmSize)) = true := by decide +kernel
    exact ⟨(hp x hx).1, memUp_quiet (cmd_q _) _, ⟨rfl, rfl, rfl, (hp x hx).2.1⟩, runs_of (cmd_q _) (hp x hx).2.2⟩

/-- SCATTER of two rows to rows 5 and 0; DISPATCH of one record and its RETURN. -/
def scB : Bytes := fields 128 [(0, 1, 2), (4, 4, 2), (8, 8, 0x560000), (0x18, 8, 0x570000), (0x28, 8, 0x580000), (0x30, 8, 0x590000),
  (0x38, 8, 0x5D0000), (0x44, 4, 64), (0x58, 8, 0x20000)]
def scS : State := xchS scB {}
def dpB (op : Nat) : Bytes := fields 128 ([(0, 1, op), (4, 4, 1), (8, 8, 0x600000), (0x18, 8, 0x570000), (0x28, 8, 0x580000), (0x30, 8, 0x590000), (0x44, 4, 64),
  (0x48, 4, 3), (0x4E, 2, 4), (0x50, 8, 0x620000), (0x58, 8, 0x20000)] ++ if op = 4 then [(0x10, 8, 0x610000), (0x40, 4, 1)] else [(0x20, 8, 0x5C0000)])
def dpS : State := xchS (dpB 4) {}
def rtS (d : List DispSt) : State := xchS (dpB 5) { disp := d }
/-- A ledger that holds nothing; the batch of rank 1 in step 0; steps 5 and 6; a half full of entries of ones. -/
def lgS : State := xchS [] {}
def lgHas : State := putMem lgS 0x900000 (ledgerEntry 0 0 1 0)
def lgOld : State := putMem (putMem lgS 0x900000 (ledgerEntry 0 5 1 0)) 0x904000 (ledgerEntry 0 6 1 0)
def ones (n : Nat) : Bytes := List.replicate n 1
def lgFull : State := putMem lgS 0x900000 (ones (2 ^ 14))
/-- A group whose wait has ended, in time or late. -/
def grp (late : Bool) : XGroup := ⟨0, 0, 0, 0, [(0, [(0, [fone], false)])], 0, true, late⟩
def apS (late : Bool) : State := xchS [] { groups := [grp late] }
def xpC (ret : Bool) : XchCmd := { idx := 0, op := if ret then 5 else 4, irq := false, desc := dpB (if ret then 5 else 4), parts := [⟨1, [0], 1, 0, none⟩] }
def xpS (ret : Bool) : State := cmdS (xpC ret)

theorem hbmBytes_putMem_out (s : State) (d : Bytes) {a b n : Nat} (h : b + n ≤ a ∨ a + d.length ≤ b) : hbmBytes (putMem s a d) b n = hbmBytes s b n :=
  getBytes_setBytes_out _ _ h

def batchCheck (s : State) : Bool :=
  s.xchOn 0 && s.serves 0 1 && decide (s.tblAddr 0 0 = 0x500000) && decide (s.ledgerRun 0 = (0x900000, 32768)) && decide (s.inboxRun 0 = (0xA00000, 0x1000000)) &&
    decide (s.slotOf 0 0 = some 0) && decide (s.myRank = 0) && decide ((s.xchOf 0).arrived = [])

theorem batchReady_of {s : State} (hq : quiet s = true) (h : batchCheck s = true) (ht : hbmBytes s 0x500000 128 = tblB)
    (hr : hbmBytes s 0x510000 4 = [0, 0, 1, 0]) : BatchReady s 0 1 0 0 0 0 tblB := by
  simp only [batchCheck, Bool.and_eq_true, decide_eq_true_eq] at h
  obtain ⟨⟨⟨⟨⟨⟨⟨h1, h2⟩, h3⟩, h4⟩, h5⟩, h6⟩, h7⟩, h8⟩ := h
  have t : tShards tblB = 2 ∧ tRanks tblB = 0x510000 := by decide +kernel
  have r : ranksAt s tblB = [0, 1] := by
    unfold ranksAt
    rw [t.1, t.2]
    have e : hbmBytes s 0x510000 2 = [0, 0] ∧ hbmBytes s (0x510000 + 2) 2 = [1, 0] := by
      rw [show (4 : Nat) = 2 + 2 from rfl, hbmBytes_add] at hr
      exact List.append_inj (s₂ := [0, 0]) hr (by simp [hbmBytes])
    show [leNat (hbmBytes s 0x510000 2), leNat (hbmBytes s (0x510000 + 2) 2)] = _
    rw [e.1, e.2]; decide
  exact ⟨⟨⟨h1, rfl, by decide, h8⟩, h2⟩, memUp_quiet hq _, ⟨h3 ▸ readable_quiet hq (by decide), by rw [h3, ht]⟩,
    ⟨by rw [t.1]; decide, by rw [t.1, t.2]; exact readable_quiet hq (by decide)⟩,
    by rw [h4]; exact ⟨clear_quiet hq _ (by decide), soundRun_quiet hq _ _⟩, by rw [h5]; exact ⟨clear_quiet hq _ (by decide), soundRun_quiet hq _ _⟩,
    by rw [h4, h5]; unfold apart; decide, h6, by rw [r, h7]; decide⟩

theorem batchCheck_putMem (s : State) (a : Nat) (d : Bytes) : batchCheck (putMem s a d) = batchCheck s := rfl
theorem ledger_putMem (s : State) (a : Nat) (d : Bytes) :
    (putMem s a d).xchOf 0 = s.xchOf 0 ∧ (putMem s a d).ledgerLog 0 = s.ledgerLog 0 ∧ (putMem s a d).ledgerBase 0 = s.ledgerBase 0 := ⟨rfl, rfl, rfl⟩

theorem lgQ : quiet lgS = true := xchQ _ _
theorem lgTable : hbmBytes lgS 0x500000 128 = tblB ∧ hbmBytes lgS 0x510000 4 = [0, 0, 1, 0] ∧ batchCheck lgS = true := by decide +kernel

theorem lg_ready {s : State} (hq : quiet s = true)
    (h : (batchCheck s && decide (hbmBytes s 0x500000 128 = tblB) && decide (hbmBytes s 0x510000 4 = [0, 0, 1, 0])) = true) :
    BatchReady s 0 1 0 0 0 0 tblB := by
  simp only [Bool.and_eq_true, decide_eq_true_eq] at h
  exact batchReady_of hq h.1.1 h.1.2 h.2

theorem lgFull_mem : lgFull.hbm.mem = setBytes lgS.hbm.mem 0x900000 (ones (2 ^ 14)) := by
  unfold lgFull; generalize ones (2 ^ 14) = d; rfl

theorem ones_length (n : Nat) : (ones n).length = n := List.length_replicate

theorem lgFull_in {k : Nat} (hk : k < 2 ^ 14) : hbmByte lgFull (0x900000 + k) = 1 := by
  unfold hbmByte
  rw [lgFull_mem, mget_setBytes_in _ _ (by rw [ones_length]; exact hk)]
  simp only [ones, List.getD_eq_getElem?_getD, List.getElem?_replicate, if_pos hk, Option.getD_some]

theorem lgFull_out {b n : Nat} (h : b + n ≤ 0x900000 ∨ 0x904000 ≤ b) : hbmBytes lgFull b n = hbmBytes lgS b n :=
  hbmBytes_putMem_out _ _ (by rw [ones_length]; omega)

theorem lgFull_ready : BatchReady lgFull 0 1 0 0 0 0 tblB := by
  have e : lgFull = putMem lgS 0x900000 (ones (2 ^ 14)) := rfl
  exact batchReady_of (quiet_putMem' lgQ _ _) (by rw [e, batchCheck_putMem]; exact lgTable.2.2)
    ((lgFull_out (.inl (by decide))).trans lgTable.1) ((lgFull_out (.inl (by decide))).trans lgTable.2.1)

/-- Its half 0 is full of ones, its half 1 is empty. -/
theorem lgFull_halves : halfAt lgFull 0 0 = List.replicate 1024 (List.replicate 16 1) ∧ halfAt lgFull 0 1 = [] := by
  have l : lgFull.ledgerLog 0 = 10 ∧ lgFull.ledgerBase 0 = 0x900000 := by
    have lp := ledger_putMem lgS 0x900000 (ones (2 ^ 14))
    have e : lgFull = putMem lgS 0x900000 (ones (2 ^ 14)) := rfl
    rw [e, lp.2.1, lp.2.2]; decide +kernel
  unfold halfAt
  rw [l.1, l.2]
  constructor
  · have h : ∀ i ∈ List.range (2 ^ 10), hbmBytes lgFull (0x900000 + (0 * 2 ^ 10 + i) * 16) 16 = List.replicate 16 1 := by
      intro i hi
      have hi' := List.mem_range.1 hi
      unfold hbmBytes
      refine List.eq_replicate_iff.2 ⟨by simp, fun b hb => ?_⟩
      obtain ⟨k, hk, rfl⟩ := List.mem_map.1 hb
      have := List.mem_range.1 hk
      rw [Nat.add_assoc]
      exact lgFull_in (by omega)
    rw [List.map_congr_left h, List.map_const', List.length_range, List.takeWhile_replicate, if_pos (by decide +kernel)] <;> exact congrArg (List.replicate · _) (by decide)
  · have h : hbmBytes lgFull (0x900000 + (1 * 2 ^ 10 + 0) * 16) 16 = List.replicate 16 0 :=
      (lgFull_out (.inr (by decide))).trans (by decide +kernel)
    have r : List.range (2 ^ 10) = 0 :: (List.range 1023).map Nat.succ := List.range_succ_eq_map
    rw [r, List.map_cons]
    exact List.takeWhile_cons_of_neg (by rw [h]; decide)

theorem lgFull_steps : halfStep lgFull 0 0 = some 0x01010101 ∧ halfStep lgFull 0 1 = none := by
  constructor
  · unfold halfStep
    rw [lgFull_halves.1, List.head?_replicate, if_neg (by decide), Option.map_some]
    exact congrArg some (by decide +kernel)
  · unfold halfStep; rw [lgFull_halves.2]; rfl

/-- The next entry of the step that half 0 holds goes behind its last. -/
theorem spot_of {s : State} {n st k : Nat} (h : halfStep s n 0 = some st) (h' : halfStep s n 1 = none)
    (hl : (halfAt s n 0).length = k) : ledgerSpot s n st = some (0, k, false) := by
  unfold ledgerSpot; rw [h, h', hl]; simp

/-- A batch for a full half, not in the ledger. -/
theorem lgFull_spot : ledgerSpot lgFull 0 0x01010101 = some (0, 1024, false) :=
  spot_of lgFull_steps.1 lgFull_steps.2 (by rw [lgFull_halves.1, List.length_replicate])

theorem full_new {s : State} (h0 : halfAt s 0 0 = List.replicate 1024 (List.replicate 16 1)) (h1 : halfAt s 0 1 = []) :
    ¬ Ledgered s 0 0 0x01010101 1 0 := by
  have e : ledgerEntry 0 0x01010101 1 0 ≠ List.replicate 16 1 := by decide +kernel
  unfold Ledgered
  rw [h0, h1, List.append_nil]
  exact fun h => e (List.eq_of_mem_replicate h)

theorem apQ (l : Bool) : quiet (apS l) = true := xchQ _ _

/-- The facts of an apply beside its memory. -/
def apCheck (l : Bool) : Bool :=
  let s := apS l
  s.xchOn 0 && s.pageOn cOPT 0 && s.pageOn cXCH 0 && decide (s.tblAddr 0 0 = 0x500000) && decide (tblB = hbmBytes s 0x500000 128) &&
    decide (s.readyGroup 0 0 0 0 (ascSet (ranksAt s tblB)) = some (grp l)) &&
    decide ((ranksAt s tblB).findIdx? (· == s.myRank) = some 0) && !s.rdb cOPT 0 hCTRL 1 && decide (groupRows (grp l) = [0])

/-- The stage of that apply. -/
def apStage (l : Bool) : Nat × Nat :=
  ((apS l).rd64 cXCH 0 XCH.STAGE_BASE_LO % 2 ^ 48 / 65536 * 65536, (groupRows (grp l)).length * (tRec tblB + 4 + 4 * tDim tblB))

/-- The RETURN of a row that rank 1 sent. -/
def rtD : List DispSt := [⟨3, [(1, [0])]⟩]
def rt1 : State := putMem (rtS rtD) 0x620000 [1]

/-- The facts of an expert batch. -/
def xpCheck (ret : Bool) : Bool :=
  let s := xpS ret
  let c := xpC ret
  let d := xDescOf c.desc
  s.xchOn 0 && decide ((s.xchOf 0).arrived = []) && decide ((s.xchOf 0).cmds = [c]) && decide (d.step = 3) && decide (c.op = if ret then 5 else 4) &&
    decide (c.status = none) && decide (c.parts = [⟨1, [0], 1, 0, none⟩]) && c.recvd.isEmpty && decide (c.openPart 1 = some ⟨1, [0], 1, 0, none⟩) &&
    decide (d.dimx = 4) && decide (16 ≤ d.stride) && decide (0 < d.count)

theorem test_hyp_ScattersApplyOnceAndExpertsTravel :
    (∃ d, d = xDescOf scB ∧ (d.op = 2 ∧
        ((List.range d.count).map fun i => placeOf scS d.table tblB (scS.curVer 0 d.table) (idAt scS d i % 2 ^ 40)) = [.hot 0, .at 0 0]) ∧
      ReportFits d (ascSet (ranksAt scS tblB)).length ∧ XHead scS 0 scB d ∧ XTable scS 0 d tblB ∧ HotReady scS d.table tblB (scS.curVer 0 d.table)) ∧
    globalRow tblB 0 3 < tRows tblB ∧ (BatchReady lgHas 0 1 0 0 0 0 tblB ∧ Ledgered lgHas 0 0 0 1 0) ∧
    (BatchReady lgOld 0 1 0 0 0 0 tblB ∧ ¬ Ledgered lgOld 0 0 0 1 0 ∧ ledgerSpot lgOld 0 0 = none) ∧
    (BatchReady lgFull 0 1 0 0 0 0 tblB ∧ ¬ Ledgered lgFull 0 0 0x01010101 1 0 ∧ ledgerSpot lgFull 0 0x01010101 = some (0, 1024, false)) ∧
    (BatchReady lgS 0 1 0 0 0 0 tblB ∧ ¬ Ledgered lgS 0 0 0 1 0 ∧ ledgerSpot lgS 0 0 = some (0, 0, true)) ∧
    (BatchReady lgHas 0 2 0 0 0 0 tblB ∧ ¬ Ledgered lgHas 0 0 0 2 0 ∧ ledgerSpot lgHas 0 0 = some (0, 1, false)) ∧
    (∀ l ∈ [true, false], (apCheck l = true ∧ (f32 (tDivisor tblB)).isZero = false ∧
        apart (tBase tblB 0 + tRec tblB * 0) (tRec tblB) (tAcc tblB 0 + 4 * 0) 4 ∧ ∀ r ∈ applyRuns tblB (grp l), apart (apStage l).1 (apStage l).2 r.1 r.2.1) ∧
      MemUp (apS l) (rqXch 0) ∧ Readable (apS l) 0x500000 128 ∧ Readable (apS l) (tRanks tblB) (2 * 2) ∧
      (∀ r ∈ applyRuns tblB (grp l), Clear (apS l) r.1 r.2.1 r.2.2 ∧ SoundRun (apS l) r.1 r.2.1) ∧
      Clear (apS l) (apStage l).1 (apStage l).2 true ∧ SoundRun (apS l) (apStage l).1 (apStage l).2) ∧
    (∃ d, d = xDescOf (dpB 4) ∧ (d.op = 4 ∧ d.bad [] [] = false ∧ d.count = 1 ∧ 0 < d.nbags ∧ apart (d.data + d.stride * 0) (4 * d.dimx) d.ids (16 * 1) ∧
        apart d.ws d.wsLen d.ids (16 * 1)) ∧ XHead dpS 0 (dpB 4) d ∧ (∀ r ∈ d.runs [], Clear dpS r.1 r.2.1 r.2.2.2 ∧ SoundRun dpS r.1 r.2.1) ∧
      Readable dpS d.bags (4 * expertsOf dpS d) ∧ Readable dpS (d.data + d.stride * 0) (4 * d.dimx)) ∧
    (∃ d, d = xDescOf (dpB 5) ∧ (d.op = 5 ∧ d.bad [] [] = false ∧ ((rtS []).xchOf 0).disp.find? (·.step == d.step) = none) ∧ XHead (rtS []) 0 (dpB 5) d ∧
      (∀ r ∈ d.runs [], Clear (rtS []) r.1 r.2.1 r.2.2.2 ∧ SoundRun (rtS []) r.1 r.2.1)) ∧
    (∃ d, d = xDescOf (dpB 5) ∧ ((rt1.xchOf 0).disp.find? (·.step == d.step) = some ⟨d.step, [(1, [0])]⟩ ∧ 1 = leNat (hbmBytes rt1 d.recv 4) ∧
        inDevSpace d.recv (64 + recvPitch d.dimx * 1) = true) ∧ XHead rt1 0 (dpB 5) d ∧
      (∀ r ∈ d.runs [], Clear rt1 r.1 r.2.1 r.2.2.2 ∧ SoundRun rt1 r.1 r.2.1) ∧ Readable rt1 (d.recv + 64 + recvPitch d.dimx * 0) (4 * d.dimx)) ∧
    (∀ ret ∈ [true, false], ∃ d, d = xDescOf (xpC ret).desc ∧ xpCheck ret = true ∧ MemUp (xpS ret) (rqXch 0) ∧
      Clear (xpS ret) d.data (d.stride * d.count) true ∧ SoundRun (xpS ret) d.data (d.stride * d.count)) := by
  have qs : quiet scS = true := xchQ _ _
  have qd : quiet dpS = true := xchQ _ _
  have qr : ∀ d, quiet (rtS d) = true := fun _ => xchQ _ _
  have q1 : quiet rt1 = true := quiet_putMem' (qr _) _ _
  have qh : quiet lgHas = true := quiet_putMem' lgQ _ _
  have qx : ∀ r, quiet (xpS r) = true := fun _ => xchQ _ _
  unfold apart ReportFits Ledgered
  refine ⟨⟨_, rfl, by decide +kernel, by decide +kernel, xHead_of qs (by decide +kernel) (by decide +kernel),
      xTable_of qs (by decide +kernel) (by decide +kernel) (by decide +kernel), fun k hk _ => ?_⟩, by decide +kernel,
    ⟨lg_ready qh (by decide +kernel), by decide +kernel⟩,
    ⟨lg_ready (quiet_putMem' (quiet_putMem' lgQ _ _) _ _) (by decide +kernel), by decide +kernel⟩,
    ⟨lgFull_ready, full_new lgFull_halves.1 lgFull_halves.2, lgFull_spot⟩, ⟨lg_ready lgQ (by decide +kernel), by decide +kernel⟩, ⟨?_, by decide +kernel⟩,
    fun l hl => ?_, ⟨_, rfl, by decide +kernel, xHead_of qd (by decide +kernel) (by decide +kernel), xRuns_of qd (by decide +kernel), readable_quiet qd ?_,
      readable_quiet qd (by decide +kernel)⟩,
    ⟨_, rfl, by decide +kernel, xHead_of (qr _) (by decide +kernel) (by decide +kernel), xRuns_of (qr _) (by decide +kernel)⟩,
    ⟨_, rfl, by decide +kernel, xHead_of q1 (by decide +kernel) (by decide +kernel), xRuns_of q1 (by decide +kernel), readable_quiet q1 (by decide +kernel)⟩,
    fun ret hr => ?_⟩
  · have k0 : k = 0 := Option.some.inj (hk.symm.trans (by decide +kernel))
    subst k0; exact readable_quiet qs (by decide +kernel)
  · have b := lg_ready qh (by decide +kernel)
    exact ⟨⟨b.serves.1, by decide +kernel⟩, b.up, b.table, b.ranks, b.ledger, b.inbox, b.apart, b.slot, b.shard⟩
  · have h : ∀ l ∈ [true, false], ((applyRuns tblB (grp l)).all fun r => decide (r.1 + r.2.1 ≤ hbmSize)) = true ∧
        (apStage l).1 + (apStage l).2 ≤ hbmSize := by decide +kernel
    refine ⟨?_, memUp_quiet (apQ l) _, readable_quiet (apQ l) (by decide), readable_quiet (apQ l) (by decide +kernel), runs_of (apQ l) (h l hl).1,
      clear_quiet (apQ l) _ (h l hl).2, soundRun_quiet (apQ l) _ _⟩
    revert l; decide +kernel
  · have m : min 65536 (Config.experts (xDescOf (dpB 4)).bags) ≤ 65536 := Nat.min_le_left _ _
    have a : (assigns dpS (xDescOf (dpB 4))).foldl (fun a x => max a (x.expert + 1)) 0 = 1 := by decide +kernel
    have b : (xDescOf (dpB 4)).bags = 0x610000 := by decide +kernel
    unfold expertsOf
    rw [a, b]
    have : max 1 (min 65536 (Config.experts 0x610000)) ≤ 65536 := by rw [b] at m; omega
    unfold hbmSize; omega
  · have h : ∀ ret ∈ [true, false], xpCheck ret = true ∧
        (xDescOf (xpC ret).desc).data + (xDescOf (xpC ret).desc).stride * (xDescOf (xpC ret).desc).count ≤ hbmSize := by decide +kernel
    exact ⟨_, rfl, (h ret hr).1, memUp_quiet (qx _) _, clear_quiet (qx _) _ (h ret hr).2, soundRun_quiet (qx _) _ _⟩

/-! ### Off-load and shifts -/

def offB (op : Nat) : Bytes := fields 128 ([(0, 1, op)] ++ (if op = 0x18 then [(0xC, 4, 5)] else [(4, 2, 3), (0x28, 8, 0x720000), (0x30, 4, 1)]) ++
  if op = 0x10 ∨ op = 0x18 then [(0x10, 8, 0x700000), (0x18, 8, 0x710000), (0x20, 8, 64)] else [])
/-- The descriptor at the ring's head, an entry in the directory (AWAY at 0x710000, or none), what the engine holds, a torus of `z` + 1 on axis 2. -/
def offS (op st z : Nat) (x : XchSt) : State :=
  putMem (putMem (withX (with' base [(cPORT, 4, PORT.GEOM, z)]) x) 0x720000
    (⟨st, 0, 3, 0, 0x700000, 0x710000, 64, false⟩ : OEnt).bytes) 0x30000 (offB op)
theorem offQ (op st z : Nat) (h : quiet (with' base [(cPORT, 4, PORT.GEOM, z)]) = true) (x : XchSt) : quiet (offS op st z x) = true :=
  quiet_putMem' (quiet_putMem' ((quiet_withX _ _).trans h) _ _) _ _
theorem offQ0 (op st : Nat) (x : XchSt) : quiet (offS op st 0 x) = true := offQ op st 0 (by decide +kernel) x
def kvC (sent got : Bool) : XchCmd := { idx := 0, op := 0x18, irq := false, desc := offB 0x18, kv := { sent := sent, got := got } }

def oCheck (s : State) (op : Nat) (d : ODesc) : Bool :=
  s.ringReady cXCH 0 && decide (s.ringAddr cXCH 0 (s.ringHead cXCH 0) = 0x30000) && decide (d.op = op) && (s.xchOf 0).cmds.isEmpty && !d.bad &&
    !s.unitBusy (cpUnit 0) && !s.opl.fails.contains (cpUnit 0)

theorem oHead_of {s : State} {op : Nat} {b : Bytes} (hq : quiet s = true) (hb : b = hbmBytes s 0x30000 128) (h : oCheck s op (oDescOf b) = true) :
    OHead s 0 op b (oDescOf b) := by
  simp only [oCheck, Bool.and_eq_true, decide_eq_true_eq, Bool.not_eq_true', List.isEmpty_iff] at h
  obtain ⟨⟨⟨⟨⟨⟨h1, h2⟩, h3⟩, h4⟩, h5⟩, h6⟩, h7⟩ := h
  exact ⟨hb ▸ headIs_of hq h1 h2 (by decide), ⟨rfl, h3⟩, by rw [h4]; decide, (fun c hc => by rw [h4] at hc; exact absurd hc List.not_mem_nil),
    by unfold State.copying; rw [h4]; rfl, h5, h6, h7⟩

theorem kvD : (oDescOf (offB 0x18)).dir = 0 ∧ (oDescOf (offB 0x18)).round = 5 ∧ (oDescOf (offB 0x18)).len = 64 ∧
    (offS 0x18 0 0 { cmds := [kvC false false] }).rdb cXCH 0 hFREEZE 0 = false := by decide +kernel
theorem kvOn : (offS 0x18 0 0 {}).pageOn cXCH 0 = true := by decide +kernel

theorem test_hyp_OffloadCopiesAndShiftsTravel :
    (∃ s d, OHead s 0 0x10 (offB 0x10) d ∧ d.target = 0 ∧ Readable s d.src d.len ∧ Writable s d.dst d.len ∧ Writable s (d.odir + 32 * d.entry) 32 ∧
      (entAt s d d.entry).state = 0 ∧ (entAt s d d.entry).resv = false ∧ apart (d.odir + 32 * d.entry) 32 d.src d.len ∧
      apart (d.odir + 32 * d.entry) 32 d.dst d.len) ∧
    (∀ op ∈ [0x11, 0x12], ∀ st ∈ [0, 2], ∃ s d, OHead s 0 op (offB op) d ∧ Writable s d.odir (32 * d.olen) ∧
      (∀ e ∈ (List.range d.olen).map (entAt s d), e.resv = true → e.state = 0) ∧
      dirMatch ((List.range d.olen).map (entAt s d)) d.layer [2] = (if st = 0 then [] else [0]) ∧
      (entAt s d 0).target = 0 ∧ (entAt s d 0).len = 64 ∧ (entAt s d 0).away = 0x710000 ∧ (entAt s d 0).home = 0x700000 ∧ Readable s 0x710000 64 ∧
      Writable s 0x700000 64 ∧ apart 0x700000 64 0x710000 64 ∧ apart 0x700000 64 d.odir (32 * d.olen) ∧ apart 0x710000 64 d.odir (32 * d.olen)) ∧
    (∀ z ∈ [0, 1], ∃ s d, OHead s 0 0x18 (offB 0x18) d ∧ (s.xchOf 0).cmds = [] ∧ s.axisLen 2 = z + 1 ∧ Readable s d.src d.len ∧ Writable s d.dst d.len ∧
      (s.xchOf 0).ready = [] ∧ (s.xchOf 0).held = []) ∧
    (∃ (s : State) (c : XchCmd) (d : ODesc), s.pageOn cXCH 0 = true ∧ (s.xchOf 0).cmds = [c] ∧ d = oDescOf c.desc ∧ c.op = 0x18 ∧ c.status = none ∧ c.kv = {} ∧ d.dir = 0 ∧
      d.round = 5 ∧ d.len = 64 ∧ s.rdb cXCH 0 hFREEZE 0 = false ∧ (s.xchOf 0).held = [] ∧ (s.xchOf 0).ready = [] ∧ (s.xchOf 0).last = [] ∧
      MemUp s (rqXch 0) ∧ Readable s d.src d.len ∧ Writable s d.dst d.len) ∧
    (∀ l ∈ [[], [(0, 5)]], ∃ s : State, s.pageOn cXCH 0 = true ∧ s.rdb cXCH 0 hFREEZE 0 = false ∧ (s.xchOf 0).last = l ∧ (s.xchOf 0).cmds = []) ∧
    (∃ (s : State) (c : XchCmd), s.pageOn cXCH 0 = true ∧ (s.xchOf 0).cmds = [c] ∧ c.op = 0x18 ∧ (oDescOf c.desc).isFor 0 5 = true ∧ c.kv.sent = true ∧
      c.kv.acked = false) := by
  have z1 : quiet (with' base [(cPORT, 4, PORT.GEOM, 1)]) = true := by decide +kernel
  have b0 : ∀ op ∈ [0x10, 0x11, 0x12, 0x18], ∀ st ∈ [0, 2], offB op = hbmBytes (offS op st 0 {}) 0x30000 128 := by decide +kernel
  unfold apart
  refine ⟨⟨offS 0x10 0 0 {}, _, oHead_of (offQ0 _ _ _) (b0 _ (by decide) _ (by decide)) (by decide +kernel), by decide +kernel,
      readable_quiet (offQ0 _ _ _) (by decide +kernel), writable_quiet (offQ0 _ _ _) (by decide +kernel), writable_quiet (offQ0 _ _ _) (by decide +kernel),
      by decide +kernel, by decide +kernel, by decide +kernel, by decide +kernel⟩, ?_, ?_,
    ⟨offS 0x18 0 0 { cmds := [kvC false false] }, kvC false false, _, by decide +kernel, rfl, rfl, rfl, rfl, rfl, kvD.1, kvD.2.1, kvD.2.2.1,
      kvD.2.2.2, rfl, rfl, rfl, memUp_quiet (offQ0 _ _ _) _, readable_quiet (offQ0 _ _ _) (by decide +kernel),
      writable_quiet (offQ0 _ _ _) (by decide +kernel)⟩, ?_, ⟨offS 0x18 0 0 { cmds := [kvC true false] }, kvC true false, by decide +kernel⟩⟩
  · intro op ho st hs
    have h : ∀ op ∈ [0x11, 0x12], ∀ st ∈ [0, 2], (oCheck (offS op st 0 {}) op (oDescOf (offB op)) = true ∧ (oDescOf (offB op)).odir = 0x720000 ∧
        (oDescOf (offB op)).olen = 1 ∧ (entAt (offS op st 0 {}) (oDescOf (offB op)) 0).resv = false) ∧
        dirMatch ((List.range (oDescOf (offB op)).olen).map (entAt (offS op st 0 {}) (oDescOf (offB op)))) (oDescOf (offB op)).layer [2] =
          (if st = 0 then [] else [0]) ∧ (entAt (offS op st 0 {}) (oDescOf (offB op)) 0).target = 0 ∧ (entAt (offS op st 0 {}) (oDescOf (offB op)) 0).len = 64 ∧
        (entAt (offS op st 0 {}) (oDescOf (offB op)) 0).away = 0x710000 ∧ (entAt (offS op st 0 {}) (oDescOf (offB op)) 0).home = 0x700000 := by
      decide +kernel
    obtain ⟨⟨h1, h2, h3, h4⟩, h5, h6, h7, h8, h9⟩ := h op ho st hs
    refine ⟨offS op st 0 {}, _, oHead_of (offQ0 _ _ _) (b0 op (by simp only [List.mem_cons, List.not_mem_nil, or_false] at ho ⊢; omega) st hs) h1, ?_, ?_, h5, h6, h7, h8, h9,
      readable_quiet (offQ0 _ _ _) (by decide), writable_quiet (offQ0 _ _ _) (by decide), by decide, ?_, ?_⟩ <;> try rw [h3]
    · rw [h2]; exact writable_quiet (offQ0 _ _ _) (by decide)
    · intro e he
      simp only [List.range_succ, List.range_zero, List.nil_append, List.map_cons, List.map_nil, List.mem_cons, List.not_mem_nil, or_false] at he
      rw [he]; exact fun h => absurd h (by rw [h4]; decide)
    · rw [h2]; decide
    · rw [h2]; decide
  · intro z hz
    have q : ∀ z ∈ [0, 1], quiet (offS 0x18 0 z {}) = true := by
      intro z hz
      simp only [List.mem_cons, List.not_mem_nil, or_false] at hz
      rcases hz with rfl | rfl
      · exact offQ0 _ _ _
      · exact offQ _ _ _ z1 _
    have h : ∀ z ∈ [0, 1], offB 0x18 = hbmBytes (offS 0x18 0 z {}) 0x30000 128 ∧ oCheck (offS 0x18 0 z {}) 0x18 (oDescOf (offB 0x18)) = true ∧
      (offS 0x18 0 z {}).axisLen 2 = z + 1 ∧ ((offS 0x18 0 z {}).xchOf 0).cmds = [] ∧ ((offS 0x18 0 z {}).xchOf 0).ready = [] ∧
      ((offS 0x18 0 z {}).xchOf 0).held = [] := by decide +kernel
    obtain ⟨h1, h2, h3, h4, h5, h6⟩ := h z hz
    exact ⟨offS 0x18 0 z {}, _, oHead_of (q z hz) h1 h2, h4, h3, readable_quiet (q z hz) (by decide +kernel), writable_quiet (q z hz) (by decide +kernel), h5, h6⟩
  · intro l _
    exact ⟨offS 0x18 0 0 { last := l }, kvOn, kvD.2.2.2, rfl, rfl⟩


/-! ### Links and the router -/

/-- The base machine with the state of port 0's end and its LINK_STAT. -/
def linkS (l : LinkSt) (st : Nat) : State := with' { base with links := [(0, l)] } [(cPORT, 0, hCTRL, 1), (cPORT, 0, PORT.LINK_STAT, st)]
def upSt : Nat := 0x28FF0000
def lnk : LinkSt := { lock := 0xFF, credit := [32, 32, 512, 512, 512, 512] }
def goodPeer : PeerInfo := ⟨0, [0, 0, 0, 0], [1, 1, 1, 1], 0, true⟩

theorem test_hyp_LinksTrainDegradeAndRetrain :
    (pickGroup 0 0xFF 8 = some (8, 0xFF)) ∧
    ((linkS {} 0).linkReady 0 = true ∧ (linkS {} 0).linkUpP 0 = false ∧ (linkS {} 0).peerFits 0 goodPeer = true ∧
      (linkS {} 0).peerFits 0 { goodPeer with axis := 1 } = false ∧ (linkS {} 0).errQ (pageId cPORT 0) = []) ∧
    (∃ s good, s = linkS lnk 0x10000000 ∧ s.linkReady 0 = true ∧ s.linkState 0 = 1 ∧ (s.link 0).lock ≠ 0 ∧
      pickGroup 0 (s.ownLanes 0 &&& (good : BitVec 8).toNat) 8 = some (8, 0xFF) ∧ pickGroup 0 (s.ownLanes 0 &&& (0 : BitVec 8).toNat) 8 = none) ∧
    (∃ s, s = linkS lnk upSt ∧ s.linkReady 0 = true ∧ s.clk.running = true ∧ s.clk.time % 100000 = 0 ∧
      s.laneMissing (s.setLink 0 { s.link 0 with lock := 0xFF, win := ([0, 0] : List Nat).take 8 }) 0 = false) ∧
    (∀ k ∈ [0x1FF, 0xFF], ∃ s, s = with' (linkS lnk upSt) [(cPORT, 0, PORT.LINK_CTRL, k)] ∧ s.linkReady 0 = true ∧ s.linkState 0 = 2 ∧
      Nat.testBit (s.ownLanes 0) 3 = true ∧ s.autoDegrade 0 = (k == 0x1FF)) ∧
    (∃ s, s = linkS { lnk with lock := 0xF0 } 0x24F00000 ∧ s.linkReady 0 = true ∧ s.linkState 0 = 2 ∧ Nat.testBit (s.ownLanes 0) 3 = false) ∧
    (∃ s, s = linkS lnk upSt ∧ OwnerReady s 0 cPORT 0 PORT.LINK_CTRL ∧ s.linkReady 0 = true ∧ s.linkState 0 = 2) ∧
    (∃ s, s = linkS lnk 0x38FF0000 ∧ s.linkReady 0 = true ∧ s.linkState 0 = 3 ∧ s.errQ (pageId cPORT 0) = [] ∧
      pickGroup 0 (s.ownLanes 0 &&& (0x0F : BitVec 8).toNat) (if (s.link 0).full then 8 else s.linkWidth 0) = some (4, 0x0F)) ∧
    (∀ en ∈ [true, false], ∃ s, s = with' (linkS {} 0) [(cPORT, 0, hCTRL, b2n (!en))] ∧ OwnerReady s 0 cPORT 0 hCTRL ∧ s.linkEn 0 = !en ∧
      s.on 72 = true ∧ s.linkUpP 0 = false) ∧
    (∃ s, s = with' base ((List.range 8).map fun q => (cPORT, q, hFREEZE, 1)) ∧ OwnerReady s 0 cPORT 0 PORT.GEOM ∧ ∀ q, q < 8 → s.drained cPORT q = true) ∧
    (OwnerReady base 0 cPORT 0 PORT.GEOM ∧ base.drained cPORT 3 = false ∧ base.errQ (pageId cPORT 0) = []) ∧
    (∀ v f, ∃ s : State, s.live = v ∧ s.pins.twinAliveIn = f) := by
  unfold OwnerReady Reaches
  have auto : ∀ k ∈ [0x1FF, 0xFF], (with' (linkS lnk upSt) [(cPORT, 0, PORT.LINK_CTRL, k)]).linkReady 0 = true ∧
      (with' (linkS lnk upSt) [(cPORT, 0, PORT.LINK_CTRL, k)]).linkState 0 = 2 ∧
      Nat.testBit ((with' (linkS lnk upSt) [(cPORT, 0, PORT.LINK_CTRL, k)]).ownLanes 0) 3 = true ∧
      (with' (linkS lnk upSt) [(cPORT, 0, PORT.LINK_CTRL, k)]).autoDegrade 0 = (k == 0x1FF) := by decide +kernel
  exact ⟨by decide, by decide +kernel, ⟨_, 0xFF, rfl, by decide +kernel⟩, ⟨_, rfl, by decide +kernel⟩,
    fun k hk => ⟨_, rfl, auto k hk⟩, ⟨_, rfl, by decide +kernel⟩, ⟨_, rfl, by decide +kernel⟩, ⟨_, rfl, by decide +kernel⟩,
    fun en _ => ⟨_, rfl, by cases en <;> decide +kernel⟩, ⟨_, rfl, by decide +kernel⟩, by decide +kernel,
    fun v f => ⟨{ base with life := { base.life with inReset := !v }, pins := { base.pins with twinAliveIn := f } }, by cases v <;> rfl, rfl⟩⟩

/-- A flit in the retry buffer; a packet at the egress; an idle flit of zeros with its CRC, a DATA flit of VC 2. -/
def fl0 : TxFlit := ⟨2, true, true, false, [1, 2, 3]⟩
def pk0 : EgPkt := ⟨9, 2, 2, List.replicate 64 7, false, 0, 0⟩
def dataBody : Bytes := fields 252 [(0, 1, 1), (1, 1, 2), (2, 1, 3), (3, 1, 3)]
def dataFlit (n : Nat) : Bytes := flitSeal (some n) dataBody
theorem dataFlit_ok (l : LinkSt) : l.flitOk 0 (dataFlit l.rxNext) false = true ∧ flitKind (dataFlit l.rxNext) = 1 := by
  have len : dataBody.length = 252 := by decide +kernel
  have cons : ∃ r, dataFlit l.rxNext = 1 :: 2 :: r := by
    unfold dataFlit flitSeal
    rw [bpad_self dataBody 252 len]
    exact ⟨_, rfl⟩
  obtain ⟨r, hr⟩ := cons
  have k : flitKind (dataFlit l.rxNext) = 1 := by rw [hr]; simp [flitKind, bfield, bslice, leNat]
  have v : bfield (dataFlit l.rxNext) 1 1 = 2 := by rw [hr]; simp [bfield, bslice, leNat]
  refine ⟨?_, k⟩
  unfold LinkSt.flitOk
  rw [k, v]
  have c := flitSeal_crc (some l.rxNext) dataBody len
  have n := flitSeal_length (some l.rxNext) dataBody len
  simp only [dataFlit, n, c]
  simp [linkVcs, linkCredits]
def pktTo (d c ep : Nat) : Packet := ⟨d, 0, [c, 0, 0, 0], ep, 1, 0, [], false⟩
/-- A torus of four places on axis 0. -/
def torus : State := with' base [(cPORT, 0, hCTRL, 1), (cPORT, 0, PORT.GEOM, 3), (cPORT, 1, PORT.GEOM, 3)]

/-- An Ack waits to leave on an Oplis link that is up. -/
def oplOut : State :=
  { with' { base with links := [(10, { lock := 0xFF, credit := [128, 64, 64, 256] })] } [(cOPL, 0, hCTRL, 1), (cOPL, 0, OPL.LINK_STAT, upSt)]
    with outbox := [ackMsg 5 0 0 0 128] }

theorem test_hyp_FlitsRetryAndPacketsRoute :
    (∃ s, s = linkS { lnk with retry := [fl0, fl0], txNext := 2, replay := some 1 } upSt ∧ s.linkReady 0 = true ∧ s.linkState 0 = 2 ∧
      (s.link 0).replay = some 1 ∧ (s.link 0).retry[1]? = some fl0 ∧ fl0.payload.length ≤ 240) ∧
    (∃ s f, s = linkS { lnk with egress := [pk0] } upSt ∧ s.linkReady 0 = true ∧ s.linkState 0 = 2 ∧ (s.link 0).replay = none ∧
      (s.link 0).retry.length < 512 ∧ s.pickVc 0 = some 2 ∧ s.vcPacket 0 2 = some pk0 ∧ pk0.src ≠ 0 ∧
      f = (⟨2, pk0.sent == 0, decide (pk0.bytes.length ≤ 240 * pk0.sent + 240), pk0.pois, (pk0.bytes.drop (240 * pk0.sent)).take 240⟩ : TxFlit) ∧
      (s.link 0).txNext < 65536) ∧
    (∃ s, s = linkS lnk upSt ∧ s.linkReady 0 = true ∧ s.linkState 0 = 2 ∧ (s.link 0).replay = none ∧ s.pickVc 0 = none ∧
      (s.link 0).flitOk 0 (dataFlit (s.link 0).rxNext) false = true ∧
      flitKind (dataFlit (s.link 0).rxNext) = 1 ∧ (s.link 0).flitOk 0 [] true = false ∧ (s.link 0).nakked = false) ∧
    (linkS { lnk with nakked := true } upSt).linkState 0 = 2 ∧
    (∀ n ∈ [0, 1], ∃ s l, s = linkS { lnk with retry := [fl0, fl0], txNext := 2 } upSt ∧ l = s.link 0 ∧ s.linkReady 0 = true ∧ s.linkState 0 = 2 ∧
      l.retry.length ≤ 512 ∧ n < l.retry.length ∧ (n = 0 → l.replays < s.retryMax 0) ∧ 0 < s.retryMax 0 ∧ l.retry ≠ [] ∧ l.ackDue ≤ s.clk.time ∧
      l.replays < s.retryMax 0) ∧
    (∃ s l, s = linkS { lnk with retry := [fl0], txNext := 1, replays := 15 } upSt ∧ l = s.link 0 ∧ s.linkReady 0 = true ∧ s.linkState 0 = 2 ∧
      l.retry ≠ [] ∧ l.ackDue ≤ s.clk.time ∧ s.retryMax 0 ≤ l.replays) ∧
    (axisHop 4 0 1 0 = .port 0 false ∧ axisHop 4 0 3 0 = .port 1 true) ∧
    (∀ src ∈ [0, 5], torus.live = true ∧ torus.on (72 + src) = true ∧ torus.headBlocked src 2 = false ∧ ((torus.link src).inq.find? fun x => x.vc == 2) = none ∧
      torus.badHeader (pktTo 9 0 2) = true ∧ torus.badHeader (pktTo 0 0 2) = false ∧ torus.nextHop (pktTo 0 0 2) = .here ∧
      (∀ b ∈ torus.bridgesHere src 2, torus.pdStat (bridgeDomain b) = true) ∧ torus.badHeader (pktTo 1 1 2) = false ∧
      torus.nextHop (pktTo 1 1 2) = .port 0 false ∧ torus.portTakes 0 = true ∧ ∀ b ∈ torus.bridgesTo src 0, torus.pdStat (bridgeDomain b) = true) ∧
    ((ackMsg 5 0 0 0 128).oplBytes 0 = some (2, [0x20, 0, 5, 0, 0, 0, 7, 0, 128, 0, 0, 0, 0, 0, 0, 0])) ∧
    (oplOut.linkReady 10 = true ∧ oplOut.linkState 10 = 2 ∧ (oplOut.link 10).replay = none ∧ (oplOut.link 10).retry.length < 512 ∧
      oplOut.pickVn = some 2 ∧ (oplOut.link 10).txNext < 65536) := by
  have fr : (fun s : State => s.linkReady 0 = true ∧ s.linkState 0 = 2 ∧ (s.link 0).replay = none ∧ (s.link 0).retry.length < 512 ∧ s.pickVc 0 = some 2 ∧
      s.vcPacket 0 2 = some pk0 ∧ (s.link 0).txNext < 65536) (linkS { lnk with egress := [pk0] } upSt) := by decide +kernel
  refine ⟨⟨_, rfl, by decide +kernel⟩, ⟨_, _, rfl, fr.1, fr.2.1, fr.2.2.1, fr.2.2.2.1, fr.2.2.2.2.1,
      fr.2.2.2.2.2.1, by decide, rfl, fr.2.2.2.2.2.2⟩,
    ⟨_, rfl, by decide +kernel, by decide +kernel, by decide +kernel, by decide +kernel, (dataFlit_ok _).1, (dataFlit_ok _).2, rfl, by decide +kernel⟩,
    by decide +kernel, ?_,
    ⟨_, _, rfl, rfl, by decide +kernel⟩, by decide, by decide +kernel, by decide, by decide +kernel⟩
  intro n hn
  simp only [List.mem_cons, List.not_mem_nil, or_false] at hn
  rcases hn with rfl | rfl <;> exact ⟨_, _, rfl, rfl, by decide +kernel⟩

/-- A message to this rank stays here, one to the next place leaves on port 0, one to no place is discarded; a batch has a body. -/
theorem test_hyp_FlitsRetryAndPacketsRoute_inject :
    torus.wayOf 9 6 (torus.packetOf (.kvAck 0 0 0 5) torus.fresh) = .here ∧
    torus.wayOf 9 6 (torus.packetOf (.kvAck 0 1 0 5) torus.fresh) = .out 0 (hopVc 9 6 0 0 false) ∧
    torus.wayOf 9 6 (torus.packetOf (.kvAck 0 9 0 5) torus.fresh) = .drop 0 0x09 none ∧
    (OutMsg.kvAck 0 1 0 5).long = false := by decide +kernel

/-- Messages of the in-link adders and of both exchange engines to the next rank are taken by the router. -/
theorem test_open : Open torus 8 (.redJoin 3 1 7 0) ∧ Open torus 9 (.kvAck 0 1 0 5) ∧ Open torus 10 (.kvAck 1 0 0 5) := by
  have h : torus.wayOf 8 6 (torus.packetOf (.redJoin 3 1 7 0) torus.fresh) = .out 0 (hopVc 8 6 0 0 false) ∧
      torus.wayOf 9 6 (torus.packetOf (.kvAck 0 1 0 5) torus.fresh) = .out 0 (hopVc 9 6 0 0 false) ∧
      torus.wayOf 10 6 (torus.packetOf (.kvAck 1 0 0 5) torus.fresh) = .here := by decide +kernel
  unfold Open
  rw [h.1, h.2.1, h.2.2]
  exact ⟨fun _ _ _ => Way.noConfusion, fun _ _ _ => Way.noConfusion, fun _ _ _ => Way.noConfusion⟩


/-! ### Reduction channels -/

/-- A REDUCE of `n` elements of type `t`, or a BARRIER; bit 3 of the flags is its gate. -/
def rdB (op t n fl : Nat) : Bytes := fields 128 ([(0, 1, op), (1, 1, t), (3, 1, fl), (0xC, 4, n), (0x10, 8, 0x800000), (0x18, 8, 0x801000),
  (0x20, 8, 0x802000)] ++ if fl = 8 then [(0x48, 8, 0x803000)] else [])
/-- The base machine with axis 0 of `g` + 1 places, channel 0 and the descriptor at its head. -/
def withRed (s : State) (x : RedSt) : State := { s with red := [(0, x)] }
theorem quiet_withRed (s : State) (x : RedSt) : quiet (withRed s x) = quiet s := rfl
def geo (g : Nat) : State := with' base [(cPORT, 0, PORT.GEOM, g), (cPORT, 1, PORT.GEOM, g)]
def redS (g : Nat) (b : Bytes) (x : RedSt) : State := withRed (putMem (geo g) 0x40000 b) x
theorem geoQ : quiet (geo 0) = true ∧ quiet (geo 1) = true := by decide +kernel
theorem redQ (g : Nat) (b : Bytes) (x : RedSt) (h : g = 0 ∨ g = 1) : quiet (redS g b x) = true := by
  refine (quiet_withRed _ _).trans (quiet_putMem' ?_ _ _)
  rcases h with rfl | rfl
  · exact geoQ.1
  · exact geoQ.2

def chanCheck (s : State) : Bool :=
  !(s.redOf 0).halted && (s.redOf 0).ops.isEmpty && (s.redOf 0).held.isEmpty && s.calving.isEmpty && s.ringReady cRED 0 &&
    decide (s.ringAddr cRED 0 (s.ringHead cRED 0) = 0x40000)

theorem chanTakes_of {s : State} {b : Bytes} (hq : quiet s = true) (hb : b = hbmBytes s 0x40000 128) (h : chanCheck s = true) : ChanTakes s 0 b := by
  simp only [chanCheck, Bool.and_eq_true, decide_eq_true_eq, Bool.not_eq_true', List.isEmpty_iff] at h
  obtain ⟨⟨⟨⟨⟨h1, h2⟩, h3⟩, h4⟩, h5⟩, h6⟩ := h
  exact ⟨by decide, ⟨h1, h2, h3, h4⟩, hb ▸ headIs_of hq h5 h6 (by decide), by rw [h6]; exact writable_quiet hq (by decide)⟩

/-- Operation 7 of channel 0 in a phase, with kids and a parent. -/
def rOp (b : Bytes) (p : ChPhase) (kids : List RedKid) (parent : Option Nat) : ChOp :=
  { seq := 7, idx := 0, op := bfield b 0 1, irq := true, desc := b, phase := p, kids := kids, parent := parent }
def rKid : RedKid := { stage := 0, glevel := 0, level := 0, start := 0, rank := 1 }
def opS (o : ChOp) : State := redS 1 [] { ops := [o] }
theorem opQ (o : ChOp) : quiet (opS o) = true := redQ 1 [] _ (Or.inr rfl)

theorem inRed_of {o : ChOp} (h : o.seq = 7 ∧ (o.op = 1 ∨ o.op = 2) ∧ o.status = none) : InRed (opS o) 0 7 o (rDescOf o.desc) := by
  refine ⟨⟨(by decide +kernel : (redS 1 [] {}).live = true), by decide⟩, ?_, h.2.1, rfl, h.2.2⟩
  show [o].find? (fun x => x.seq == 7) = some o
  simp [h.1]
theorem inRed_putMem {s : State} {o : ChOp} {d : RDesc} (a : Nat) (b : Bytes) (h : InRed s 0 7 o d) : InRed (putMem s a b) 0 7 o d :=
  ⟨h.live, h.op, h.kind, h.desc, h.open'⟩
/-- A BARRIER that waits for its gate, which is looked at from time `t` on and holds `x` in its high byte. -/
def gOp (t : Nat) : ChOp := { rOp (rdB 2 0 0 8) .wait [rKid] none with gateDue := t }
def gateS (t : Nat) (x : BitVec 8) : State := putMem (opS (gOp t)) 0x803000 [0, 0, 0, x]
theorem opS_ops (o : ChOp) : ((opS o).redOf 0).ops = [o] ∧ ((opS o).redOf 0).halted = false := ⟨rfl, rfl⟩

theorem test_hyp_ReductionsStartAtTheirHead :
    (∀ g ∈ [0, 1], ∀ op ∈ [1, 2], ∃ b d t, ChanTakes (redS g b {}) 0 b ∧ d = rDescOf b ∧ (redS g b {}).redBad d = false ∧ d.gateEn = false ∧
      t = (redS g b {}).treeOf d.stages 0 0 ∧ (decide (t.1 ≠ []) || t.2.isSome) = decide (g = 1) ∧ (g = 0 → (redS g b {}).memberCount d.stages = 1) ∧
      d.mapw = false ∧ d.op = op ∧ d.dtype = b2n (op == 1) ∧ d.count = (if op = 1 then 4 else 0) ∧ Readable (redS g b {}) d.src d.bytes ∧
      apart 0x40000 128 d.src d.bytes ∧ Writable (redS g b {}) d.hdr 128 ∧ Writable (redS g b {}) d.dst d.bytes ∧ apart 0x40000 128 d.hdr 128 ∧
      apart 0x40000 128 d.dst d.bytes ∧ apart d.hdr 128 d.dst d.bytes) ∧
    (∀ op ∈ [1, 2], ∃ b d, ChanTakes (redS 0 b {}) 0 b ∧ d = rDescOf b ∧ (redS 0 b {}).redBad d = true ∧ d.op = op) ∧
    (∀ p ∈ [(3000000, (0 : BitVec 8)), (0, 0), (0, 0x80)], ∃ d, InRed (gateS p.1 p.2) 0 7 (gOp p.1) d ∧ ((gateS p.1 p.2).redOf 0).ops = [gOp p.1] ∧
      (gateS p.1 p.2).calving = [] ∧ ((gateS p.1 p.2).redOf 0).halted = false ∧ (gateS p.1 p.2).rdb cRED 0 hFREEZE 0 = false ∧ (gOp p.1).op = 2 ∧
      (gOp p.1).phase = .wait ∧ d.count = 0 ∧ d.gateEn = true ∧ ((gateS p.1 p.2).clk.time < (gOp p.1).gateDue ↔ p.1 ≠ 0) ∧ MemUp (gateS p.1 p.2) rqRed ∧
      Readable (gateS p.1 p.2) d.gate 4 ∧ ((leNat (hbmBytes (gateS p.1 p.2) d.gate 4) + 2 ^ 32 - d.gval) % 2 ^ 32 < 2 ^ 31 ↔ p.2 = 0) ∧
      (gOp p.1).hdr = [] ∧ (gOp p.1).dropped = false ∧ (gOp p.1).done = 0 ∧ (gOp p.1).ready = false ∧ (gOp p.1).kids ≠ [] ∧
      ∀ k ∈ (gOp p.1).kids, k.part = none ∧ k.dropped = false) := by
  unfold apart
  refine ⟨fun g hg op ho => ?_, fun op ho => ?_, fun p hp => ?_⟩
  · have h : ∀ g ∈ [0, 1], ∀ op ∈ [1, 2], (fun b : Bytes => b = hbmBytes (redS g b {}) 0x40000 128 ∧ chanCheck (redS g b {}) = true ∧
        (redS g b {}).redBad (rDescOf b) = false ∧ (rDescOf b).gateEn = false ∧
        ((fun t : List RedKid × Option (Nat × Nat × Nat) => (decide (t.1 ≠ []) || t.2.isSome) = decide (g = 1)) ((redS g b {}).treeOf (rDescOf b).stages 0 0)) ∧
        (g = 0 → (redS g b {}).memberCount (rDescOf b).stages = 1) ∧ (rDescOf b).mapw = false ∧
        (rDescOf b).op = op ∧ (rDescOf b).dtype = b2n (op == 1) ∧ (rDescOf b).count = (if op = 1 then 4 else 0) ∧
        (rDescOf b).src = (if op = 1 then 0x800000 else 0) ∧ (rDescOf b).dst = (if op = 1 then 0x801000 else 0) ∧
        (rDescOf b).hdr = 0x802000 ∧ (rDescOf b).bytes = (if op = 1 then 16 else 0)) (if op = 1 then rdB 1 1 4 0 else fields 128 [(0, 1, 2), (0x20, 8, 0x802000)]) := by
      decide +kernel
    obtain ⟨h1, h2, h3, h4, h5, h6, h7, h8, h9, h10, h11, h12, h13, h14⟩ := h g hg op ho
    have q := redQ g (if op = 1 then rdB 1 1 4 0 else fields 128 [(0, 1, 2), (0x20, 8, 0x802000)]) {}
      (by simp only [List.mem_cons, List.not_mem_nil, or_false] at hg; exact hg)
    refine ⟨_, _, _, chanTakes_of q h1 h2, rfl, h3, h4, rfl, h5, h6, h7, h8, h9, h10, ?_, ?_, ?_, ?_, ?_, ?_, ?_⟩ <;> simp only [h11, h12, h13, h14]
    · exact readable_quiet q (by split <;> decide)
    · split <;> decide
    · exact writable_quiet q (by decide)
    · exact writable_quiet q (by split <;> decide)
    · decide
    · split <;> decide
    · split <;> decide
  · have h : ∀ op ∈ [1, 2], rdB op 3 4 0 = hbmBytes (redS 0 (rdB op 3 4 0) {}) 0x40000 128 ∧ chanCheck (redS 0 (rdB op 3 4 0) {}) = true ∧
        (redS 0 (rdB op 3 4 0) {}).redBad (rDescOf (rdB op 3 4 0)) = true ∧ (rDescOf (rdB op 3 4 0)).op = op := by decide +kernel
    obtain ⟨h1, h2, h3, h4⟩ := h op ho
    exact ⟨rdB op 3 4 0, _, chanTakes_of (redQ 0 _ _ (Or.inl rfl)) h1 h2, rfl, h3, h4⟩
  · have b2 : bfield (rdB 2 0 0 8) 0 1 = 2 := by decide +kernel
    have r : InRed (gateS p.1 p.2) 0 7 (gOp p.1) (rDescOf (gOp p.1).desc) := inRed_putMem _ _ (inRed_of ⟨rfl, Or.inr b2, rfl⟩)
    have q : quiet (gateS p.1 p.2) = true := quiet_putMem' (opQ _) _ _
    have g : (rDescOf (rdB 2 0 0 8)).gate = 0x803000 ∧ (rDescOf (rdB 2 0 0 8)).count = 0 ∧ (rDescOf (rdB 2 0 0 8)).gateEn = true := by decide +kernel
    have c : ∀ p ∈ [(3000000, (0 : BitVec 8)), (0, 0), (0, 0x80)], (gateS p.1 p.2).calving = [] ∧ (gateS p.1 p.2).rdb cRED 0 hFREEZE 0 = false ∧
        ((gateS p.1 p.2).clk.time < (gOp p.1).gateDue ↔ p.1 ≠ 0) ∧
        ((leNat (hbmBytes (gateS p.1 p.2) (rDescOf (gOp p.1).desc).gate 4) + 2 ^ 32 - (rDescOf (gOp p.1).desc).gval) % 2 ^ 32 < 2 ^ 31 ↔ p.2 = 0) := by
      decide +kernel
    obtain ⟨c1, c2, c3, c4⟩ := c p hp
    exact ⟨_, r, rfl, c1, rfl, c2, b2, rfl, g.2.1, g.2.2, c3, memUp_quiet q _, by show Readable _ (rDescOf (rdB 2 0 0 8)).gate 4; rw [g.1]; exact readable_quiet q (by decide),
      c4, rfl, rfl, rfl, rfl, by simp [gOp, rOp], by show ∀ k ∈ [rKid], _; decide⟩

theorem rests_of {c : Nat} {o : ChOp} (h : (redNext c (rDescOf o.desc) o).isNone = true) : Rests c o := Option.isNone_iff_eq_none.1 h

def bar : Bytes := rdB 2 0 0 0
def r32 : Bytes := rdB 1 1 4 0
/-- A BS16 reduction that agrees on exponents, written at 0x804000 or nowhere. -/
def bs16 (e : Nat) : Bytes := fields 128 [(0, 1, 1), (0xC, 4, 4), (0x10, 8, 0x800000), (0x18, 8, 0x801000), (0x20, 8, 0x802000), (0x30, 8, e)]
theorem ops_op : bfield bar 0 1 = 2 ∧ bfield r32 0 1 = 1 ∧ bfield (bs16 0) 0 1 = 1 ∧ bfield (bs16 0x804000) 0 1 = 1 := by decide +kernel

theorem test_hyp_ReductionMessagesMoveTheirOperation :
    ((opS (rOp bar .wait [] none)).live = true ∧ (opS (rOp bar .wait [] none)).opAt 0 9 = none ∧ (opS (rOp bar .wait [] none)).seqAhead 0 9 = true) ∧
    (∃ o, InRed (opS o) 0 7 o (rDescOf o.desc) ∧ KidIs o 1 rKid ∧ Rests 0 (o.setKid { rKid with joined := true }) ∧ Rests 0 { o with ready := true } ∧
      rKid.part = none ∧ rKid.dropped = false ∧ Rests 0 (o.setKid { rKid with units := rKid.units ++ [([0, 0, 0, 0], false)] })) ∧
    (∃ o, InRed (opS o) 0 7 o (rDescOf o.desc) ∧ KidIs o 1 rKid ∧ o.phase = .down ∧ (rDescOf o.desc).count = 0 ∧ rKid.resSent = false ∧
      rKid.orphan = false ∧ rKid.acked = false ∧ (∀ x ∈ o.kids, x.rank ≠ 1 → x.joined = true → x.resSent = true ∨ x.orphan = true)) ∧
    (∃ o k, InRed (opS o) 0 7 o (rDescOf o.desc) ∧ KidIs o 1 k ∧ o.phase = .down ∧ (rDescOf o.desc).agrees = false ∧ k.resSent = true ∧
      (∀ x ∈ o.kids, x.rank ≠ 1 → x.orphan = true ∨ (x.joined = true ∧ x.resSent = true ∧ x.acked = true)) ∧ k.joined = true) ∧
    (∃ o, InRed (opS o) 0 7 o (rDescOf o.desc) ∧ o.phase = .data ∧ (rDescOf o.desc).count = 0 ∧ o.done = o.kids.length ∧ o.parent = some 1 ∧ o.hdr = [] ∧
      o.dropped = false ∧ (rDescOf o.desc).agrees = false) ∧
    (∃ o k, InRed (opS o) 0 7 o (rDescOf o.desc) ∧ KidIs o 1 k ∧ o.kids = [k] ∧ o.phase = .agree ∧ k.exps = none ∧ k.dropped = false ∧ o.ea = none ∧
      o.done = 0 ∧ o.hdr = [] ∧ o.dropped = false ∧ o.parent = some 2 ∧ o.aSent = false ∧ o.ready = true) ∧
    ([1, 2].length = [3, (4 : Int)].length ∧ 1 < [(1 : Int), 2].length) ∧
    (∀ e ∈ [0, 0x804000], ∃ o d, InRed (opS o) 0 7 o d ∧ d.agrees = true ∧ o.phase = .agree ∧ o.ea = none ∧ o.parent = some 2 ∧ o.hdr = [] ∧
      o.dropped = false ∧ o.ready = false ∧ (∀ k ∈ o.kids, k.joined = false ∧ k.dropped = false ∧ k.part = none) ∧ d.exp = e ∧ MemUp (opS o) rqRed ∧
      Writable (opS o) e 4 ∧ d.count = 4 ∧ [(1 : Int), 2, 3, 4].length = 4) ∧
    (∀ b ∈ [true, false], ∃ o d, InRed (opS o) 0 7 o d ∧ KidIs o 1 rKid ∧ o.phase = .data ∧ d.dtype = 1 ∧ d.count = 4 ∧ o.empty = false ∧ o.hdr = [] ∧
      o.dropped = false ∧ o.ea = none ∧ o.kids.length = o.done + 1 ∧ o.kids[o.done]? = some rKid ∧ o.parent = some 2 ∧ o.ready = false ∧ o.inDst = b ∧
      rKid.units = [] ∧ (List.replicate 4 (([0, 0, 0, 1], false) : Bytes × Bool)).length = 4 ∧
      (∀ v ∈ List.replicate 4 (([0, 0, 0, 1], false) : Bytes × Bool), v.1.length = 4 ∧ v.2 = false) ∧ MemUp (opS o) rqRed ∧
      Readable (opS o) d.src d.bytes ∧ Writable (opS o) d.dst d.bytes) ∧
    (∃ o d, InRed (opS o) 0 7 o d ∧ o.kids = [] ∧ o.parent = some 2 ∧ o.phase = .up ∧ o.hdr = [] ∧ o.res = [] ∧ d.mapw = false ∧ d.count = 4 ∧
      d.unit = 4 ∧ MemUp (opS o) rqRed ∧ Writable (opS o) d.hdr 128 ∧ Writable (opS o) d.dst d.bytes ∧ apart d.hdr 128 d.dst d.bytes) := by
  have w : (rDescOf r32).dst = 0x801000 ∧ (rDescOf r32).src = 0x800000 ∧ (rDescOf r32).hdr = 0x802000 ∧ (rDescOf r32).bytes = 16 ∧
    (rDescOf r32).dtype = 1 ∧ (rDescOf r32).count = 4 ∧ (rDescOf r32).mapw = false ∧ (rDescOf r32).unit = 4 := by decide +kernel
  have i : ∀ o : ChOp, o.seq = 7 → o.op = bfield o.desc 0 1 → o.desc = bar ∨ o.desc = r32 ∨ o.desc = bs16 0 ∨ o.desc = bs16 0x804000 → o.status = none →
      InRed (opS o) 0 7 o (rDescOf o.desc) := by
    intro o h1 h2 h3 h4
    refine inRed_of ⟨h1, ?_, h4⟩
    rw [h2]
    rcases h3 with e | e | e | e <;> rw [e]
    · exact Or.inr ops_op.1
    · exact Or.inl ops_op.2.1
    · exact Or.inl ops_op.2.2.1
    · exact Or.inl ops_op.2.2.2
  have z : (rDescOf bar).count = 0 ∧ (rDescOf bar).agrees = false := by decide +kernel
  unfold apart
  refine ⟨by decide +kernel,
    ⟨rOp r32 .wait [rKid] (some 2), i _ rfl rfl (Or.inr (Or.inl rfl)) rfl, rfl, rests_of (by decide +kernel), rests_of (by decide +kernel), rfl, rfl,
      rests_of (by decide +kernel)⟩,
    ⟨rOp bar .down [rKid] none, i _ rfl rfl (Or.inl rfl) rfl, rfl, rfl, z.1, rfl, rfl, rfl, by show ∀ x ∈ [rKid], _; decide⟩,
    ⟨rOp bar .down [{ rKid with joined := true, resSent := true }] none, _, i _ rfl rfl (Or.inl rfl) rfl, rfl, rfl, z.2, rfl,
      by show ∀ x ∈ [{ rKid with joined := true, resSent := true }], _; decide, rfl⟩,
    ⟨rOp bar .data [] (some 1), i _ rfl rfl (Or.inl rfl) rfl, rfl, z.1, rfl, rfl, rfl, rfl, z.2⟩,
    ⟨{ rOp (bs16 0) .agree [rKid] (some 2) with ready := true }, rKid, i _ rfl rfl (Or.inr (Or.inr (Or.inl rfl))) rfl, rfl, rfl, rfl, rfl, rfl, rfl, rfl,
      rfl, rfl, rfl, rfl, rfl⟩, by decide, fun e he => ?_, fun b _ => ?_,
    ⟨rOp r32 .up [] (some 2), _, i _ rfl rfl (Or.inr (Or.inl rfl)) rfl, rfl, rfl, rfl, rfl, rfl, w.2.2.2.2.2.2.1, w.2.2.2.2.2.1, w.2.2.2.2.2.2.2,
      memUp_quiet (opQ _) _, ?_, ?_, ?_⟩⟩
  · have h : ∀ e ∈ [0, 0x804000], (rDescOf (bs16 e)).agrees = true ∧ (rDescOf (bs16 e)).exp = e ∧ (rDescOf (bs16 e)).count = 4 := by decide +kernel
    obtain ⟨h1, h2, h3⟩ := h e he
    have k : ∀ k ∈ [rKid], k.joined = false ∧ k.dropped = false ∧ k.part = none := by decide
    have he' : e = 0 ∨ e = 0x804000 := by simpa using he
    refine ⟨rOp (bs16 e) .agree [rKid] (some 2), _, i _ rfl rfl ?_ rfl, h1, rfl, rfl, rfl, rfl, rfl, rfl, k, h2, memUp_quiet (opQ _) _, ?_, h3, rfl⟩
    · rcases he' with rfl | rfl
      · exact Or.inr (Or.inr (Or.inl rfl))
      · exact Or.inr (Or.inr (Or.inr rfl))
    · exact writable_quiet (opQ _) (by rcases he' with rfl | rfl <;> decide)
  · refine ⟨{ rOp r32 .data [rKid] (some 2) with inDst := b }, _, i _ rfl rfl (Or.inr (Or.inl rfl)) rfl, rfl, rfl, w.2.2.2.2.1, w.2.2.2.2.2.1, rfl, rfl, rfl,
      rfl, rfl, rfl, rfl, rfl, rfl, rfl, rfl, by decide, memUp_quiet (opQ _) _, ?_, ?_⟩
    · show Readable _ (rDescOf r32).src (rDescOf r32).bytes
      rw [w.2.1, w.2.2.2.1]; exact readable_quiet (opQ _) (by decide)
    · show Writable _ (rDescOf r32).dst (rDescOf r32).bytes
      rw [w.1, w.2.2.2.1]; exact writable_quiet (opQ _) (by decide)
  · show Writable _ (rDescOf r32).hdr 128
    rw [w.2.2.1]; exact writable_quiet (opQ _) (by decide)
  · show Writable _ (rDescOf r32).dst (rDescOf r32).bytes
    rw [w.1, w.2.2.2.1]; exact writable_quiet (opQ _) (by decide)
  · show (rDescOf r32).hdr + 128 ≤ (rDescOf r32).dst ∨ (rDescOf r32).dst + (rDescOf r32).bytes ≤ (rDescOf r32).hdr
    rw [w.1, w.2.2.1, w.2.2.2.1]; decide

/-- A ring without a descriptor. -/
def idleRing (o : ChOp) : State := withRed (with' (geo 1) [(cRED, 0, rTail, 0)]) { ops := [o] }
def haltS : State := redS 0 [] { halted := true }
def frozenS : State := with' (redS 0 [] {}) [(cRED, 0, hFREEZE, 1)]

theorem test_hyp_ReductionsTimeOutCompleteAndReset :
    (∀ t ∈ [0, 2000000], ∃ o d, InRed (opS o) 0 7 o d ∧ ((opS o).redOf 0).ops = [o] ∧ o.kids = [rKid] ∧ rKid.glevel = 0 ∧ rKid.dropped = false ∧
      rKid.part = none ∧ rKid.stage = 0 ∧ o.phase = .data ∧ d.agrees = false ∧ o.done = 0 ∧ o.hdr = [] ∧ o.dropped = false ∧ o.parent ≠ none ∧
      o.ready = false ∧ ((opS o).clk.time < o.tPhase + (opS o).rdf cRED 0 RED.DEADLINE 0 24 + 0 * (opS o).rdf cRED 0 RED.LEVEL_SLACK 0 24 ↔ t ≠ 0) ∧
      (opS o).errQ (pageId cRED 0) = []) ∧
    (∀ t ∈ [0, 200000000], ∃ o d, InRed (opS o) 0 7 o d ∧ ((opS o).redOf 0).ops = [o] ∧ o.kids = [rKid] ∧ o.phase = .down ∧ rKid.joined = false ∧
      rKid.orphan = false ∧ ((opS o).clk.time < o.tRes + (opS o).rdf cRED 0 RED.RESULT_TMO 0 24 ↔ t ≠ 0)) ∧
    (∀ t ∈ [0, 200000000], ∀ p ∈ [ChPhase.data, .up], ∃ o d, InRed (opS o) 0 7 o d ∧ ((opS o).redOf 0).ops = [o] ∧ o.phase = p ∧
      ((opS o).clk.time < (opS o).resultDue 0 o ↔ t ≠ 0) ∧ d.count = 4 ∧ MemUp (opS o) rqRed ∧ Writable (opS o) d.dst d.bytes) ∧
    (∃ o s, s = idleRing o ∧ s.live = true ∧ (s.redOf 0).ops = [o] ∧ o.status = some 1 ∧ s.calving = [] ∧ s.doubt = [] ∧ o.op < 0x10 ∧
      s.ringReady cRED 0 = false ∧ DoneReady s rqRed cRED 0 o.idx 4) ∧
    (∃ b, ChanTakes (redS 0 b {}) 0 b ∧ (redS 0 b {}).live = true ∧ (redS 0 b {}).doubt = [] ∧ bfield b 0 1 ∉ [1, 2, 0x10, 0x11, 0x12, 0x13]) ∧
    (OwnerReady frozenS 0 cRED 0 hCTRL ∧ frozenS.drained cRED 0 = true) ∧ (OwnerReady haltS 0 cRED 0 hCTRL ∧ (haltS.redOf 0).halted = true) ∧
    (OwnerReady base 0 cRED 0 hCTRL ∧ base.drained cRED 0 = false ∧ (base.redOf 0).halted = false ∧ base.errQ (pageId cRED 0) = []) := by
  have ag : (rDescOf r32).agrees = false ∧ (rDescOf r32).count = 4 ∧ (rDescOf r32).dst = 0x801000 ∧ (rDescOf r32).bytes = 16 := by decide +kernel
  unfold OwnerReady Reaches
  refine ⟨fun t ht => ?_, fun t ht => ?_, fun t ht p hp => ?_,
    ⟨{ rOp r32 .down [] none with status := some 1 }, _, rfl, by decide +kernel, rfl, rfl, by decide +kernel, rfl, by decide +kernel, by decide +kernel,
      doneReady_of ((quiet_withRed _ _).trans (by decide +kernel)) (by decide +kernel)⟩,
    ⟨rdB 5 0 0 0, chanTakes_of (redQ 0 _ _ (Or.inl rfl)) (by decide +kernel) (by decide +kernel), by decide +kernel, rfl, by decide +kernel⟩,
    by decide +kernel, by decide +kernel, by decide +kernel⟩
  · refine ⟨{ rOp r32 .data [rKid] (some 2) with tPhase := t }, _, inRed_of ⟨rfl, Or.inl ops_op.2.1, rfl⟩, rfl, rfl, rfl, rfl, rfl, rfl, rfl, ag.1, rfl, rfl, rfl,
      by simp [rOp], rfl, ?_, rfl⟩
    have h : ∀ t ∈ [0, 2000000], ((opS { rOp r32 .data [rKid] (some 2) with tPhase := t }).clk.time <
      t + (opS { rOp r32 .data [rKid] (some 2) with tPhase := t }).rdf cRED 0 RED.DEADLINE 0 24 +
        0 * (opS { rOp r32 .data [rKid] (some 2) with tPhase := t }).rdf cRED 0 RED.LEVEL_SLACK 0 24 ↔ t ≠ 0) := by decide +kernel
    exact h t ht
  · refine ⟨{ rOp r32 .down [rKid] none with tRes := t }, _, inRed_of ⟨rfl, Or.inl ops_op.2.1, rfl⟩, rfl, rfl, rfl, rfl, rfl, ?_⟩
    have h : ∀ t ∈ [0, 200000000], ((opS { rOp r32 .down [rKid] none with tRes := t }).clk.time <
      t + (opS { rOp r32 .down [rKid] none with tRes := t }).rdf cRED 0 RED.RESULT_TMO 0 24 ↔ t ≠ 0) := by decide +kernel
    exact h t ht
  · refine ⟨{ rOp r32 p [rKid] (some 2) with t0 := t }, _, inRed_of ⟨rfl, Or.inl ops_op.2.1, rfl⟩, rfl, rfl, ?_, ag.2.1, memUp_quiet (opQ _) _, ?_⟩
    · have h : ∀ t ∈ [0, 200000000], ∀ p ∈ [ChPhase.data, .up], ((opS { rOp r32 p [rKid] (some 2) with t0 := t }).clk.time <
        (opS { rOp r32 p [rKid] (some 2) with t0 := t }).resultDue 0 { rOp r32 p [rKid] (some 2) with t0 := t } ↔ t ≠ 0) := by decide +kernel
      exact h t ht p hp
    · show Writable _ (rDescOf r32).dst (rDescOf r32).bytes
      rw [ag.2.2.1, ag.2.2.2]; exact writable_quiet (opQ _) (by decide)

/-! ### Calving -/

/-- A layout of four 4-byte units at `base`, on a machine of `g` + 1 places on axis 0, split over it or not; a plan entry that moves it. -/
def layF (o ep g base shdr : Nat) (split : Bool) : List (Nat × Nat × Nat) :=
  [(o, 2, ep), (o + 2, 1, 4), (o + 3, 1, 1), (o + 8, 8, 4), (o + 0x10, 8, 1), (o + 0x18, 8, 1), (o + 0x20, 8, 1), (o + 0x28, 1, if split then 64 else 0), (o + 0x2C, 1, g),
    (o + 0x30, 8, base), (o + 0x38, 8, shdr)]
def planE (g : Nat) (shdr : Nat) : Bytes := fields 128 (layF 0 0 g 0x900000 0 (g == 1) ++ layF 0x40 1 g 0x901000 shdr false)
def cdB (op : Nat) : Bytes := fields 128 [(0, 1, op), (1, 1, 1), (0xC, 4, 1), (0x10, 8, 0x902000), (0x28, 8, 0x903000), (0x50, 8, 0x904000),
  (0x58, 8, if op = 0x10 ∨ op = 0x11 then 0 else 0x905000)]
/-- The source map of the image of one rank, all of it here. -/
def mapB : Bytes := fields 32 [(2, 1, 1), (8, 8, 0x900000), (0x10, 8, 0x900000), (0x18, 8, 64)]
def gatE : Bytes := fields 128 (layF 0 0 0 0x900000 0x906000 false)
def calS (g : Nat) (b e a : Bytes) : State := putMem (putMem (with' (redS g b {}) [(cCALV, 0, hCTRL, 1)]) 0x902000 e) 0x904000 a
theorem calQ (b e a : Bytes) : quiet (calS 0 b e a) = true := quiet_putMem' (quiet_putMem' (by
  show quiet (with' (withRed (putMem (geo 0) 0x40000 b) {}) [(cCALV, 0, hCTRL, 1)]) = true
  exact (by decide +kernel : quiet (with' (geo 0) [(cCALV, 0, hCTRL, 1)]) = true)) _ _) _ _

theorem calvTakes_of {s : State} {b e : Bytes} {m : List Bytes} (hq : quiet s = true) (hb : b = hbmBytes s 0x40000 128) (h : chanCheck s = true)
    (h1 : (cDescOf b).nbuf = 1 ∧ s.calvBad (cDescOf b) = false ∧ (cDescOf b).plan = 0x902000 ∧ (cDescOf b).hdr = 0x903000 ∧ (cDescOf b).aux = 0x904000)
    (h2 : e = hbmBytes s 0x902000 128) (h3 : s.ringAddr cRED 0 (s.ringHead cRED 0) = 0x40000)
    (h4 : (cDescOf b).op = 0x11 → (oldOf e).oldRanks.length = 1 ∧ m = [hbmBytes s 0x904000 32]) (h5 : (cDescOf b).op ≠ 0x11 → m = []) :
    CalvTakes s 0 b e m (cDescOf b) := by
  obtain ⟨a1, a2, a3, a4, a5⟩ := h1
  refine ⟨chanTakes_of hq hb h, ⟨rfl, a1⟩, a2, by rw [a3]; exact ⟨readable_quiet hq (by decide), h2⟩, fun ho => ?_, h5, by rw [a3, h3]; unfold apart; decide,
    by rw [a4]; exact writable_quiet hq (by decide)⟩
  obtain ⟨l, e⟩ := h4 ho
  rw [l, a5, e]
  exact ⟨readable_quiet hq (by decide), rfl⟩

/-- What is asked of a CALVE or LAND of one rank. -/
def moveCheck (s : State) (op : Nat) (b e : Bytes) (m : List Bytes) : Bool :=
  let d := cDescOf b
  let x := s.calCtx d (m.map mapEntOf)
  decide (b = hbmBytes s 0x40000 128) && chanCheck s &&
    decide (d.nbuf = 1 ∧ s.calvBad d = false ∧ d.plan = 0x902000 ∧ d.hdr = 0x903000 ∧ d.aux = 0x904000) && decide (e = hbmBytes s 0x902000 128) &&
    decide (s.ringAddr cRED 0 (s.ringHead cRED 0) = 0x40000) && decide (d.op = 0x11 → (oldOf e).oldRanks.length = 1 ∧ m = [hbmBytes s 0x904000 32]) &&
    decide (d.op ≠ 0x11 → m = []) && decide (d.op = op) && decide (s.moveBad d [e] (m.map mapEntOf) = false) &&
    decide (s.treeOf d.stages 0 0 = ([], none)) && decide (s.firn.phase ≠ .cutWait) && decide ((newOf e).shdr = 0) &&
    decide (x.orphans [e] = false) && decide (x.outs [e] = [⟨0, s.myRank, 0, [(0x900000, 16)], none⟩]) &&
    decide (x.expects [e] = [(0, s.myRank, 0, 16)]) && decide (x.places [e] ⟨0, s.myRank, 0, [], [], none, none⟩ = [(0x901000, 16, false)]) &&
    decide (s.fenced [(0x900000, 16)] = false) && decide (s.fenced [(0x901000, 16)] = false)

/-- A CALVE of channel 0 as SEQ 7 with the plan of two ranks; another channel's reductions beside it. -/
def mov (r : CalRun) (kids : List RedKid) (p : Option Nat) : ChOp :=
  { seq := 7, idx := 0, op := 0x10, irq := false, desc := cdB 0x10, phase := .calving, kids := kids, parent := p, cal := { r with plan := [planE 1 0x907000] } }
def movS (o : ChOp) (other : List ChOp) : State := { geo 1 with red := [(0, { ops := [o] }), (1, { ops := other })] }
theorem movQ (o : ChOp) (l : List ChOp) : quiet (movS o l) = true := geoQ.2
theorem inCalv_of {o : ChOp} (l : List ChOp) (h : o.seq = 7 ∧ o.isMove = true ∧ o.phase = .calving ∧ o.status = none ∧ o.cal.decided = none) :
    InCalv (movS o l) 0 7 o := by
  refine ⟨⟨(by decide +kernel : (geo 1).live = true), by decide⟩, ?_, h.2.1, h.2.2⟩
  show [o].find? (fun x => x.seq == 7) = some o
  simp [h.1]
def inRun : CalRun := { expect := [(0, 1, 0, 8)] }
/-- A reduction in progress that holds the place of the chunk that rank 1 sends. -/
def holder : ChOp := rOp (fields 128 [(0, 1, 1), (1, 1, 1), (0xC, 4, 2), (0x10, 8, 0x901008), (0x18, 8, 0x901008), (0x20, 8, 0x908000)]) .data [] none
def inChunk : CalIn := ⟨0, 1, 0, List.replicate 8 1, List.replicate 8 false, none, none⟩

theorem test_hyp_CalvingsCopyAgreeAndDecide :
    (∃ l : Layout, l = oldOf (planE 1 0) ∧ l.ext.getD 0 1 ≠ 0 ∧ l.parts 0 ≠ 0 ∧ 3 < l.ext.getD 0 1 ∧ 3 < boxUnits [(0, 4)]) ∧
    (∀ op ∈ [0x10, 0x11], ∃ s b e m d x, s = calS 0 b e mapB ∧ CalvTakes s 0 b e m d ∧ d.op = op ∧ x = s.calCtx d (m.map mapEntOf) ∧
      s.moveBad d [e] (m.map mapEntOf) = false ∧ s.treeOf d.stages 0 0 = ([], none) ∧ s.firn.phase ≠ .cutWait ∧ (newOf e).shdr = 0 ∧
      x.orphans [e] = false ∧ x.outs [e] = [⟨0, s.myRank, 0, [(0x900000, 16)], none⟩] ∧ x.expects [e] = [(0, s.myRank, 0, 16)] ∧
      (∀ v : CalIn, v.entry = 0 → v.src = s.myRank → v.off = 0 → x.places [e] v = [(0x901000, 16, false)]) ∧ s.fenced [(0x900000, 16)] = false ∧
      s.fenced [(0x901000, 16)] = false ∧ Readable s 0x900000 16 ∧ Writable s 0x901000 16 ∧
      Spread [(s.ringAddr cRED 0 (s.ringHead cRED 0), 128), (0x900000, 16), (0x901000, 16), (d.hdr, 128)]) ∧
    (∀ f ∈ [true, false], ∃ o s, o = mov inRun [] none ∧ s = movS o (if f then [holder] else []) ∧ InCalv s 0 7 o ∧ Copying o ∧ o.cal.out = [] ∧
      (List.replicate 8 (1 : BitVec 8)).length = 8 ∧ s.myRank ≠ 1 ∧ (s.opCtx o).places o.cal.plan inChunk = [(0x901008, 8, false)] ∧
      o.cal.expect.contains (0, 1, 0, 8) = true ∧ o.cal.held = [] ∧ s.fenced [(0x901008, 8)] = f ∧ MemUp s rqRed ∧ Writable s 0x901008 8) ∧
    (∃ o s, o = mov { inRun with expect := [(0, 1, 0, 8), (0, 1, 64, 8)], held := [{ inChunk with held := some 5 }] } [] none ∧ s = movS o [] ∧ InCalv s 0 7 o ∧ Copying o ∧
      (∃ z ∈ o.cal.expect, ¬ (z.1 = 0 ∧ z.2.1 = 1 ∧ z.2.2.1 = 0)) ∧ (s.redOf 0).ops = [o] ∧ s.doubt = [] ∧ s.fenced [(0x901008, 8)] = false) ∧
    (∃ o k, InCalv (movS o []) 0 7 o ∧ Copying o ∧ CopyOver o ∧ o.kids = [k] ∧ k.rank = 1 ∧ k.report = none ∧ o.parent = some 2) ∧
    (∃ o e d, InCalv (movS o []) 0 7 o ∧ o.kids = [] ∧ o.parent = some 2 ∧ o.cal.plan = [e] ∧ d = cDescOf o.desc ∧ MemUp (movS o []) rqRed ∧
      Writable (movS o []) d.hdr 128 ∧ (∀ t ∈ o.cal.staged, Readable (movS o []) t.2.1 t.2.2 ∧ Writable (movS o []) t.1 t.2.2 ∧ t.2.2 ≠ 0) ∧
      o.cal.staged.length = 1 ∧ (newOf e).shdr ≠ 0 ∧ Writable (movS o []) (newOf e).shdr 2 ∧
      Spread ((d.hdr, 128) :: [((newOf e).shdr, 2)] ++ o.cal.staged.flatMap fun t => [(t.2.1, t.2.2), (t.1, t.2.2)])) ∧
    (∃ o, InCalv (movS o []) 0 7 o ∧ Copying o ∧ o.cal.out = [] ∧ o.cal.held = [] ∧ o.cal.expect ≠ []) ∧
    (∃ o k, (movS o []).live = true ∧ (movS o []).opAt 0 7 = some o ∧ o.isMove = true ∧ o.phase = .down ∧ o.status = none ∧ KidIs o 1 k ∧
      ∀ x ∈ o.kids, x.rank ≠ 1 → x.acked = true ∨ x.orphan = true) := by
  have go : ∀ r k p, r.fail = none → r.doneSent = false → (∀ x ∈ k, ∀ n, x.report ≠ some (false, n)) → Copying (mov r k p) := fun r k p h1 h2 h3 => ⟨⟨h1, h2⟩, h3⟩
  have nk : ∀ x ∈ ([] : List RedKid), ∀ n, x.report ≠ some (false, n) := fun x hx => absurd hx List.not_mem_nil
  have ic : ∀ r k p l, r.decided = none → InCalv (movS (mov r k p) l) 0 7 (mov r k p) := fun r k p l h => inCalv_of l ⟨rfl, rfl, rfl, rfl, h⟩
  unfold Spread apart
  refine ⟨⟨_, rfl, by decide +kernel⟩, fun op ho => ?_, fun f hf => ?_,
    ⟨_, _, rfl, rfl, ic _ _ _ _ rfl, go _ _ _ rfl rfl nk, ⟨(0, 1, 64, 8), by simp [mov, inRun], by decide⟩, rfl, rfl, by decide +kernel⟩,
    ⟨mov {} [rKid] (some 2), rKid, ic _ _ _ _ rfl, go _ _ _ rfl rfl (by intro x hx n; simp only [List.mem_singleton] at hx; rw [hx]; simp [rKid]), ⟨rfl, rfl, rfl, rfl⟩,
      rfl, rfl, rfl, rfl⟩,
    ⟨mov { staged := [(0x909000, 0x90A000, 64)] } [] (some 2), _, _, ic _ _ _ _ rfl, rfl, rfl, rfl, rfl, memUp_quiet (movQ _ _) _,
      writable_quiet (movQ _ _) (by decide +kernel), ?_, rfl, by decide +kernel, writable_quiet (movQ _ _) (by decide +kernel), by decide +kernel⟩,
    ⟨mov inRun [] none, ic _ _ _ _ rfl, go _ _ _ rfl rfl nk, rfl, rfl, by simp [mov, inRun]⟩,
    ⟨{ mov {} [rKid] none with phase := .down }, rKid, by decide +kernel, rfl, rfl, rfl, rfl, rfl, by show ∀ x ∈ [rKid], _; decide⟩⟩
  · have h : ∀ op ∈ [0x10, 0x11], moveCheck (calS 0 (cdB op) (planE 0 0) mapB) op (cdB op) (planE 0 0) (if op = 0x11 then [mapB] else []) = true := by
      decide +kernel
    have h' := h op ho
    simp only [moveCheck, Bool.and_eq_true, decide_eq_true_eq] at h'
    obtain ⟨⟨⟨⟨⟨⟨⟨⟨⟨⟨⟨⟨⟨⟨⟨⟨⟨h1, h2⟩, h3⟩, h4⟩, h5⟩, h6⟩, h7⟩, h8⟩, h9⟩, h10⟩, h11⟩, h12⟩, h13⟩, h14⟩, h15⟩, h16⟩, h17⟩, h18⟩ := h'
    refine ⟨_, cdB op, planE 0 0, _, _, _, rfl, calvTakes_of (calQ _ _ _) h1 h2 h3 h4 h5 h6 h7, h8, rfl, h9, h10, h11, h12, h13, h14, h15, ?_, h17, h18,
      readable_quiet (calQ _ _ _) (by decide), writable_quiet (calQ _ _ _) (by decide), by rw [h5, h3.2.2.2.1]; decide⟩
    rintro ⟨x, y, z, _, _, _, _⟩ rfl rfl rfl
    exact h16
  · have h : ∀ f ∈ [true, false], (fun s : State => s.myRank ≠ 1 ∧ (s.opCtx (mov inRun [] none)).places (mov inRun [] none).cal.plan inChunk = [(0x901008, 8, false)] ∧
        s.fenced [(0x901008, 8)] = f) (movS (mov inRun [] none) (if f then [holder] else [])) := by decide +kernel
    obtain ⟨h1, h2, h3⟩ := h f hf
    exact ⟨_, _, rfl, rfl, ic _ _ _ _ rfl, go _ _ _ rfl rfl nk, rfl, rfl, h1, h2, rfl, rfl, h3, memUp_quiet (movQ _ _) _, writable_quiet (movQ _ _) (by decide)⟩
  · intro t ht
    have ht' : t = (0x909000, 0x90A000, 64) := by simpa [mov] using ht
    subst ht'
    exact ⟨readable_quiet (movQ _ _) (by decide), writable_quiet (movQ _ _) (by decide), by decide⟩

/-- A gather of this rank's shard: the memory holds its record already, for a REGATHER. -/
def gatRec : Bytes := goodRec 0 0 0 ((geo 0).cvuCrc 0 (List.replicate 16 0))
def gatS (op : Nat) : State := calS 0 (cdB op) gatE gatRec
def gatCheck (s : State) (op : Nat) (b e r : Bytes) : Bool :=
  let d := cDescOf b
  let x := s.calCtx d []
  let l := oldOf e
  decide (b = hbmBytes s 0x40000 128) && chanCheck s &&
    decide (d.nbuf = 1 ∧ s.calvBad d = false ∧ d.plan = 0x902000 ∧ d.hdr = 0x903000 ∧ d.aux = 0x904000) && decide (e = hbmBytes s 0x902000 128) &&
    decide (s.ringAddr cRED 0 (s.ringHead cRED 0) = 0x40000) && decide (d.op = op) && decide (s.gatherBad d [e] = false) &&
    decide (x.mem = [(s.myRank, s.myPos)]) && decide (l.shards = [[0]]) && decide (x.myShard l = 0) &&
    decide (x.shardSrc l ((List.range l.ndim).map (l.partOf s.myPos)) = some s.myRank) && decide (l.bytes s.myPos = 16) &&
    decide (l.dstRuns d.dst (l.shardBox [0]) = [(d.dst, 16)]) && decide (l.base = 0x900000 ∧ l.shdr = 0x906000 ∧ d.dst = 0x905000) &&
    decide (leNat (hbmBytes s 0x906000 2) = l.epoch) && decide (s.gatherCvu = 0) && s.on 90 && decide (s.scanOf 0 = none) &&
    decide (r = goodRec l.epoch s.myRank (leNat (hbmBytes s (l.shdr + 8) 8)) (s.cvuCrc 0 (hbmBytes s l.base 16))) &&
    decide (s.cvuCrc 0 (hbmBytes s l.base 16) < 2 ^ 64) && decide (s.myRank < 65536) && decide (hbmBytes s 0x904000 32 = r)

def gOpC : ChOp := { seq := 7, idx := 0, op := 0x12, irq := false, desc := cdB 0x12, phase := .calving, cal := { plan := [gatE] } }
def gShard (t : Nat) : ChOp := { gOpC with t0 := t }
def dbt : DoubtSt := ⟨0, { mov {} [] none with cal := { plan := [planE 1 0] } }⟩

/-- A chunk that waits to be sent since `t`, and a reduction that holds its place. -/
def fenOp (t : Nat) : ChOp := mov { out := [⟨0, 1, 0, [(0x900000, 8)], some t⟩] } [] (some 2)
def outHolder : ChOp := rOp (fields 128 [(0, 1, 1), (1, 1, 1), (0xC, 4, 2), (0x10, 8, 0x900000), (0x18, 8, 0x900000), (0x20, 8, 0x908000)]) .data [] none

theorem fen : ∀ t ∈ [0, 2000000000], ∀ f ∈ [true, false], (movS (fenOp t) (if f then [outHolder] else [])).fenced [(0x900000, 8)] = f := by decide +kernel

theorem test_hyp_CalvingsTimeOutGatherAndResolve :
    (∀ t ∈ [0, 2000000000], ∃ o, InCalv (movS o []) 0 7 o ∧ ((movS o []).redOf 0).ops = [o] ∧
      ((movS o []).clk.time < o.t0 + (movS o []).rdf cCALV 0 CALV.COPY_TMO 0 24 ↔ t ≠ 0) ∧ Copying o ∧ ¬ CopyOver o ∧ o.parent = some 2) ∧
    (∀ t ∈ [0, 2000000000], ∀ f ∈ [true, false], ∃ o k s, s = movS o (if f then [outHolder] else []) ∧ InCalv s 0 7 o ∧ (s.redOf 0).ops = [o] ∧
      k.held = some t ∧ (s.clk.time < t + s.rdf cCALV 0 CALV.FENCE_TMO 0 24 ↔ t ≠ 0) ∧ o.cal.out = [k] ∧ o.cal.held = [] ∧ s.fenced k.segs = f ∧
      Copying o ∧ o.parent = some 2) ∧
    (∀ t ∈ [0, 2000000000], ∃ o, InCalv (movS o []) 0 7 o ∧ ((movS o []).redOf 0).ops = [o] ∧ o.cal.doneSent = true ∧ o.cal.fail = none ∧
      ((movS o []).clk.time < o.t0 + (movS o []).rdf cCALV 0 CALV.DECIDE_TMO 0 24 ↔ t ≠ 0) ∧ (movS o []).errQ (pageId cRED 0) = []) ∧
    (∀ op ∈ [0x12, 0x13], ∃ d x l, CalvTakes (gatS op) 0 (cdB op) gatE [] d ∧ d.op = op ∧ hbmBytes (gatS op) d.aux 32 = gatRec ∧ x = (gatS op).calCtx d [] ∧
      l = oldOf gatE ∧ (gatS op).gatherBad d [gatE] = false ∧ x.mem = [((gatS op).myRank, (gatS op).myPos)] ∧ l.shards = [[0]] ∧ x.myShard l = 0 ∧
      x.shardSrc l ((List.range l.ndim).map (l.partOf (gatS op).myPos)) = some (gatS op).myRank ∧ l.bytes (gatS op).myPos = 16 ∧
      l.dstRuns d.dst (l.shardBox [0]) = [(d.dst, 16)] ∧ Readable (gatS op) l.base 16 ∧ l.shdr ≠ 0 ∧ Readable (gatS op) l.shdr 32 ∧
      leNat (hbmBytes (gatS op) l.shdr 2) = l.epoch ∧ (gatS op).gatherCvu = 0 ∧ (gatS op).on 90 = true ∧ (gatS op).scanOf 0 = none ∧
      Writable (gatS op) d.dst 16 ∧ Writable (gatS op) d.aux 32 ∧
      gatRec = goodRec l.epoch (gatS op).myRank (leNat (hbmBytes (gatS op) (l.shdr + 8) 8)) ((gatS op).cvuCrc 0 (hbmBytes (gatS op) l.base 16)) ∧
      (gatS op).cvuCrc 0 (hbmBytes (gatS op) l.base 16) < 2 ^ 64 ∧ (gatS op).myRank < 65536 ∧
      Spread [((gatS op).ringAddr cRED 0 ((gatS op).ringHead cRED 0), 128), (l.base, 16), (l.shdr, 32), (d.dst, 16), (d.aux, 32), (d.hdr, 128), (d.plan, 128)]) ∧
    (∀ t ∈ [0, 2000000000], ∃ s d l, s = redS 0 [] { ops := [gShard t] } ∧ d = cDescOf (gShard t).desc ∧ l = oldOf gatE ∧ s.live = true ∧
      s.opAt 0 7 = some (gShard t) ∧ (s.redOf 0).ops = [gShard t] ∧ (s.clk.time < (gShard t).t0 + s.rdf cRED 0 RED.DEADLINE 0 24 ↔ t ≠ 0) ∧
      (gShard t).cal.held = [] ∧ (gShard t).cal.fail = none ∧ (gShard t).cal.cvu = none ∧ (gShard t).pois = false ∧
      (gShard t).cal.plan.headD [] = gatE ∧ 0 < l.shards.length ∧ l.shards.getD 0 [] = [0] ∧
      (∀ i, i < l.shards.length → (i ∈ (gShard t).cal.done ↔ i ≠ 0)) ∧ (gShard t).cal.done.length + 1 = l.shards.length ∧ MemUp s rqRed ∧
      l.dstRuns d.dst (l.shardBox [0]) = [(0x905000, 16)] ∧ Writable s 0x905000 16 ∧ (gShard t).op = 0x12 ∧ (gShard t).phase = .calving ∧ d.aux = 0x904000 ∧ Writable s 0x904000 32 ∧ d.hdr = 0x903000 ∧
      Writable s 0x903000 128) ∧
    (∃ s, s = base ∧ OwnerReady s 0 cCALV 0 CALV.RESOLVE ∧ s.doubt = [] ∧ s.errQ (pageId cCALV 0) = []) ∧
    (∃ s, s = { base with doubt := [dbt] } ∧ OwnerReady s 0 cCALV 0 CALV.RESOLVE ∧ s.doubt = [dbt] ∧ dbt.op.cal.decided = none ∧ dbt.op.cal.staged = [] ∧
      (∀ e ∈ dbt.op.cal.plan, (newOf e).shdr = 0) ∧ MemUp s rqRed ∧ Writable s (cDescOf dbt.op.desc).hdr 128) := by
  have go : ∀ r k p, r.fail = none → r.doneSent = false → (∀ x ∈ k, ∀ n, x.report ≠ some (false, n)) → Copying (mov r k p) := fun r k p h1 h2 h3 => ⟨⟨h1, h2⟩, h3⟩
  have nk : ∀ x ∈ ([] : List RedKid), ∀ n, x.report ≠ some (false, n) := fun x hx => absurd hx List.not_mem_nil
  have tm : (geo 1).clk.time = 2000000 ∧ (geo 1).rdf cCALV 0 CALV.COPY_TMO 0 24 ≤ 2000000 ∧ (geo 1).rdf cCALV 0 CALV.FENCE_TMO 0 24 ≤ 2000000 ∧
    (geo 1).rdf cCALV 0 CALV.DECIDE_TMO 0 24 ≤ 2000000 ∧ (geo 1).errQ (pageId cRED 0) = [] := by decide +kernel
  have ar : ∀ t ∈ [0, 2000000000], ∀ v, v ≤ 2000000 → ((2000000 : Nat) < t + v ↔ t ≠ 0) := by
    intro t ht v hv
    simp only [List.mem_cons, List.not_mem_nil, or_false] at ht
    rcases ht with rfl | rfl <;> omega
  unfold Spread apart OwnerReady Reaches
  refine ⟨fun t ht => ⟨{ mov inRun [] (some 2) with t0 := t }, inCalv_of _ ⟨rfl, rfl, rfl, rfl, rfl⟩, rfl, ?_, ⟨⟨rfl, rfl⟩, nk⟩, ?_, rfl⟩,
    fun t ht f hf => ⟨fenOp t, _, _, rfl, inCalv_of _ ⟨rfl, rfl, rfl, rfl, rfl⟩, rfl, rfl, ?_, rfl, rfl, fen t ht f hf, go _ _ _ rfl rfl nk, rfl⟩,
    fun t ht => ⟨{ mov { doneSent := true } [] (some 2) with t0 := t }, inCalv_of _ ⟨rfl, rfl, rfl, rfl, rfl⟩, rfl, rfl, rfl, ?_, tm.2.2.2.2⟩,
    fun op ho => ?_, fun t ht => ?_, ⟨_, rfl, by decide +kernel⟩,
    ⟨_, rfl, by decide +kernel, rfl, rfl, rfl, by decide +kernel, memUp_quiet (s := { base with doubt := [dbt] }) base_quiet _,
      writable_quiet (s := { base with doubt := [dbt] }) base_quiet (by decide +kernel)⟩⟩
  · have := ar t ht _ tm.2.1
    rw [← tm.1] at this; exact this
  · rintro ⟨_, _, _, h⟩; simp [mov, inRun] at h
  · have := ar t ht _ tm.2.2.1
    rw [← tm.1] at this; exact this
  · have := ar t ht _ tm.2.2.2.1
    rw [← tm.1] at this; exact this
  · have h : ∀ op ∈ [0x12, 0x13], gatCheck (gatS op) op (cdB op) gatE gatRec = true := by decide +kernel
    have h' := h op ho
    simp only [gatCheck, Bool.and_eq_true, decide_eq_true_eq] at h'
    obtain ⟨⟨⟨⟨⟨⟨⟨⟨⟨⟨⟨⟨⟨⟨⟨⟨⟨⟨⟨⟨⟨h1, h2⟩, h3⟩, h4⟩, h5⟩, h6⟩, h7⟩, h8⟩, h9⟩, h10⟩, h11⟩, h12⟩, h13⟩, h14⟩, h15⟩, h16⟩, h17⟩, h18⟩, h19⟩, h20⟩, h21⟩, h22⟩ := h'
    have q : quiet (gatS op) = true := calQ _ _ _
    have no : (cDescOf (cdB op)).op ≠ 0x11 := by
      rw [h6]
      simp only [List.mem_cons, List.not_mem_nil, or_false] at ho
      omega
    refine ⟨_, _, _, calvTakes_of q h1 h2 h3 h4 h5 (fun h => absurd h no) (fun _ => rfl), h6, by rw [h3.2.2.2.2]; exact h22, rfl, rfl, h7, h8, h9, h10, h11, h12, h13,
      by rw [h14.1]; exact readable_quiet q (by decide), by rw [h14.2.1]; decide, by rw [h14.2.1]; exact readable_quiet q (by decide),
      by rw [h14.2.1]; exact h15, h16, h17, h18, by rw [h14.2.2]; exact writable_quiet q (by decide), by rw [h3.2.2.2.2]; exact writable_quiet q (by decide),
      h19, h20, h21, ?_⟩
    rw [h5, h14.1, h14.2.1, h14.2.2, h3.2.2.2.2, h3.2.2.2.1, h3.2.2.1]; decide
  · have q : quiet (redS 0 [] { ops := [gShard t] }) = true := redQ 0 _ _ (Or.inl rfl)
    have k : (geo 0).live = true ∧ (geo 0).clk.time = 2000000 ∧ (geo 0).rdf cRED 0 RED.DEADLINE 0 24 ≤ 2000000 ∧ (oldOf gatE).shards = [[0]] ∧
      (oldOf gatE).dstRuns (cDescOf (cdB 0x12)).dst ((oldOf gatE).shardBox [0]) = [(0x905000, 16)] ∧ (cDescOf (cdB 0x12)).aux = 0x904000 ∧
      (cDescOf (cdB 0x12)).hdr = 0x903000 := by decide +kernel
    refine ⟨_, _, _, rfl, rfl, rfl, k.1, rfl, rfl, ?_, rfl, rfl, rfl, rfl, rfl, by rw [k.2.2.2.1]; decide, by rw [k.2.2.2.1]; rfl, ?_, by rw [k.2.2.2.1]; rfl, memUp_quiet q _, k.2.2.2.2.1,
      writable_quiet q (by decide), rfl, rfl, k.2.2.2.2.2.1, writable_quiet q (by decide), k.2.2.2.2.2.2, writable_quiet q (by decide)⟩
    · have := ar t ht _ k.2.2.1
      rw [← k.2.1] at this; exact this
    · intro i hi
      rw [k.2.2.2.1] at hi
      have : i = 0 := by simpa using hi
      subst this; simp [gShard, gOpC]

/-! ### A signature that verifies: under the key of zeros, t1 is zero and the response of zeros fits every challenge -/

theorem zipMod_zeros (f : Nat → Nat → Nat) (h : f 0 0 % dsaQ = 0) (n : Nat) :
    Poly.zipMod f (List.replicate n 0) (List.replicate n 0) = List.replicate n 0 := by
  unfold Poly.zipMod
  rw [List.zipWith_replicate]
  simp [h]

theorem map_mul_zeros (f : Nat → Nat) (h : f 0 = 0) (n : Nat) : (List.replicate n 0).map f = List.replicate n 0 := by
  rw [List.map_replicate, h]

theorem zeros_halves (n : Nat) : (List.replicate (2 ^ (n + 1)) (0 : Nat)).take (2 ^ n) = List.replicate (2 ^ n) 0 ∧
    (List.replicate (2 ^ (n + 1)) (0 : Nat)).drop (2 ^ n) = List.replicate (2 ^ n) 0 := by
  rw [List.take_replicate, List.drop_replicate]
  have : 2 ^ (n + 1) = 2 ^ n + 2 ^ n := by omega
  have p : 0 < 2 ^ n := Nat.two_pow_pos n
  generalize 2 ^ (n + 1) = x at this
  generalize 2 ^ n = y at this p
  exact ⟨by rw [Nat.min_eq_left (by omega)], by rw [show x - y = y by omega]⟩

theorem zeros_join (n : Nat) : List.replicate (2 ^ n) (0 : Nat) ++ List.replicate (2 ^ n) 0 = List.replicate (2 ^ (n + 1)) 0 := by
  rw [List.replicate_append_replicate]; congr 1; omega

theorem nttBlock_zeros (n m : Nat) : nttBlock n m (List.replicate (2 ^ n) 0) = List.replicate (2 ^ n) 0 := by
  induction n generalizing m with
  | zero => rfl
  | succ n ih =>
    unfold nttBlock
    dsimp only
    rw [(zeros_halves n).1, (zeros_halves n).2, map_mul_zeros _ (by simp)]
    unfold Poly.add Poly.sub
    rw [zipMod_zeros _ rfl, zipMod_zeros _ (by decide), ih, ih, zeros_join]

theorem nttBack_zeros (n m : Nat) : nttBack n m (List.replicate (2 ^ n) 0) = List.replicate (2 ^ n) 0 := by
  induction n generalizing m with
  | zero => rfl
  | succ n ih =>
    unfold nttBack
    dsimp only
    rw [(zeros_halves n).1, (zeros_halves n).2, ih, ih]
    unfold Poly.add Poly.sub
    rw [zipMod_zeros _ rfl, zipMod_zeros _ (by decide), map_mul_zeros _ (by simp), zeros_join]

theorem ntt_zeros : ntt poly0 = poly0 := nttBlock_zeros 8 1
theorem nttInv_zeros : nttInv poly0 = poly0 := by
  have := nttBack_zeros 8 1
  unfold nttInv
  rw [show poly0 = List.replicate (2 ^ 8) 0 from rfl, this, map_mul_zeros _ (by simp)]

theorem zipMod_length (f : Nat → Nat → Nat) (a b : Poly) : (Poly.zipMod f a b).length = min a.length b.length := List.length_zipWith

theorem nttBlock_length (n m : Nat) (a : Poly) (h : a.length = 2 ^ n) : (nttBlock n m a).length = 2 ^ n := by
  induction n generalizing m a with
  | zero => exact h
  | succ n ih =>
    unfold nttBlock
    dsimp only
    have e : 2 ^ (n + 1) = 2 ^ n + 2 ^ n := by omega
    rw [List.length_append, ih, ih, e]
    all_goals
      simp only [Poly.add, Poly.sub, zipMod_length, List.length_take, List.length_map, List.length_drop, h]
      omega

theorem foldl_keeps {α β : Type} (P : α → Prop) (f : α → β → α) (hf : ∀ a b, P a → P (f a b)) (l : List β) (a : α) (h : P a) : P (l.foldl f a) := by
  induction l generalizing a with
  | nil => exact h
  | cons b r ih => exact ih _ (hf _ _ h)

theorem sampleInBall_length (c : Bytes) : (sampleInBall c).length = 256 := by
  unfold sampleInBall
  dsimp only
  refine foldl_keeps (fun acc : Poly × Bytes => acc.1.length = 256) _ (fun acc n h => ?_) _ _ (List.length_replicate)
  simp only [List.length_set]; exact h

theorem zipWith_mul_zeros (a : List Nat) : List.zipWith (fun x y => x * y % dsaQ) a (List.replicate a.length 0) = List.replicate a.length 0 := by
  induction a with
  | nil => rfl
  | cons x r ih => rw [List.length_cons, List.replicate_succ, List.zipWith_cons_cons, ih, Nat.mul_zero, Nat.zero_mod]

theorem had_zeros (a : Poly) (h : a.length = 256) : Poly.had a poly0 = poly0 := by
  unfold poly0; rw [← h]; exact zipWith_mul_zeros a

theorem scaleVec_zeros (c : Poly) (h : c.length = 256) (n : Nat) : scaleVec c (List.replicate n poly0) = List.replicate n poly0 := by
  unfold scaleVec
  rw [List.map_replicate, ntt_zeros, had_zeros c h, nttInv_zeros]

/-! What the sponge gives is as long as asked. -/

theorem keccakRound_length (a : Keccak) (i : Nat) : (keccakRound a i).length = 25 := by
  unfold keccakRound
  have h : (keccakChi (keccakRhoPi (keccakTheta a))).length = 25 := by simp [keccakChi]
  split
  · rename_i l r e; rw [e] at h; exact h
  · rename_i e; rw [e] at h; exact absurd h (by decide)

theorem keccakF_length {a : Keccak} (h : a.length = 25) : (keccakF a).length = 25 :=
  foldl_keeps (fun a : Keccak => a.length = 25) _ (fun a i _ => keccakRound_length a i) _ _ h

theorem keccakAbsorb_length (r : Nat) (a : Keccak) (b : Bytes) : (keccakAbsorb r a b).length = 25 := keccakF_length (by simp)

theorem spongeAbsorb_length (r : Nat) (x : Byte) (n : Nat) {a : Keccak} (h : a.length = 25) (m : Bytes) : (spongeAbsorb r x n a m).length = 25 := by
  induction n generalizing a m with
  | zero => exact h
  | succ n ih =>
    unfold spongeAbsorb
    split
    · exact keccakAbsorb_length _ _ _
    · exact ih (keccakAbsorb_length _ _ _) _

theorem lanes_length (a : Keccak) : (a.flatMap fun l => toLE 8 l.toNat).length = 8 * a.length := by
  induction a with
  | nil => rfl
  | cons l r ih => rw [List.flatMap_cons, List.length_append, toLE_length, ih, List.length_cons]; omega

theorem shake32_length (m : Bytes) : (shake256 m 32).length = 32 := by
  have h := lanes_length (spongeAbsorb 136 0x1F (m.length / 136 + 1) (List.replicate 25 0) m)
  rw [spongeAbsorb_length _ _ _ List.length_replicate] at h
  unfold shake256 sponge
  show (List.take 32 (List.take 136 _ ++ [])).length = 32
  rw [List.append_nil, List.length_take, List.length_take, h]; rfl

/-- The key of zeros, the response of zeros, and the signature of a message. -/
def key0 : Bytes := List.replicate 1312 0
def resp0 : Bytes := (List.replicate 4 (packBits 18 (List.replicate 256 131072))).flatten
def hint0 : Bytes := List.replicate 84 0
def chal0 (m : Bytes) : Bytes :=
  shake256 (shake256 (shake256 key0 64 ++ dsaMsg m) 64 ++ w1Encode (List.zipWith (fun hs p => List.zipWith applyHint hs p)
    (List.replicate 4 (List.replicate 256 false)) (vecSub (matVec (expandA (key0.take 32)) (List.replicate 4 poly0)) (List.replicate 4 poly0)))) 32
def sig0 (m : Bytes) : Bytes := chal0 m ++ (resp0 ++ hint0)

theorem chal0_length (m : Bytes) : (chal0 m).length = 32 := shake32_length _
theorem resp0_length : resp0.length = 2304 := by decide +kernel
theorem sig0_length (m : Bytes) : (sig0 m).length = 2420 := by
  unfold sig0 hint0
  rw [List.length_append, List.length_append, chal0_length, resp0_length, List.length_replicate]

theorem sig0_parts (m : Bytes) : (sig0 m).take 32 = chal0 m ∧ (sig0 m).drop 32 = resp0 ++ hint0 ∧ bslice (sig0 m) 2336 84 = hint0 := by
  have h := chal0_length m
  refine ⟨?_, ?_, ?_⟩
  · unfold sig0; rw [← h]; exact List.take_left
  · unfold sig0; rw [← h]; exact List.drop_left
  · unfold sig0
    rw [← List.append_assoc]
    unfold bslice
    rw [List.drop_left' (by rw [List.length_append, h, resp0_length])]
    decide +kernel

theorem zero_parts : unpackHint hint0 = some (List.replicate 4 (List.replicate 256 false)) ∧
    (pieces 320 4 (key0.drop 32)).map (fun b => (unpackBits 10 256 b).map (· * 8192 % dsaQ)) = List.replicate 4 poly0 ∧
    (pieces 576 4 (resp0 ++ hint0)).map (fun b => (unpackBits 18 256 b).map fun (x : Nat) => modQ (2 ^ 17 - (x : Int))) = List.replicate 4 poly0 ∧
    normBelow (List.replicate 4 poly0) (2 ^ 17 - 78) = true := by decide +kernel

/-- It verifies. -/
theorem sig0_verifies (m : Bytes) : mldsaVerify key0 m (sig0 m) = true := by
  obtain ⟨p1, p2, p3⟩ := sig0_parts m
  obtain ⟨z1, z2, z3, z4⟩ := zero_parts
  unfold mldsaVerify
  rw [p3, z1]
  dsimp only
  rw [p1, p2, z3, z4, sig0_length, List.map_map]
  have hc : (ntt (sampleInBall (chal0 m))).length = 256 := nttBlock_length 8 1 _ (sampleInBall_length _)
  rw [show (List.map ((fun p : List Nat => p.map (· * 8192 % dsaQ)) ∘ fun b => unpackBits 10 256 b) (pieces 320 4 (key0.drop 32))) = List.replicate 4 poly0 from z2,
    scaleVec_zeros _ hc]
  have e : key0.length = 1312 := List.length_replicate
  rw [e]
  simp only [decide_true, Bool.true_and]
  exact beq_iff_eq.2 rfl

/-! ### Firn -/

/-- The base machine with descriptors at 0x800000 for both slots, a work area, a mirror store and `st` in STAT. -/
def firnB (st : Nat) : State := with' base [(cFIRN, 0, slotOff false - 8, 0x800000), (cFIRN, 0, slotOff true - 8, 0x800000),
  (cFIRN, 0, FIRN.WORK_BASE_LO, 0x10000000), (cFIRN, 0, FIRN.WORK_LEN, 64), (cFIRN, 0, FIRN.MSTORE_BASE_LO, 0x20000000),
  (cFIRN, 0, FIRN.MSTORE_LEN, 1024), (cFIRN, 0, hSTAT, st)]
def withF (s : State) (f : FirnSt) : State := { s with firn := f }
theorem quiet_withF {s : State} {f : FirnSt} (h : quiet s = true) (hf : (f.phase != .flush) = true) : quiet (withF s f) = true := by
  simp only [quiet, Bool.and_eq_true] at h ⊢
  exact ⟨⟨h.1.1, hf⟩, h.2⟩
/-- The machine with a descriptor and what Firn holds. -/
def goS (st : Nat) (b : Bytes) (f : FirnSt) : State := putMem (withF (firnB st) f) 0x800000 b
theorem firnQ : ∀ st ∈ [0, 0x200, 0x400, 0x600, 2], quiet (firnB st) = true := by decide +kernel
theorem goQ {st : Nat} (b : Bytes) {f : FirnSt} (h : st ∈ [0, 0x200, 0x400, 0x600, 2]) (hf : (f.phase != .flush) = true) : quiet (goS st b f) = true :=
  quiet_putMem' (quiet_withF (firnQ st h) hf) _ _

/-- What FirnGo asks of a machine whose memory answers. -/
def goCheck (s : State) (k : Bool) (b : Bytes) (op : Nat) : Bool :=
  s.pathOk 0 && regAddrOk cFIRN 0 (slotOff k) 4 && s.writeServed cFIRN && decide (s.own.mode = .owned) && decide (s.own.owner = 0) &&
    decide (s.clk.time ≤ s.own.deadline) && !s.disabledPage cFIRN 0 && s.pageOn cFIRN 0 && s.memReady && (s.firnCmd k).isNone &&
    decide (0x800000 = s.rd64 cFIRN 0 (slotOff k - 8) % 2 ^ 48 / 256 * 256) && !s.firnBad k b && bfield b 0 1 == op

theorem firnGo_of {s : State} {k : Bool} {b : Bytes} {op : Nat} (hq : quiet s = true) (hb : b = hbmBytes s 0x800000 256) (h : goCheck s k b op = true) :
    FirnGo s 0 k 0x800000 b op := by
  simp only [goCheck, Bool.and_eq_true, decide_eq_true_eq, Bool.not_eq_true', Option.isNone_iff_eq_none, beq_iff_eq] at h
  obtain ⟨⟨⟨⟨⟨⟨⟨⟨⟨⟨⟨⟨h1, h2⟩, h3⟩, h4⟩, h5⟩, h6⟩, h7⟩, h8⟩, h9⟩, h10⟩, h11⟩, h12⟩, h13⟩ := h
  exact ⟨⟨⟨h1, h2, h3⟩, h4, h5, h6, h7⟩, ⟨h8, h9⟩, h10, h11, memUp_quiet hq _, ⟨writable_quiet hq (by decide), hb⟩, h12, h13⟩

def fB (op : Nat) (l : List (Nat × Nat × Nat)) : Bytes := fields 256 ((0, 1, op) :: l)
/-- A set of one granule, at 0. -/
def setB : Bytes := fields 16 [(8, 4, 1)]
def psetB : Bytes := fB 3 [(0x10, 8, 0x810000), (0x30, 4, 1)]
/-- A command that has been taken. -/
def fCmd (b : Bytes) (st : Option Nat) : FirnCmd := { desc := 0x800000, bytes := b, status := st }

theorem goCheck_putMem (s : State) (a : Nat) (d : Bytes) (k : Bool) (b : Bytes) (op : Nat) : goCheck (putMem s a d) k b op = goCheck s k b op := rfl
theorem key_set (s : State) (k : Bytes) : (s.setFirn fun f => { f with rest := { key := k } }).firn.rest.key = k := rfl
theorem areas_putMem (s : State) (a : Nat) (d : Bytes) (r : RestSt) :
    ((putMem s a d).setFirn fun f => { f with rest := r }).workArea = s.workArea ∧
    ((putMem s a d).setFirn fun f => { f with rest := r }).mirStore = s.mirStore := ⟨rfl, rfl⟩
theorem test_goS : goCheck (putMem (goS 0 psetB {}) 0x810000 setB) false psetB 3 = true := by decide +kernel

theorem goS_desc {st : Nat} {b : Bytes} {f : FirnSt} (h : b.length = 256) : b = hbmBytes (goS st b f) 0x800000 256 := by
  have := getBytes_setBytes_same (withF (firnB st) f).hbm.mem 0x800000 b
  rw [h] at this
  exact this.symm
theorem hbmBytes_putMem_in (s : State) (a n : Nat) (d : Bytes) (h : d.length = n) : hbmBytes (putMem s a d) a n = d := by
  subst h; exact getBytes_setBytes_same _ _ _
theorem hbmBytes_putMem_other (s : State) {d : Bytes} {a b n : Nat} (h : b + n ≤ a ∨ a + d.length ≤ b) : hbmBytes (putMem s a d) b n = hbmBytes s b n :=
  getBytes_setBytes_out _ _ h

/-! Pieces of strings. -/
theorem bslice_length (b : Bytes) (o n : Nat) : (bslice b o n).length = n := by
  simp only [bslice, List.length_append, List.length_replicate, List.length_take, List.length_drop]; omega
theorem hash32_length (b : Bytes) : (hash32 b).length = 32 := bslice_length _ _ _
theorem bslice_left {a b : Bytes} {o n : Nat} (h : o + n ≤ a.length) : bslice (a ++ b) o n = bslice a o n := by
  unfold bslice
  rw [List.drop_append_of_le_length (by omega), List.take_append_of_le_length (by rw [List.length_drop]; omega)]
theorem bslice_right {a b : Bytes} {o n : Nat} (h : a.length ≤ o) : bslice (a ++ b) o n = bslice b (o - a.length) n := by
  unfold bslice
  rw [List.drop_append, List.drop_eq_nil_of_le h, List.nil_append]
theorem bslice_self {a : Bytes} {n : Nat} (h : a.length = n) : bslice a 0 n = a := by
  subst h; simp [bslice]

/-- A manifest of one granule at 0, with `n` records, epoch 5, a ROOT and a key hash, signed under the key of zeros. -/
def manP (n : Nat) : Bytes := fields 64 [(0, 2, 1), (2, 2, 1), (8, 8, 5), (0x28, 8, n)]
def manBod (n : Nat) (r h : Bytes) : Bytes := manP n ++ (r ++ (h ++ (List.replicate 128 0 ++ setB)))
def manTail (n : Nat) (r h : Bytes) : Bytes := sig0 (manBod n r h) ++ List.replicate 60 0
def man (n : Nat) (r h : Bytes) : Bytes := manBod n r h ++ manTail n r h

structure ManOf (n : Nat) (r h m : Bytes) : Prop where
  len  : m.length = 2752
  ver  : bfield m 0 2 = 1
  num  : manN m = 1
  ep   : manEpoch m = 5
  recs : bfield m 0x28 8 = n
  root : manRoot m = r
  key  : bslice m 0x60 32 = h
  set' : manRanges m = [(0, 1)]
  sig  : mldsaVerify key0 (manBody m) (manSig m) = true

theorem man_of {n : Nat} {r h : Bytes} (hn : n < 33) (hr : r.length = 32) (hh : h.length = 32) : ManOf n r h (man n r h) := by
  have e : ∀ n < 33, (manP n).length = 64 ∧ bfield (manP n) 0 2 = 1 ∧ bfield (manP n) 2 2 = 1 ∧ bfield (manP n) 8 8 = 5 ∧ bfield (manP n) 0x28 8 = n := by
    decide +kernel
  obtain ⟨e0, e1, e2, e3, e4⟩ := e n hn
  have e5 : setB.length = 16 := by decide
  have eb : (manBod n r h).length = 272 := by simp only [manBod, List.length_append, List.length_replicate, e0, hr, hh, e5]
  have et : (manTail n r h).length = 2480 := by simp only [manTail, List.length_append, List.length_replicate, sig0_length]
  have low : ∀ o k, o + k ≤ 64 → bslice (man n r h) o k = bslice (manP n) o k := by
    intro o k hk
    unfold man manBod
    rw [bslice_left (by simp only [List.length_append, List.length_replicate, e0, hr, hh, e5]; omega), bslice_left (by omega)]
  have field : ∀ o k, o + k ≤ 64 → bfield (man n r h) o k = bfield (manP n) o k := by intro o k hk; unfold bfield; rw [low o k hk]
  have hN : manN (man n r h) = 1 := by unfold manN; rw [field _ _ (by omega)]; exact e2
  refine ⟨?_, ?_, hN, ?_, ?_, ?_, ?_, ?_, ?_⟩
  · unfold man; rw [List.length_append, eb, et]
  · rw [field _ _ (by omega)]; exact e1
  · unfold manEpoch; rw [field _ _ (by omega)]; exact e3
  · rw [field _ _ (by omega)]; exact e4
  · unfold manRoot man manBod
    rw [bslice_left (by simp only [List.length_append, List.length_replicate, e0, hr, hh, e5]; omega), bslice_right (by omega), bslice_left (by omega), e0]
    exact bslice_self hr
  · unfold man manBod
    rw [bslice_left (by simp only [List.length_append, List.length_replicate, e0, hr, hh, e5]; omega), bslice_right (by omega), bslice_right (by omega),
      bslice_left (by omega), e0, hr]
    exact bslice_self hh
  · unfold manRanges; rw [hN]
    have : (man n r h).drop 256 = setB ++ manTail n r h := by
      unfold man manBod
      rw [← List.append_assoc, ← List.append_assoc, ← List.append_assoc, List.append_assoc _ setB]
      apply List.drop_left'
      simp only [List.length_append, List.length_replicate, e0, hr, hh]
    rw [this]
    simp only [rangesOf, List.range_succ, List.range_zero, List.nil_append, List.map_cons, List.map_nil, bfield]
    rw [bslice_left (by omega), bslice_left (by omega)]
    decide +kernel
  · have b : manBody (man n r h) = manBod n r h := by unfold manBody; rw [hN]; exact List.take_left' eb
    have g : manSig (man n r h) = sig0 (manBod n r h) := by
      unfold manSig; rw [hN]
      unfold man manTail
      rw [bslice_right (by omega), bslice_left (by rw [sig0_length]; omega), eb]
      exact bslice_self (sig0_length _)
    rw [b, g]
    exact sig0_verifies _

/-- The record of a chunk of zeros, and its granule's. -/
def zRec (a ep : Nat) : ChunkRec := chunkRec a ep zeroChunk false
theorem zeros_all : zeroChunk.all (· == 0) = true := by unfold zeroChunk; rw [List.all_replicate]; decide
theorem codeOn_zeros (b : Bytes) : codeOn b zeroChunk = (0, []) := by unfold codeOn; rw [zeros_all]; rfl
theorem zRec_eq (a ep : Nat) : zRec a ep = ⟨a, ep, chunkCheck zeroChunk a ep, 0, false, []⟩ := by
  unfold zRec chunkRec codeChunk; rw [codeOn_zeros]
theorem zRec_content (a ep : Nat) : recContent (zRec a ep) = some zeroChunk := by
  rw [zRec_eq]; unfold recContent contentOn
  exact if_pos rfl
def zGran (g ep : Nat) : List ChunkRec := (List.range 16).map fun i => zRec (g * 65536 + 4096 * i) ep
theorem zGran_contents (g ep : Nat) : granContents g (zGran g ep) = List.replicate 16 (some zeroChunk) := by
  have : ∀ i < 16, (match (zGran g ep)[i]? with
    | some r => if r.addr = g * 65536 + 4096 * i then recContent r else none
    | none => none) = some zeroChunk := by
    intro i hi
    simp only [zGran, List.getElem?_map, List.getElem?_range hi, Option.map_some]
    rw [if_pos (by rw [zRec_eq]), zRec_content]
  unfold granContents
  rw [List.eq_replicate_iff]
  refine ⟨by simp, fun b hb => ?_⟩
  obtain ⟨i, hi, rfl⟩ := List.mem_map.mp hb
  exact this i (List.mem_range.mp hi)
theorem zGran_good (g ep : Nat) : GoodGran g (zGran g ep) := by
  refine ⟨(List.length_map _).trans List.length_range, ?_⟩
  rw [zGran_contents, List.all_replicate]; exact (if_neg (by decide)).trans rfl
theorem recRaw_length (a ep : Nat) : (recRaw (zRec a ep)).length = 32 := by
  rw [zRec_eq]
  generalize chunkCheck _ _ _ = c
  simp [recRaw, toLE_length, bpad, bslice_length, alignUp]

/-- ROOT of a set of one granule whose chunks have the check values `c`. -/
theorem rootOf_length (c : Nat → W64) : (rootOf c [0]).length = 32 := hash32_length _

/-! What the twin's store holds: one sealed chunk of zeros, chunk 0. -/
def keepC (m : Bytes) (v : W64) : FirnSt := { everEn := true, kManifest := m, kChunks := [(0, { sealed := some ⟨⟨0, v, false⟩, 0, []⟩ })] }
theorem keepC_image {m r h : Bytes} {v : W64} {n : Nat} (hm : ManOf n r h m) : (keepC m v).image = [{ chunkRec 0 0 zeroChunk false with check := v }] := by
  have e : granList (manRanges m) = [0] := by rw [hm.set']; rfl
  have e0 : (keepC m v).kChunk 0 = { sealed := some ⟨⟨0, v, false⟩, 0, []⟩ } := rfl
  have e1 : ∀ k, k ≠ 0 → (keepC m v).kChunk k = {} := by
    intro k hk; unfold FirnSt.kChunk keepC; simp [mget, hk]
  have e2 : (({ sealed := some ⟨⟨0, v, false⟩, 0, []⟩ } : KChunk)).content = some (⟨0, v, false⟩, zeroChunk) := rfl
  unfold FirnSt.image
  show (granList (manRanges m)).flatMap _ = _
  rw [e, List.flatMap_cons, List.flatMap_nil, List.append_nil]
  unfold FirnSt.sealedRecs
  rw [show List.range 16 = 0 :: (List.range 15).map (· + 1) from rfl, List.filterMap_cons, show 16 * 0 + 0 = 0 from rfl, e0, e2]
  rw [(List.filterMap_eq_nil_iff (l := (List.range 15).map (· + 1))).mpr]
  · rfl
  · intro i hi
    obtain ⟨j, _, rfl⟩ := List.mem_map.mp hi
    rw [e1 _ (by omega)]; rfl
def keepF (m : Bytes) : FirnSt := keepC m (zRec 0 0).check
theorem keepF_image {m r h : Bytes} {n : Nat} (hm : ManOf n r h m) : (keepF m).image = [zRec 0 0] := by
  unfold keepF; rw [keepC_image hm, show chunkRec 0 0 zeroChunk false = zRec 0 0 from rfl]

/-- The key's place and the places of the images. -/
def restB (src : Nat) (roll : Bool) (l : List (Nat × Nat × Nat)) : Bytes :=
  fB 5 ([(1, 1, src * 16 + (if roll then 8 else 0))] ++ (if src = 2 ∨ roll then [] else [(0x28, 8, 0x820000)]) ++ l)
def restC : Bytes := restB 1 false [(0x10, 8, 0x830000)]
def restO : Bytes := restB 2 false [(0x10, 8, 0x830000), (0x18, 8, 65536)]
def expB : Bytes := fB 4 [(0x10, 8, 0x830000), (0x18, 8, 4096)]
def theRoot : Bytes := rootOf (fun k => (([zRec 0 0].find? fun r => r.addr / 4096 == k).map (·.check)).getD 0) [0]
theorem theRoot_length : theRoot.length = 32 := rootOf_length _
/-- The machine that restores from an image, before the image is there; the key there and the image's manifest. -/
def imgS : State := goS 0 restC { everEn := true }
def imgM : Bytes := man 1 theRoot (hash32 key0)
theorem imgM_of : ManOf 1 theRoot (hash32 key0) imgM := man_of (by decide) theRoot_length (hash32_length _)
theorem imgS_key : hbmBytes imgS 0x820000 1312 = key0 := by decide +kernel

theorem good_image : GoodImage imgM [zRec 0 0] := by
  have e : granList (manRanges imgM) = [0] := by rw [imgM_of.set']; rfl
  refine ⟨imgM_of.recs.symm, ?_, ?_, ?_⟩
  · intro r hr
    rw [List.mem_singleton] at hr; subst hr
    refine ⟨by rw [zRec_content]; rfl, ?_⟩
    rw [imgM_of.set', zRec_eq]
    exact ⟨rfl, rfl, by decide, by decide, by decide, (0, 1), by decide⟩
  · exact List.nodup_cons.mpr ⟨List.not_mem_nil, List.nodup_nil⟩
  · rw [e, imgM_of.root]; rfl

theorem manOk_of {n : Nat} {r m : Bytes} (hm : ManOf n r (hash32 key0) m) (s : State) (hk : s.firn.rest.key = key0) (hw : s.workArea = (0x10000000, 4194304)) (hs : s.mirStore = (0x20000000, 67108864)) (b : Bytes)
    (hb : bfield b 0x20 8 = 0) : s.manOk b m = true := by
  unfold State.manOk
  dsimp only
  rw [hm.len, hm.ver, hm.num, hm.key, hm.set', hk, hw, hs, hm.sig, hb]
  simp only [beq_self_eq_true, Bool.true_or, Bool.and_true]
  decide

theorem test_hyp_FirnCommandsRunFromTheirSlots :
    (∀ en, ∃ s b l, FirnGo s 0 false 0x800000 b 3 ∧ Readable s (bfield b 0x10 8) (16 * bfield b 0x30 4) ∧
      l = rangesOf (bfield b 0x30 4) (hbmBytes s (bfield b 0x10 8) (16 * bfield b 0x30 4)) ∧ s.psetBad l = false ∧ s.firn.everEn = en) ∧
    (∃ s b, FirnGo s 0 false 0x800000 b 1 ∧ s.fstat 7 = false) ∧
    (∃ s b, FirnGo s 0 false 0x800000 b 2) ∧
    (∀ roll, ∃ s b, FirnGo s 0 false 0x800000 b 5 ∧ srcOf b = 0 ∧ s.mirUp = true ∧ rollOf b = roll ∧ (roll = false → Readable s (bfield b 0x28 8) 1312) ∧
      (roll = true → bfield b 0x20 8 = 0)) ∧
    (∃ s b base man recs img, FirnGo s 0 false 0x800000 b 5 ∧ srcOf b = 1 ∧ rollOf b = false ∧
      Readable s (bfield b 0x28 8) 1312 ∧ base = bfield b 0x10 8 ∧ img = man ++ recs.flatMap recRaw ∧ Readable s base img.length ∧
      hbmBytes s base img.length = img ∧ (s.setFirn fun f => { f with rest := { key := hbmBytes s (bfield b 0x28 8) 1312 } }).manOk b man = true ∧
      GoodImage man recs ∧ (∀ r ∈ recs, Writable s r.addr 4096 ∧ apart r.addr 4096 base img.length ∧ apart r.addr 4096 0x800000 256) ∧
      apart 0x800000 256 base img.length ∧ (∀ n, MemUp s (rqFirn n)) ∧ s.firn.phase = .idle ∧ recs ≠ []) ∧
    (∃ s b man addr img, FirnGo s 0 false 0x800000 b 5 ∧ srcOf b = 2 ∧ rollOf b = false ∧
      man = s.firn.kManifest ∧ man ≠ [] ∧ (bfield b 0x20 8 = 0 ∨ bfield b 0x20 8 = s.keepSealed) ∧ localLen man ≤ bfield b 0x18 8 ∧
      rangesOk 0 (manRanges man) = true ∧ img = s.firn.image ∧ (∀ r ∈ img, r.pois = false ∧ (recContent r).isSome = true) ∧ addr = bfield b 0x10 8 ∧
      Writable s addr (localLen man) ∧ apart addr (localLen man) 0x800000 256 ∧ (∀ n, MemUp s (rqFirn n)) ∧ s.firnFailed = false ∧
      s.unitBusy firnUnit = false ∧ img ≠ []) ∧
    (∃ s b addr img, FirnGo s 0 true 0x800000 b 4 ∧ s.firn.kManifest ≠ [] ∧ img = s.firn.kManifest ++ s.firn.image.flatMap recRaw ∧
      img.length ≤ bfield b 0x18 8 ∧ addr = bfield b 0x10 8 ∧ Writable s addr img.length ∧ apart addr img.length 0x800000 256 ∧ s.firnFailed = false ∧
      s.unitBusy firnUnit = false ∧ (∀ r ∈ s.firn.image, r.pois = false) ∧ s.firn.kWait = none ∧ s.firn.image ≠ []) ∧
    (∀ st ∈ [0, 1, 2], ∃ s b, FirnGo s 0 true 0x800000 b 6 ∧ s.kstate = st) ∧
    (∀ k, ∀ i ∈ [0, 0x80], ∃ (s : State) (x : FirnCmd) (st : Nat), s.firnOn 0 = true ∧ s.firnCmd k = some x ∧ x.status = some st ∧ bfield x.bytes 0 1 ≠ 4 ∧
      s.firn.kWait = none ∧ s.firn.refused = [] ∧ MemUp s (rqFirn 0) ∧ Writable s x.desc 256 ∧ (bfield x.bytes 1 1 / 128 % 2 = 1 ↔ i = 0x80)) := by
  unfold apart
  refine ⟨fun en => ?_, ?_, ?_, fun roll => ?_, ?_, ?_, ?_, ?_, fun k i hi => ?_⟩
  · have q : quiet (putMem (goS 0 psetB { everEn := en }) 0x810000 setB) = true := quiet_putMem' (goQ _ (by decide) rfl) _ _
    have e : ∀ en, psetB = hbmBytes (putMem (goS 0 psetB { everEn := en }) 0x810000 setB) 0x800000 256 ∧
      goCheck (putMem (goS 0 psetB { everEn := en }) 0x810000 setB) false psetB 3 = true ∧
      (fun s : State => s.psetBad (rangesOf (bfield psetB 0x30 4) (hbmBytes s (bfield psetB 0x10 8) (16 * bfield psetB 0x30 4))))
        (putMem (goS 0 psetB { everEn := en }) 0x810000 setB) = false := by decide +kernel
    obtain ⟨e1, e2, e3⟩ := e en
    exact ⟨_, psetB, _, firnGo_of q e1 e2, readable_quiet q (by decide +kernel), rfl, e3, rfl⟩
  · have e : goCheck (goS 0 (fB 1 []) { everEn := true }) false (fB 1 []) 1 = true ∧ (goS 0 (fB 1 []) { everEn := true }).fstat 7 = false := by decide +kernel
    exact ⟨_, _, firnGo_of (goQ _ (by decide) rfl) (goS_desc (by decide +kernel)) e.1, e.2⟩
  · have e : goCheck (goS 0 (fB 2 []) { everEn := true }) false (fB 2 []) 2 = true := by decide +kernel
    exact ⟨_, _, firnGo_of (goQ _ (by decide) rfl) (goS_desc (by decide +kernel)) e⟩
  · have e : ∀ roll, goCheck (goS 0 (restB 0 roll []) { everEn := true }) false (restB 0 roll []) 5 = true ∧ srcOf (restB 0 roll []) = 0 ∧
      (goS 0 (restB 0 roll []) { everEn := true }).mirUp = true ∧ rollOf (restB 0 roll []) = roll ∧ (restB 0 roll []).length = 256 ∧
      bfield (restB 0 roll []) 0x28 8 + 1312 ≤ hbmSize ∧ (roll = true → bfield (restB 0 roll []) 0x20 8 = 0) := by decide +kernel
    obtain ⟨e1, e2, e3, e4, e5, e6, e7⟩ := e roll
    exact ⟨_, _, firnGo_of (goQ _ (by decide) rfl) (goS_desc e5) e1, e2, e3, e4, fun _ => readable_quiet (goQ _ (by decide) rfl) e6, e7⟩
  · have hl : (imgM ++ [zRec 0 0].flatMap recRaw).length = 2784 := by
      rw [List.flatMap_cons, List.flatMap_nil, List.append_nil, List.length_append, imgM_of.len, recRaw_length]
    generalize hI : imgM ++ [zRec 0 0].flatMap recRaw = I at hl
    have q : quiet (putMem imgS 0x830000 I) = true := quiet_putMem' (goQ _ (by decide) rfl) _ _
    have e : goCheck imgS false restC 5 = true ∧ srcOf restC = 1 ∧ rollOf restC = false ∧ bfield restC 0x28 8 = 0x820000 ∧ bfield restC 0x10 8 = 0x830000 ∧
      bfield restC 0x20 8 = 0 ∧ restC.length = 256 ∧ imgS.workArea = (0x10000000, 4194304) ∧ imgS.mirStore = (0x20000000, 67108864) := by decide +kernel
    obtain ⟨e1, e2, e3, e4, e5, e6, e7, e8, e9⟩ := e
    have e0 : restC = hbmBytes imgS 0x800000 256 := goS_desc e7
    have e0' : restC = hbmBytes (putMem imgS 0x830000 I) 0x800000 256 := by rw [hbmBytes_putMem_other _ (by omega)]; exact e0
    have e1' := (goCheck_putMem imgS 0x830000 I false restC 5).trans e1
    have e8' := (areas_putMem imgS 0x830000 I { key := hbmBytes (putMem imgS 0x830000 I) 0x820000 1312 }).1.trans e8
    have e9' := (areas_putMem imgS 0x830000 I { key := hbmBytes (putMem imgS 0x830000 I) 0x820000 1312 }).2.trans e9
    have ek : hbmBytes (putMem imgS 0x830000 I) 0x820000 1312 = key0 := (hbmBytes_putMem_other _ (by omega)).trans imgS_key
    refine ⟨putMem imgS 0x830000 I, restC, 0x830000, imgM, [zRec 0 0], I, firnGo_of q e0' e1', e2, e3, ?_, e5.symm, hI.symm, ?_, ?_, ?_, good_image, ?_, ?_,
      fun n => memUp_quiet q _, rfl, List.cons_ne_nil _ _⟩
    · rw [e4]; exact readable_quiet q (by decide)
    · exact readable_quiet q (by rw [hl]; decide)
    · exact hbmBytes_putMem_in _ _ _ _ rfl
    · rw [e4]
      exact manOk_of imgM_of _ ((key_set _ _).trans ek) e8' e9' _ e6
    · intro r hr
      rw [List.mem_singleton] at hr; subst hr
      have ea : (zRec 0 0).addr = 0 := rfl
      rw [ea, hl]
      exact ⟨writable_quiet q (by decide), by decide, by decide⟩
    · rw [hl]; decide
  · have hm := man_of (n := 1) (by decide) theRoot_length theRoot_length
    have q : quiet (goS 0x200 restO (keepF (man 1 theRoot theRoot))) = true := goQ _ (by decide) rfl
    have e : goCheck (goS 0x200 restO (keepF (man 1 theRoot theRoot))) false restO 5 = true ∧ srcOf restO = 2 ∧ rollOf restO = false ∧
      bfield restO 0x20 8 = 0 ∧ bfield restO 0x18 8 = 65536 ∧ bfield restO 0x10 8 = 0x830000 ∧ restO.length = 256 := by decide +kernel
    obtain ⟨e1, e2, e3, e4, e5, e6, e7⟩ := e
    have hL : localLen (man 1 theRoot theRoot) = 65536 := by unfold localLen; rw [hm.set']; rfl
    refine ⟨_, restO, man 1 theRoot theRoot, 0x830000, _, firnGo_of q (goS_desc e7) e1, e2, e3, rfl, ?_, Or.inl e4, ?_, ?_, rfl, ?_, e6.symm, ?_, ?_,
      fun n => memUp_quiet q _, rfl, rfl, ?_⟩
    · intro h; have := hm.len; rw [h] at this; exact absurd this (by decide)
    · exact Nat.le_of_eq (hL.trans e5.symm)
    · rw [hm.set']; decide
    · show ∀ r ∈ (keepF (man 1 theRoot theRoot)).image, _
      rw [keepF_image hm]; intro r hr; rw [List.mem_singleton] at hr; subst hr
      exact ⟨by rw [zRec_eq], by rw [zRec_content]; rfl⟩
    · rw [hL]; exact writable_quiet q (by decide)
    · rw [hL]; decide
    · show (keepF (man 1 theRoot theRoot)).image ≠ _
      rw [keepF_image hm]; exact List.cons_ne_nil _ _
  · have hm := man_of (n := 1) (by decide) theRoot_length theRoot_length
    have q : quiet (goS 0x200 expB (keepF (man 1 theRoot theRoot))) = true := goQ _ (by decide) rfl
    have e : goCheck (goS 0x200 expB (keepF (man 1 theRoot theRoot))) true expB 4 = true ∧
      bfield expB 0x18 8 = 4096 ∧ bfield expB 0x10 8 = 0x830000 ∧ expB.length = 256 := by decide +kernel
    obtain ⟨e1, e2, e3, e4⟩ := e
    have hi : (goS 0x200 expB (keepF (man 1 theRoot theRoot))).firn.image = [zRec 0 0] := keepF_image hm
    have hl : (man 1 theRoot theRoot ++ [zRec 0 0].flatMap recRaw).length = 2784 := by
      rw [List.flatMap_cons, List.flatMap_nil, List.append_nil, List.length_append, hm.len, recRaw_length]
    refine ⟨goS 0x200 expB (keepF (man 1 theRoot theRoot)), expB, 0x830000, man 1 theRoot theRoot ++ [zRec 0 0].flatMap recRaw,
      firnGo_of q (goS_desc e4) e1, ?_, by rw [hi]; rfl, ?_, e3.symm, ?_, ?_, rfl, rfl, ?_, rfl, ?_⟩
    · intro h; have := hm.len; rw [show man 1 theRoot theRoot = [] from h] at this; exact absurd this (by decide)
    · rw [hl, e2]; decide
    · rw [hl]; exact writable_quiet q (by decide)
    · rw [hl]; decide
    · rw [hi]; intro r hr; rw [List.mem_singleton] at hr; subst hr; rw [zRec_eq]
    · rw [hi]; exact List.cons_ne_nil _ _
  · intro st hst
    have e : ∀ st ∈ [0, 1, 2], goCheck (goS (st * 512) (fB 6 []) { everEn := true }) true (fB 6 []) 6 = true ∧
      (goS (st * 512) (fB 6 []) { everEn := true }).kstate = st ∧ st * 512 ∈ [0, 0x200, 0x400, 0x600, 2] := by decide +kernel
    obtain ⟨e1, e2, e3⟩ := e st hst
    exact ⟨_, _, firnGo_of (goQ _ e3 rfl) (goS_desc (by decide +kernel)) e1, e2⟩
  · have e : ∀ k, ∀ i ∈ [0, 0x80], (fun (s : State) (x : FirnCmd) => decide (s.firnOn 0 = true ∧ s.firnCmd k = some x ∧ x.status = some 0 ∧ bfield x.bytes 0 1 ≠ 4 ∧
        s.firn.kWait = none ∧ s.firn.refused = [] ∧ (bfield x.bytes 1 1 / 128 % 2 = 1 ↔ i = 0x80)))
      (goS 0 (fB 2 []) { everEn := true, slotA := some (fCmd (fB 2 [(1, 1, i)]) (some 0)), slotK := some (fCmd (fB 2 [(1, 1, i)]) (some 0)) })
      (fCmd (fB 2 [(1, 1, i)]) (some 0)) = true := by decide +kernel
    obtain ⟨e1, e2, e3, e4, e5, e5', e6⟩ := of_decide_eq_true (e k i hi)
    exact ⟨_, _, 0, e1, e2, e3, e4, e5, e5', memUp_quiet (goQ _ (by decide) rfl) _,
      writable_quiet (goQ _ (by decide) rfl) (by show 0x800000 + 256 ≤ hbmSize; decide), e6⟩

/-! What streams, seals and serves. -/
theorem minsert_length {α : Type} (m : SMap α) (k : Nat) (v : α) : (minsert m k v).length ≤ m.length + 1 := by
  induction m with
  | nil => exact Nat.le_refl _
  | cons e r ih =>
    obtain ⟨k', w⟩ := e
    unfold minsert
    split
    · exact Nat.le_refl _
    · simp only [List.length_cons]; omega
theorem merase_length {α : Type} (m : SMap α) (k : Nat) : (merase m k).length ≤ m.length := List.length_filter_le _ _
theorem mset_length {α : Type} [DecidableEq α] (d : α) (m : SMap α) (k : Nat) (v : α) : (mset d m k v).length ≤ m.length + 1 := by
  have h1 := merase_length m k
  have h2 := minsert_length (merase m k) k v
  unfold mset; split <;> omega
/-- A chunk that holds zeros in progress at most, and a store of such chunks. -/
def Slim (k : KChunk) : Prop := k.sealed = none ∧ k.delta = none ∧ ∀ f, k.prog = some f → f.payload = []
theorem slim_take {k : KChunk} (h : Slim k) (v : ChkVal) : Slim (k.take v zeroChunk) := by
  have e : k.fold = k := by unfold KChunk.fold; rw [h.2.1]
  unfold KChunk.take
  dsimp only
  rw [e, codeOn_zeros]
  exact ⟨h.1, h.2.1, fun f hf => by rw [← Option.some.inj hf]⟩
theorem slim_size {k : KChunk} (h : Slim k) : k.size ≤ 32 := by
  obtain ⟨a, b, c⟩ := k
  obtain ⟨rfl, rfl, hc⟩ := h
  cases c with
  | none => decide
  | some f => obtain ⟨v, d, p⟩ := f; have := hc _ rfl; simp only at this; subst this; show 0 + (32 + alignUp 0 32) ≤ 32; decide
def SlimStore (m : SMap KChunk) : Prop := ∀ e ∈ m, Slim e.2
theorem slim_insert {m : SMap KChunk} (h : SlimStore m) (k : Nat) {v : KChunk} (hv : Slim v) : SlimStore (minsert m k v) := by
  induction m with
  | nil => intro e he; rw [List.mem_singleton.1 he]; exact hv
  | cons x r ih =>
    obtain ⟨k', w⟩ := x
    have hr : SlimStore r := fun e he => h e (List.mem_cons_of_mem _ he)
    unfold minsert
    split
    · intro e he
      rcases List.mem_cons.1 he with rfl | he
      · exact hv
      · exact h e he
    · intro e he
      rcases List.mem_cons.1 he with rfl | he
      · exact h _ List.mem_cons_self
      · exact ih hr e he
theorem slim_mset {m : SMap KChunk} (h : SlimStore m) (k : Nat) {v : KChunk} (hv : Slim v) : SlimStore (mset {} m k v) := by
  have he : SlimStore (merase m k) := fun e he => h e (List.mem_filter.1 he).1
  unfold mset; split
  · exact he
  · exact slim_insert he k hv
theorem slim_mget {m : SMap KChunk} (h : SlimStore m) (k : Nat) : Slim (mget {} m k) := by
  rcases mget_mem {} m k with e | e
  · rw [e]; exact ⟨rfl, rfl, fun _ h => nomatch h⟩
  · exact h _ e
theorem slim_sum (l : List Nat) (h : ∀ x ∈ l, x ≤ 32) : l.foldl (· + ·) 0 ≤ 32 * l.length := by
  have : ∀ (l : List Nat) (a : Nat), (∀ x ∈ l, x ≤ 32) → l.foldl (· + ·) a ≤ a + 32 * l.length := by
    intro l
    induction l with
    | nil => intro a _; exact Nat.le_refl _
    | cons b r ih =>
      intro a hb
      have h1 := ih (a + b) fun x hx => hb x (List.mem_cons_of_mem _ hx)
      have h2 := hb b List.mem_cons_self
      simp only [List.foldl_cons, List.length_cons]; omega
  simpa using this l 0 h
theorem storeBytes_le {m : SMap KChunk} (h : SlimStore m) (k : Nat) (hk : m.length ≤ k) : storeBytes m ≤ 112 * k + 2 ^ 20 := by
  unfold storeBytes; split
  · omega
  · have h1 := slim_sum (m.map (·.2.size)) (by
      intro x hx
      obtain ⟨e, he, rfl⟩ := List.mem_map.1 hx
      exact slim_size (h e he))
    have h2 := Nat.min_le_left (80 * m.length + 2 ^ 20) (Config.storeExtra m.length)
    rw [List.length_map] at h1
    omega
theorem keepGran_store (s : State) (g : Nat) (recs : List ChunkRec) (h : recs.length = 16) (hk : s.firn.kChunks = []) :
    storeBytes (s.keepGran g recs (List.replicate 16 (some zeroChunk))).firn.kChunks ≤ 112 * 16 + 2 ^ 20 := by
  have hl : (recs.zip (List.replicate 16 (some zeroChunk))).length ≤ 16 := by rw [List.length_zip]; omega
  have hz : ∀ e ∈ recs.zip (List.replicate 16 (some zeroChunk)), e.2 = some zeroChunk :=
    fun e he => List.eq_of_mem_replicate (List.of_mem_zip he).2
  have key : ∀ (l : List (ChunkRec × Option Bytes)) (m : SMap KChunk), (∀ e ∈ l, e.2 = some zeroChunk) → SlimStore m →
      SlimStore (l.foldl (fun m e =>
        let k := e.1.addr / 4096
        mset {} m k ((mget {} m k).take ⟨e.1.vepoch, e.1.check, e.1.pois⟩ (e.2.getD []))) m) ∧
      (l.foldl (fun m e =>
        let k := e.1.addr / 4096
        mset {} m k ((mget {} m k).take ⟨e.1.vepoch, e.1.check, e.1.pois⟩ (e.2.getD []))) m).length ≤ m.length + l.length := by
    intro l
    induction l with
    | nil => intro m _ hm; exact ⟨hm, Nat.le_refl _⟩
    | cons e r ih =>
      intro m he hm
      have e1 := he e List.mem_cons_self
      have st := slim_mset hm (e.1.addr / 4096) (slim_take (slim_mget hm (e.1.addr / 4096)) ⟨e.1.vepoch, e.1.check, e.1.pois⟩)
      have ln := mset_length {} m (e.1.addr / 4096) ((mget {} m (e.1.addr / 4096)).take ⟨e.1.vepoch, e.1.check, e.1.pois⟩ zeroChunk)
      obtain ⟨i1, i2⟩ := ih _ (fun x hx => he x (List.mem_cons_of_mem _ hx)) st
      rw [List.foldl_cons, e1]
      simp only [Option.getD_some, List.length_cons] at i1 i2 ⊢
      exact ⟨i1, by omega⟩
  have := key _ s.firn.kChunks hz (by rw [hk]; exact fun e he => absurd he List.not_mem_nil)
  refine storeBytes_le this.1 16 (Nat.le_trans this.2 ?_)
  rw [hk, List.length_nil]; omega
theorem idKeyHash_length (s : State) : s.idKeyHash.length = 32 := by unfold State.idKeyHash; split <;> exact bslice_length _ _ _

/-- The machine that keeps nothing of its twin and serves nothing; the one whose mirror link is down. -/
def coldS (f : FirnSt) : State := withF (with' (firnB 0) [(cFIRN, 0, hCTRL, 1)]) f
def deafB (st : Nat) : State := with' (firnB st) [(cMIR, 0, MIR.SUB0_STAT, 0), (cMIR, 0, MIR.SUB1_STAT, 0), (cFIRN, 0, FIRN.MIRROR_TMO, 10)]
def deafS (st : Nat) (f : FirnSt) : State := withF (deafB st) f
theorem deafQ : quiet (deafB 0) = true := by decide +kernel
theorem up_withF {s : State} (f : FirnSt) {q : Rq} (h : MemUp s q) : MemUp (withF s f) q := ⟨h.ready, h.path, h.plain⟩
theorem sound_withF {s : State} (f : FirnSt) {a n : Nat} (h : SoundRun s a n) : SoundRun (withF s f) a n := h
/-- A SEAL with one gate at 0x803000; the word's high byte. -/
def sealB : Bytes := fB 1 [(3, 1, 1), (0x40, 8, 0x803000)]
def cutS (v : BitVec 8) : State := putMem (goS 2 [] { everEn := true, phase := .gates, slotA := some (fCmd sealB none), pset := [(0, 1)], cur := [(0, true)] })
  0x803000 [0, 0, 0, v]
/-- The machine that keeps a sealed epoch of the twin that has said hello. -/
def keptS (k : Nat) : State := goS (k * 512) [] { kManifest := [1], hello := some ⟨[], 0, 0, 0, [], 0, true⟩ }
/-- A chunk at no chunk's place. -/
def badRec : ChunkRec := ⟨1, 0, 0, 0, false, []⟩
def keptRoot : Bytes := rootOf (fun k => ((({} : FirnSt).kChunk k).newest.map (·.v.check)).getD 0) [0]
theorem keptRoot_length : keptRoot.length = 32 := rootOf_length _
/-- A restore from the twin, or a rollback, that runs. -/
def servF (roll : Bool) (m : Option Bytes) : FirnSt :=
  { everEn := true, slotA := some (fCmd (restB 0 roll []) none), rest := { key := key0, manifest := m, want := if roll then [0, 1] else [] } }
def servM (n : Nat) : Bytes := man n (bpad [] 32) (hash32 key0)
theorem servM_of {n : Nat} (h : n < 33) : ManOf n (bpad [] 32) (hash32 key0) (servM n) := man_of h (bslice_length _ _ _) (hash32_length _)
theorem ne_nil_of {m r h : Bytes} {n : Nat} (hm : ManOf n r h m) : m ≠ [] := by
  intro e; have := hm.len; rw [e] at this; exact absurd this (by decide)

theorem test_hyp_FirnStreamsSealsAndServes :
    (∀ n < 2, ∀ ph ∈ [SealPhase.idle, .gates, .cutWait], ∃ s g, s.firn.phase = ph ∧ s.firnOn n = true ∧ s.firnEn = true ∧ s.fstat 1 = true ∧ s.mirUp = true ∧
      s.rdb cFIRN n hFREEZE 0 = false ∧ s.fstat 7 = false ∧ s.rateOk n = true ∧ MemUp s (rqFirn n) ∧ Readable s (g * 65536) 65536 ∧
      nextFrom (mget 0 s.firn.next n) (((s.firn.cur.filter fun e => e.2 && e.1 % 2 == n).map (·.1)).filter fun g =>
        s.protectedGran g && (mget none s.firn.sent g).isNone) = some g) ∧
    (∃ (s : State) (kh hh : Bytes), s.mirUp = true ∧ s.firnEn = true ∧ s.afterCut = false ∧ kh.length = 32 ∧ hh.length = 32 ∧ s.keepEn = true ∧ s.kstate = 0) ∧
    (∃ (s : State) (kh hh : Bytes) (hp : Nat), s.mirUp = true ∧ s.firnEn = true ∧ s.afterCut = false ∧ kh.length = 32 ∧ hh.length = 32 ∧ s.keepEn = false ∧
      hh = s.idKeyHash ∧ hp = s.epochSealed ∧ s.firn.sent = []) ∧
    (∃ s : State, s.mirUp = true ∧ s.firnOn (0 % 2) = true ∧ s.keeps = false) ∧
    (∃ (s : State) (g : Nat) (recs : List ChunkRec), s.mirUp = true ∧ s.firnOn (g % 2) = true ∧ s.keeps = true ∧ GoodGran g recs ∧ mget false s.firn.kBad g = false ∧
      storeBytes (s.keepGran g recs (granContents g recs)).firn.kChunks ≤ s.mirStore.2) ∧
    (∃ (s : State) (g : Nat) (recs : List ChunkRec), s.mirUp = true ∧ s.firnOn (g % 2) = true ∧ s.keeps = true ∧ recs.length = 16 ∧
      (granContents g recs).any (·.isNone) = true) ∧
    (∃ (s : State) (g : Nat) (x : SentGran), s.mirUp = true ∧ mget none s.firn.sent g = some x ∧ s.firn.phase ≠ .flush) ∧
    (∀ v ∈ [(0 : BitVec 8), 0x80], ∃ (s : State) (x : FirnCmd) (a w : Nat), s.firnOn 0 = true ∧ s.firn.slotA = some x ∧ s.firn.phase = .gates ∧ x.due ≤ s.clk.time ∧
      bfield x.bytes 3 1 = 1 ∧ gateOf x.bytes 0 = (a, w) ∧ MemUp s (rqFirn 0) ∧ Readable s a 4 ∧ gateOpen (leNat (hbmBytes s a 4)) w = decide (v = 0) ∧
      s.cutFree x = true ∧ s.fstat 8 = false) ∧
    (∃ s : State, s.firnOn 0 = true ∧ s.firn.phase = .flush ∧ (∀ e ∈ s.firn.sealing, e.2 = false) ∧
      (∀ e ∈ s.firn.sent, ∀ x, e.2 = some x → x.epoch ≠ s.firn.sealEpoch) ∧ s.sec.cmd.any (·.op == 1) = false ∧ s.fstat 1 = true ∧ s.mirUp = true ∧
      granList s.firn.psetSeal ≠ [] ∧ s.firn.psetSeal.length ≤ 256 ∧ s.firn.sealEpoch < 2 ^ 64) ∧
    (∀ good, ∃ (s : State) (m : Bytes) (gs : List Nat) (root : Bytes), s.mirUp = true ∧ s.firnOn 0 = true ∧ s.keepEn = true ∧ s.kstate = 1 ∧ s.exporting = false ∧
      gs = granList (manRanges m) ∧ root = rootOf (fun k => ((s.firn.kChunk k).newest.map (·.v.check)).getD 0) gs ∧ (root = manRoot m ↔ good = true)) ∧
    (∃ (s : State) (x : FirnCmd), s.mirUp = true ∧ s.firn.phase = .manifest ∧ s.firn.slotA = some x ∧ x.status = none ∧ bfield x.bytes 0 1 = 1 ∧
      MemUp s (rqFirn 0) ∧ Writable s x.desc 256 ∧ apart x.desc 256 s.workArea.1 s.workArea.2 ∧ s.firn.sealEpoch < 2 ^ 64 ∧ bfield s.firn.sealMan 5 1 % 2 = 0) ∧
    (∃ (s : State) (addr : Nat), s.firnOn (addr / 65536 % 2) = true ∧ (s.firn.kChunk (addr / 4096)).delta ≠ none) ∧
    (∃ s : State, s.mirUp = true ∧ s.firnOn 0 = true ∧ s.serveEn = false) ∧
    (∀ k ∈ [1, 2], ∀ e ∈ [true, false], ∃ (s : State) (ep : Nat), s.mirUp = true ∧ s.firnOn 0 = true ∧ s.serveEn = true ∧ s.firn.kManifest ≠ [] ∧ s.kstate = k ∧
      (k = 1 → ∃ h, s.firn.hello = some h ∧ h.keyHash = s.firn.kKey) ∧
      (if e then ep = 0 else ep = s.keepSealed)) ∧
    (∀ b, ∃ s : State, s.mirUp = true ∧ s.firnOn (1 % 2) = true ∧ (s.kstate = 3 ↔ b = true)) ∧
    (∀ roll, ∃ (s : State) (x : FirnCmd) (m : Bytes), s.served = some x ∧ s.mirUp = true ∧
      s.firn.rest.queue = [] ∧ s.firn.rest.manifest = none ∧ m ≠ [] ∧ rollOf x.bytes = roll ∧ (rollOf x.bytes = true → s.firn.rest.want ≠ []) ∧
      (rollOf x.bytes = false → s.manOk x.bytes m = true ∧ s.firn.rest.got.length < bfield m 0x28 8)) ∧
    (∀ roll, ∃ (s : State) (x : FirnCmd) (m : Bytes) (g : Nat) (recs : List ChunkRec), s.served = some x ∧ s.mirUp = true ∧ s.firn.rest.queue = [] ∧
      rollOf x.bytes = roll ∧ s.firn.rest.manifest = some m ∧ g ∈ granList (manRanges m) ∧ GoodGran g recs ∧ (∀ r ∈ recs, r.pois = false) ∧
      (rollOf x.bytes = true → ∃ h ∈ s.firn.rest.want, h ≠ g) ∧ (rollOf x.bytes = false → s.firn.rest.got.length + 16 < bfield m 0x28 8) ∧
      mget 0 s.firn.rest.tries g = 0 ∧ MemUp s (rqFirn (g % 2)) ∧ Writable s (g * 65536) 65536) ∧
    (∃ s : State, s.mirUp = true ∧ s.kstate = 3 ∧ s.firn.kReturn < 4) ∧
    (∃ (s : State) (t : Nat), s.firn.mirDown = some t ∧ s.firnOn 0 = true ∧ s.mirUp = false ∧ s.served = none ∧ s.firn.kReturn < 4 ∧ s.afterCut = false ∧
      s.kstate = 3 ∧ t + s.rdf cFIRN 0 FIRN.MIRROR_TMO 0 24 ≤ s.clk.time) ∧
    (∃ (s : State) (t : Nat) (x : FirnCmd), s.firn.mirDown = some t ∧ s.firnOn 0 = true ∧ s.mirUp = false ∧ s.served = none ∧ s.firn.kReturn < 4 ∧
      s.firn.phase = .flush ∧ s.kstate ≠ 3 ∧ max t (s.rd64 cFIRN 0 FIRN.CUT_TIME) + s.rdf cFIRN 0 FIRN.MIRROR_TMO 0 24 ≤ s.clk.time ∧
      s.firn.slotA = some x ∧ x.status = none ∧ bfield x.bytes 0 1 = 1 ∧ MemUp s (rqFirn 0) ∧ Writable s x.desc 256 ∧ NoWaits s ∧
      s.errQ (pageId cFIRN 0) = [] ∧ (5, true) ∈ s.firn.sealing) := by
  unfold apart NoWaits
  refine ⟨?scan, ?hello, ?deaf, ?cold, ?keep, ?torn, ?gack, ?cut, ?flush, ?roots,
    ?sealed, ?fold, ?closed, ?serve, ?resend, ?man, ?chunks, ?back, ?wait, ?expire⟩
  · intro n hn ph hp
    have e : ∀ n < 2, ∀ ph ∈ [SealPhase.idle, .gates, .cutWait], (fun s : State => decide (s.firn.phase = ph ∧ s.firnOn n = true ∧ s.firnEn = true ∧ s.fstat 1 = true ∧
      s.mirUp = true ∧ s.rdb cFIRN n hFREEZE 0 = false ∧ s.fstat 7 = false ∧ s.rateOk n = true ∧ (s.firn.phase != .flush) = true ∧
      n * 65536 + 65536 ≤ hbmSize ∧
      nextFrom (mget 0 s.firn.next n) (((s.firn.cur.filter fun e => e.2 && e.1 % 2 == n).map (·.1)).filter fun g =>
        s.protectedGran g && (mget none s.firn.sent g).isNone) = some n))
      (goS 2 [] { everEn := true, phase := ph, pset := [(0, 2)], cur := [(0, true), (1, true)] }) = true := by decide +kernel
    obtain ⟨e1, e2, e3, e4, e5, e6, e7, e8, e10, e11, e12⟩ := of_decide_eq_true (e n hn ph hp)
    have q := goQ (st := 2) [] (by decide) e10
    exact ⟨_, n, e1, e2, e3, e4, e5, e6, e7, e8, memUp_quiet q _, readable_quiet q e11, e12⟩
  · exact ⟨goS 0 [] { everEn := true }, bpad [] 32, bpad [] 32, by decide +kernel⟩
  · refine ⟨coldS { everEn := true }, bpad [] 32, _, _, by decide +kernel, by decide +kernel, by decide +kernel, by decide +kernel, idKeyHash_length _,
      by decide +kernel, rfl, rfl, rfl⟩
  · exact ⟨coldS {}, by decide +kernel⟩
  · have e : (goS 0x200 [] {}).mirUp = true ∧ (goS 0x200 [] {}).firnOn 0 = true ∧ (goS 0x200 [] {}).keeps = true ∧ (goS 0x200 [] {}).mirStore.2 = 67108864 := by
      decide +kernel
    refine ⟨goS 0x200 [] {}, 0, zGran 0 5, e.1, e.2.1, e.2.2.1, zGran_good 0 5, rfl, ?_⟩
    rw [e.2.2.2, zGran_contents]
    exact Nat.le_trans (keepGran_store _ _ _ (zGran_good 0 5).1 rfl) (by decide)
  · exact ⟨goS 0x200 [] {}, 0, List.replicate 16 badRec, by decide +kernel⟩
  · exact ⟨goS 2 [] { sent := [(0, some ⟨0, []⟩)] }, 0, ⟨0, []⟩, by decide +kernel⟩
  · intro v hv
    have e : ∀ v ∈ [(0 : BitVec 8), 0x80], (fun s : State => decide (s.firnOn 0 = true ∧ s.firn.slotA = some (fCmd sealB none) ∧ s.firn.phase = .gates ∧
      (fCmd sealB none).due ≤ s.clk.time ∧ bfield sealB 3 1 = 1 ∧ gateOf sealB 0 = (0x803000, 0) ∧
      gateOpen (leNat (hbmBytes s 0x803000 4)) 0 = decide (v = 0) ∧ s.cutFree (fCmd sealB none) = true ∧ s.fstat 8 = false)) (cutS v) = true := by
      decide +kernel
    obtain ⟨e1, e2, e3, e4, e5, e6, e7, e8, e9⟩ := of_decide_eq_true (e v hv)
    have q : quiet (cutS v) = true := quiet_putMem' (goQ _ (by decide) rfl) _ _
    exact ⟨cutS v, _, _, _, e1, e2, e3, e4, e5, e6, memUp_quiet q _, readable_quiet q (by decide), e7, e8, e9⟩
  · refine ⟨goS 2 [] { phase := .flush, sealing := [(0, false)], sent := [(0, some ⟨1, []⟩)], psetSeal := [(0, 1)] }, by decide +kernel, rfl, by decide +kernel, ?_,
      by decide +kernel⟩
    intro e he x hx
    rw [List.mem_singleton.mp he] at hx
    rw [← Option.some.inj hx]; decide
  · intro good
    have hm := man_of (n := 1) (r := if good then keptRoot else keptRoot.map (~~~ ·)) (h := bpad [] 32) (by decide)
      (by split; exact keptRoot_length; rw [List.length_map]; exact keptRoot_length) (bslice_length _ _ _)
    have e : (goS 0x200 [] {}).mirUp = true ∧ (goS 0x200 [] {}).firnOn 0 = true ∧ (goS 0x200 [] {}).keepEn = true ∧ (goS 0x200 [] {}).kstate = 1 ∧
      (goS 0x200 [] {}).exporting = false := by decide +kernel
    refine ⟨goS 0x200 [] {}, man 1 (if good then keptRoot else keptRoot.map (~~~ ·)) (bpad [] 32), [0], keptRoot, e.1, e.2.1, e.2.2.1, e.2.2.2.1, e.2.2.2.2, ?_, rfl, ?_⟩
    · rw [hm.set']; rfl
    · rw [hm.root]
      cases good with
      | true => exact ⟨fun _ => rfl, fun _ => rfl⟩
      | false =>
        refine ⟨fun h => ?_, fun h => absurd h (by decide)⟩
        exfalso
        have hl := keptRoot_length
        generalize keptRoot = r at h hl
        cases r with
        | nil => exact absurd hl (by decide)
        | cons a t =>
          have : a = ~~~ a := (List.cons.inj h).1
          exact absurd this ((by decide : ∀ a : Byte, a ≠ ~~~ a) a)
  · have q : quiet (goS 0 [] { phase := .manifest, slotA := some (fCmd (fB 1 []) none) }) = true := goQ _ (by decide) rfl
    refine ⟨goS 0 [] { phase := .manifest, slotA := some (fCmd (fB 1 []) none) }, fCmd (fB 1 []) none, by decide +kernel, rfl, rfl, rfl, by decide +kernel,
      memUp_quiet q _, writable_quiet q (by show 0x800000 + 256 ≤ hbmSize; decide), by decide +kernel, by decide +kernel, by decide +kernel⟩
  · exact ⟨goS 0 [] { kChunks := [(0, { delta := some ⟨⟨0, 0, false⟩, 0, []⟩ })] }, 0, by decide +kernel⟩
  · exact ⟨coldS {}, by decide +kernel⟩
  · intro k hk e he
    have c : ∀ k ∈ [1, 2], (fun s : State => decide (s.mirUp = true ∧ s.firnOn 0 = true ∧ s.serveEn = true ∧ s.firn.kManifest ≠ [] ∧ s.kstate = k))
      (keptS k) = true := by decide +kernel
    obtain ⟨c1, c2, c3, c4, c5⟩ := of_decide_eq_true (c k hk)
    refine ⟨keptS k, if e then 0 else (keptS k).keepSealed, c1, c2, c3, c4, c5, fun _ => ⟨_, rfl, rfl⟩, ?_⟩
    cases e <;> rfl
  · intro b; exact ⟨goS (if b then 0x600 else 0) [] {}, by cases b <;> decide +kernel⟩
  · intro roll
    have e : ∀ roll, (fun s : State => decide (s.served = some (fCmd (restB 0 roll []) none) ∧ s.mirUp = true ∧ rollOf (restB 0 roll []) = roll ∧
      (roll = true → s.firn.rest.want ≠ []) ∧ s.workArea = (0x10000000, 4194304) ∧ s.mirStore = (0x20000000, 67108864) ∧ bfield (restB 0 roll []) 0x20 8 = 0))
      (goS 0 [] (servF roll none)) = true := by decide +kernel
    obtain ⟨e1, e2, e3, e4, e5, e6, e7⟩ := of_decide_eq_true (e roll)
    have hm := servM_of (n := 1) (by decide)
    refine ⟨goS 0 [] (servF roll none), fCmd (restB 0 roll []) none, servM 1, e1, e2, rfl, rfl, ne_nil_of hm, e3, fun h => e4 (e3.symm.trans h), fun h => ⟨?_, ?_⟩⟩
    · exact manOk_of hm _ rfl e5 e6 _ e7
    · rw [hm.recs]; exact Nat.zero_lt_one
  · intro roll
    have hm := servM_of (n := 32) (by decide)
    have q : quiet (goS 0 [] (servF roll (some (servM 32)))) = true := goQ _ (by decide) rfl
    have e : ∀ roll, (goS 0 [] (servF roll (some (servM 32)))).served = some (fCmd (restB 0 roll []) none) ∧
      (goS 0 [] (servF roll (some (servM 32)))).mirUp = true ∧ rollOf (restB 0 roll []) = roll ∧ (roll = true → ∃ h ∈ (servF roll none).rest.want, h ≠ 0) := by
      decide +kernel
    obtain ⟨e1, e2, e3, e4⟩ := e roll
    refine ⟨goS 0 [] (servF roll (some (servM 32))), fCmd (restB 0 roll []) none, servM 32, 0, zGran 0 5, e1, e2, rfl, e3, rfl, ?_, zGran_good 0 5, ?_,
      fun h => e4 (e3.symm.trans h), fun _ => ?_, rfl, memUp_quiet q _, writable_quiet q (by decide)⟩
    · rw [hm.set']; decide
    · intro r hr
      obtain ⟨i, _, rfl⟩ := List.mem_map.mp hr
      rw [zRec_eq]
    · rw [hm.recs]; show 0 + 16 < 32; decide
  · exact ⟨goS 0x600 [] { kReturn := 1 }, by decide +kernel⟩
  · exact ⟨deafS 0x600 {}, 0, by decide +kernel⟩
  · have q := deafQ
    have e : ∀ f ∈ [({ phase := .flush, sealing := [(5, true)], slotA := some (fCmd (fB 1 []) none) } : FirnSt)], (fun s : State => decide (s.firn.mirDown = some 0 ∧
      s.firnOn 0 = true ∧ s.mirUp = false ∧ s.served = none ∧ s.firn.kReturn < 4 ∧ s.firn.phase = .flush ∧ s.kstate ≠ 3 ∧
      max 0 (s.rd64 cFIRN 0 FIRN.CUT_TIME) + s.rdf cFIRN 0 FIRN.MIRROR_TMO 0 24 ≤ s.clk.time ∧ s.firn.slotA = some (fCmd (fB 1 []) none) ∧
      s.errQ (pageId cFIRN 0) = [] ∧ (5, true) ∈ s.firn.sealing ∧ s.runHeld 0x800000 256 = false ∧ bfield (fB 1 []) 0 1 = 1)) (deafS 0 f) = true := by decide +kernel
    obtain ⟨e1, e2, e3, e4, e5, e6, e7, e8, e9, e10, e11, e12, e13⟩ := of_decide_eq_true (e _ (List.mem_singleton.mpr rfl))
    refine ⟨deafS 0 { phase := .flush, sealing := [(5, true)], slotA := some (fCmd (fB 1 []) none) }, 0, fCmd (fB 1 []) none, e1, e2, e3, e4, e5, e6, e7, e8,
      e9, rfl, e13, up_withF _ (memUp_quiet q _), ⟨⟨by show 0x800000 + 256 ≤ hbmSize; decide, ?_, ?_, fun _ => e12, ?_⟩,
      sound_withF _ (soundRun_quiet q _ _)⟩, ⟨rfl, rfl, rfl, rfl, rfl⟩, e10, e11⟩
    · intro x hx; exact absurd hx List.not_mem_nil
    · intro x hx; exact absurd hx List.not_mem_nil
    · intro x hx; exact absurd hx List.not_mem_nil

/-! ### Steps, reset, boot and the security controller -/

theorem test_hyp_StepTakesFrontCommand :
    (∃ (c : Instr) (rest : List Instr) (s : State), s.pending = c :: rest) ∧ ∃ s : State, s.pending = [] :=
  ⟨⟨.verify, [], { State.reset with pending := [.verify] }, rfl⟩, State.reset, rfl⟩

theorem test_hyp_IntegerElementsAreExactThenClamped :
    ∀ ty ∈ tyInts, ∃ b b' : BitVec 32, tyWidth ty ≤ b.toNat ∧ 0 < b'.toNat ∧ b'.toNat < tyWidth ty := by
  intro ty h
  exact ⟨40, 1, (by decide +kernel : ∀ ty ∈ tyInts, tyWidth ty ≤ (40 : BitVec 32).toNat ∧ 0 < (1 : BitVec 32).toNat ∧ (1 : BitVec 32).toNat < tyWidth ty) ty h⟩

/-- The machine in reset, before its firmware, and at a stage of bring-up with the domains of `pd` on. -/
def lowS (rst therm bleed : Bool) : State := { base with life := { inReset := rst }, pins := { base.pins with resetN := false, thermtripN := therm }, pwr := { base.pwr with bleeding := bleed } }
def bootS (st : Nat) (b : Bytes) (f : FuseSt) : State := { with' base [(cSEC, 0, SEC.BOOT_STAT, st * 16), (cSYS, 0, hSTAT, 4096)] with sec := { buffer := b }, fuses := f }
def upS (n : Nat) (l : LifeSt) (pd : List Nat) : State :=
  { with' base [(cSYS, 0, hSTAT, n * 4096), (cPWR, 0, PWR.E_LIMIT, 1500)] with life := l, pwr := { pd := pd.map fun d => (d, { phase := .on }) } }

/-- An image of four bytes for this grade, signed under the key of zeros. -/
def imgH : Bytes := fields 64 [(0, 4, 0x5746524B), (4, 2, 1), (6, 1, 1), (7, 1, 1), (0x0C, 4, 4)]
def imgS0 : Bytes := sig0 (hash32 (imgH ++ key0 ++ List.replicate 4 0))
def imgT : Bytes := List.replicate 48 0
def imgB : Bytes := imgH ++ (key0 ++ (imgS0 ++ imgT))
theorem imgH_length : imgH.length = 64 := by decide
theorem key0_length : key0.length = 1312 := List.length_replicate
theorem imgS0_length : imgS0.length = 2420 := sig0_length _
theorem imgT_length : imgT.length = 48 := List.length_replicate
theorem imgB_length : imgB.length = 3844 := by
  unfold imgB; rw [List.length_append, List.length_append, List.length_append, imgH_length, key0_length, imgS0_length, imgT_length]
theorem imgB_key : bslice imgB 0x40 1312 = key0 := by
  unfold imgB
  rw [bslice_right (by rw [imgH_length] <;> omega), bslice_left (by rw [imgH_length, key0_length] <;> omega), imgH_length]
  exact bslice_self key0_length
theorem imgB_sig : bslice imgB 0x560 2420 = imgS0 := by
  unfold imgB
  rw [bslice_right (by rw [imgH_length] <;> omega), bslice_right (by rw [imgH_length, key0_length] <;> omega),
    bslice_left (by rw [imgH_length, key0_length, imgS0_length] <;> omega), imgH_length, key0_length]
  exact bslice_self imgS0_length
theorem imgB_hash : imageHash imgB = hash32 (imgH ++ key0 ++ List.replicate 4 0) := by
  have a : imgB.take 0x560 = imgH ++ key0 := by
    unfold imgB; rw [← List.append_assoc]; exact List.take_left' (by rw [List.length_append, imgH_length, key0_length])
  have b : imgB.drop 0xF00 = List.replicate 4 0 := by
    have c : imgB = (imgH ++ (key0 ++ (imgS0 ++ List.replicate 44 0))) ++ List.replicate 4 0 := by
      unfold imgB imgT
      rw [show (48 : Nat) = 44 + 4 from rfl, ← List.replicate_append_replicate]
      simp only [List.append_assoc]
    rw [c]
    exact List.drop_left' (by simp only [List.length_append, imgH_length, key0_length, imgS0_length, List.length_replicate])
  unfold imageHash; rw [a, b]
theorem imgB_verifies : mldsaVerify (bslice imgB 0x40 1312) (imageHash imgB) (bslice imgB 0x560 2420) = true := by
  rw [imgB_key, imgB_sig, imgB_hash]; exact sig0_verifies _
theorem imgB_ok : imageOk imgB false = true ∧ bfield imgB 7 1 / 1 % 2 = 1 ∧ bfield imgB 8 1 = 0 ∧ bfield imgB 9 1 = 0 := by
  have f : ∀ o n, o + n ≤ 64 → bfield imgB o n = bfield imgH o n :=
    fun o n h => congrArg leNat (bslice_left (by rw [imgH_length]; exact h))
  have z' : bfield imgB 0xED4 44 = 0 := by
    unfold bfield imgB
    rw [bslice_right (by rw [imgH_length] <;> omega), bslice_right (by rw [imgH_length, key0_length] <;> omega),
      bslice_right (by rw [imgH_length, key0_length, imgS0_length] <;> omega), imgH_length, key0_length, imgS0_length]
    decide +kernel
  unfold imageOk zeroRun
  rw [imgB_length, z', f 0 4 (by omega), f 4 2 (by omega), f 6 1 (by omega), f 7 1 (by omega), f 8 1 (by omega), f 9 1 (by omega), f 0x0A 2 (by omega),
    f 0x0C 4 (by omega), f 0x10 4 (by omega), f 0x14 4 (by omega), f 0x20 32 (by omega)]
  decide +kernel
def imgF : FuseSt := { rotKeyHash := hash32 key0 }

theorem test_hyp_ResetBootAndBringupProceed :
    (∃ s : State, s.life.vaon = true ∧ s.pins.resetN = true ∧ s.life.inReset = false) ∧
    (∃ s : State, s.life.vaon = true ∧ s.pins.resetN = false ∧ s.life.inReset = true ∧ s.pins.thermtripN = true ∧ s.pwr.bleeding = false) ∧
    (∀ th : Bool, ∃ s : State, s.life.vaon = true ∧ s.pins.resetN = false ∧ s.pins.thermtripN = th ∧ s.pwr.bleeding = th) ∧
    (∃ (s : State) (m : Nat), OwnerReady s m cSYS 0 hCTRL) ∧
    (∀ pin : Bool, ∃ s : State, s.life.vaon = true ∧ s.pwr.bleeding = false ∧ (pin = true → s.pins.pwrgood = true) ∧ s.life.inReset = false) ∧
    (∃ s : State, s.life.vaon = true ∧ s.pwr.bleeding = true) ∧ (∃ s : State, s.life.vaon = false) ∧
    (∃ s : State, s.live = true ∧ s.bootStage = 0 ∧ s.sec.done = false) ∧
    (∃ s : State, s.bootOpen = true ∧ s.bootCheck = 0) ∧
    (∃ s : State, s.bootOpen = true ∧ s.bootCheck ≠ 0) ∧
    (∃ s : State, s.live = true ∧ s.bringup = 2 ∧ s.shed = false ∧ s.pwr.lastWake = none ∧ (∀ d ∈ stage2Order, (s.pdst d).phase = .off) ∧
      s.eStored stage2Order ≤ s.eLimit) ∧
    (∃ s : State, s.live = true ∧ s.bringup = 3 ∧ s.wakesClosed = true ∧ NoWaits s ∧ (∀ n, n < 8 → s.pdStat (64 + n) = true) ∧ (0x80).testBit 7 = true) ∧
    (∃ s : State, s.live = true ∧ s.bringup = 4 ∧ s.life.woken = false ∧ (∀ p, p < 64 → (s.pdst p).phase = .off ∧ s.pdOn p = false) ∧
      s.eStored (List.range 64) ≤ s.eLimit) ∧
    (∃ s : State, s.live = true ∧ s.bringup = 4 ∧ s.life.woken = true ∧ s.pairsReady = true ∧ ∀ t ∈ [0, 127], s.tileOn t = true) := by
  unfold NoWaits OwnerReady Reaches
  refine ⟨⟨base, by decide +kernel⟩, ⟨lowS true true false, by decide +kernel⟩, fun th => ⟨lowS true th th, rfl, rfl, rfl, rfl⟩, ⟨base, 0, by decide +kernel⟩,
    fun pin => ⟨base, by decide +kernel, by decide +kernel, fun _ => by decide +kernel, by decide +kernel⟩, ⟨lowS true true true, by decide +kernel⟩,
    ⟨{ base with life := { vaon := false } }, rfl⟩, ⟨bootS 0 [] {}, by decide +kernel⟩, ⟨bootS 1 imgB imgF, ?_, ?_⟩,
    ⟨bootS 4 [] {}, by decide +kernel⟩, ⟨upS 2 {} [], by decide +kernel⟩, ⟨upS 3 {} ((List.range 96).drop 64), by decide +kernel⟩,
    ⟨upS 4 {} ((List.range 96).drop 64), by decide +kernel⟩, ⟨upS 4 { woken := true } (List.range 96), by decide +kernel⟩⟩
  · exact (by decide +kernel : (bootS 1 [] imgF).bootOpen = true)
  obtain ⟨i1, i2, i3, i4⟩ := imgB_ok
  have a0 : arbValue ((bootS 1 imgB imgF).arbFuse 0) = 0 := (by decide +kernel : arbValue ((bootS 1 [] imgF).arbFuse 0) = 0)
  unfold State.bootCheck
  dsimp only
  rw [show (bootS 1 imgB imgF).sec.buffer = imgB from rfl, show (bootS 1 imgB imgF).sec.overflow = false from rfl,
    show (bootS 1 imgB imgF).fuses.grade9632 = false from rfl, show (bootS 1 imgB imgF).fuses.rotKeyHash = hash32 key0 from rfl, i1, i3, i4, a0,
    imgB_verifies, imgB_key]
  rw [show bpad (hash32 key0) 32 = hash32 key0 from bslice_self (hash32_length _)]
  rw [if_neg (by decide), if_neg (by rw [if_neg (by decide)]; omega), if_neg (fun h => h rfl), if_neg (by decide), if_neg (by decide)]

/-- A token for scope 1, before its signature under the key of zeros and with it. -/
def tokM : List Host.Cell := [(0, 0x4B), (1, 0x52), (2, 0x44), (3, 0x42), (4, 1), (6, 1)]
def tokBody : Bytes := getBytes tokM 0 0x580
def withToken (s : State) (m : List Host.Cell) (f : FuseSt) : State := { s with sec := { s.sec with token := m }, fuses := f }
def tokenS (valid : Bool) : State :=
  { base with sec := { base.sec with chalValid := valid, chal := List.replicate 64 0, scopesReq := 1, cmd := some ⟨5, 0, 0, [], 0⟩, token := tokM } }
def tokenS' : State := withToken (tokenS true) (setBytes tokM 0x580 (sig0 tokBody)) { base.fuses with rotKeyHash := hash32 key0 }
theorem tokBody_length : tokBody.length = 0x580 := by unfold tokBody getBytes; rw [List.length_map, List.length_range]
theorem range_split (m : List Host.Cell) (j k : Nat) : (List.range (j + k)).map (fun i => mget 0 m i) = getBytes m 0 j ++ getBytes m j k := by
  unfold getBytes
  rw [List.range_add, List.map_append, List.map_map]
  congr 1
  exact List.map_congr_left fun i _ => congrArg (fun k => mget 0 m k) (Nat.zero_add i).symm
theorem tokenBytes_withToken (s : State) (m : List Host.Cell) (f : FuseSt) (j k : Nat) :
    (withToken s m f).tokenBytes (j + k) = getBytes m 0 j ++ getBytes m j k := range_split m j k
theorem tokenS'_parts (s : State) (m : List Host.Cell) (f : FuseSt) (h : f.dies = s.fuses.dies) : (withToken s m f).sec.chalValid = s.sec.chalValid ∧
    (withToken s m f).sec.scopesReq = s.sec.scopesReq ∧ (withToken s m f).sec.chal = s.sec.chal ∧ (withToken s m f).dieRecord 0 = s.dieRecord 0 ∧
    (withToken s m f).fuses.rotKeyHash = f.rotKeyHash := by
  refine ⟨rfl, rfl, rfl, ?_, rfl⟩
  unfold State.dieRecord
  exact congrArg (fun d : List Bytes => bpad (d.getD 0 []) 16) h
theorem token_bytes : tokenS'.tokenBytes 3828 = tokBody ++ sig0 tokBody := by
  have g := getBytes_setBytes_same tokM 0x580 (sig0 tokBody)
  rw [sig0_length] at g
  have h := getBytes_setBytes_out tokM (sig0 tokBody) (a := 0x580) (b := 0) (n := 0x580) (Or.inl (by decide))
  have e := tokenBytes_withToken (tokenS true) (setBytes tokM 0x580 (sig0 tokBody)) { base.fuses with rotKeyHash := hash32 key0 } 0x580 2420
  rw [g, h] at e
  exact e
theorem token_parts : (tokBody ++ sig0 tokBody).take 0x580 = tokBody ∧ bslice (tokBody ++ sig0 tokBody) 0x580 2420 = sig0 tokBody ∧
    ∀ o n, o + n ≤ 0x580 → bslice (tokBody ++ sig0 tokBody) o n = bslice tokBody o n := by
  refine ⟨List.take_left' tokBody_length, ?_, fun o n h => bslice_left (by rw [tokBody_length]; exact h)⟩
  rw [bslice_right (by rw [tokBody_length] <;> omega), tokBody_length]
  exact bslice_self (sig0_length _)
theorem tokBody_key : bslice tokBody 0x60 1312 = key0 := by decide +kernel
def secS (c : SecCmd) : State := { base with sec := { base.sec with cmd := some c, runSvn := 2 }, fuses := { base.fuses with arb := [(3, 1)] } }

def withCmd (s : State) (c : Option SecCmd) : State := { s with sec := { s.sec with cmd := c } }
theorem cmd_ready {s : State} {c : Option SecCmd} (h : OwnerReady s 0 cSEC 0 SEC.CMD) : OwnerReady (withCmd s c) 0 cSEC 0 SEC.CMD :=
  ⟨⟨h.1.1, h.1.2.1, h.1.2.2⟩, h.2.1, h.2.2.1, h.2.2.2.1, h.2.2.2.2⟩

theorem test_hyp_SecurityCommandsAndTheTap :
    (∀ c : Option SecCmd, c.isSome ∨ c = none → ∀ p ∈ [((.attest 0 : Instr), 1, 0), (.arbCommit 0 63, 2, 63), (.extend 0 7, 3, 7), (.dbgReq 0 63, 4, 63), (.dbgToken 0, 5, 0)],
      ∃ (s : State) (st : Nat), secStarts s p.1 0 p.2.1 p.2.2 st ∧ OwnerReady s 0 cSEC 0 SEC.CMD ∧ s.life.halted = false ∧ s.sec.done = true ∧ s.sec.cmd = c) ∧
    (∀ p ∈ [(0, 0x0B), (1, 0), (2, 0), (3, 0), (4, 0)], ∃ (s : State) (c : SecCmd), s.sec.cmd = some c ∧ s.life.vaon = true ∧ s.life.inReset = false ∧ c.op < 6 ∧
      c.arg < 64 ∧ c.start + s.secTime c ≤ s.clk.time ∧ c.status = p.2 ∧ (p.1 ≠ 0 → c.op = p.1) ∧ c.nonce.length = 32 ∧
      (c.op = 2 → s.sec.runSvn ≤ 64 ∧ arbValue (s.arbFuse c.arg) < s.sec.runSvn) ∧ (c.op = 3 → 2 ≤ c.arg ∧ c.arg ≤ 7)) ∧
    (∃ (s : State) (c : SecCmd), s.sec.cmd = some c ∧ s.life.vaon = true ∧ s.life.inReset = false ∧ c.op < 6 ∧ c.arg < 64 ∧ s.clk.time < c.start + s.secTime c) ∧
    (∃ (s : State) (c : SecCmd), s.sec.cmd = some c ∧ s.life.vaon = true ∧ s.life.inReset = false ∧ c.start + s.secTime c ≤ s.clk.time ∧ c.arg = 0 ∧ c.status = 0 ∧
        c.op = 5 ∧ s.tokenOk (s.tokenBytes 3828) = true) ∧
    (∃ (s : State) (c : SecCmd), s.sec.cmd = some c ∧ s.life.vaon = true ∧ s.life.inReset = false ∧ c.start + s.secTime c ≤ s.clk.time ∧ c.arg = 0 ∧ c.status = 0 ∧
      c.op = 5 ∧ s.tokenOk (s.tokenBytes 3828) = false) ∧
    (∃ s : State, s.life.vaon = true ∧ s.sec.bscan = false ∧ s.sec.full = false) := by
  refine ⟨fun c hc p hp => ?_, fun p hp => ?_, ⟨secS ⟨2, 3, 2000000, List.replicate 32 0, 0⟩, _, rfl, by decide +kernel⟩, ⟨tokenS', _, rfl, rfl, rfl, (by decide +kernel : 0 + (tokenS true).secTime ⟨5, 0, 0, [], 0⟩ ≤ (tokenS true).clk.time), rfl, rfl, rfl, ?_⟩,
    ⟨tokenS false, _, rfl, rfl, rfl, by decide +kernel, rfl, rfl, rfl, rfl⟩, ⟨base, rfl, rfl, rfl⟩⟩
  · refine ⟨withCmd base c, if p.2.1 = 2 then 0x0B else 0, ?_, cmd_ready (by unfold OwnerReady Reaches; decide +kernel), rfl, rfl, rfl⟩
    · simp only [List.mem_cons, List.not_mem_nil, or_false] at hp
      unfold secStarts
      rcases hp with rfl | rfl | rfl | rfl | rfl
      · exact Or.inl ⟨rfl, rfl, rfl, rfl⟩
      · exact Or.inr (Or.inl ⟨63, rfl, by decide, rfl, rfl, rfl⟩)
      · exact Or.inr (Or.inr (Or.inl ⟨7, rfl, by decide, by decide, rfl, rfl, rfl⟩))
      · exact Or.inr (Or.inr (Or.inr (Or.inl ⟨63, rfl, by decide, rfl, rfl, rfl⟩)))
      · exact Or.inr (Or.inr (Or.inr (Or.inr ⟨rfl, rfl, rfl, rfl⟩)))
  · have e : ∀ p ∈ [(0, 0x0B), (1, 0), (2, 0), (3, 0), (4, 0)], (fun (s : State) (c : SecCmd) => decide (s.sec.cmd = some c ∧ s.life.vaon = true ∧ s.life.inReset = false ∧
      c.op < 6 ∧ c.arg < 64 ∧ c.start + s.secTime c ≤ s.clk.time ∧ c.status = p.2 ∧ (p.1 ≠ 0 → c.op = p.1) ∧ c.nonce.length = 32 ∧
      (c.op = 2 → s.sec.runSvn ≤ 64 ∧ arbValue (s.arbFuse c.arg) < s.sec.runSvn) ∧ (c.op = 3 → 2 ≤ c.arg ∧ c.arg ≤ 7)))
      (secS ⟨p.1, 3, 0, List.replicate 32 0, p.2⟩) ⟨p.1, 3, 0, List.replicate 32 0, p.2⟩ = true := by decide +kernel
    exact ⟨_, _, of_decide_eq_true (e p hp)⟩
  · have e : (fun (s : State) (b : Bytes) => s.sec.chalValid && bfield b 0 4 == 0x4244524B && bfield b 4 2 == 1 && bfield b 6 1 != 0 &&
      (List.range 8).all (fun i => !(bfield b 6 1).testBit i || (decide (i < 2) && s.sec.scopesReq.getLsbD i)) &&
      bslice b 8 64 == bpad s.sec.chal 64 && bslice b 0x48 16 == s.dieRecord 0 && zeroRun b 7 1 && zeroRun b 0x58 8) (tokenS true) tokBody = true := by decide +kernel
    obtain ⟨p1, p2, p3⟩ := token_parts
    have f : ∀ o n, o + n ≤ 0x580 → bfield (tokBody ++ sig0 tokBody) o n = bfield tokBody o n := fun o n h => congrArg leNat (p3 o n h)
    obtain ⟨q1, q2, q3, q4, q5⟩ := tokenS'_parts (tokenS true) (setBytes tokM 0x580 (sig0 tokBody)) { base.fuses with rotKeyHash := hash32 key0 } rfl
    unfold State.tokenOk zeroRun
    dsimp only
    rw [token_bytes, p1, p2, f 0 4 (by omega), f 4 2 (by omega), f 6 1 (by omega), f 7 1 (by omega), f 0x58 8 (by omega), p3 8 64 (by omega),
      p3 0x48 16 (by omega), p3 0x60 1312 (by omega), tokBody_key, sig0_verifies, tokenS', q1, q2, q3, q4, q5,
      show bpad (hash32 key0) 32 = hash32 key0 from bslice_self (hash32_length _), beq_self_eq_true, Bool.and_true, Bool.and_true]
    exact e


/-! ### The rest of the statements -/

theorem test_hyp_SealCancelBeforeTheCut :
    (∀ ph ∈ [SealPhase.gates, .cutWait], ∃ (s : State) (x : FirnCmd), OwnerReady s 0 cFIRN 0 hCTRL ∧ s.pageOn cFIRN 0 = true ∧ s.memReady = true ∧ s.firn.slotA = some x ∧
      x.status = none ∧ s.firn.phase = ph ∧ MemUp s (rqFirn 0) ∧ Writable s x.desc 256 ∧ bfield x.bytes 0 1 = 1) ∧
    (∃ s : State, OwnerReady s 0 cFIRN 0 hCTRL ∧ s.pageOn cFIRN 0 = true ∧ s.memReady = true ∧ s.firn.phase ≠ .gates ∧ s.firn.phase ≠ .cutWait) := by
  unfold OwnerReady Reaches
  refine ⟨fun ph hp => ?_, base, by decide +kernel⟩
  have e : ∀ ph ∈ [SealPhase.gates, .cutWait], (fun s : State => decide (((s.pathOk 0 = true ∧ regAddrOk cFIRN 0 hCTRL 4 = true ∧ s.writeServed cFIRN = true) ∧
      s.own.mode = .owned ∧ s.own.owner = 0 ∧ s.clk.time ≤ s.own.deadline ∧ s.disabledPage cFIRN 0 = false) ∧ s.pageOn cFIRN 0 = true ∧ s.memReady = true ∧
      s.firn.phase = ph ∧ (s.firn.phase != .flush) = true ∧ bfield (fB 1 []) 0 1 = 1)) (goS 0 [] { phase := ph, slotA := some (fCmd (fB 1 []) none) }) = true := by
    decide +kernel
  obtain ⟨e1, e2, e3, e4, e5, e6⟩ := of_decide_eq_true (e ph hp)
  have q := goQ (st := 0) [] (by decide) e5
  exact ⟨_, fCmd (fB 1 []) none, e1, e2, e3, rfl, rfl, e4, memUp_quiet q _, writable_quiet q (by show 0x800000 + 256 ≤ hbmSize; decide), e6⟩

theorem test_hyp_WordsAndContextInstructionsAgree :
    (∃ (i : Instr) (op t : Nat) (f : VecFields), opOfInstr i = some (op, t, f)) ∧ (∃ (t : Nat) (w : BitVec 64) (i : Instr), decodeWord t w = some i) :=
  ⟨⟨.vSetvl 5 ⟨0, 0, 0, 0, 0, 0, 0, 0, 0, 0, 0, 0, 0⟩, 1, 5, _, rfl⟩, ⟨5, 0x0100000000000000, _, rfl⟩⟩

theorem step_idle {s : State} (h : s.pending = []) : step s = .next s.tick := by unfold step; rw [h]
theorem test_hyp_StepsKeepMemoryCanonical : ∃ s s' : State, HbmWf s ∧ TsWf s ∧ step s = .next s' ∧ s.hbm.mem ≠ [] ∧ s.ts.mem ≠ [] :=
  ⟨putTs (putMem base 128 [1, 0, 2]) 127 64 [3], _, by unfold HbmWf; decide +kernel, by unfold TsWf; decide +kernel, step_idle rfl, by decide +kernel, by decide +kernel⟩

/-! ### Ill-formed commands, words written out from R80, single steps -/

/-- One ill-formed command for each check of `wf`: master, tile, unit, class's instance, channel, port, stack, copy-verify unit, bridge, timer, cursor,
domain, context, walk, Floe, page address, access width, transaction tag, snoop tag, length of data. -/
theorem test_wf_refuses : ∀ i ∈ ([.claimNonce 3 0, .wloadDone 128, .lookup 2, .clrCnt 0 cFIRN 2, .reduce 64, .linkTrain 11 ⟨0, [], [], 0, false⟩, .initDone 8, .cvuScanDone 4,
    .bridgeStall 4 0 false 0, .gptExpire 16, .dmaDone 0 2, .pdWake 96, .quantumExpire 65536, .sample 65536, .contextDispatch 2, .registerWrite 0 (2 ^ 48) 4 0,
    .registerWrite 0 0 3 0, .rdShared 0 65536, .oplisAck 2048 0 0 0 false, .snpInv 0 256, .hbmWrite 0 0 0 [] false {} {}, .wrFull 0 0 [] false false,
    .flitReceive 0 [] false] : List Instr), i.wf = false := by decide +kernel
theorem test_wf_accepts : ∀ i ∈ ([.claimNonce 2 0, .wloadDone 127, .lookup 1, .clrCnt 0 cFIRN 1, .reduce 63, .linkTrain 10 ⟨0, [], [], 0, false⟩, .initDone 7, .cvuScanDone 3,
    .gptExpire 15, .dmaDone 127 1, .pdWake 95, .quantumExpire 65535, .registerWrite 2 (2 ^ 48 - 1) 8 0, .rdShared 0 65535, .snpInv 0 255] : List Instr),
    i.wf = true := by decide +kernel

/-- Words written out bit by bit from the fields of R80 and the OPs of R83 and R447:
OP_TYPE_VD_VS1_VS2_VS3_MSK_MU_RM_RS_DINC_BINC_SCAL_IMM. -/
theorem test_words : ∀ p ∈ ([
    (0b00000001_0000_00001_00010_00000_00000_000_0_00_00_0_0_0_000000000000000000000, .vSetvl 3 ⟨0, 1, 2, 0, 0, 0, 0, 0, 0, 0, 0, 0, 0⟩),
    (0b00010001_1000_11111_00001_00010_00011_111_0_00_00_0_0_0_100000000000000000001, .vLds 3 ⟨8, 31, 1, 2, 3, 7, 0, 0, 0, 0, 0, 0, 0x100001⟩),
    (0b00100001_0010_00100_00101_00110_00000_000_1_00_00_0_0_1_000000000000000000000, .vSub 3 ⟨2, 4, 5, 6, 0, 0, 1, 0, 0, 0, 0, 1, 0⟩),
    (0b00101010_0000_00100_00101_00110_00000_010_0_00_00_0_0_0_000000000000000000000, .vSra 3 ⟨0, 4, 5, 6, 0, 2, 0, 0, 0, 0, 0, 0, 0⟩),
    (0b00110011_0011_00100_00101_00110_00000_000_1_00_00_0_1_0_000000000000000000000, .vAndn 3 ⟨3, 4, 5, 6, 0, 0, 1, 0, 0, 0, 1, 0, 0⟩),
    (0b01000011_1001_00001_00010_00011_00100_101_0_10_11_1_0_0_000000000000000000000, .vFma 3 ⟨9, 1, 2, 3, 4, 5, 0, 2, 3, 1, 0, 0, 0⟩),
    (0b01100011_1000_00001_00010_00000_00000_000_1_00_00_0_0_0_000000000000000000000, .vRsqrt 3 ⟨8, 1, 2, 0, 0, 0, 1, 0, 0, 0, 0, 0, 0⟩),
    (0b01101000_1001_00001_00010_00000_01000_000_1_01_10_0_0_0_000000000000000000000, .vCvt 3 ⟨9, 1, 2, 0, 8, 0, 1, 1, 2, 0, 0, 0, 0⟩),
    (0b01110101_1000_00001_00010_00000_00000_000_1_00_00_0_0_0_000000000000000000000, .vRargmax 3 ⟨8, 1, 2, 0, 0, 0, 1, 0, 0, 0, 0, 0, 0⟩),
    (0b10000010_0001_00001_00010_00011_00000_000_1_00_00_0_0_0_000000000000000000000, .vCmple 3 ⟨1, 1, 2, 3, 0, 0, 1, 0, 0, 0, 0, 0, 0⟩),
    (0b10001101_0000_00001_00010_00011_00100_000_1_00_00_0_0_0_000000000000000000000, .vMsel 3 ⟨0, 1, 2, 3, 4, 0, 1, 0, 0, 0, 0, 0, 0⟩),
    (0b10010100_1000_00001_00000_00010_00011_000_1_00_01_1_1_0_000000000000000000000, .vRandn 3 ⟨8, 1, 0, 2, 3, 0, 1, 0, 1, 1, 1, 0, 0⟩),
    (0b10100001_0000_00000_00111_00000_00000_000_0_00_00_0_0_0_000000000000000100000, .mma 3 ⟨0, 0, 7, 0, 0, 0, 0, 0, 0, 0, 0, 0, 32⟩),
    (0b10110010_0000_00000_00000_00000_00000_000_0_00_00_0_0_0_000000000000000000010, .dmawait 3 ⟨0, 0, 0, 0, 0, 0, 0, 0, 0, 0, 0, 0, 2⟩),
    (0b11000011_0000_01111_00001_00010_00000_000_0_00_00_0_0_0_000000000000000000000, .smul 3 ⟨0, 15, 1, 2, 0, 0, 0, 0, 0, 0, 0, 0, 0⟩),
    (0b11001010_0000_00001_00010_00000_00000_000_0_00_00_0_0_0_111111111111111111000, .sst 3 ⟨0, 1, 2, 0, 0, 0, 0, 0, 0, 0, 0, 0, 0x1FFFF8⟩),
    (0b11100001_0000_00000_00001_00000_00000_000_0_00_00_0_0_0_111111111111111111111, .brnz 3 ⟨0, 0, 1, 0, 0, 0, 0, 0, 0, 0, 0, 0, 0x1FFFFF⟩),
    (0b11100101_0000_00000_00000_00000_00000_000_0_00_00_0_0_0_000001111111111111111, .ctxEnd 3 ⟨0, 0, 0, 0, 0, 0, 0, 0, 0, 0, 0, 0, 0xFFFF⟩)] : List (W64 × Instr)),
    decodeWord 3 p.1 = some p.2 := by decide +kernel
/-- OPs that R83 and R447 do not list. -/
theorem test_reserved_words : ∀ op ∈ [0x00, 0x07, 0x13, 0x17, 0x2E, 0x37, 0x48, 0x64, 0x69, 0x77, 0x84, 0x8E, 0x95, 0xA4, 0xB3, 0xCB, 0xE7, 0xFF],
    decodeWord 3 (BitVec.ofNat 64 (op * 2 ^ 56)) = none := by decide +kernel

/-- INT8 addition clamps at 127 and says so (R95). -/
theorem test_add_clamps : elAdd 2 .rne 100 100 0 = (127, vfSat) := by decide +kernel
/-- With nothing pending one count of the timebase passes (log 1). -/
theorem test_reset_idles : (match step State.reset with | .next u => decide (u.clk.time = 1 ∧ u.pending = []) | _ => false) = true := by decide +kernel
/-- FUSES_SENSED opens the boot endpoint: STAGE 1 (R500). -/
theorem test_fuses_sensed : (match exec .fusesSensed { State.reset with life := { vaon := true } } with | .next u => decide (u.bootStage = 1) | _ => false) = true := by
  decide +kernel

end Sys2Proof.Tests
end

section
/-! PROOFS. What a register write does on its way (R12–R15, R436, R439): the answer's frame, what a dropped write leaves in the
drop registers. -/
namespace Sys2Proof.Safety
open Sys2Proof.Machine

/-! ### Register addresses -/

/-- The page index of R438 ends with class 0x48, and no class has more than 146 pages. -/
theorem instances_bound {cls inst : Nat} (h : inst < instances cls) : cls < 0x49 ∧ inst < 146 := by
  unfold instances at h
  split at h <;> omega

/-- A write that reaches the register interface names a page of R438 and an offset in it. -/
theorem Reaches.page {s : State} {m cls inst off : Nat} (h : Reaches s m cls inst off) : inst < instances cls ∧ off < 4096 := by
  obtain ⟨-, hok, -⟩ := h
  simp only [regAddrOk, Bool.and_eq_true, decide_eq_true_eq] at hok
  obtain ⟨⟨⟨hi, -⟩, -⟩, ho⟩ := hok
  exact ⟨hi, ho⟩

theorem Reaches.bounds {s : State} {m cls inst off : Nat} (h : Reaches s m cls inst off) : cls < 0x49 ∧ inst < 146 ∧ off < 4096 := by
  obtain ⟨hi, ho⟩ := h.page
  exact ⟨(instances_bound hi).1, (instances_bound hi).2, ho⟩

theorem OwnerReady.reaches {s : State} {m cls inst off : Nat} (h : OwnerReady s m cls inst off) : Reaches s m cls inst off := h.1

/-- Registers of pages with one key are one register (R16). -/
theorem rk_inj {c i o c' i' o' : Nat} (hi : i < 256) (ho : o < 4096) (hi' : i' < 256) (ho' : o' < 4096)
    (h : rk c i o = rk c' i' o') : c = c' ∧ i = i' ∧ o = o' := by
  simp only [rk] at h; omega

theorem regAddr_lt {cls inst off : Nat} (hc : cls < 0x49) (hi : inst < 146) (ho : off < 4096) :
    regAddr cls inst off < 2 ^ 64 := by simp only [regAddr, rk]; omega

/-! ### The answer of a write (R14, R277) -/

@[simp] theorem answering_regs (s : State) (m : Nat) : (answering s m).regs = s.regs := by
  unfold answering; split <;> rfl
@[simp] theorem answering_notes (s : State) (m : Nat) : (answering s m).notes = s.notes := by
  unfold answering; split <;> rfl

@[simp] theorem rd_answer (s : State) (m : Nat) (a : OutMsg) (c i o : Nat) : (s.answer m a).rd c i o = s.rd c i o :=
  State.rd_congr (State.answer_regs s m a) c i o

@[simp] theorem rd64_answer (s : State) (m : Nat) (a : OutMsg) (c i o : Nat) : (s.answer m a).rd64 c i o = s.rd64 c i o := by
  simp only [State.rd64, rd_answer]

/-- The answer is the last message. -/
theorem answer_getLast (s : State) (m : Nat) (a : OutMsg) : (s.answer m a).outbox.getLast? = some a := by
  unfold State.answer; simp

/-- As `OnlyRegsN.answer`, of an update that sets no interrupt cause. -/
theorem OnlyRegs.answer {ks : List Nat} {s u : State} (m : Nat) (a : OutMsg) (h : OnlyRegs ks s u)
    (h0 : rk cMIR 0 MIR.SUB0_STAT ∉ ks) (h1 : rk cMIR 0 MIR.SUB1_STAT ∉ ks) : OnlyRegs ks (answering s m) (u.answer m a) := by
  have g : OnlyRegsN ks (answering s m) (u.answer m a) := OnlyRegsN.answer m a (.of h)
    (by rw [List.mem_append]; exact fun hk => hk.elim h0 (by decide))
    (by rw [List.mem_append]; exact fun hk => hk.elim h1 (by decide))
  have hn : (u.answer m a).notes = (answering s m).notes := by
    have e := congrArg State.notes h.rest
    rw [State.answer_notes, answering_notes]; exact e
  refine ⟨fun k d hk => ?_, g.out, ?_⟩
  · rw [State.answer_regs, answering_regs]; exact h.regs k d hk
  · exact g.rest.trans (by rw [hn])

/-! ### What a dropped write leaves (R439) -/

/-- DROP of the OWN page is the one register of that page that its interrupt cause changes. -/
theorem rd_irq_own_ne (s : State) (b : Nat) {o : Nat} (ho : o < 4096) (h : o ≠ hIRQ_STAT) :
    (s.irq cOWN 0 b).rd cOWN 0 o = s.rd cOWN 0 o := by
  apply State.rd_irq_ne <;> simp only [rk, cOWN, cOPL, cARB, hIRQ_STAT, OPL.TX_MSG, ARB.GRANTS] at h ⊢ <;> omega

section Drop
variable (s : State) (m addr : Nat)

theorem rd_dropWrite (c i o : Nat) : (s.dropWrite m addr).rd c i o = (s.dropNote m addr).rd c i o := rd_answer _ _ _ _ _ _

/-- A dropped write counts in DROP_CNT of its master. -/
theorem dropWrite_counts (hm : m < 3) : Counts s (s.dropWrite m addr) cOWN 0 (OWN.DROP_CNT + 4 * m) 1 := by
  unfold Counts
  rw [rd_dropWrite, State.dropNote, rd_irq_own_ne, State.rd_wr_ne, State.rd_wr64_ne, State.counts_bump]
  all_goals simp only [rk, hIRQ_STAT, OWN.DROP_CNT, OWN.LAST_DROP_ADDR, OWN.LAST_DROP_INFO]; omega

/-- LAST_DROP_ADDR holds the address of the dropped write. -/
theorem dropWrite_lastAddr (ha : addr < 2 ^ 64) : (s.dropWrite m addr).rd64 cOWN 0 OWN.LAST_DROP_ADDR = addr := by
  have e : ∀ o, o = OWN.LAST_DROP_ADDR ∨ o = OWN.LAST_DROP_ADDR + 4 → (s.dropWrite m addr).rd cOWN 0 o =
      ((s.bump cOWN 0 (OWN.DROP_CNT + 4 * m)).wr64 cOWN 0 OWN.LAST_DROP_ADDR addr).rd cOWN 0 o := by
    rintro o (rfl | rfl) <;> rw [rd_dropWrite, State.dropNote, rd_irq_own_ne, State.rd_wr_ne] <;> decide
  have h := State.rd64_wr64 (s.bump cOWN 0 (OWN.DROP_CNT + 4 * m)) cOWN 0 OWN.LAST_DROP_ADDR addr
  rw [Nat.mod_eq_of_lt ha] at h
  rw [State.rd64, e _ (.inl rfl), e _ (.inr rfl)]
  exact h

/-- LAST_DROP_INFO holds the master and that the access was a write. -/
theorem dropWrite_lastInfo (hm : m < 3) : (s.dropWrite m addr).rd cOWN 0 OWN.LAST_DROP_INFO = u32 (m * 65536 + 1) := by
  rw [rd_dropWrite, State.dropNote, rd_irq_own_ne _ _ (by decide) (by decide), State.rd_wr_same, Nat.mod_eq_of_lt (by omega)]

/-- IRQ_STAT.DROP of the OWN page is set. -/
theorem dropWrite_raises (hm : m < 3) : Raises s (s.dropWrite m addr) cOWN 0 8 := by
  unfold Raises
  rw [rd_dropWrite, State.dropNote, State.rd_irq_same, State.rd_wr_ne, State.rd_wr64_ne, State.rd_bump_ne]
  all_goals simp only [rk, hIRQ_STAT, OWN.DROP_CNT, OWN.LAST_DROP_ADDR, OWN.LAST_DROP_INFO]; omega

end Drop

/-- Every row of `masterWrite`, of a master that is not the owner, is a dropped write (R14, R439): the rows differ in what they do for
the owner alone, and those of the OWN page find the owner state as it stands (R442). -/
theorem exec_masterWrite_dropped {i : Instr} {s : State} {m cls inst off : Nat} (hw : masterWrite i = some (m, cls, inst, off))
    (hr : Reaches s m cls inst off) (ho : s.isOwner m = false) (ht : s.clk.time ≤ s.own.deadline) :
    exec i s = .next (s.dropWrite m (regAddr cls inst off)) := by
  have drop : ∀ act : State → State, s.ownerWrite m cls inst off false act = s.dropWrite m (regAddr cls inst off) :=
    ownerWrite_drop hr ho
  have settled : ∀ (o : Nat) (act : State → State), s.ownWrite m o act = s.ownerWrite m cOWN 0 o false act := fun o act => by
    rw [State.ownWrite, ownSettle_eq ht]
  unfold masterWrite at hw
  split at hw
  case h_3 n v => -- a timer's control: there are 16 timers
    split at hw
    · next hn =>
      cases hw
      exact congrArg Host.Outcome.next ((if_pos hn).trans (drop _))
    · cases hw
  case h_11 v => -- RENEW
    cases hw
    exact congrArg Host.Outcome.next ((settled _ _).trans (drop _))
  case h_12 v => -- RELEASE
    cases hw
    exact congrArg Host.Outcome.next ((settled _ _).trans (drop _))
  case h_13 => cases hw
  all_goals
    cases hw
    exact congrArg Host.Outcome.next (drop _)

/-- Settles O3: each row of `masterWrite` runs the same dropped write, whose registers and frame the lemmas above give. -/
theorem nonOwnerWriteIsDropped : Obligations.NonOwnerWriteIsDropped := by
  unfold Obligations.NonOwnerWriteIsDropped
  intro i s m cls inst off hw hm hr ho ht
  obtain ⟨hc, hi, hf⟩ := hr.bounds
  exact ⟨_, exec_masterWrite_dropped hw hr ho ht, dropWrite_counts s m _ hm, dropWrite_lastAddr s m _ (regAddr_lt hc hi hf),
    dropWrite_lastInfo s m _ hm, dropWrite_raises s m _ hm, dropWrite_acks s m _, dropWrite_frame s m _ hm⟩

end Sys2Proof.Safety
end

section
/-! PROOFS. REGISTER_WRITE of the owner (R14, R439): which register it stores, and what a store leaves of a register that its page
hides. -/
namespace Sys2Proof.Safety
open Sys2Proof.Machine

/-- A register address names its register again (R16). -/
theorem regOf_regAddr {cls inst off : Nat} (hi : inst < 256) (ho : off < 4096) : regOf (regAddr cls inst off) = (cls, inst, off) := by
  simp only [regOf, regAddr, rk, Prod.mk.injEq]; omega

/-- An access at a register address is judged by its register and width (R436). -/
theorem accessOk_regAddr {cls inst off : Nat} (hi : inst < 256) (ho : off < 4096) (w : Nat) :
    accessOk (regAddr cls inst off) w = regAddrOk cls inst off w := by
  rw [accessOk, regOf_regAddr hi ho]; simp [regAddr]

/-- The owner's 4-byte write of a register that R523 does not lock and no scan holds stores the register (R14, R395, R439). -/
theorem regWrite_ready {s : State} {m cls inst off : Nat} {v : W64} (h : OwnerReady s m cls inst off)
    (hclaim : ¬ (cls = cOWN ∧ (off = OWN.CLAIM ∨ off = OWN.CLAIM_NONCE))) (hlock : s.lockHit cls inst (off, u32 v.toNat) = false)
    (hcvu : (cls == cCVU && s.cvuBusy inst && off != hCTRL && cvuParam off) = false) :
    s.regWrite m (regAddr cls inst off) 4 v = (0, s.regStore cls inst off (u32 v.toNat)) := by
  obtain ⟨-, hi, ho⟩ := h.reaches.bounds
  obtain ⟨⟨-, hok, hserved⟩, hmode, howner, htime, hpage⟩ := h
  have hown : s.isOwner m = true := by simp [State.isOwner, hmode, howner, htime]
  have hwords : wordsOf off 4 v = [(off, u32 v.toNat)] := rfl
  have hreg := regOf_regAddr (cls := cls) (by omega : inst < 256) ho
  have hacc := accessOk_regAddr (cls := cls) (by omega : inst < 256) ho 4
  rw [State.regWrite, hreg]
  dsimp only
  rw [hacc, hok, hserved, hwords, ownSettle_eq htime]
  generalize u32 v.toNat = x at *
  simp only [Bool.not_true, Bool.or_false, Bool.false_eq_true, if_false, if_neg hclaim]
  simp [hlock, hown, hpage, hcvu, List.partition, List.partition.loop]

/-- Such a write, with its answer. -/
theorem exec_registerWrite_ready {s : State} {m cls inst off : Nat} {v : W64} (h : OwnerReady s m cls inst off)
    (hclaim : ¬ (cls = cOWN ∧ (off = OWN.CLAIM ∨ off = OWN.CLAIM_NONCE))) (hlock : s.lockHit cls inst (off, u32 v.toNat) = false)
    (hcvu : (cls == cCVU && s.cvuBusy inst && off != hCTRL && cvuParam off) = false) :
    exec (.registerWrite m (regAddr cls inst off) 4 v) s =
      .next ((s.regStore cls inst off (u32 v.toNat)).answer m (.wack m (regAddr cls inst off) 0)) := by
  obtain ⟨hpath, -⟩ := h.reaches
  show execRegisterWrite _ _ _ _ _ = _
  simp [execRegisterWrite, regWrite_ready h hclaim hlock hcvu, hpath]

/-- A register of a plain page beyond the header's acting ones only holds its value. -/
theorem regStore_plain {s : State} {cls inst off : Nat} {v : W32} (hc : cls ∈ plainPages) (ho : off ∉ headerActs) :
    s.regStore cls inst off v = s.plainWrite cls inst off v := by
  simp only [headerActs, List.mem_cons, List.not_mem_nil, or_false, not_or] at ho
  obtain ⟨h1, h2, h3, h4⟩ := ho
  rw [State.regStore, if_neg h1, if_neg h2, if_neg h4, if_neg h3]
  simp only [plainPages, List.mem_cons, List.not_mem_nil, or_false] at hc
  rcases hc with rfl | rfl | rfl | rfl | rfl | rfl | rfl <;> rfl

/-- R523 locks no register of a plain page but CTRL. -/
theorem lockHit_plain {s : State} {cls inst off : Nat} {v : W32} (hc : cls ∈ plainPages) (ho : off ∉ headerActs) :
    s.lockHit cls inst (off, v) = false := by
  simp only [headerActs, List.mem_cons, not_or] at ho
  obtain ⟨hctrl, -⟩ := ho
  have other : (off == hCTRL) = false := beq_eq_false_iff_ne.2 hctrl
  simp only [plainPages, List.mem_cons, List.not_mem_nil, or_false] at hc
  rcases hc with rfl | rfl | rfl | rfl | rfl | rfl | rfl
  case inr.inr.inl => -- DSP: only EN of CTRL
    change (off == hCTRL && (bit v 0 != s.rdb cDSP inst hCTRL 0) && !s.bringupOver) = false
    rw [other, Bool.false_and, Bool.false_and]
  case inr.inr.inr.inl => -- HBM: only INIT of CTRL
    change (off == hCTRL && bit v 3 && !s.bringupOver) = false
    rw [other, Bool.false_and, Bool.false_and]
  all_goals rfl

/-- A write of a register that its page hides is ignored (R13, R462). -/
theorem plainWrite_hidden {s : State} {cls inst off : Nat} (v : W32) (h : regHidden cls inst off = true) :
    s.plainWrite cls inst off v = s := by rw [State.plainWrite, if_pos h]

/-- The machine after secure boot, owned by the board manager: nothing else has happened since reset. -/
def managerOwns : State := { State.reset with sec := { done := true }, own := { mode := .owned, owner := 2 } }

/-- WAIT_LIMIT6 of the arbiter page of tile 0, whose group has six requesters: hidden, though its class has the register (R462). -/
def hiddenLimit : Nat := ARB.WAIT_LIMIT + 24

/-- Refutes O17: `written` knows of a register's class and offset alone, while WAIT_LIMITr of an arbiter group with fewer requesters is
reserved (R13, R462). The owner's write of 1 to WAIT_LIMIT6 of tile 0's arbiter page is ignored and the register keeps its reset value
16, where the first clause of the statement demands 1. -/
theorem not_registerWriteFollowsItsAccessCode : ¬ Obligations.RegisterWriteFollowsItsAccessCode := by
  unfold Obligations.RegisterWriteFollowsItsAccessCode
  rintro ⟨h, -⟩
  have hc : cARB ∈ plainPages := by decide
  have ho : hiddenLimit ∉ headerActs := by decide
  have ready : OwnerReady managerOwns 2 cARB 0 hiddenLimit := by unfold OwnerReady Reaches; decide +kernel
  obtain ⟨u, hu, hrd, -⟩ := h managerOwns 2 cARB 0 hiddenLimit 1 hc ho ready
  have run := exec_registerWrite_ready (v := 1) ready (by decide) (lockHit_plain hc ho) (by decide)
  rw [regStore_plain hc ho, plainWrite_hidden _ (by decide)] at run
  cases hu.symm.trans run
  have keeps : managerOwns.rd cARB 0 hiddenLimit = 16 := by decide +kernel
  have demands : written cARB hiddenLimit 16 (u32 (1 : W64).toNat) = 1 := by decide +kernel
  rw [rd_answer, keeps, demands] at hrd
  exact absurd hrd (by decide)

end Sys2Proof.Safety
end

section
/-! PROOFS. Counter clears (R12, R494) and FREEZE (R458): what a page's registers read after them, and that nothing else moves. -/
namespace Sys2Proof.Safety
open Sys2Proof.Machine

/-! ### The registers that CLR_CNT clears -/

/-- The words that CLR_CNT of a page makes 0: its RC registers and both words of its 64-bit counters. -/
def clearedOffs (cls : Nat) : List Nat := rcOffs cls ++ (clr64 cls).flatMap fun o => [o, o + 4]

/-- Every word that CLR_CNT clears lies in its page, and is neither ERR_COUNT, nor TJ or TJ_PEAK of PWR, nor the state of a mirror
sub-link. -/
theorem clearedOffs_apart : ∀ cls < 0x49, ∀ o ∈ clearedOffs cls, o < 4096 ∧ o ≠ hERR_COUNT ∧
    (cls = cPWR → o ≠ PWR.TJ ∧ o ≠ PWR.TJ_PEAK) ∧ (cls = cMIR → o ≠ MIR.SUB0_STAT ∧ o ≠ MIR.SUB1_STAT) := by decide +kernel

theorem OnlyRegs.foldl {α : Type} {ks : List Nat} {f : State → α → State} (l : List α)
    (hf : ∀ x ∈ l, ∀ u, OnlyRegs ks u (f u x)) (s : State) : OnlyRegs ks s (l.foldl f s) := by
  induction l generalizing s with
  | nil => exact OnlyRegs.refl ks s
  | cons x l ih =>
    exact (hf x (by simp) s).trans (ih (fun y hy => hf y (by simp [hy])) (f s x))

/-- After a run of writes of 0 to registers of a page, those of the list read 0 and the others what they read. -/
theorem rd_foldl_wr_zero (c i : Nat) (l : List Nat) (s : State) (o : Nat) :
    (l.foldl (fun s o => s.wr c i o 0) s).rd c i o = if o ∈ l then 0 else s.rd c i o := by
  induction l generalizing s with
  | nil => simp
  | cons x l ih =>
    rw [List.foldl_cons, ih]
    by_cases hl : o ∈ l
    · simp [hl]
    · by_cases hx : o = x
      · subst hx; simp [hl]
      · rw [State.rd_wr_ne _ _ (by simp only [rk]; omega)]; simp [hl, hx]

/-- The same of 64-bit registers. -/
theorem rd_foldl_wr64_zero (c i : Nat) (l : List Nat) (s : State) (o : Nat) :
    (l.foldl (fun s o => s.wr64 c i o 0) s).rd c i o = if o ∈ l.flatMap (fun o => [o, o + 4]) then 0 else s.rd c i o := by
  have e : l.foldl (fun s o => s.wr64 c i o 0) s = (l.flatMap fun o => [o, o + 4]).foldl (fun s o => s.wr c i o 0) s := by
    rw [List.foldl_flatMap]; rfl
  rw [e, rd_foldl_wr_zero]

/-- A page's counters after CLR_CNT, TJ_PEAK of PWR apart. -/
def clearedState (s : State) (cls inst : Nat) : State :=
  (clr64 cls).foldl (fun s o => s.wr64 cls inst o 0) ((rcOffs cls).foldl (fun s o => s.wr cls inst o 0) s)

theorem clrCounters_eq (s : State) {cls : Nat} (inst : Nat) (h : cls ≠ cERR) : s.clrCounters cls inst =
    if cls = cPWR then (clearedState s cls inst).wr cPWR 0 PWR.TJ_PEAK ((clearedState s cls inst).rd cPWR 0 PWR.TJ)
    else clearedState s cls inst := by
  rw [State.clrCounters, if_neg h]; rfl

theorem rd_clearedState (s : State) (cls inst o : Nat) :
    (clearedState s cls inst).rd cls inst o = if o ∈ clearedOffs cls then 0 else s.rd cls inst o := by
  rw [clearedState, rd_foldl_wr64_zero, rd_foldl_wr_zero, clearedOffs]
  by_cases h : o ∈ rcOffs cls <;> simp [h]

/-- The keys of the registers that CLR_CNT of a page changes. -/
def clearedKeys (cls inst : Nat) : List Nat :=
  (rcOffs cls).map (rk cls inst) ++ (clr64 cls).flatMap (fun o => [rk cls inst o, rk cls inst (o + 4)]) ++
    (if cls = cPWR then [rk cPWR 0 PWR.TJ_PEAK] else [])

theorem onlyRegs_clearedState (s : State) (cls inst : Nat) : OnlyRegs (clearedKeys cls inst) s (clearedState s cls inst) := by
  have rc : ∀ o ∈ rcOffs cls, rk cls inst o ∈ clearedKeys cls inst := fun o ho =>
    List.mem_append_left _ (List.mem_append_left _ (List.mem_map_of_mem ho))
  have wide : ∀ o ∈ clr64 cls, ∀ k ∈ [rk cls inst o, rk cls inst (o + 4)], k ∈ clearedKeys cls inst := fun o ho k hk =>
    List.mem_append_left _ (List.mem_append_right _ (List.mem_flatMap.2 ⟨o, ho, hk⟩))
  exact (OnlyRegs.foldl _ (fun o ho u => (OnlyRegs.refl _ u).wr _ _ _ _ (rc o ho)) s).trans
    (OnlyRegs.foldl _ (fun o ho u => (OnlyRegs.refl _ u).wr64 _ _ _ _ (wide o ho _ (by simp)) (wide o ho _ (by simp))) _)

/-- CLR_CNT changes its page's counters alone, and TJ_PEAK with those of PWR. -/
theorem onlyRegs_clrCounters (s : State) {cls : Nat} (inst : Nat) (h : cls ≠ cERR) :
    OnlyRegs (clearedKeys cls inst) s (s.clrCounters cls inst) := by
  rw [clrCounters_eq s inst h]
  split
  · exact (onlyRegs_clearedState s cls inst).wr _ _ _ _ (by simp [clearedKeys, *])
  · exact onlyRegs_clearedState s cls inst

/-- A register of a page that is not TJ_PEAK reads after CLR_CNT as `clearedState` leaves it. -/
theorem rd_clrCounters (s : State) {cls inst o : Nat} (h : cls ≠ cERR) (hp : cls = cPWR → o ≠ PWR.TJ_PEAK) (ho : o < 4096)
    (hi : inst < 256) : (s.clrCounters cls inst).rd cls inst o = if o ∈ clearedOffs cls then 0 else s.rd cls inst o := by
  rw [clrCounters_eq s inst h, ← rd_clearedState]
  split
  · next e =>
    refine State.rd_wr_ne _ _ fun hk => ?_
    obtain ⟨-, -, heq⟩ := rk_inj hi ho (by decide) (by decide) hk
    exact hp e heq
  · rfl

/-- TJ_PEAK takes the present TJ. -/
theorem clrCounters_tjPeak (s : State) : (s.clrCounters cPWR 0).rd cPWR 0 PWR.TJ_PEAK = s.rd cPWR 0 PWR.TJ := by
  rw [clrCounters_eq s 0 (by decide), if_pos rfl, State.rd_wr_same, rd_clearedState, if_neg]
  intro hm
  obtain ⟨-, -, hpwr, -⟩ := clearedOffs_apart cPWR (by decide) _ hm
  exact (hpwr rfl).1 rfl

/-- The cleared registers hold no state of a mirror sub-link, so that the answer leaves as before them (R277). -/
theorem mirror_not_cleared {cls inst o : Nat} (hc : cls < 0x49) (hi : inst < 256) (ho : o = MIR.SUB0_STAT ∨ o = MIR.SUB1_STAT) :
    rk cMIR 0 o ∉ clearedKeys cls inst := by
  have ho' : o < 4096 := by rcases ho with rfl | rfl <;> decide
  have off : ∀ x ∈ clearedOffs cls, rk cMIR 0 o ≠ rk cls inst x := by
    intro x hx hk
    obtain ⟨hlt, -, -, hmir⟩ := clearedOffs_apart cls hc x hx
    obtain ⟨rfl, -, rfl⟩ := rk_inj (by decide) ho' hi hlt hk
    exact ho.elim (hmir rfl).1 (hmir rfl).2
  simp only [clearedKeys, List.mem_append, List.mem_map, List.mem_flatMap]
  rintro ((⟨x, hx, hk⟩ | ⟨x, hx, hk⟩) | hk)
  · exact off x (List.mem_append_left _ hx) hk.symm
  · simp only [List.mem_cons, List.not_mem_nil, or_false] at hk
    have mem : ∀ y ∈ [x, x + 4], y ∈ clearedOffs cls := fun y hy => List.mem_append_right _ (List.mem_flatMap.2 ⟨x, hx, hy⟩)
    exact hk.elim (off x (mem x (by simp))) (off (x + 4) (mem (x + 4) (by simp)))
  · split at hk
    · rcases ho with rfl | rfl <;> exact absurd hk (by decide)
    · cases hk

/-! ### CLR_CNT of the ERR page (R494) -/

/-- A sparse store without some keys reads as before at the others and as unlisted at those. -/
theorem mget_filter {α : Type} (d : α) (m : SMap α) (p : Nat → Bool) (k : Nat) :
    mget d (m.filter fun e => p e.1) k = if p k then mget d m k else d := by
  induction m with
  | nil => simp [mget]
  | cons e r ih =>
    obtain ⟨k', v⟩ := e
    by_cases hp : p k' = true
    · rw [List.filter_cons_of_pos (by simpa using hp), mget, mget, ih]
      by_cases hk : k = k'
      · subst hk; simp [hp]
      · simp [hk]
    · rw [List.filter_cons_of_neg (by simpa using hp), ih, mget]
      by_cases hk : k = k'
      · subst hk; simp [hp]
      · simp [hk]

/-- CLR_CNT of the ERR page sets every page's ERR_COUNT to its reset value and no other register. -/
theorem rd_clrCounters_err (s : State) (i : Nat) {cls inst off : Nat} (ho : off < 4096) :
    (s.clrCounters cERR i).rd cls inst off = if off = hERR_COUNT then regReset cls off else s.rd cls inst off := by
  have hk : rk cls inst off % 4096 = off := by simp only [rk]; omega
  rw [State.clrCounters, if_pos rfl, State.rd, mget_filter (p := fun k => k % 4096 != hERR_COUNT), hk, State.rd]
  by_cases h : off = hERR_COUNT <;> simp [h]

/-! ### The command -/

/-- CLR_CNT of the owner clears the page's counters and is answered. -/
theorem exec_clrCnt_ready {s : State} {m cls inst : Nat} (h : OwnerReady s m cls inst hCTRL) (hb : (clrBit cls).isSome = true) :
    exec (.clrCnt m cls inst) s = .next ((s.clrCounters cls inst).answer m (.wack m (regAddr cls inst hCTRL) 0)) := by
  refine congrArg Host.Outcome.next ((ownerWrite_ready h _).trans ?_)
  rw [if_pos hb]

/-! ### FREEZE (R458) -/

/-- An engine that holds no command, no batch and no copy has nothing to go on with. -/
theorem xchGo_idle {s : State} (h : s.xch = []) (n : Nat) : s.xchGo n = s := by
  have empty : ({ s with xch := [] } : State) = s := by rw [← h]
  have idle : s.xchOf n = {} := by rw [State.xchOf, h]; rfl
  have keep : s.setXch n {} = s := by rw [State.setXch, h]; exact empty
  have arr : s.arrGo n = s := by
    rw [State.arrGo, idle]
    show ((s.setXch n {}).setXch n { (s.setXch n {}).xchOf n with arrived := [] }) = s
    rw [keep, idle]; exact keep
  rw [State.xchGo, arr, State.kvPump, idle]
  show s.copyStep n = s
  rw [State.copyStep, State.copying, idle]; rfl

/-- An Oplis agent at which nothing waits settles as it stands. -/
theorem oplSettle_idle {s : State} (h : NoWaits s) : s.oplSettle = s := by
  obtain ⟨hw, hl, hq, -, -⟩ := h
  have waits : s.runWaits = s := by
    rw [State.runWaits, hw]
    show ({ s with opl := { s.opl with waits := [] } } : State) = s
    rw [← hw]
  have lc : s.runLc = s := by
    rw [State.runLc, hl]
    show ({ s with opl := { s.opl with lcw := [] } } : State) = s
    rw [← hl]
  rw [State.oplSettle, waits, lc, State.quiesceGo, if_neg (by simp [hq])]

/-- A dispatcher with no scan due and no command in progress has nothing to go on with. -/
theorem ctxGo_idle {s : State} (h : NoWaits s) (fl : Nat) : s.ctxGo fl = s := by
  obtain ⟨-, -, -, hs, hc⟩ := h
  have scan : s.scanGo fl = s := by rw [State.scanGo, hs, if_neg (by simp [mget])]
  have busy : s.ctxBusyOf fl = none := by rw [State.ctxBusyOf, hc]; rfl
  rw [State.ctxGo, scan, State.ctxCmdGo, busy]

/-- A thaw of a page whose arbiters hold nothing lets nothing go on. -/
theorem thawed_idle {s : State} {c : Nat} (i : Nat) (hr : c ≠ cRED)
    (h : c ∈ [cXCH, cSMP, cTILE, cHBM, cOPL] → NothingHeld s) : s.thawed c i = s := by
  rw [State.thawed, if_neg hr]
  split
  · next hc => exact xchGo_idle (h (by rcases hc with rfl | rfl <;> decide)).2 i
  · split
    · next hc =>
      obtain ⟨quiet, idle⟩ := h (by rcases hc with rfl | rfl <;> decide)
      rw [oplSettle_idle quiet, xchGo_idle idle, xchGo_idle idle, ctxGo_idle quiet, ctxGo_idle quiet]
    · split
      · next hc =>
        have idle := (h (by rw [hc]; decide)).2
        rw [xchGo_idle idle, xchGo_idle idle]
      · rfl

/-- Bit 0 of a word whose bit 0 has been replaced. -/
theorem bit_setFld_zero (v : W32) (f : Bool) : bit (setFld v 0 1 (b2n f)) 0 = f := by
  have e : v.toNat - v.toNat % 2 = 2 * (v.toNat / 2) := by omega
  rw [bit, setFld, BitVec.getLsbD_ofNat, Nat.testBit_zero, fld, Nat.pow_zero, Nat.div_one, Nat.pow_one, Nat.mul_one, Nat.mul_one, e]
  cases f <;> simp [b2n, Nat.add_mod]

/-- A bit just written reads as written. -/
theorem rdb_wrb_zero (s : State) (c i o : Nat) (f : Bool) : (s.wrb c i o 0 f).rdb c i o 0 = f := by
  rw [State.rdb, State.wrb_eq, State.rd_wr_same, bit_setFld_zero]

/-- FREEZE of a page is the bit of the page that owns its group; to set it lets nothing go on, and to clear it neither where nothing is
held. -/
theorem freezeSet_idle {s : State} {cls inst c i : Nat} {f : Bool} (hp : freezePage cls inst = (c, i))
    (hrow : (regRow c hFREEZE).isSome = true)
    (h : f = true ∨ c ≠ cRED ∧ (c ∈ [cXCH, cSMP, cTILE, cHBM, cOPL] → NothingHeld s)) :
    s.freezeSet cls inst f = s.wrb c i hFREEZE 0 f := by
  rw [State.freezeSet, hp]
  dsimp only
  rw [if_neg (by simp [Option.isSome_iff_ne_none.1 hrow])]
  rcases h with rfl | ⟨hr, hq⟩
  · rfl
  · split
    · rfl
    · exact thawed_idle (s := s.wrb c i hFREEZE 0 f) i hr hq

/-- No FREEZE register is the state of a mirror sub-link. -/
theorem mirror_not_freeze (c i : Nat) : rk cMIR 0 MIR.SUB0_STAT ≠ rk c i hFREEZE ∧ rk cMIR 0 MIR.SUB1_STAT ≠ rk c i hFREEZE := by
  simp only [rk, cMIR, MIR.SUB0_STAT, MIR.SUB1_STAT, hFREEZE]; omega

/-! ### The clauses -/

section Clauses
variable (s : State) (m cls inst : Nat)

/-- The owner's CLR_CNT of a page other than ERR. -/
theorem clrCnt_page (h : OwnerReady s m cls inst hCTRL) (hb : (clrBit cls).isSome = true) (he : cls ≠ cERR) :
    ∃ u, exec (.clrCnt m cls inst) s = .next u ∧ (∀ o ∈ rcOffs cls, u.rd cls inst o = 0) ∧ (∀ o ∈ clr64 cls, u.rd64 cls inst o = 0) ∧
      (cls = cPWR → u.rd cPWR 0 PWR.TJ_PEAK = s.rd cPWR 0 PWR.TJ) ∧ u.rd cls inst hERR_COUNT = s.rd cls inst hERR_COUNT ∧
      Acks u m cls inst hCTRL 0 ∧ OnlyRegs (clearedKeys cls inst) (answering s m) u := by
  obtain ⟨hc, hi, -⟩ := h.reaches.bounds
  have hi' : inst < 256 := by omega
  have zero : ∀ o ∈ clearedOffs cls, (s.clrCounters cls inst).rd cls inst o = 0 := by
    intro o ho
    obtain ⟨hlt, -, hpwr, -⟩ := clearedOffs_apart cls hc o ho
    rw [rd_clrCounters s he (fun e => (hpwr e).2) hlt hi', if_pos ho]
  refine ⟨_, exec_clrCnt_ready h hb, fun o ho => ?_, fun o ho => ?_, ?_, ?_, answer_getLast _ _ _, ?_⟩
  · rw [rd_answer]; exact zero o (List.mem_append_left _ ho)
  · have word : ∀ x ∈ [o, o + 4], (s.clrCounters cls inst).rd cls inst x = 0 := fun x hx =>
      zero x (List.mem_append_right _ (List.mem_flatMap.2 ⟨o, ho, hx⟩))
    rw [rd64_answer, State.rd64, word o (by simp), word (o + 4) (by simp)]; rfl
  · rintro rfl
    obtain rfl : inst = 0 := Nat.lt_one_iff.1 h.reaches.page.1
    rw [rd_answer]; exact clrCounters_tjPeak s
  · rw [rd_answer, rd_clrCounters s he (fun _ => by decide) (by decide) hi', if_neg]
    intro hm
    obtain ⟨-, hcount, -⟩ := clearedOffs_apart cls hc _ hm
    exact hcount rfl
  · exact OnlyRegs.answer m _ (onlyRegs_clrCounters s inst he) (mirror_not_cleared hc hi' (.inl rfl)) (mirror_not_cleared hc hi' (.inr rfl))

/-- The owner's CLR_CNT of the ERR page. -/
theorem clrCnt_err (h : OwnerReady s m cERR 0 hCTRL) :
    ∃ u, exec (.clrCnt m cERR 0) s = .next u ∧ (∀ cls inst, inst < 256 → u.rd cls inst hERR_COUNT = regReset cls hERR_COUNT) ∧
      (∀ cls inst off, inst < 256 → off < 4096 → off ≠ hERR_COUNT → u.rd cls inst off = s.rd cls inst off) ∧
      Acks u m cERR 0 hCTRL 0 ∧ ({ u with regs := s.regs, outbox := s.outbox } : State) = answering s m := by
  refine ⟨_, exec_clrCnt_ready h rfl, fun cls inst _ => ?_, fun cls inst off _ ho hne => ?_, answer_getLast _ _ _, ?_⟩
  · rw [rd_answer, rd_clrCounters_err s 0 (by decide), if_pos rfl]
  · rw [rd_answer, rd_clrCounters_err s 0 ho, if_neg hne]
  · have mirror : ∀ o, o = MIR.SUB0_STAT ∨ o = MIR.SUB1_STAT → (s.clrCounters cERR 0).rd cMIR 0 o = s.rd cMIR 0 o := by
      rintro o (rfl | rfl) <;> rw [rd_clrCounters_err s 0 (by decide), if_neg (by decide)]
    have up : (s.clrCounters cERR 0).mirUp = s.mirUp := by
      rw [State.mirUp, State.mirUp, mirror _ (.inl rfl), mirror _ (.inr rfl)]; rfl
    rw [State.answer, answering, up]
    split
    · rw [State.mgmtOut, State.mgmtOut, mirror _ (.inl rfl)]; rfl
    · rfl

/-- The owner's write of FREEZE. -/
theorem freezeWrite_page {f : Bool} {c i : Nat} (h : OwnerReady s m cls inst hFREEZE) (hp : freezePage cls inst = (c, i))
    (hrow : (regRow c hFREEZE).isSome = true)
    (hq : f = true ∨ c ≠ cRED ∧ (c ∈ [cXCH, cSMP, cTILE, cHBM, cOPL] → NothingHeld s)) :
    ∃ u, exec (.freezeWrite m cls inst f) s = .next u ∧ u.rdb c i hFREEZE 0 = f ∧ Acks u m cls inst hFREEZE 0 ∧
      OnlyRegs [rk c i hFREEZE] (answering s m) u := by
  have run : exec (.freezeWrite m cls inst f) s =
      .next ((s.wrb c i hFREEZE 0 f).answer m (.wack m (regAddr cls inst hFREEZE) 0)) := by
    refine congrArg Host.Outcome.next ((ownerWrite_ready h _).trans ?_)
    rw [freezeSet_idle hp hrow hq]
  obtain ⟨sub0, sub1⟩ := mirror_not_freeze c i
  refine ⟨_, run, ?_, answer_getLast _ _ _, ?_⟩
  · rw [State.rdb, rd_answer]; exact rdb_wrb_zero s c i hFREEZE f
  · exact OnlyRegs.answer m _ ((OnlyRegs.refl _ s).wrb _ _ _ _ _ (by simp)) (by simpa using sub0) (by simpa using sub1)

end Clauses

/-- Settles O20: a clear of a page's counters, of every ERR_COUNT, and a write of FREEZE, each by its own lemma. -/
theorem countersClearAndGroupsFreeze : Obligations.CountersClearAndGroupsFreeze := by
  unfold Obligations.CountersClearAndGroupsFreeze
  exact ⟨clrCnt_page, clrCnt_err, fun s m cls inst f c i h hp hrow hq => freezeWrite_page s m cls inst h hp hrow hq⟩

end Sys2Proof.Safety
end

section
/-! PROOFS. One step of the block (log 1): the front of the queue, or one count of the reference clock (R32). -/
namespace Sys2Proof.Safety
open Sys2Proof.Machine

/-- Settles O1: the two cases of `step`'s match on the queue. -/
theorem stepTakesFrontCommand : Obligations.StepTakesFrontCommand := by
  unfold Obligations.StepTakesFrontCommand
  exact ⟨fun c rest s h => by rw [step, h], fun s h => ⟨s.tick, by rw [step, h], rfl⟩⟩

end Sys2Proof.Safety
end

section
/-! PROOFS. Reads of a master (R14, R38, R277): what one read answers, which shadow it latches, which register it clears. -/
namespace Sys2Proof.Safety
open Sys2Proof.Machine

/-! ### The answer to an access (R277) -/

/-- An answer leaves as the last message, after the packet in which the twin's companion will have it. -/
theorem answer_eq_send (s : State) (m : Nat) (a : OutMsg) : s.answer m a = (answering s m).send a := rfl

@[simp] theorem answering_outbox (s : State) (m : Nat) : (answering s m).outbox = s.outbox := by
  unfold answering; split <;> rfl
@[simp] theorem answering_shadows (s : State) (m : Nat) : (answering s m).shadows = s.shadows := by
  unfold answering; split <;> rfl

@[simp] theorem answer_outbox (s : State) (m : Nat) (a : OutMsg) : (s.answer m a).outbox = s.outbox ++ [a] := by
  rw [answer_eq_send, State.send_outbox, answering_outbox]

/-- The packet of an answer does not depend on the shadows. -/
theorem answering_with_shadows (s : State) (m : Nat) (x : SMap (Option W32)) :
    answering { s with shadows := x } m = { answering s m with shadows := x } := by
  have up : ({ s with shadows := x } : State).mirUp = s.mirUp := rfl
  rw [answering, answering, up]; split <;> rfl

/-- An answer changes nothing but the outbox and the packet that carries it. -/
theorem answer_without_message (s : State) (m : Nat) (a : OutMsg) : ({ s.answer m a with outbox := s.outbox } : State) = answering s m := by
  have h : ({ s.answer m a with outbox := (answering s m).outbox } : State) = answering s m := rfl
  rwa [answering_outbox] at h

/-- As `answer_without_message`, of an access that has latched a shadow. -/
theorem answer_without_latch (s : State) (m : Nat) (x : SMap (Option W32)) (a : OutMsg) :
    ({ State.answer { s with shadows := x } m a with shadows := s.shadows, outbox := s.outbox } : State) = answering s m := by
  rw [answer_eq_send, answering_with_shadows]
  have h : ({ answering s m with shadows := (answering s m).shadows, outbox := (answering s m).outbox } : State) = answering s m := rfl
  rwa [answering_shadows, answering_outbox] at h

/-! ### Reads that are served (R436, R442) -/

/-- Where no lease or window has passed unnoticed, an access finds the owner state as it stands (R442). -/
theorem OwnerCurrent.settled {s : State} (h : OwnerCurrent s) : s.ownSettle = s := by
  rcases h with ht | hv
  · exact ownSettle_eq ht
  · rw [State.ownSettle, hv, ite_self]

section Served
variable {s : State} {m cls inst off : Nat} (h : ReadReady s m cls inst off)
include h

/-- A served read names a page of R438 and an offset in it. -/
theorem ReadReady.bounds : inst < 256 ∧ off < 4096 := by
  obtain ⟨-, hok, -⟩ := h
  simp only [regAddrOk, Bool.and_eq_true, decide_eq_true_eq] at hok
  obtain ⟨⟨⟨hi, -⟩, -⟩, ho⟩ := hok
  have hlt := (instances_bound hi).2
  exact ⟨by omega, ho⟩

/-- A 32-bit read that is served performs `readWord`. -/
theorem regRead_word : s.regRead m (regAddr cls inst off) 4 =
    (0, u64 (s.readWord m cls inst off).1.toNat, (s.readWord m cls inst off).2) := by
  obtain ⟨hi, ho⟩ := h.bounds
  obtain ⟨-, hok, hserved, hown⟩ := h
  rw [State.regRead, regOf_regAddr hi ho]
  dsimp only
  rw [accessOk_regAddr hi ho, hok, hserved, hown.settled]
  rfl

/-- An 8-byte read that is served takes both words at one instant. -/
theorem regRead_pair (h8 : off % 8 = 0) : s.regRead m (regAddr cls inst off) 8 =
    (0, u64 ((s.peek m cls inst off).toNat + (s.peek m cls inst (off + 4)).toNat * 4294967296),
      (s.rcClear m cls inst off).rcClear m cls inst (off + 4)) := by
  obtain ⟨hi, ho⟩ := h.bounds
  obtain ⟨-, hok, hserved, hown⟩ := h
  have hok8 : regAddrOk cls inst off 8 = true := by
    simp only [regAddrOk, Bool.and_eq_true, decide_eq_true_eq] at hok
    obtain ⟨⟨⟨hinst, -⟩, -⟩, -⟩ := hok
    simp [regAddrOk, hinst, h8, ho]
  rw [State.regRead, regOf_regAddr hi ho]
  dsimp only
  rw [accessOk_regAddr hi ho, hok8, hserved, hown.settled]
  rfl

/-- LO_READ_LATCH that is served, with its answer. -/
theorem exec_loReadLatch_ready : exec (.loReadLatch m (regAddr cls inst off)) s =
    .next ((s.readWord m cls inst off).2.answer m
      (.rdata m (regAddr cls inst off) 4 (u64 (s.readWord m cls inst off).1.toNat))) := by
  refine congrArg Host.Outcome.next ((if_pos h.1).trans ?_)
  rw [State.readAnswer, regRead_word h]
  rfl

end Served

/-- An 8-byte read over the management channel that is served, with its answer. -/
theorem exec_mgmtRead_pair {s : State} {cls inst off : Nat} (h : ReadReady s 1 cls inst off) (h8 : off % 8 = 0) :
    exec (.mgmtAccess (regAddr cls inst off) 8 none) s =
      .next (((s.rcClear 1 cls inst off).rcClear 1 cls inst (off + 4)).answer 1 (.rdata 1 (regAddr cls inst off) 8
        (u64 ((s.peek 1 cls inst off).toNat + (s.peek 1 cls inst (off + 4)).toNat * 4294967296)))) := by
  obtain ⟨hup, hen⟩ : s.mirUp = true ∧ s.rdb cMIR 0 hCTRL 2 = true := (Bool.and_eq_true _ _).mp h.1
  refine congrArg Host.Outcome.next ((if_neg (by simp [hup])).trans ((if_neg (by simp [hen])).trans ?_))
  dsimp only
  rw [State.readAnswer, regRead_pair h h8]
  rfl

/-! ### One 32-bit read (R38) -/

section Word
variable {s : State} {m cls inst off : Nat}

/-- A _LO word answers what it reads and latches the present _HI word. -/
theorem readWord_lo (h : isLo cls off = true) : s.readWord m cls inst off = (s.peek m cls inst off,
    { s with shadows := mset none s.shadows (shadowKey m cls inst off) (some (s.peek m cls inst (off + 4))) }) := by
  rw [State.readWord, if_pos h]

/-- A _HI word answers the master's shadow if it has one. -/
theorem readWord_hi (h : isLo cls off = false) (h4 : 4 ≤ off) (hlo : isLo cls (off - 4) = true) : s.readWord m cls inst off =
    ((mget none s.shadows (shadowKey m cls inst (off - 4))).getD (s.peek m cls inst off), s) := by
  simp [State.readWord, h, h4, hlo]

/-- Any other word answers what it reads, and is cleared where it is RC. -/
theorem readWord_plain (h : isLo cls off = false) (hlo : 4 ≤ off → isLo cls (off - 4) = false) :
    s.readWord m cls inst off = (s.peek m cls inst off, s.rcClear m cls inst off) := by
  have hhi : (isLo cls (off - 4) && decide (4 ≤ off)) = false := by
    by_cases h4 : 4 ≤ off
    · simp [hlo h4]
    · simp [h4]
  simp [State.readWord, h, hhi]

end Word

/-! ### Registers that a read clears (R12) -/

/-- The key of a register that a read may clear, if it is RC. -/
def rcKeys (cls inst off : Nat) : List Nat := if (regRow cls off).any (fun r => r.acc == .rc) then [rk cls inst off] else []

theorem rcKeys_subset (cls inst off : Nat) : ∀ k ∈ rcKeys cls inst off, k ∈ [rk cls inst off] := by
  unfold rcKeys; split <;> simp

/-- The state of a mirror sub-link is no RC register. -/
theorem mirror_not_rc {cls inst off o : Nat} (hi : inst < 256) (ho : off < 4096) (h : o = MIR.SUB0_STAT ∨ o = MIR.SUB1_STAT) :
    rk cMIR 0 o ∉ rcKeys cls inst off := by
  have keeps : (regRow cMIR o).any (fun r => r.acc == .rc) = false := by rcases h with rfl | rfl <;> decide
  have hlt : o < 4096 := by rcases h with rfl | rfl <;> decide
  intro hk
  obtain ⟨rfl, -, rfl⟩ := rk_inj (by decide) hlt hi ho (List.mem_singleton.1 (rcKeys_subset _ _ _ _ hk))
  rw [rcKeys, keeps] at hk
  exact absurd hk List.not_mem_nil

theorem onlyRegs_rcClear (s : State) (m cls inst off : Nat) : OnlyRegs (rcKeys cls inst off) s (s.rcClear m cls inst off) := by
  unfold State.rcClear
  split
  · next hc =>
    simp only [Bool.and_eq_true] at hc
    exact (OnlyRegs.refl _ s).wr _ _ _ _ (by simp [rcKeys, hc.1.1])
  · exact OnlyRegs.refl _ s

theorem rcClear_outbox (s : State) (m cls inst off : Nat) : (s.rcClear m cls inst off).outbox = s.outbox := by
  unfold State.rcClear; split <;> rfl
theorem rcClear_shadows (s : State) (m cls inst off : Nat) : (s.rcClear m cls inst off).shadows = s.shadows := by
  unfold State.rcClear; split <;> rfl

/-- The owner's read of an RC register leaves it 0. -/
theorem rd_rcClear_owner {s : State} {m cls inst off : Nat} (hrow : ∃ r, regRow cls off = some r ∧ r.acc = .rc)
    (ho : s.isOwner m = true) (hd : s.disabledPage cls inst = false) : (s.rcClear m cls inst off).rd cls inst off = 0 := by
  obtain ⟨r, hr, hacc⟩ := hrow
  simp [State.rcClear, hr, hacc, ho, hd]

/-- A read by another master than the owner clears nothing. -/
theorem rcClear_not_owner {s : State} {m : Nat} (h : s.isOwner m = false) (cls inst off : Nat) : s.rcClear m cls inst off = s := by
  simp [State.rcClear, h]

/-! ### The clauses -/

section Clauses
variable (s : State) (m cls inst off : Nat)

/-- A read of a _LO word. -/
theorem loReadLatch_lo (h : ReadReady s m cls inst off) (hlo : isLo cls off = true) :
    ∃ u, exec (.loReadLatch m (regAddr cls inst off)) s = .next u ∧
      u.outbox = s.outbox ++ [.rdata m (regAddr cls inst off) 4 (u64 (s.peek m cls inst off).toNat)] ∧
      (∀ k, mget none u.shadows k = if k = shadowKey m cls inst off then some (s.peek m cls inst (off + 4)) else mget none s.shadows k) ∧
      ({ u with shadows := s.shadows, outbox := s.outbox } : State) = answering s m := by
  have run := exec_loReadLatch_ready h
  rw [readWord_lo hlo] at run
  refine ⟨_, run, answer_outbox _ _ _, fun k => ?_, ?_⟩
  · rw [State.answer_shadows]
    change mget none (mset none s.shadows (shadowKey m cls inst off) (some (s.peek m cls inst (off + 4)))) k = _
    rw [mget_mset]
  · exact answer_without_latch s m _ _

/-- A read of a _HI word. -/
theorem loReadLatch_hi (h : ReadReady s m cls inst off) (hno : isLo cls off = false) (h4 : 4 ≤ off) (hlo : isLo cls (off - 4) = true) :
    ∃ u, exec (.loReadLatch m (regAddr cls inst off)) s = .next u ∧
      u.outbox = s.outbox ++ [.rdata m (regAddr cls inst off) 4
        (u64 ((mget none s.shadows (shadowKey m cls inst (off - 4))).getD (s.peek m cls inst off)).toNat)] ∧
      ({ u with outbox := s.outbox } : State) = answering s m := by
  have run := exec_loReadLatch_ready h
  rw [readWord_hi hno h4 hlo] at run
  exact ⟨_, run, answer_outbox _ _ _, answer_without_message _ _ _⟩

/-- A read of a word that is no half of a 64-bit register. -/
theorem loReadLatch_plain (h : ReadReady s m cls inst off) (hno : isLo cls off = false) (hlo : 4 ≤ off → isLo cls (off - 4) = false) :
    ∃ u, exec (.loReadLatch m (regAddr cls inst off)) s = .next u ∧
      u.outbox = s.outbox ++ [.rdata m (regAddr cls inst off) 4 (u64 (s.peek m cls inst off).toNat)] ∧
      ((∃ r, regRow cls off = some r ∧ r.acc = .rc) → s.isOwner m = true → s.disabledPage cls inst = false → u.rd cls inst off = 0) ∧
      (s.isOwner m = false → u.rd cls inst off = s.rd cls inst off) ∧ OnlyRegs [rk cls inst off] (answering s m) u := by
  obtain ⟨hi, ho⟩ := h.bounds
  have run := exec_loReadLatch_ready h
  rw [readWord_plain hno hlo] at run
  have frame := onlyRegs_rcClear s m cls inst off
  refine ⟨_, run, ?_, fun hrow howner hpage => ?_, fun hother => ?_, ?_⟩
  · rw [answer_outbox, rcClear_outbox]
  · rw [rd_answer]; exact rd_rcClear_owner hrow howner hpage
  · rw [rd_answer, rcClear_not_owner hother]
  · exact (OnlyRegs.answer m _ frame (mirror_not_rc hi ho (.inl rfl)) (mirror_not_rc hi ho (.inr rfl))).mono (rcKeys_subset _ _ _)

/-- An 8-byte read over the management channel. -/
theorem mgmtAccess_pair (h : ReadReady s 1 cls inst off) (h8 : off % 8 = 0) :
    ∃ u, exec (.mgmtAccess (regAddr cls inst off) 8 none) s = .next u ∧
      u.outbox = s.outbox ++ [.rdata 1 (regAddr cls inst off) 8
        (u64 ((s.peek 1 cls inst off).toNat + (s.peek 1 cls inst (off + 4)).toNat * 4294967296))] ∧ u.shadows = s.shadows ∧
      OnlyRegs [rk cls inst off, rk cls inst (off + 4)] (answering s 1) u := by
  obtain ⟨hi, ho⟩ := h.bounds
  have frame : OnlyRegs (rcKeys cls inst off ++ rcKeys cls inst (off + 4)) s
      ((s.rcClear 1 cls inst off).rcClear 1 cls inst (off + 4)) :=
    ((onlyRegs_rcClear s 1 cls inst off).mono fun _ => List.mem_append_left _).trans
      ((onlyRegs_rcClear _ 1 cls inst (off + 4)).mono fun _ => List.mem_append_right _)
  have mirror : ∀ o, o = MIR.SUB0_STAT ∨ o = MIR.SUB1_STAT → rk cMIR 0 o ∉ rcKeys cls inst off ++ rcKeys cls inst (off + 4) := by
    intro o hm hk
    exact (List.mem_append.1 hk).elim (mirror_not_rc hi ho hm) (mirror_not_rc hi (by omega) hm)
  refine ⟨_, exec_mgmtRead_pair h h8, ?_, ?_, ?_⟩
  · rw [answer_outbox, rcClear_outbox, rcClear_outbox]
  · rw [State.answer_shadows, rcClear_shadows, rcClear_shadows]
  · refine (OnlyRegs.answer 1 _ frame (mirror _ (.inl rfl)) (mirror _ (.inr rfl))).mono fun k hk => ?_
    exact (List.mem_append.1 hk).elim (fun hk => List.mem_append_left [rk cls inst (off + 4)] (rcKeys_subset _ _ _ k hk))
      (fun hk => List.mem_append_right [rk cls inst off] (rcKeys_subset _ _ _ k hk))

end Clauses

/-- Settles O18: a read of a _LO word, of a _HI word, of any other word and of a pair, each by its own lemma. -/
theorem readsLatchTheHighWord : Obligations.ReadsLatchTheHighWord := by
  unfold Obligations.ReadsLatchTheHighWord
  exact ⟨loReadLatch_lo, loReadLatch_hi, loReadLatch_plain, mgmtAccess_pair⟩

end Sys2Proof.Safety
end

section
/-! PROOFS. The TIM page (R35–R39): its timers, the rate monitor and the throughput counters. -/
namespace Sys2Proof.Safety
open Sys2Proof.Machine

/-! ### Registers that only hold their value (R12, R13) -/

/-- A register that its page does not hide takes a write as its access code says. -/
theorem rd_plainWrite (s : State) {cls inst off : Nat} (v : W32) (h : regHidden cls inst off = false) :
    (s.plainWrite cls inst off v).rd cls inst off = written cls off (s.rd cls inst off) v := by
  rw [State.plainWrite, written, h, if_neg Bool.false_ne_true]
  cases regRow cls off with
  | none => rfl
  | some r => dsimp only; cases r.acc <;> simp

/-- Such a write changes no other register. -/
theorem onlyRegs_plainWrite (s : State) (cls inst off : Nat) (v : W32) : OnlyRegs [rk cls inst off] s (s.plainWrite cls inst off v) := by
  have wr : ∀ x, OnlyRegs [rk cls inst off] s (s.wr cls inst off x) := fun x => (OnlyRegs.refl _ s).wr _ _ _ _ (by simp)
  unfold State.plainWrite
  split
  · exact OnlyRegs.refl _ s
  · cases regRow cls off with
    | none => exact OnlyRegs.refl _ s
    | some r =>
      dsimp only
      cases r.acc with
      | rw => exact wr _
      | w1c => exact wr _
      | _ => exact OnlyRegs.refl _ s

/-- A register beyond the header of an enabled page, that can be read, reads what the state shows of it, else what is stored. -/
theorem peek_body {s : State} {cls inst off : Nat} {r : RegRow} (m : Nat) (hpage : s.disabledPage cls inst = false)
    (hshown : regHidden cls inst off = false) (hoff : off ∉ [hPAGE_ID, hPAGE_VER, hCAP, hSTAT, hERR_HEAD, hFREEZE])
    (hrow : regRow cls off = some r) (hacc : r.acc ≠ .wo) :
    s.peek m cls inst off = (s.derived m cls inst off).getD (s.rd cls inst off) := by
  simp only [List.mem_cons, List.not_mem_nil, or_false, not_or] at hoff
  obtain ⟨hid, hver, hcap, hstat, hhead, hfreeze⟩ := hoff
  simp only [State.peek, hpage, hshown, hid, hver, hcap, hstat, hhead, hfreeze, hrow, hacc, if_false, Bool.false_eq_true]
  cases s.derived m cls inst off <;> rfl

/-! ### The state behind the TIM page -/

/-- The packet of an answer does not depend on the clock. -/
theorem answering_with_clk (s : State) (m : Nat) (c : ClkSt) : answering { s with clk := c } m = { answering s m with clk := c } := by
  have up : ({ s with clk := c } : State).mirUp = s.mirUp := rfl
  rw [answering, answering, up]; split <;> rfl

/-- No register of the TIM page is the state of a mirror sub-link. -/
theorem mirror_not_tim {o : Nat} (ho : o < 4096) : rk cMIR 0 MIR.SUB0_STAT ≠ rk cTIM 0 o ∧ rk cMIR 0 MIR.SUB1_STAT ≠ rk cTIM 0 o := by
  simp only [rk, cMIR, cTIM, MIR.SUB0_STAT, MIR.SUB1_STAT]; omega

/-- An interrupt cause of the TIM page changes IRQ_STAT alone of that page. -/
theorem rd_irq_tim_ne (s : State) (b : Nat) {o : Nat} (ho : o < 4096) (h : o ≠ hIRQ_STAT) :
    (s.irq cTIM 0 b).rd cTIM 0 o = s.rd cTIM 0 o := by
  apply State.rd_irq_ne <;> simp only [rk, cTIM, cOPL, cARB, hIRQ_STAT, OPL.TX_MSG, ARB.GRANTS] at h ⊢ <;> omega

/-- The control register of a timer. -/
abbrev tctrl (n : Nat) : Nat := TIM.GPT_TCTRL + 16 * n

theorem tctrl_in_page {n : Nat} (hn : n < 16) : tctrl n < 4096 ∧ tctrl n ≠ hIRQ_STAT := by
  simp only [tctrl, TIM.GPT_TCTRL, hIRQ_STAT]; omega

/-! ### Timers (R35) -/

/-- The lowest field of a word is its remainder. -/
theorem fld_zero {w n m : Nat} (v : BitVec w) (h : 2 ^ n = m) : fld v 0 n = v.toNat % m := by
  rw [← h, fld, Nat.pow_zero, Nat.div_one]

section Timer
variable (s : State) (n : Nat)

/-- The load value: 48 bits, 0 acting as 1. -/
theorem gptLoad_eq : s.gptLoad n = max 1 ((s.rd cTIM 0 (TIM.GPT_LOAD_LO + 16 * n)).toNat +
    (s.rd cTIM 0 (TIM.GPT_LOAD_HI + 16 * n)).toNat % 65536 * 4294967296) := by
  rw [State.gptLoad, State.rdf, fld_zero (m := 65536) _ (by decide)]

@[simp] theorem gpt_wr (c i o : Nat) (v : W32) : (s.wr c i o v).gpt n = s.gpt n := rfl
theorem rd_setGpt (g : GptSt) (c i o : Nat) : (s.setGpt n g).rd c i o = s.rd c i o := rfl
theorem time_setGpt (g : GptSt) : (s.setGpt n g).clk.time = s.clk.time := rfl
@[simp] theorem gpt_setGpt_same (g : GptSt) : (s.setGpt n g).gpt n = g := mget_mset_same _ _ _ _
theorem gpt_setGpt_ne (g : GptSt) {j : Nat} (h : j ≠ n) : (s.setGpt n g).gpt j = s.gpt j := mget_mset_ne _ _ _ _ h

/-- A running timer has what is left until it is due. -/
theorem gptRemain_running (h : s.rdb cTIM 0 (tctrl n) 0 = true) : s.gptRemain n = (s.gpt n).due - s.clk.time := if_pos h

/-- A stopped timer has what remained when it stopped. -/
theorem gptRemain_stopped (h : s.rdb cTIM 0 (tctrl n) 0 = false) : s.gptRemain n = (s.gpt n).left := if_neg (by simp [h])

/-- What remains of a timer depends on its control register and the clock. -/
theorem gptRemain_congr {s u : State} {n : Nat} (hr : u.rd cTIM 0 (tctrl n) = s.rd cTIM 0 (tctrl n)) (hc : u.clk = s.clk) :
    u.gptRemain n = s.gptRemain n := by
  unfold State.gptRemain State.rdb State.gpt; rw [hr, hc]

/-! #### A write of TCTRL -/

variable (v : W32)

theorem rd_tctrlWrite : (s.tctrlWrite n v).rd cTIM 0 (tctrl n) = u32 (v.toNat % 4) := by
  rw [State.tctrlWrite, State.rd_wr_same, fld_zero (m := 4) _ (by decide)]

/-- EN of TCTRL is bit 0 of what is written. -/
theorem tctrlWrite_enabled : (s.tctrlWrite n v).rdb cTIM 0 (tctrl n) 0 = v.getLsbD 0 := by
  rw [State.rdb, rd_tctrlWrite, bit, BitVec.getLsbD_ofNat, BitVec.getLsbD, Nat.testBit_zero, Nat.testBit_zero,
    Nat.mod_mod_of_dvd _ (by decide : 2 ∣ 4)]
  rfl

/-- A timer that is started has its load value before it. -/
theorem tctrlWrite_starts (h : v.getLsbD 0 = true) : (s.tctrlWrite n v).gptRemain n = s.gptLoad n := by
  rw [gptRemain_running _ _ (by rw [tctrlWrite_enabled, h]), State.tctrlWrite, if_pos h, gpt_wr, gpt_setGpt_same,
    State.wr_clk, time_setGpt, Nat.add_sub_cancel_left]

/-- A timer that is stopped keeps what remained. -/
theorem tctrlWrite_stops (h : v.getLsbD 0 = false) : (s.tctrlWrite n v).gptRemain n = s.gptRemain n := by
  rw [gptRemain_stopped _ _ (by rw [tctrlWrite_enabled, h]), State.tctrlWrite, if_neg (Bool.not_eq_true _ ▸ h), gpt_wr, gpt_setGpt_same]

/-- Other timers stay as they are. -/
theorem tctrlWrite_others {j : Nat} (h : j ≠ n) : (s.tctrlWrite n v).gpt j = s.gpt j := gpt_setGpt_ne _ _ _ h

theorem tctrlWrite_time : (s.tctrlWrite n v).clk.time = s.clk.time := rfl

/-- Beside the clock's timers a write of TCTRL changes that register alone. -/
theorem tctrlWrite_frame : OnlyRegs [rk cTIM 0 (tctrl n)] { s with clk := (s.tctrlWrite n v).clk } (s.tctrlWrite n v) :=
  (OnlyRegs.refl _ (s.setGpt n _)).wr _ _ _ _ (by simp)

/-! #### The end of a count -/

/-- A timer that has reached zero, before its interrupt cause: a periodic one runs on, a one-shot one has stopped. -/
def gptEnded (s : State) (n : Nat) : State :=
  if s.rdb cTIM 0 (tctrl n) 1 then s.setGpt n { due := (s.gpt n).due + s.gptLoad n, left := 0 }
  else (s.setGpt n {}).wrb cTIM 0 (tctrl n) 0 false

/-- GPT_EXPIRE of a timer that has reached zero. -/
theorem exec_gptExpire_due (hn : n < 16) (hw : Awake s) (hen : s.rdb cTIM 0 (tctrl n) 0 = true) (hdue : (s.gpt n).due ≤ s.clk.time) :
    exec (.gptExpire n) s = .next ((gptEnded s n).irq cTIM 0 (2 ^ n)) := by
  obtain ⟨hv, hr⟩ := hw
  exact congrArg Host.Outcome.next (if_pos (by simp [hn, hv, hr, hen, hdue]))

/-- A periodic timer is due again after another load value; its control register stays. -/
theorem gptEnded_periodic (h : s.rdb cTIM 0 (tctrl n) 1 = true) :
    (gptEnded s n).rd cTIM 0 (tctrl n) = s.rd cTIM 0 (tctrl n) ∧ ((gptEnded s n).gpt n).due = (s.gpt n).due + s.gptLoad n := by
  rw [gptEnded, if_pos h]
  exact ⟨rd_setGpt _ _ _ _ _ _, by rw [gpt_setGpt_same]⟩

/-- A one-shot timer has EN clear and nothing remaining. -/
theorem gptEnded_oneShot (h : s.rdb cTIM 0 (tctrl n) 1 = false) :
    (gptEnded s n).rdb cTIM 0 (tctrl n) 0 = false ∧ (gptEnded s n).gptRemain n = 0 := by
  have stopped : (gptEnded s n).rdb cTIM 0 (tctrl n) 0 = false := by
    rw [gptEnded, if_neg (by simp [h])]; exact rdb_wrb_zero _ _ _ _ _
  refine ⟨stopped, ?_⟩
  rw [gptRemain_stopped _ _ stopped, gptEnded, if_neg (by simp [h]), State.wrb_eq, gpt_wr, gpt_setGpt_same]

theorem gptEnded_others {j : Nat} (h : j ≠ n) : (gptEnded s n).gpt j = s.gpt j := by
  unfold gptEnded; split <;> exact gpt_setGpt_ne _ _ _ h

theorem gptEnded_frame : OnlyRegs [rk cTIM 0 (tctrl n)] { s with clk := (gptEnded s n).clk } (gptEnded s n) := by
  unfold gptEnded
  split
  · exact OnlyRegs.refl _ (s.setGpt n _)
  · exact (OnlyRegs.refl _ (s.setGpt n _)).wrb _ _ _ _ _ (by simp)

end Timer

/-! #### A write of a load value -/

/-- LOAD_LO and LOAD_HI of a timer only hold their value. -/
theorem regStore_gptLoad {s : State} {n off : Nat} (hn : n < 16) (h : off = TIM.GPT_LOAD_LO + 16 * n ∨ off = TIM.GPT_LOAD_HI + 16 * n)
    (v : W32) : s.regStore cTIM 0 off v = s.plainWrite cTIM 0 off v := by
  have range : off < 0x200 ∧ 0x100 ≤ off ∧ off % 16 ≠ 8 := by
    simp only [TIM.GPT_LOAD_LO, TIM.GPT_LOAD_HI] at h; omega
  obtain ⟨hlt, hge, hmod⟩ := range
  have header : ∀ o, o < 0x100 → off ≠ o := fun o ho => by omega
  rw [State.regStore, if_neg (header _ (by decide)), if_neg (header _ (by decide)), if_neg (header _ (by decide)),
    if_neg (header _ (by decide)), State.bodyWrite]
  exact if_neg (by simp only [TIM.GPT_TCTRL]; omega)

/-! ### The clauses -/

section Clauses
variable (s : State) (m n : Nat)

/-- The owner's write of TCTRL. -/
theorem gptTctrlWrite_ready (v : BitVec 32) (hn : n < 16) (h : OwnerReady s m cTIM 0 (tctrl n)) :
    ∃ u, exec (.gptTctrlWrite m n v) s = .next u ∧ u.rd cTIM 0 (tctrl n) = u32 (v.toNat % 4) ∧
      (v.getLsbD 0 = true → u.gptRemain n = max 1 ((s.rd cTIM 0 (TIM.GPT_LOAD_LO + 16 * n)).toNat +
        (s.rd cTIM 0 (TIM.GPT_LOAD_HI + 16 * n)).toNat % 65536 * 4294967296)) ∧
      (v.getLsbD 0 = false → u.gptRemain n = s.gptRemain n) ∧ (∀ j, j ≠ n → u.gpt j = s.gpt j) ∧ u.clk.time = s.clk.time ∧
      Acks u m cTIM 0 (tctrl n) 0 ∧ OnlyRegs [rk cTIM 0 (tctrl n)] { answering s m with clk := u.clk } u := by
  have run : exec (.gptTctrlWrite m n v) s = .next ((s.tctrlWrite n v).answer m (.wack m (regAddr cTIM 0 (tctrl n)) 0)) :=
    congrArg Host.Outcome.next ((if_pos hn).trans (ownerWrite_ready h _))
  have remain : ∀ a, ((s.tctrlWrite n v).answer m a).gptRemain n = (s.tctrlWrite n v).gptRemain n := fun a =>
    gptRemain_congr (rd_answer _ _ _ _ _ _) (State.answer_clk _ _ _)
  obtain ⟨sub0, sub1⟩ := mirror_not_tim (tctrl_in_page hn).1
  refine ⟨_, run, ?_, fun hs => ?_, fun hs => ?_, fun j hj => ?_, ?_, answer_getLast _ _ _, ?_⟩
  · rw [rd_answer, rd_tctrlWrite]
  · rw [remain, tctrlWrite_starts _ _ _ hs, gptLoad_eq]
  · rw [remain, tctrlWrite_stops _ _ _ hs]
  · rw [State.gpt, State.answer_clk]; exact tctrlWrite_others s n v hj
  · rw [State.answer_clk, tctrlWrite_time]
  · rw [State.answer_clk, ← answering_with_clk]
    exact OnlyRegs.answer m _ (tctrlWrite_frame s n v) (by simpa using sub0) (by simpa using sub1)

/-- A timer reaches zero. -/
theorem gptExpire_due (hn : n < 16) (hw : Awake s) (hen : s.rdb cTIM 0 (tctrl n) 0 = true) (hdue : (s.gpt n).due ≤ s.clk.time) :
    ∃ u, exec (.gptExpire n) s = .next u ∧ Raises s u cTIM 0 (2 ^ n) ∧
      (s.rdb cTIM 0 (tctrl n) 1 = true → u.rd cTIM 0 (tctrl n) = s.rd cTIM 0 (tctrl n) ∧ (u.gpt n).due = (s.gpt n).due + s.gptLoad n) ∧
      (s.rdb cTIM 0 (tctrl n) 1 = false → u.rdb cTIM 0 (tctrl n) 0 = false ∧ u.gptRemain n = 0) ∧
      (∀ j, j ≠ n → u.gpt j = s.gpt j) ∧
      OnlyRegsN [rk cTIM 0 (tctrl n), rk cTIM 0 hIRQ_STAT] { s with clk := u.clk } u := by
  obtain ⟨hlt, hne⟩ := tctrl_in_page hn
  have frame := gptEnded_frame s n
  have ctl := rd_irq_tim_ne (gptEnded s n) (2 ^ n) hlt hne
  have clk := State.irq_clk (gptEnded s n) cTIM 0 (2 ^ n)
  have cause : (gptEnded s n).rd cTIM 0 hIRQ_STAT = s.rd cTIM 0 hIRQ_STAT :=
    frame.regs _ _ (by simp only [List.mem_singleton, rk]; omega)
  refine ⟨_, exec_gptExpire_due s n hn hw hen hdue, ?_, fun hp => ?_, fun hp => ?_, fun j hj => ?_, ?_⟩
  · rw [Raises, State.rd_irq_same, cause]
  · rw [ctl, State.gpt, clk]; exact gptEnded_periodic s n hp
  · rw [State.rdb, ctl, gptRemain_congr ctl clk]; exact gptEnded_oneShot s n hp
  · rw [State.gpt, clk]; exact gptEnded_others s n hj
  · rw [clk]; exact ((OnlyRegsN.of frame).mono (by simp)).irq _ _ _ (by simp)

/-- The owner's write of a load value. -/
theorem gptLoadWrite_ready (off : Nat) (v : BitVec 64) (hn : n < 16)
    (hoff : off = TIM.GPT_LOAD_LO + 16 * n ∨ off = TIM.GPT_LOAD_HI + 16 * n) (h : OwnerReady s m cTIM 0 off) :
    ∃ u, exec (.registerWrite m (regAddr cTIM 0 off) 4 v) s = .next u ∧
      u.rd cTIM 0 off = written cTIM off (s.rd cTIM 0 off) (u32 v.toNat) ∧ u.clk = s.clk ∧
      Acks u m cTIM 0 off 0 ∧ OnlyRegs [rk cTIM 0 off] (answering s m) u := by
  have run := exec_registerWrite_ready (v := v) h (fun hc => absurd hc.1 (by decide)) rfl rfl
  rw [regStore_gptLoad hn hoff] at run
  have frame := onlyRegs_plainWrite s cTIM 0 off (u32 v.toNat)
  obtain ⟨sub0, sub1⟩ := mirror_not_tim h.reaches.page.2
  refine ⟨_, run, ?_, ?_, answer_getLast _ _ _, OnlyRegs.answer m _ frame (by simpa using sub0) (by simpa using sub1)⟩
  · rw [rd_answer]; exact rd_plainWrite s _ rfl
  · rw [State.answer_clk, frame.clk]

/-! ### The rate monitor and the throughput counters (R36, R37, R39) -/

/-- The end of a window of the rate monitor. -/
theorem rateWindowEnd_stores (a b : Nat) (hw : Awake s) (hrun : s.clk.running = true) (hmul : s.clk.time % 1000 = 0)
    (hpos : s.clk.time ≠ 0) (ha : a < 65536) (hb : b < 65536) :
    ∃ u, exec (.rateWindowEnd a b) s = .next u ∧ u.rd cTIM 0 TIM.RATE_A = u32 a ∧ u.rd cTIM 0 TIM.RATE_B = u32 b ∧
      OnlyRegs [rk cTIM 0 TIM.RATE_A, rk cTIM 0 TIM.RATE_B] s u := by
  obtain ⟨hv, hr⟩ := hw
  have run : exec (.rateWindowEnd a b) s = .next ((s.wr cTIM 0 TIM.RATE_A (u32 a)).wr cTIM 0 TIM.RATE_B (u32 b)) := by
    refine congrArg Host.Outcome.next ((if_pos (by simp [hv, hr, hrun, hmul, hpos])).trans ?_)
    rw [Nat.min_eq_right (by omega), Nat.min_eq_right (by omega)]
  refine ⟨_, run, ?_, State.rd_wr_same _ _ _ _ _, ((OnlyRegs.refl _ s).wr _ _ _ _ (by simp)).wr _ _ _ _ (by simp)⟩
  rw [State.rd_wr_ne _ _ (by decide), State.rd_wr_same]

/-- A read of RATE. -/
theorem peek_rate : s.peek m cTIM 0 TIM.RATE_A = (if s.railLow 0 then 0 else s.rd cTIM 0 TIM.RATE_A) ∧
    s.peek m cTIM 0 TIM.RATE_B = (if s.railLow 16 then 0 else s.rd cTIM 0 TIM.RATE_B) := by
  have shownA : s.derived m cTIM 0 TIM.RATE_A = if s.railLow 0 then some 0 else none := rfl
  have shownB : s.derived m cTIM 0 TIM.RATE_B = if s.railLow 16 then some 0 else none := rfl
  rw [peek_body (r := ⟨TIM.RATE_A, 4, 1, 0, 0, .ro⟩) m rfl rfl (by decide) rfl (by decide), shownA,
    peek_body (r := ⟨TIM.RATE_B, 4, 1, 0, 0, .ro⟩) m rfl rfl (by decide) rfl (by decide), shownB]
  exact ⟨by split <;> rfl, by split <;> rfl⟩

/-- The throughput counters of the TIM page. -/
def hsOffs : List Nat := [TIM.ARRAY_HS_A, TIM.ARRAY_HS_B, TIM.VEC_HS_A, TIM.VEC_HS_B]

theorem clrHs_eq_foldl : s.clrHs = hsOffs.foldl (fun s o => s.wr64 cTIM 0 o 0) s := rfl

/-- After CLR_HS both words of each throughput counter are 0. -/
theorem rd64_clrHs {o : Nat} (h : o ∈ hsOffs) : s.clrHs.rd64 cTIM 0 o = 0 := by
  have word : ∀ x ∈ [o, o + 4], s.clrHs.rd cTIM 0 x = 0 := fun x hx => by
    rw [clrHs_eq_foldl, rd_foldl_wr64_zero, if_pos (List.mem_flatMap.2 ⟨o, h, hx⟩)]
  rw [State.rd64, word o (by simp), word (o + 4) (by simp)]; rfl

/-- The keys of the throughput counters. -/
def hsKeys : List Nat := hsOffs.flatMap fun o => [rk cTIM 0 o, rk cTIM 0 (o + 4)]

theorem onlyRegs_clrHs : OnlyRegs hsKeys s s.clrHs := by
  have mem : ∀ o ∈ hsOffs, ∀ k ∈ [rk cTIM 0 o, rk cTIM 0 (o + 4)], k ∈ hsKeys := fun o ho k hk => List.mem_flatMap.2 ⟨o, ho, hk⟩
  rw [clrHs_eq_foldl]
  exact OnlyRegs.foldl _ (fun o ho u => (OnlyRegs.refl _ u).wr64 _ _ _ _ (mem o ho _ (by simp)) (mem o ho _ (by simp))) s

/-- The owner's CLR_HS. -/
theorem clrHs_ready (h : OwnerReady s m cTIM 0 hCTRL) :
    ∃ u, exec (.clrHs m) s = .next u ∧ u.rd64 cTIM 0 TIM.ARRAY_HS_A = 0 ∧ u.rd64 cTIM 0 TIM.ARRAY_HS_B = 0 ∧
      u.rd64 cTIM 0 TIM.VEC_HS_A = 0 ∧ u.rd64 cTIM 0 TIM.VEC_HS_B = 0 ∧ Acks u m cTIM 0 hCTRL 0 ∧ OnlyRegs hsKeys (answering s m) u := by
  have run : exec (.clrHs m) s = .next (s.clrHs.answer m (.wack m (regAddr cTIM 0 hCTRL) 0)) :=
    congrArg Host.Outcome.next (ownerWrite_ready h _)
  have zero : ∀ o ∈ hsOffs, (s.clrHs.answer m (.wack m (regAddr cTIM 0 hCTRL) 0)).rd64 cTIM 0 o = 0 := fun o ho => by
    rw [rd64_answer, rd64_clrHs s ho]
  exact ⟨_, run, zero _ (by decide), zero _ (by decide), zero _ (by decide), zero _ (by decide), answer_getLast _ _ _,
    OnlyRegs.answer m _ (onlyRegs_clrHs s) (by decide) (by decide)⟩

end Clauses

/-- Settles O8: a write of TCTRL, the end of a count, a write of a load value and the load value itself, each by its own lemma. -/
theorem timersStartStopAndExpire : Obligations.TimersStartStopAndExpire := by
  unfold Obligations.TimersStartStopAndExpire
  exact ⟨gptTctrlWrite_ready, gptExpire_due, gptLoadWrite_ready, gptLoad_eq⟩

/-- Settles O9: the end of a window, a read of RATE and CLR_HS, each by its own lemma. -/
theorem rateMonitorAndHandshakeCounters : Obligations.RateMonitorAndHandshakeCounters := by
  unfold Obligations.RateMonitorAndHandshakeCounters
  exact ⟨rateWindowEnd_stores, peek_rate, clrHs_ready⟩

end Sys2Proof.Safety
end

section
/-! PROOFS. The die bridges (R26–R29): the word that digits spell, what the record of an error leaves of registers and messages, and
what one transfer does in each state of its channel. -/
namespace Sys2Proof.Safety
open Sys2Proof.Machine

/-! ### The word that digits spell (log 82) -/

theorem digitVal_lt (d : BitVec 4) : digitVal d < 4 := by
  unfold digitVal
  split
  · decide
  · split
    · decide
    · split <;> decide

/-- The value of a valid digit is the index of its high wire. -/
theorem one_shiftLeft_digitVal {d : BitVec 4} (h : d = 1 ∨ d = 2 ∨ d = 4 ∨ d = 8) : (1 : BitVec 4) <<< digitVal d = d := by
  rcases h with rfl | rfl | rfl | rfl <;> decide

/-- The number that digits spell in base 4, the first being the lowest. -/
def digitsNat (ds : List (BitVec 4)) : Nat := ds.foldr (fun d a => digitVal d + 4 * a) 0

theorem digitsNat_cons (d : BitVec 4) (ds : List (BitVec 4)) : digitsNat (d :: ds) = digitVal d + 4 * digitsNat ds := rfl

theorem digitsNat_lt (ds : List (BitVec 4)) : digitsNat ds < 4 ^ ds.length := by
  induction ds with
  | nil => exact Nat.one_pos
  | cons d ds ih =>
    have hd := digitVal_lt d
    rw [digitsNat_cons, List.length_cons, Nat.pow_succ]
    omega

/-- A word has room for 32 digits. -/
theorem toNat_digitsWord {ds : List (BitVec 4)} (h : ds.length = 32) : (digitsWord ds).toNat = digitsNat ds := by
  have bound := digitsNat_lt ds
  rw [h] at bound
  exact (BitVec.toNat_ofNat ..).trans (Nat.mod_eq_of_lt bound)

/-- Division takes out digit k. -/
theorem digitsNat_digit (ds : List (BitVec 4)) {k : Nat} (hk : k < ds.length) : digitsNat ds / 4 ^ k % 4 = digitVal ds[k] := by
  induction ds generalizing k with
  | nil => exact absurd hk (Nat.not_lt_zero _)
  | cons d ds ih =>
    have hd := digitVal_lt d
    have lowest : (digitVal d + 4 * digitsNat ds) % 4 = digitVal d := by omega
    have rest : (digitVal d + 4 * digitsNat ds) / 4 = digitsNat ds := by omega
    rw [digitsNat_cons]
    cases k with
    | zero => rw [Nat.pow_zero, Nat.div_one, lowest, List.getElem_cons_zero]
    | succ k => rw [Nat.pow_succ', ← Nat.div_div_eq_div_mul, rest, ih (Nat.lt_of_succ_lt_succ hk), List.getElem_cons_succ]

/-- Bits [2k + 1 : 2k] of the word are the index of the high wire of digit k. -/
theorem digitsWord_spells {ds : List (BitVec 4)} (h : digitsGood ds) {k : Nat} (hk : k < 32) :
    (1 : BitVec 4) <<< ((digitsWord ds).toNat / 4 ^ k % 4) = ds.getD k 0 := by
  obtain ⟨hlen, hval⟩ := h
  have hk' : k < ds.length := hlen ▸ hk
  rw [toNat_digitsWord hlen, digitsNat_digit ds hk', one_shiftLeft_digitVal (hval _ (List.getElem_mem hk')),
    List.getD_eq_getElem?_getD, List.getElem?_eq_getElem hk', Option.getD_some]

/-- A digit is none of the valid ones. -/
def codeError (ds : List (BitVec 4)) : Bool := ds.any fun d => !(d == 1 || d == 2 || d == 4 || d == 8)

theorem codeError_eq_false_iff (ds : List (BitVec 4)) : codeError ds = false ↔ ∀ d ∈ ds, d = 1 ∨ d = 2 ∨ d = 4 ∨ d = 8 := by
  simp only [codeError, List.any_eq_false, Bool.not_eq_true', Bool.not_eq_false, Bool.or_eq_true, beq_iff_eq, or_assoc]

/-- Valid digits are none of them empty. -/
theorem digitsGood.nonempty {ds : List (BitVec 4)} (h : digitsGood ds) : ∀ d ∈ ds, d ≠ 0 := by
  intro d hd
  rcases h.2 d hd with rfl | rfl | rfl | rfl <;> decide

/-! ### What the record of an error tells (R426, R484) -/

/-- From `s` to `u` only registers with the keys `ks` change, and only Notify messages leave. -/
structure Tells (ks : List Nat) (s u : State) : Prop where
  regs : ∀ c i o, rk c i o ∉ ks → u.rd c i o = s.rd c i o
  out  : ∃ l, u.outbox = s.outbox ++ l ∧ ∀ x ∈ l, ∃ p v, x = OutMsg.notify p v

namespace Tells
variable {ks : List Nat} {s u v : State}

theorem of_eq (h : u.regs = s.regs) (ho : u.outbox = s.outbox) : Tells ks s u :=
  ⟨fun _ _ _ _ => State.rd_congr h _ _ _, [], by rw [ho, List.append_nil], by simp⟩

theorem refl (s : State) : Tells ks s s := of_eq rfl rfl

theorem err (s : State) (x : ErrSt) : Tells ks s { s with err := x } := of_eq rfl rfl

theorem trans (h : Tells ks s u) (g : Tells ks u v) : Tells ks s v := by
  obtain ⟨hr, l, hl, hn⟩ := h
  obtain ⟨gr, l', gl, gn⟩ := g
  refine ⟨fun c i o hk => (gr c i o hk).trans (hr c i o hk), l ++ l', by rw [gl, hl, List.append_assoc], fun x hx => ?_⟩
  exact (List.mem_append.1 hx).elim (hn x) (gn x)

theorem wr (s : State) (c i o : Nat) (x : W32) (h : rk c i o ∈ ks) : Tells ks s (s.wr c i o x) :=
  ⟨fun _ _ _ hk => State.rd_wr_ne s x (ne_of_mem_of_not_mem h hk).symm, [], by simp, by simp⟩

/-- A message that is no Notify was sent before. -/
theorem mem_outbox (h : Tells ks s u) {x : OutMsg} (hx : x ∈ u.outbox) (hn : ∀ p v, x ≠ .notify p v) : x ∈ s.outbox := by
  obtain ⟨-, l, hl, hnotes⟩ := h
  rw [hl] at hx
  refine (List.mem_append.1 hx).resolve_right fun hm => ?_
  obtain ⟨p, v, e⟩ := hnotes x hm
  exact hn p v e

end Tells

/-- A Notify that leaves or waits. -/
theorem tells_notifyDue {ks : List Nat} (s : State) (c i : Nat) (h : ∀ k ∈ msgKeys, k ∈ ks) : Tells ks s (s.notifyDue c i) := by
  unfold State.notifyDue
  split
  · refine ⟨fun c' i' o hk => ?_, [.notify (pageId c i) (s.pendSet c i)], ?_, by simp⟩
    · have out : rk c' i' o ∉ msgKeys := fun hm => hk (h _ hm)
      simp only [msgKeys, keys64, List.cons_append, List.nil_append, List.mem_cons, List.not_mem_nil, or_false, not_or] at out
      obtain ⟨tx, tx', gr, gr'⟩ := out
      rw [State.notifyOut, State.rd_send, State.bump64, State.bump64, State.rd_wr64_ne _ gr gr', State.rd_wr64_ne _ tx tx']
    · rw [State.notifyOut, State.send_outbox, State.bump64_outbox, State.bump64_outbox]
  · exact Tells.of_eq rfl rfl

/-- An interrupt cause. -/
theorem tells_irq {ks : List Nat} (s : State) (c i b : Nat) (hk : rk c i hIRQ_STAT ∈ ks) (h : ∀ k ∈ msgKeys, k ∈ ks) :
    Tells ks s (s.irq c i b) := by
  unfold State.irq State.notifyFrom
  split
  · exact (Tells.wr s _ _ _ _ hk).trans (tells_notifyDue _ _ _ h)
  · exact Tells.wr s _ _ _ _ hk

/-- The registers that the record of an error changes: ERR_COUNT of its page, LOG_WR, LOG_LOST and IRQ_STAT of the ERR page, and
the counts of a Notify. -/
def recKeys (c i : Nat) : List Nat :=
  [rk c i hERR_COUNT, rk cERR 0 ERR.LOG_WR, rk cERR 0 ERR.LOG_LOST, rk cERR 0 hIRQ_STAT] ++ msgKeys

theorem tells_logAppend (s : State) (c i : Nat) (r : ErrRec) : Tells (recKeys c i) s (s.logAppend r) := by
  have wr : ∀ (u : State) x, Tells (recKeys c i) u (u.wr cERR 0 ERR.LOG_WR x) := fun u x => Tells.wr u _ _ _ _ (by simp [recKeys])
  unfold State.logAppend
  dsimp only
  split
  · exact (Tells.err _ _).trans (wr _ _)
  · rw [State.bump_eq]; exact ((Tells.err _ _).trans (wr _ _)).trans (Tells.wr _ _ _ _ _ (by simp [recKeys]))

theorem tells_bumpErrField (s : State) (c i lo : Nat) : Tells (recKeys c i) s (s.bumpErrField c i lo) :=
  Tells.wr s _ _ _ _ (by simp [recKeys])

/-- The detection of an error by a page (R484). -/
theorem tells_recErrH (s : State) (halt : Bool) (c i : Nat) (e : ErrIn) : Tells (recKeys c i) s (s.recErrH halt c i e) := by
  unfold State.recErrH
  dsimp only
  refine Tells.trans ?_ (tells_logAppend _ c i _)
  have info : Tells (recKeys c i) s (if e.info.isSome = true then s else s.free.2) := by
    split
    · exact Tells.refl s
    · exact Tells.of_eq rfl rfl
  generalize (if e.info.isSome = true then s else s.free.2) = t at *
  refine info.trans ((tells_bumpErrField t c i (errField e.sev)).trans ?_)
  generalize t.bumpErrField c i (errField e.sev) = u
  have first : ∀ x : ErrSt, Tells (recKeys c i) u (if (mget none u.err.first (pageId c i)).isNone = true then { u with err := x } else u) := by
    intro x; split
    · exact Tells.err _ _
    · exact Tells.refl u
  have cause : ∀ (v : State) b, Tells (recKeys c i) v (v.irq cERR 0 b) := fun v b =>
    tells_irq v _ _ _ (by simp [recKeys]) fun k hk => List.mem_append_right _ hk
  split
  · exact (first _).trans ((Tells.err _ _).trans (cause _ _))
  · exact (first _).trans (tells_bumpErrField _ _ _ _)

/-! ### An error of a bridge (R27, R29) -/

/-- An error of the TIM page is recorded and the bridge cause set. -/
def bridgeErr (s : State) (e : ErrIn) : State := (s.recErr cTIM 0 e).irq cTIM 0 0x20000

section BridgeErr
variable (s : State) (e : ErrIn)

theorem bridgeErr_raises : Raises s (bridgeErr s e) cTIM 0 0x20000 := by
  rw [Raises, bridgeErr, State.rd_irq_same, State.recErr, (tells_recErrH s false cTIM 0 e).regs cTIM 0 hIRQ_STAT (by decide)]

theorem bridgeErr_frame : RecFrame s (bridgeErr s e) := (recErrH_frame s false cTIM 0 e).trans (RecFrame.irq _ _ _ _)

/-- It sends nothing but Notify messages. -/
theorem bridgeErr_tells : Tells (rk cTIM 0 hIRQ_STAT :: recKeys cTIM 0) s (bridgeErr s e) := by
  obtain ⟨regs, out⟩ := tells_recErrH s false cTIM 0 e
  exact Tells.trans ⟨fun c i o hk => regs c i o fun hm => hk (List.mem_cons_of_mem _ hm), out⟩
    (tells_irq _ _ _ _ (by simp) fun k hk => List.mem_cons_of_mem _ (List.mem_append_right _ hk))

end BridgeErr

/-! ### The wait of a channel -/

section Chan
variable (s : State) (k ev : Nat)

/-- A wait is held on the clock alone. -/
theorem chanHold_clk : s.chanHold k ev = { s with clk := (s.chanHold k ev).clk } := by
  unfold State.chanHold; split <;> rfl

theorem chanFree_wait : (s.chanFree k).chanWait k = none := mget_mset_same none s.clk.chans k none

/-- A channel that waits nowhere begins to wait now. -/
theorem chanHold_free (h : s.chanWait k = none) :
    s.chanHold k ev = { s with clk := { s.clk with chans := mset none s.clk.chans k (some ⟨ev, s.clk.time⟩) } } := by
  rw [State.chanHold, h, if_neg (by simp)]

/-- A channel that begins to wait waits from now. -/
theorem chanWait_chanHold (h : s.chanWait k = none) : (s.chanHold k ev).chanWait k = some ⟨ev, s.clk.time⟩ := by
  rw [chanHold_free _ _ _ h]
  change mget none (mset none s.clk.chans k (some ⟨ev, s.clk.time⟩)) k = _
  rw [mget_mset_same]

/-- The domains do not depend on the wait of a channel. -/
theorem pdStat_chanHold (d : Nat) : (s.chanHold k ev).pdStat d = s.pdStat d := by
  unfold State.chanHold; split <;> rfl

end Chan

/-! ### The latch -/

section Latch
variable (s : State) (b ch : Nat) (dir : Bool) {ds : List (BitVec 4)} (flit : Nat)

/-- Valid digits are delivered. -/
theorem chanLatch_good (h : codeError ds = false) :
    s.chanLatch b ch dir ds flit = s.send (.bridgeWord b ch dir (digitsWord ds) flit false) := by
  change State.send (if codeError ds then _ else s) (.bridgeWord b ch dir (digitsWord ds) flit (codeError ds)) = _
  rw [h]; rfl

/-- A code error is recorded and its word delivered with the flit poisoned (R27). -/
theorem chanLatch_bad (h : codeError ds = true) : s.chanLatch b ch dir ds flit =
    (bridgeErr s { sev := 1, cause := 0x02, addr := some b }).send (.bridgeWord b ch dir (digitsWord ds) flit true) := by
  change State.send (if codeError ds then _ else s) (.bridgeWord b ch dir (digitsWord ds) flit (codeError ds)) = _
  rw [h]; rfl

end Latch

/-! ### One transfer, by the state of its channel (R26) -/

section Transfer
variable (s : State) (b ch : Nat) (dir : Bool) (ds after : List (BitVec 4)) (flit : Nat)

/-- What a transfer does before the acknowledge is over: the channel is free and the word latched. -/
def latched : State := (s.chanFree (chanKey b ch dir)).chanLatch b ch dir ds flit

section On
variable (hl : s.live = true) (hb : b < 4) (hch : ch < bridgeChannels b)
include hl hb hch

theorem transfer_off (hp : s.pdStat (bridgeDomain b) = false) (hlen : ds.length = 32) :
    exec (.bridgeWordTransfer b ch dir ds after flit) s =
      .next ((bridgeErr s { sev := 2, cause := 0x05, addr := some b }).send (.bridgeBack b ch dir flit 4)) :=
  congrArg Host.Outcome.next ((if_neg (by simp [hl, hb, hch, hlen])).trans (if_pos (by simp [hp])))

variable (hp : s.pdStat (bridgeDomain b) = true)
include hp

/-- Where the last word's digits are awaited empty, a word that comes earlier changes nothing. -/
theorem transfer_awaited (hw : (s.chanWait (chanKey b ch dir)).any (·.ev == 4) = true) (hlen : ds.length = 32) (hne : ∃ d ∈ ds, d ≠ 0) :
    exec (.bridgeWordTransfer b ch dir ds after flit) s = .next s := by
  refine congrArg Host.Outcome.next ((if_neg (by simp [hl, hb, hch, hlen])).trans ((if_neg (by simp [hp])).trans ((if_pos hw).trans (if_neg ?_))))
  simpa using hne

variable (hw : (s.chanWait (chanKey b ch dir)).any (·.ev == 4) = false)
include hw

/-- An empty digit holds the channel at event 2. -/
theorem transfer_holds (hlen : ds.length = 32) (h0 : ∃ d ∈ ds, d = 0) :
    exec (.bridgeWordTransfer b ch dir ds after flit) s = .next (s.chanHold (chanKey b ch dir) 2) :=
  congrArg Host.Outcome.next ((if_neg (by simp [hl, hb, hch, hlen])).trans ((if_neg (by simp [hp])).trans
    ((if_neg (by simp [hw])).trans (if_pos (by simpa using h0)))))

/-- No empty digit: the word is latched, and the channel waits at event 4 where a digit is not empty afterwards. -/
theorem transfer_latches (hlen : ds.length = 32) (hne : ∀ d ∈ ds, d ≠ 0) : exec (.bridgeWordTransfer b ch dir ds after flit) s =
    .next (if after.all (· == 0) then latched s b ch dir ds flit else (latched s b ch dir ds flit).chanHold (chanKey b ch dir) 4) :=
  congrArg Host.Outcome.next ((if_neg (by simp [hl, hb, hch, hlen])).trans ((if_neg (by simp [hp])).trans
    ((if_neg (by simp [hw])).trans (if_neg (by simpa using fun h0 => hne 0 h0 rfl)))))

/-- Valid digits, all empty afterwards. -/
theorem bridge_delivers (hg : digitsGood ds) (ha : ∀ d ∈ after, d = 0) :
    ∃ w : BitVec 64, (∀ k, k < 32 → (1 : BitVec 4) <<< (w.toNat / 4 ^ k % 4) = ds.getD k 0) ∧
      exec (.bridgeWordTransfer b ch dir ds after flit) s =
        .next (({ s with clk := { s.clk with chans := mset none s.clk.chans (chanKey b ch dir) none } }).send
          (.bridgeWord b ch dir w flit false)) := by
  refine ⟨digitsWord ds, fun k hk => digitsWord_spells hg hk, ?_⟩
  rw [transfer_latches s b ch dir ds after flit hl hb hch hp hw hg.1 hg.nonempty, if_pos (by simpa using ha), latched,
    chanLatch_good _ _ _ _ _ ((codeError_eq_false_iff ds).2 hg.2)]
  rfl

/-- A digit with more than one wire high. -/
theorem bridge_poisons (hlen : ds.length = 32) (hne : ∀ d ∈ ds, d ≠ 0) (hg : ¬ digitsGood ds) :
    ∃ u w, exec (.bridgeWordTransfer b ch dir ds after flit) s = .next u ∧ Raises s u cTIM 0 0x20000 ∧
      u.outbox.getLast? = some (.bridgeWord b ch dir w flit true) ∧ u.hbm = s.hbm ∧ u.ts = s.ts ∧ u.ctxs = s.ctxs := by
  have bad : codeError ds = true := by
    rw [← Bool.not_eq_false, codeError_eq_false_iff]; exact fun h => hg ⟨hlen, h⟩
  have run := transfer_latches s b ch dir ds after flit hl hb hch hp hw hlen hne
  rw [latched, chanLatch_bad _ _ _ _ _ bad] at run
  have raises := bridgeErr_raises (s.chanFree (chanKey b ch dir)) { sev := 1, cause := 0x02, addr := some b }
  obtain ⟨frame⟩ := bridgeErr_frame (s.chanFree (chanKey b ch dir)) { sev := 1, cause := 0x02, addr := some b }
  have hbm := congrArg State.hbm frame
  have ts := congrArg State.ts frame
  have ctxs := congrArg State.ctxs frame
  split at run
  · exact ⟨_, digitsWord ds, run, raises, by simp, hbm, ts, ctxs⟩
  · rw [chanHold_clk] at run
    exact ⟨_, digitsWord ds, run, raises, by simp, hbm, ts, ctxs⟩

/-- Valid digits, not all empty afterwards. -/
theorem bridge_awaits_empty (hg : digitsGood ds) (ha : ∃ d ∈ after, d ≠ 0) :
    ∃ u, exec (.bridgeWordTransfer b ch dir ds after flit) s = .next u ∧
      u.chanWait (chanKey b ch dir) = some ⟨4, s.clk.time⟩ ∧
      (∀ (es fs : List (BitVec 4)) (g : Nat), es.length = 32 → (∃ e ∈ es, e ≠ 0) →
        exec (.bridgeWordTransfer b ch dir es fs g) u = .next u) := by
  have run := transfer_latches s b ch dir ds after flit hl hb hch hp hw hg.1 hg.nonempty
  rw [if_neg (by simpa using ha), latched, chanLatch_good _ _ _ _ _ ((codeError_eq_false_iff ds).2 hg.2)] at run
  generalize hv : (s.chanFree (chanKey b ch dir)).send (.bridgeWord b ch dir (digitsWord ds) flit false) = v at run
  have free : v.chanWait (chanKey b ch dir) = none := by rw [← hv]; exact chanFree_wait s _
  have now : v.clk.time = s.clk.time := by rw [← hv]; rfl
  have waits := chanWait_chanHold v (chanKey b ch dir) 4 free
  refine ⟨_, run, by rw [waits, now], fun es fs g hes hne => ?_⟩
  have live : (v.chanHold (chanKey b ch dir) 4).live = true := by rw [chanHold_clk, ← hv]; exact hl
  have domain : (v.chanHold (chanKey b ch dir) 4).pdStat (bridgeDomain b) = true := by rw [pdStat_chanHold, ← hv]; exact hp
  exact transfer_awaited _ b ch dir es fs g live hb hch domain (by rw [waits]; rfl) hes hne

end On

/-- An empty digit on a channel that waited for nothing. -/
theorem bridge_waits (hl : s.live = true) (hb : b < 4) (hch : ch < bridgeChannels b) (hp : s.pdStat (bridgeDomain b) = true)
    (hw : s.chanWait (chanKey b ch dir) = none) (hlen : ds.length = 32) (h0 : ∃ d ∈ ds, d = 0) :
    exec (.bridgeWordTransfer b ch dir ds after flit) s =
      .next { s with clk := { s.clk with chans := mset none s.clk.chans (chanKey b ch dir) (some ⟨2, s.clk.time⟩) } } := by
  rw [transfer_holds s b ch dir ds after flit hl hb hch hp (by rw [hw]; rfl) hlen h0, chanHold_free _ _ _ hw]

/-- A bridge whose domain is off. -/
theorem bridge_returns (hl : s.live = true) (hb : b < 4) (hch : ch < bridgeChannels b) (hp : s.pdStat (bridgeDomain b) = false)
    (hlen : ds.length = 32) :
    ∃ u, exec (.bridgeWordTransfer b ch dir ds after flit) s = .next u ∧ Raises s u cTIM 0 0x20000 ∧
      u.outbox.getLast? = some (.bridgeBack b ch dir flit 4) ∧
      (∀ w p, OutMsg.bridgeWord b ch dir w flit p ∈ u.outbox → OutMsg.bridgeWord b ch dir w flit p ∈ s.outbox) := by
  refine ⟨_, transfer_off s b ch dir ds after flit hl hb hch hp hlen, bridgeErr_raises s _, by simp, fun w p hm => ?_⟩
  rw [State.send_outbox, List.mem_append] at hm
  exact (bridgeErr_tells s _).mem_outbox (hm.resolve_right (by simp)) (by simp)

end Transfer

/-- Settles O11: a transfer of valid digits, of a code error, of an empty digit, of digits that stay, and over a bridge that is off,
each by its own lemma. -/
theorem bridgeMovesOneWord : Obligations.BridgeMovesOneWord := by
  unfold Obligations.BridgeMovesOneWord
  exact ⟨bridge_delivers, bridge_poisons, bridge_waits, bridge_awaits_empty, bridge_returns⟩

end Sys2Proof.Safety
end
